-- ==== Sys2Proof/Word.lean ====
section
/-! DEFINITION. The plain word types of Thrumef Bruris (rules R6, R25, R46) and the one container the model
uses for sparse state: a list of numbered entries. -/
namespace Sys2Proof

/-- A byte, the unit of memory (R6). -/
abbrev Byte := BitVec 8
/-- A 64-bit word: a scalar register, an instruction word, a doubleword of memory (R25, R46, R286). -/
abbrev Word := BitVec 64
/-- A 128-bit word: a vector register or a mailbox (R46, R119). -/
abbrev Quad := BitVec 128

/-- Sparse data by number, in rising order of the number. An absent number has the default value that its reader gives. -/
abbrev Table (α : Type) := List (Nat × α)

end Sys2Proof
end

