-- ==== Sys2Proof/Machine/Tables.lean ====
section
/-! DEFINITION. Sparse tables and byte memories: the two containers of the state, with their reads and writes. -/
namespace Sys2Proof

/-- The entry numbered `k`. -/
def Table.get? {α : Type} : Table α → Nat → Option α
  | [], _ => none
  | (j, a) :: t, k => if j = k then some a else Table.get? t k

/-- The entry numbered `k`, or the default. -/
def Table.getD {α : Type} (t : Table α) (k : Nat) (d : α) : α := (Table.get? t k).getD d

/-- Writes entry `k`, keeping the numbers in rising order. -/
def Table.put {α : Type} : Table α → Nat → α → Table α
  | [], k, a => [(k, a)]
  | (j, b) :: t, k, a =>
    if j = k then (k, a) :: t
    else if k < j then (k, a) :: (j, b) :: t
    else (j, b) :: Table.put t k a

/-- Removes entry `k`. -/
def Table.del {α : Type} (t : Table α) (k : Nat) : Table α := t.filter (fun e => e.1 ≠ k)

/-- Changes every entry. -/
def Table.mapVals {α : Type} (f : Nat → α → α) (t : Table α) : Table α := t.map fun e => (e.1, f e.1 e.2)

/-- Inserts a number in a rising list without repeats. -/
def natInsert : List Nat → Nat → List Nat
  | [], k => [k]
  | j :: t, k => if j = k then j :: t else if k < j then k :: j :: t else j :: natInsert t k

/-- A byte memory (R286, R287): cells in rising order of address, and no cell equal to what an unlisted address reads
as. -/
abbrev Memory := List Host.Cell

/-- What an address that no cell lists reads as: 0 (assumption 5 for DRAM that nothing has written; R125 and R341 for a
scratchpad). -/
def Memory.blank : Byte := 0

/-- The byte at an address. -/
def Memory.get : Memory → Nat → Byte
  | [], _ => Memory.blank
  | (a, b) :: t, k => if a = k then b else Memory.get t k

/-- Writes one byte, keeping the canonical form. -/
def Memory.set : Memory → Nat → Byte → Memory
  | [], k, b => if b = Memory.blank then [] else [(k, b)]
  | (a, c) :: t, k, b =>
    if a = k then (if b = Memory.blank then t else (k, b) :: t)
    else if k < a then (if b = Memory.blank then (a, c) :: t else (k, b) :: (a, c) :: t)
    else (a, c) :: Memory.set t k b

/-- Addresses strictly rising from a lower bound, no cell equal to the blank byte. -/
def Memory.wfFrom : Nat → Memory → Bool
  | _, [] => true
  | lo, (a, b) :: t => decide (lo ≤ a) && decide (b ≠ Memory.blank) && Memory.wfFrom (a + 1) t

/-- The canonical form of a memory. -/
def Memory.wf (m : Memory) : Bool := Memory.wfFrom 0 m

/-- The little-endian doubleword at an address (R6). -/
def Memory.dword (m : Memory) (a : Nat) : Word :=
  (List.range 8).foldr (fun i (w : Word) => (w <<< 8) ||| (m.get (a + i)).zeroExtend 64) 0

/-- Writes the bytes of a doubleword that a mask names, from a list of byte numbers. -/
def Memory.setBytes (m : Memory) (a : Nat) (mask : BitVec 8) (v : Word) : List Nat → Memory
  | [] => m
  | i :: is =>
    Memory.setBytes (if mask.getLsbD i then m.set (a + i) (v.extractLsb' (8 * i) 8) else m) a mask v is

/-- Writes the bytes of a doubleword that a mask names. -/
def Memory.setDword (m : Memory) (a : Nat) (mask : BitVec 8) (v : Word) : Memory :=
  m.setBytes a mask v (List.range 8)

/-- Removes the cells of a range of addresses. -/
def Memory.clear (m : Memory) (lo hi : Nat) : Memory := m.filter fun c => c.1 < lo || hi ≤ c.1

/-- Writes a list of bytes at rising addresses. -/
def Memory.fill (m : Memory) (a : Nat) : List Byte → Memory
  | [] => m
  | b :: bs => Memory.fill (m.set a b) (a + 1) bs

end Sys2Proof
end

