-- ==== Sys2Proof/Machine/Float.lean ====
section
/-! DEFINITION. Number formats, exact values and the one rounding of every float result (R177 to R188). -/
namespace Sys2Proof.Machine

/-! ## Formats (R177, R178) -/

/-- What E = Emax means in a format (R178). -/
inductive Special
  | ieee | e4m3 | f6
deriving DecidableEq, Repr

/-- A floating format: exponent bits, fraction bits, bias. -/
structure Fmt where
  e : Nat
  m : Nat
  bias : Nat
  special : Special
deriving DecidableEq, Repr

/-- The format of a float TYPE code (R178). -/
def fmtOf (ty : Nat) : Fmt :=
  match ty with
  | 8 => ⟨5, 10, 15, .ieee⟩
  | 9 => ⟨8, 7, 127, .ieee⟩
  | 11 => ⟨11, 52, 1023, .ieee⟩
  | 12 => ⟨4, 3, 7, .e4m3⟩
  | 13 => ⟨5, 2, 15, .ieee⟩
  | 14 => ⟨3, 2, 3, .f6⟩
  | _ => ⟨8, 23, 127, .ieee⟩

/-- Is the TYPE code a signed integer? -/
def intSigned (ty : Nat) : Bool := ty % 2 = 0
/-- Range of a W-bit integer format. -/
def intMin (sg : Bool) (w : Nat) : Int := if sg then -(2 ^ (w - 1) : Nat) else 0
def intMax (sg : Bool) (w : Nat) : Int := if sg then (2 ^ (w - 1) : Nat) - 1 else (2 ^ w : Nat) - 1
/-- The low w bits of a pattern as an integer. -/
def toInt (sg : Bool) (w bits : Nat) : Int :=
  let u := bits % 2 ^ w
  if sg && decide (2 ^ (w - 1) ≤ u) then (u : Int) - (2 ^ w : Nat) else u
/-- The w-bit pattern of an integer. -/
def ofInt (w : Nat) (r : Int) : Nat := (r % ((2 ^ w : Nat) : Int)).toNat
/-- A w-bit pattern extended to 64 bits. -/
def extend (sg : Bool) (w bits : Nat) : Word := BitVec.ofInt 64 (toInt sg w bits)

/-! ## Values -/

/-- A float value: a NaN or an infinity with its sign, or (-1)^neg * m * 2^e. A zero keeps its sign. -/
inductive FVal
  | nan (neg : Bool)
  | inf (neg : Bool)
  | fin (neg : Bool) (m : Nat) (e : Int)
deriving DecidableEq, Repr

/-- Sticky flags of FSTAT (R49). -/
def flagI : BitVec 5 := 1
def flagO : BitVec 5 := 2
def flagU : BitVec 5 := 4
def flagX : BitVec 5 := 8
def flagZ : BitVec 5 := 16

/-- The exponent of the lowest subnormal bit. -/
def Fmt.emin (f : Fmt) : Int := 1 - (f.bias : Int) - f.m
/-- The value of an encoding (R178). -/
def Fmt.value (f : Fmt) (bits : Nat) : FVal :=
  let neg := bits / 2 ^ (f.e + f.m) % 2 = 1
  let e := bits / 2 ^ f.m % 2 ^ f.e
  let m := bits % 2 ^ f.m
  let top := 2 ^ f.e - 1
  if f.special = .ieee && e = top then (if m = 0 then .inf neg else .nan neg)
  else if f.special = .e4m3 && e = top && m = 2 ^ f.m - 1 then .nan neg
  else if e = 0 then .fin neg m f.emin
  else .fin neg (2 ^ f.m + m) ((e : Int) - f.bias - f.m)

/-- Canonical NaN with a sign (R179, R181); F6 has none and gives +0. -/
def Fmt.nan (f : Fmt) (neg : Bool) : Nat :=
  let s := if neg then 2 ^ (f.e + f.m) else 0
  match f.special with
  | .ieee => s + (2 ^ f.e - 1) * 2 ^ f.m + 2 ^ (f.m - 1)
  | .e4m3 => s + 2 ^ (f.e + f.m) - 1
  | .f6 => 0
def Fmt.hasInf (f : Fmt) : Bool := f.special = .ieee
def Fmt.inf (f : Fmt) (neg : Bool) : Nat := (if neg then 2 ^ (f.e + f.m) else 0) + (2 ^ f.e - 1) * 2 ^ f.m
/-- Largest finite magnitude (R179). -/
def Fmt.maxBits (f : Fmt) : Nat :=
  match f.special with
  | .ieee => (2 ^ f.e - 1) * 2 ^ f.m - 1
  | .e4m3 => 2 ^ (f.e + f.m) - 2
  | .f6 => 2 ^ (f.e + f.m) - 1
def Fmt.max (f : Fmt) (neg : Bool) : Nat := (if neg then 2 ^ (f.e + f.m) else 0) + f.maxBits

/-- Number of bits of a natural number. -/
def bitLen (n : Nat) : Nat := if n = 0 then 0 else Nat.log2 n + 1

/-- Encoding of a finite magnitude mant * 2^lsb that lies on the format's grid (R178). -/
def Fmt.encode (f : Fmt) (neg : Bool) (mant : Nat) (lsb : Int) : Nat :=
  let s := if neg then 2 ^ (f.e + f.m) else 0
  if mant < 2 ^ f.m then s + mant
  else
    let (mant, lsb) := if mant = 2 ^ (f.m + 1) then (2 ^ f.m, lsb + 1) else (mant, lsb)
    s + (lsb + f.m + f.bias).toNat * 2 ^ f.m + (mant - 2 ^ f.m)

/-- Does a rounding mode go up in magnitude, for discarded part rem of 2^d, the kept part's low bit and the sign (R183)? -/
def roundsUp (rnd : Nat) (neg odd : Bool) (rem d : Nat) : Bool :=
  if rem = 0 then false
  else
    let half := 2 ^ (d - 1)
    match rnd with
    | 0 => decide (half < rem) || (decide (rem = half) && odd)
    | 1 => false
    | 2 => !neg
    | 3 => neg
    | _ => decide (half ≤ rem)

/-- Is mant * 2^lsb above the largest finite value? Both are compared on one grid. -/
def Fmt.exceeds (f : Fmt) (mant : Nat) (lsb : Int) : Bool :=
  match f.value f.maxBits with
  | .fin _ mm me =>
    if lsb ≤ me then decide (mm * 2 ^ (me - lsb).toNat < mant) else decide (mm < mant * 2 ^ (lsb - me).toNat)
  | _ => false

/-- ROUND_F (R184): the encoding and the flags. An infinite result under SAT = 1 raises overflow and inexact, that of `fsqrt` too, as the last
sentence of R208 has it of every arithmetic form, though R207 lists only invalid and inexact for `fsqrt` (DEDUCED, assumption 115). -/
def roundF (f : Fmt) (rnd : Nat) (sat : Bool) (v : FVal) : Nat × BitVec 5 :=
  let sat := sat || f.special = .f6
  match v with
  | .nan neg => if f.special = .f6 then (0, flagI) else (f.nan neg, 0)
  | .inf neg =>
    if f.hasInf && !sat then (f.inf neg, 0)
    else if sat then (f.max neg, flagO ||| flagX)
    else (f.nan neg, flagO ||| flagX)
  | .fin neg m e =>
    if m = 0 then (f.encode neg 0 f.emin, 0)
    else
      let lsb := max f.emin (e + bitLen m - (f.m + 1))
      let (mant, exact) :=
        if lsb ≤ e then (m * 2 ^ (e - lsb).toNat, true)
        else
          let d := (lsb - e).toNat
          let q := m / 2 ^ d
          let rem := m % 2 ^ d
          (if roundsUp rnd neg (q % 2 = 1) rem d then q + 1 else q, decide (rem = 0))
      if f.exceeds mant lsb then
        let toInf := rnd = 0 || rnd = 4 || (rnd = 2 && !neg) || (rnd = 3 && neg)
        (if sat || !toInf then f.max neg else if f.hasInf then f.inf neg else f.nan neg, flagO ||| flagX)
      else
        let tiny := lsb = f.emin && decide (mant < 2 ^ f.m)
        (f.encode neg mant lsb, if exact then 0 else if tiny then flagU ||| flagX else flagX)

/-! ## Exact operations (R208, R225, R239) -/

/-- The integer m with value m * 2^e of a finite value on the grid 2^e. -/
def onGrid (neg : Bool) (m : Nat) (e g : Int) : Int :=
  let v : Int := (m * 2 ^ (e - g).toNat : Nat)
  if neg then -v else v

/-- A term of a sum: a value, or an invalid product. -/
inductive Term
  | val (v : FVal)
  | invalid
deriving DecidableEq, Repr

/-- Product of two values; `plusZero` makes an exact zero +0, as in a tile product (R239). -/
def mulTerm (a b : FVal) (plusZero : Bool) : Term :=
  match a, b with
  | .nan _, _ => .val (.nan false)
  | _, .nan _ => .val (.nan false)
  | .inf x, .inf y => .val (.inf (x != y))
  | .inf x, .fin y m _ => if m = 0 then .invalid else .val (.inf (x != y))
  | .fin x m _, .inf y => if m = 0 then .invalid else .val (.inf (x != y))
  | .fin x m e, .fin y n f =>
    if m * n = 0 then .val (.fin (if plusZero then false else x != y) 0 0) else .val (.fin (x != y) (m * n) (e + f))

def termNan : Term → Bool
  | .val (.nan _) => true
  | _ => false
def termInf : Term → Option Bool
  | .val (.inf n) => some n
  | _ => none
def termFin : Term → Option (Bool × Nat × Int)
  | .val (.fin n m e) => some (n, m, e)
  | _ => none

/-- Exact sum of terms, rounded nowhere: the value and the invalid flag. Invalid cases come before NaN terms (R208). A zero
sum is -0 when every term is -0, and otherwise has the sign `zeroNeg` gives for cancelled terms (R182, R239). -/
def sumTerms (ts : List Term) (zeroNeg : Bool) : FVal × BitVec 5 :=
  let infs := ts.filterMap termInf
  if ts.any (· = .invalid) || (infs.contains true && infs.contains false) then (.nan false, flagI)
  else if ts.any termNan then (.nan false, 0)
  else match infs with
    | n :: _ => (.inf n, 0)
    | [] =>
      let fs := ts.filterMap termFin
      let g := fs.foldl (fun (g : Int) t => min g t.2.2) 0
      let s := fs.foldl (fun (z : Int) t => z + onGrid t.1 t.2.1 t.2.2 g) 0
      if s = 0 then
        let allZero := fs.all fun t => t.2.1 = 0
        let neg := if allZero && fs.all (·.1) then true
                   else if allZero && fs.all (fun t => !t.1) then false
                   else zeroNeg
        (.fin neg 0 0, 0)
      else (.fin (decide (s < 0)) s.natAbs g, 0)

def FVal.negate : FVal → FVal
  | .nan n => .nan n
  | .inf n => .inf (!n)
  | .fin n m e => .fin (!n) m e

/-- a + b, a - b and a * b + c before rounding. -/
def exactAdd (a b : FVal) (rnd : Nat) : FVal × BitVec 5 := sumTerms [.val a, .val b] (rnd = 3)
def exactSub (a b : FVal) (rnd : Nat) : FVal × BitVec 5 := sumTerms [.val a, .val b.negate] (rnd = 3)
def exactFma (a b c : FVal) (rnd : Nat) : FVal × BitVec 5 := sumTerms [mulTerm a b false, .val c] (rnd = 3)
def exactMul (a b : FVal) : FVal × BitVec 5 :=
  match mulTerm a b false with
  | .invalid => (.nan false, flagI)
  | .val v => (v, 0)

/-- a / b, as a value whose lowest bit stands for any remainder: enough bits that one rounding decides as the exact
quotient would (R208). -/
def exactDiv (a b : FVal) : FVal × BitVec 5 :=
  match a, b with
  | .inf _, .inf _ => (.nan false, flagI)
  | .nan _, _ => (.nan false, 0)
  | _, .nan _ => (.nan false, 0)
  | .inf x, .fin y _ _ => (.inf (x != y), 0)
  | .fin x _ _, .inf y => (.fin (x != y) 0 0, 0)
  | .fin x m e, .fin y n f =>
    if n = 0 then (if m = 0 then (.nan false, flagI) else (.inf (x != y), flagZ))
    else if m = 0 then (.fin (x != y) 0 0, 0)
    else
      let k := 80 + bitLen n
      let num := m * 2 ^ k
      (.fin (x != y) (2 * (num / n) + (if num % n = 0 then 0 else 1)) (e - f - k - 1), 0)

/-- Integer square root by bits, the highest first. -/
def isqrt (n : Nat) : Nat → Nat → Nat
  | 0, r => r
  | i + 1, r => isqrt n i (if (r + 2 ^ i) * (r + 2 ^ i) ≤ n then r + 2 ^ i else r)

/-- The square root, with its lowest bit standing for any remainder (R208). -/
def exactSqrt (a : FVal) : FVal × BitVec 5 :=
  match a with
  | .nan _ => (.nan false, 0)
  | .inf neg => if neg then (.nan false, flagI) else (.inf false, 0)
  | .fin neg m e =>
    if m = 0 then (.fin neg 0 0, 0)
    else if neg then (.nan false, flagI)
    else
      let k : Nat := 160 + (if e % 2 = 0 then 0 else 1)
      let num := m * 2 ^ k
      let r := isqrt num (bitLen num / 2 + 1) 0
      (.fin false (2 * r + (if r * r = num then 0 else 1)) ((e - (k : Int)) / 2 - 1), 0)

/-! ## Comparison and classes (R209) -/

/-- Order of two values that are not NaN: `lt` and `eq`, with -0 equal to +0. -/
def cmpVal (a b : FVal) : Ordering :=
  let key (v : FVal) (g : Int) : Int × Int := match v with
    | .nan _ => (0, 0)
    | .inf n => (if n then -1 else 1, 0)
    | .fin n m e => (0, onGrid n m e g)
  let low (v : FVal) : Int := match v with
    | .fin _ _ e => e
    | _ => 0
  let g := min (low a) (low b)
  let x := key a g
  let y := key b g
  if x.1 < y.1 || (x.1 = y.1 && x.2 < y.2) then .lt else if x = y then .eq else .gt

def FVal.isNan : FVal → Bool
  | .nan _ => true
  | _ => false
def FVal.neg? : FVal → Bool
  | .nan n => n
  | .inf n => n
  | .fin n _ _ => n

/-- `fmin` (false) or `fmax` (true) of two encodings of a format (R209). -/
def fminmax (f : Fmt) (mx : Bool) (p q : Nat) : Nat :=
  let a := f.value p
  let b := f.value q
  if a.isNan && b.isNan then f.nan false
  else if a.isNan then q
  else if b.isNan then p
  else match cmpVal a b with
    | .lt => if mx then q else p
    | .gt => if mx then p else q
    | .eq => if a.neg? = b.neg? then p else if a.neg? = mx then q else p

/-- One bit of the class of an encoding (R209). -/
def fclassOf (f : Fmt) (bits : Nat) : Nat :=
  match f.value bits with
  | .nan n => if n then 9 else 8
  | .inf n => if n then 0 else 7
  | .fin n m _ =>
    if m = 0 then (if n then 3 else 4)
    else if bits / 2 ^ f.m % 2 ^ f.e = 0 then (if n then 2 else 5)
    else (if n then 1 else 6)

/-! ## Conversions (R185, R186, R210) -/

/-- Float to a w-bit integer: rounded under RND and clamped, with its flags (R185). -/
def toIntClamp (sg : Bool) (w : Nat) (rnd : Nat) (v : FVal) : Int × BitVec 5 :=
  match v with
  | .nan _ => (0, flagI)
  | .inf n => (if n then intMin sg w else intMax sg w, flagI)
  | .fin n m e =>
    let (u, exact) :=
      if 0 ≤ e then (m * 2 ^ e.toNat, true)
      else
        let d := (-e).toNat
        let q := m / 2 ^ d
        let rem := m % 2 ^ d
        (if roundsUp rnd n (q % 2 = 1) rem d then q + 1 else q, decide (rem = 0))
    let r : Int := if n then -(u : Int) else u
    if r < intMin sg w then (intMin sg w, flagI)
    else if intMax sg w < r then (intMax sg w, flagI)
    else (r, if exact then 0 else flagX)

/-- An exact integer as a float value. -/
def ofIntVal (r : Int) : FVal := .fin (decide (r < 0)) r.natAbs 0

/-- An exact integer wrapped or clamped into a w-bit format (R186): its pattern and flags. -/
def intResult (sg : Bool) (w : Nat) (sat : Bool) (r : Int) : Nat × BitVec 5 :=
  if sat then
    let c := max (intMin sg w) (min (intMax sg w) r)
    (ofInt w c, if c = r then 0 else flagO)
  else (ofInt w r, 0)

/-- `fcvt` (R210): between float formats. Between equal types an infinity stays as it is under SAT = 1 too, and raises no flag:
the rule's two sentences differ there, and the model takes the second (DESIGN CHOICE, assumption 81). -/
def floatToFloat (src dst : Fmt) (rnd : Nat) (sat : Bool) (bits : Nat) : Nat × BitVec 5 :=
  if src = dst then
    match src.value bits with
    | .nan n => if src.special = .f6 then (0, flagI) else (dst.nan n, 0)
    | _ => (bits % 2 ^ (src.e + src.m + 1), 0)
  else roundF dst rnd sat (src.value bits)

end Sys2Proof.Machine
end

