-- ==== Sys2Proof/Machine/Flags.lean ====
section
/-! DEFINITION. Condition sets and the results of the scalar and lane arithmetic with their flags (R47, R186, R198 to R204,
R208 to R210, R216). -/
namespace Sys2Proof.Machine

/-! ## Condition sets (R47) -/

def condSet (eq lt lo un : Bool) : BitVec 4 :=
  (if un then 8 else 0) ||| (if lo then 4 else 0) ||| (if lt then 2 else 0) ||| (if eq then 1 else 0)

/-- The set of an integer comparison of the low w bits (R204). -/
def cmpInt (w p q : Nat) : BitVec 4 :=
  condSet (p % 2 ^ w = q % 2 ^ w) (toInt true w p < toInt true w q) (p % 2 ^ w < q % 2 ^ w) false

/-- The set of a float comparison (R209). -/
def cmpFloat (f : Fmt) (p q : Nat) : BitVec 4 :=
  let a := f.value p
  let b := f.value q
  if a.isNan || b.isNan then condSet false false false true
  else match cmpVal a b with
    | .lt => condSet false true true false
    | .eq => condSet true false false false
    | .gt => condSet false false false false

/-- The tested condition c[BIT] XOR NEG (R203). -/
def testCond (c : BitVec 4) (bit : Nat) (neg : Bool) : Bool := c.getLsbD bit != neg

/-! ## Integer arithmetic (R198, R199) -/

/-- The integer operations of majors 0x10 and 0x30. -/
inductive IntOp
  | add | sub | mul | mulh | div | rem | and | or | xor | andn | shl | shr | sra | rol | min | max | abs | neg
  | clz | ctz | popc
deriving DecidableEq, Repr

/-- Number of one bits of the low w bits. -/
def popCount (w p : Nat) : Nat := (List.range w).countP fun i => p.testBit i
/-- Trailing zero bits of the low w bits. -/
def trailing (w p : Nat) : Nat := ((List.range w).find? fun i => p.testBit i).getD w
/-- Leading zero bits of the low w bits. -/
def leading (w p : Nat) : Nat := w - bitLen (p % 2 ^ w)

/-- EXACT of R198 as an unbounded integer, with the divide-by-zero flag (R199): patterns p and q of w bits, shift amount
s. A shift of w or more acts as the formula says: left shifts keep their exact product up to the clamp's need. -/
def intExact (op : IntOp) (sg : Bool) (w p q s : Nat) : Int × BitVec 5 :=
  let a := toInt sg w p
  let b := toInt sg w q
  let p := p % 2 ^ w
  let q := q % 2 ^ w
  match op with
  | .add => (a + b, 0)
  | .sub => (a - b, 0)
  | .mul => (a * b, 0)
  | .mulh => (a * b / ((2 ^ w : Nat) : Int), 0)
  | .div => if b = 0 then (if sg && decide (a < 0) then intMin sg w else intMax sg w, flagZ) else (Int.tdiv a b, 0)
  | .rem => if b = 0 then (a, flagZ) else (Int.tmod a b, 0)
  | .and => ((p &&& q : Nat), 0)
  | .or => ((p ||| q : Nat), 0)
  | .xor => ((p ^^^ q : Nat), 0)
  | .andn => ((p &&& (2 ^ w - 1 - q) : Nat), 0)
  | .shl => (a * ((2 ^ (Nat.min s (2 * w)) : Nat) : Int), 0)
  | .shr => ((p / 2 ^ (Nat.min s w) : Nat), 0)
  | .sra => (toInt true w p / ((2 ^ (Nat.min s w) : Nat) : Int), 0)
  | .rol => (((p * 2 ^ (s % w)) % 2 ^ w + p / 2 ^ (w - s % w) : Nat), 0)
  | .min => (min a b, 0)
  | .max => (max a b, 0)
  | .abs => ((a.natAbs : Int), 0)
  | .neg => (-a, 0)
  | .clz => ((leading w p : Nat), 0)
  | .ctz => ((trailing w p : Nat), 0)
  | .popc => ((popCount w p : Nat), 0)

/-- A scalar integer operation (R198): the 64-bit result and its flags. -/
def intOp (op : IntOp) (ty : Nat) (sat : Bool) (x y : Word) : Word × BitVec 5 :=
  let w := if ty < 2 then 8 else if ty < 4 then 16 else if ty < 6 then 32 else 64
  let sg := intSigned ty
  let r := intExact op sg w x.toNat y.toNat y.toNat
  let t := intResult sg w sat r.1
  (extend sg w t.1, r.2 ||| t.2)

/-! ## Bit fields (R200) -/

def bfxPos (b : Word) : Nat := (b.extractLsb' 0 6).toNat
def bfxLen (b : Word) : Nat := Nat.min (b.extractLsb' 8 7).toNat 64
def bfxOp (signed : Bool) (x b : Word) : Word :=
  let l := bfxLen b
  let f := x.toNat / 2 ^ bfxPos b % 2 ^ l
  if l = 0 then 0 else if signed then BitVec.ofInt 64 (toInt true l f) else BitVec.ofNat 64 f
def bfiOp (x b c : Word) : Word :=
  let m : Word := BitVec.ofNat 64 ((2 ^ bfxLen b - 1) * 2 ^ bfxPos b)
  (c &&& ~~~m) ||| ((x <<< bfxPos b) &&& m)

/-! ## Float arithmetic (R208) -/

inductive FloatOp
  | add | sub | mul | div | sqrt | fma
deriving DecidableEq, Repr

/-- The exact result of R208 and its flags, before rounding. -/
def floatExact (op : FloatOp) (rnd : Nat) (a b c : FVal) : FVal × BitVec 5 :=
  match op with
  | .add => exactAdd a b rnd
  | .sub => exactSub a b rnd
  | .mul => exactMul a b
  | .div => exactDiv a b
  | .sqrt => exactSqrt a
  | .fma => exactFma a b c rnd

/-- A float operation rounded once into a destination format, with its flags. -/
def floatOp (op : FloatOp) (src dst : Fmt) (rnd : Nat) (sat : Bool) (p q r : Nat) : Nat × BitVec 5 :=
  let v := floatExact op rnd (src.value p) (src.value q) (src.value r)
  let t := roundF dst rnd sat v.1
  (t.1, v.2 ||| t.2)

/-- Sign operations on an encoding (R209): the sign bit cleared or flipped; an F6 result has its high bits 0. -/
def Fmt.signBit (f : Fmt) : Nat := f.e + f.m
def Fmt.trim (f : Fmt) (bits : Nat) : Nat := bits % 2 ^ (f.signBit + 1)
def fabsBits (f : Fmt) (p : Nat) : Nat := p % 2 ^ f.signBit
def fnegBits (f : Fmt) (p : Nat) : Nat := if f.trim p < 2 ^ f.signBit then f.trim p + 2 ^ f.signBit else p % 2 ^ f.signBit

/-- Conversion between any two TYPE codes (R185, R186, R210, R218). -/
def convert (src dst rnd : Nat) (sat : Bool) (wOf : Nat → Nat) (bits : Nat) : Nat × BitVec 5 :=
  if 8 ≤ src then
    if 8 ≤ dst then floatToFloat (fmtOf src) (fmtOf dst) rnd sat bits
    else
      let r := toIntClamp (intSigned dst) (wOf dst) rnd ((fmtOf src).value bits)
      (ofInt (wOf dst) r.1, r.2)
  else
    let v := toInt (intSigned src) (wOf src) bits
    if 8 ≤ dst then roundF (fmtOf dst) rnd sat (ofIntVal v)
    else intResult (intSigned dst) (wOf dst) sat v

end Sys2Proof.Machine
end

