-- ==== Sys2Proof/Syntax.lean ====
section
/-! DEFINITION. The instructions of Thrumef Bruris as data: one constructor per row of the opcode table.

A word instruction carries the fields of its format (R25, R28, R33, R34, R36, R38, R39) exactly as the word holds
them, reserved fields included, because what an ill-formed word does is part of its meaning (R52, R53). The rows of
the table that are no instruction words are the machine's own events, moves and commands; their constructors carry
what names the happening. -/
namespace Sys2Proof

/-- RR and V formats (R25, R28). -/
structure RR where
  d : BitVec 5
  a : BitVec 5
  b : BitVec 5
  c : BitVec 5
  k : BitVec 3
  kn : BitVec 1
  ty : BitVec 4
  rnd : BitVec 3
  sat : BitVec 1
  moda : BitVec 6
  modb : BitVec 6
  narrow : BitVec 6
deriving DecidableEq, Repr

/-- RI format (R33). -/
structure RI where
  d : BitVec 5
  a : BitVec 5
  b : BitVec 5
  c : BitVec 5
  k : BitVec 3
  kn : BitVec 1
  imm : BitVec 32
deriving DecidableEq, Repr

/-- M format (R34). -/
structure MF where
  d : BitVec 5
  a : BitVec 5
  b : BitVec 5
  c : BitVec 5
  k : BitVec 3
  kn : BitVec 1
  scope : BitVec 3
  hint : BitVec 2
  size : BitVec 3
  off : BitVec 24
deriving DecidableEq, Repr

/-- T format (R36). -/
structure TF where
  d : BitVec 5
  a : BitVec 5
  b : BitVec 5
  c : BitVec 5
  k : BitVec 3
  kn : BitVec 1
  zp : BitVec 4
  zen : BitVec 1
  atype : BitVec 4
  btype : BitVec 4
  acc : BitVec 2
  lo : BitVec 11
deriving DecidableEq, Repr

/-- X format (R38). -/
structure XF where
  d : BitVec 5
  a : BitVec 5
  b : BitVec 5
  c : BitVec 5
  k : BitVec 3
  kn : BitVec 1
  dx : BitVec 6
  dy : BitVec 6
  role : BitVec 2
  midx : BitVec 5
  preg : BitVec 1
  lo : BitVec 8
deriving DecidableEq, Repr

/-- S format (R39). -/
structure SF where
  d : BitVec 5
  a : BitVec 5
  b : BitVec 5
  c : BitVec 5
  k : BitVec 3
  kn : BitVec 1
  hi : BitVec 20
  sreg : BitVec 12
deriving DecidableEq, Repr

/-- A command message of a queue: the 32-byte header of R130 without its OPC byte, which the constructor names, the
UET source it came from (R129), and its body. -/
structure Packet where
  src : Nat
  flags : Byte
  vfq : BitVec 16
  seq : BitVec 32
  depseq : BitVec 32
  depq : Byte
  rsv1 : BitVec 24
  len : BitVec 32
  rsv2 : BitVec 32
  tag : Word
  body : List Byte
deriving DecidableEq, Repr

/-- What every management command carries (R367): its source, the header of R130, the signed bytes (header and body) and the
signature. The bodies of the commands are given as data, because the spec lays out no bytes for them. -/
structure Mgmt where
  src : Nat
  flags : Byte
  vfq : BitVec 16
  seq : BitVec 32
  depseq : BitVec 32
  depq : Byte
  rsv1 : BitVec 24
  len : BitVec 32
  rsv2 : BitVec 32
  tag : Word
  signed : List Byte
  sig : List Byte
deriving DecidableEq, Repr

/-- A rectangle of logical sheds (R140). -/
structure Rect where
  x : Nat
  y : Nat
  w : Nat
  h : Nat
deriving DecidableEq, Repr

/-- The body of BIND (R367). -/
structure BindBody where
  source : Option Nat
  cls : Option (BitVec 2)
  bulk : Option Bool
deriving DecidableEq, Repr

/-- One range of a memory grant (R338). -/
structure Range where
  base : Nat
  len : Nat
  dur : Bool
deriving DecidableEq, Repr

/-- One peer-table entry (R340). -/
structure Peer where
  kind : Nat
  perm : BitVec 8
  vf : Nat
  pkg : BitVec 32
  members : List Nat
  queue : Nat
  rsv : BitVec 56
deriving DecidableEq, Repr

/-- The body of VFCFG (R331, R142, R149, R365). -/
structure VfCfg where
  uroot : Option Nat
  sroot : Option Nat
  grant : List Range
  keys : List Nat
  arenaKey : Nat
  abase : Nat
  asize : Nat
  peers : Table Peer
  spBase : Nat
  spSize : Nat
  spKey : Nat
  supQueue : Option Nat
  slice : Nat
  inject : Bool
deriving DecidableEq, Repr

/-- A row-table entry (R159): matrix and vector codes and the power of one row in milliwatts. -/
structure RowPoint where
  m : Nat
  v : Nat
  power : Nat
deriving DecidableEq, Repr

/-- A quarter-table entry (R159, R173). -/
structure QtrPoint where
  n : Nat
  y : Nat
  power : Nat
  ecc : Bool
deriving DecidableEq, Repr

/-- A queue's joule budget (R169). -/
structure Budget where
  vfq : Nat
  b : Nat
  p : Nat
deriving DecidableEq, Repr

/-- The body of TABLES (R159, R162, R169, R170). -/
structure TablesBody where
  rows : Option (List RowPoint)
  qtrs : Option (List QtrPoint)
  statics : Option Nat
  coeffs : Option (Table Nat)
  caps : Option (Nat × Nat × Nat)
  budgets : List Budget
deriving DecidableEq, Repr

/-- A firmware image (R370): the manifest's bytes, its security epoch, the save layouts it reads, the default tables
it carries (R160), the keeper's code, the rest of the image and its signature. -/
structure FwImage where
  manifest : List Byte
  epoch : Nat
  layouts : List Nat
  tables : TablesBody
  code : List Byte
  rest : List Byte
  sig : List Byte
deriving DecidableEq, Repr

/-- The body of LAYUP (R404) and what the model must know of the target: whether it refuses a write (R405) and, for a
restore, the serial number and the wrapped key slots in its header, the cells that it returns, and the key under which each line among
them is encrypted (R339, R406). -/
structure LayupBody where
  tpkg : BitVec 32
  tflags : BitVec 16
  rsv : BitVec 16
  tbase : Word
  tmkey : Word
  refusesAt : Option Nat
  serial : Word
  slots : List (BitVec 320)
  cells : List (Nat × Byte)
  keyed : List (Nat × Nat)
deriving DecidableEq, Repr

/-- A page that a walk is for: the function whose tables it reads and a virtual address in it (R332, R336). -/
structure WalkedPage where
  vf : Nat
  va : Nat
deriving DecidableEq, Repr

/-- One constructor per row of spec/opcode_table.json. -/
inductive Instr
  /-- `yard.we` (R56). -/
  | yardWe (f : RR)
  /-- `yard.wf` (R56). -/
  | yardWf (f : RR)
  /-- `yard.cmt` (R56). -/
  | yardCmt (f : RR)
  /-- `yard.rd` (R56). -/
  | yardRd (f : RR)
  /-- `yard.pin` (R56). -/
  | yardPin (f : RR)
  /-- `yard.unpin` (R56). -/
  | yardUnpin (f : RR)
  /-- `yard.gen` (R56). -/
  | yardGen (f : RR)
  /-- `halt` (R56). -/
  | halt (f : RR)
  /-- `yield` (R56). -/
  | yield (f : RR)
  /-- `start` (R56). -/
  | start (f : RR)
  /-- `start.try` (R56). -/
  | startTry (f : RR)
  /-- `stop` (R56). -/
  | stop (f : RR)
  /-- `hlive` (R56). -/
  | hlive (f : RR)
  /-- `sendr` (R56). -/
  | sendr (f : XF)
  /-- `sendr.v` (R56). -/
  | sendrV (f : XF)
  /-- `mtake` (R56). -/
  | mtake (f : RR)
  /-- `mpeek` (R56). -/
  | mpeek (f : RR)
  /-- `mclr` (R56). -/
  | mclr (f : RR)
  /-- `clk.rd` (R56). -/
  | clkRd (f : RR)
  /-- `clk.req` (R56). -/
  | clkReq (f : RR)
  /-- `clk.ack` (R56). -/
  | clkAck (f : RR)
  /-- `pwr.rd` (R56). -/
  | pwrRd (f : RR)
  /-- `srd` (R56). -/
  | srd (f : SF)
  /-- `swr` (R56). -/
  | swr (f : SF)
  /-- `eret` (R56). -/
  | eret (f : RR)
  /-- `ecc.inj` (R56). -/
  | eccInj (f : RR)
  /-- `trap` (R56). -/
  | trap (f : RI)
  /-- `icinv` (R56). -/
  | icinv (f : MF)
  /-- `tlbinv` (R56). -/
  | tlbinv (f : MF)
  /-- `add` (R57). -/
  | add (f : RR)
  /-- `sub` (R57). -/
  | sub (f : RR)
  /-- `mul` (R57). -/
  | mul (f : RR)
  /-- `mulh` (R57). -/
  | mulh (f : RR)
  /-- `div` (R57). -/
  | div (f : RR)
  /-- `rem` (R57). -/
  | rem (f : RR)
  /-- `and` (R57). -/
  | and (f : RR)
  /-- `or` (R57). -/
  | or (f : RR)
  /-- `xor` (R57). -/
  | xor (f : RR)
  /-- `andn` (R57). -/
  | andn (f : RR)
  /-- `shl` (R57). -/
  | shl (f : RR)
  /-- `shr` (R57). -/
  | shr (f : RR)
  /-- `sra` (R57). -/
  | sra (f : RR)
  /-- `rol` (R57). -/
  | rol (f : RR)
  /-- `min` (R57). -/
  | min (f : RR)
  /-- `max` (R57). -/
  | max (f : RR)
  /-- `abs` (R57). -/
  | abs (f : RR)
  /-- `neg` (R57). -/
  | neg (f : RR)
  /-- `clz` (R57). -/
  | clz (f : RR)
  /-- `ctz` (R57). -/
  | ctz (f : RR)
  /-- `popc` (R57). -/
  | popc (f : RR)
  /-- `bfx` (R57). -/
  | bfx (f : RR)
  /-- `bfi` (R57). -/
  | bfi (f : RR)
  /-- `lea` (R57). -/
  | lea (f : RR)
  /-- `mov` (R57). -/
  | mov (f : RR)
  /-- `cmp` (R57). -/
  | cmp (f : RR)
  /-- `csel` (R57). -/
  | csel (f : RR)
  /-- `setc` (R57). -/
  | setc (f : RR)
  /-- `decz` (R57). -/
  | decz (f : RR)
  /-- `addi` (R57). -/
  | addi (f : RI)
  /-- `andi` (R57). -/
  | andi (f : RI)
  /-- `ori` (R57). -/
  | ori (f : RI)
  /-- `xori` (R57). -/
  | xori (f : RI)
  /-- `li` (R57). -/
  | li (f : RI)
  /-- `lih` (R57). -/
  | lih (f : RI)
  /-- `cmpi` (R57). -/
  | cmpi (f : RI)
  /-- `shli` (R57). -/
  | shli (f : RI)
  /-- `shri` (R57). -/
  | shri (f : RI)
  /-- `srai` (R57). -/
  | srai (f : RI)
  /-- `fadd` (R57). -/
  | fadd (f : RR)
  /-- `fsub` (R57). -/
  | fsub (f : RR)
  /-- `fmul` (R57). -/
  | fmul (f : RR)
  /-- `fdiv` (R57). -/
  | fdiv (f : RR)
  /-- `fsqrt` (R57). -/
  | fsqrt (f : RR)
  /-- `fma` (R57). -/
  | fma (f : RR)
  /-- `fmin` (R57). -/
  | fmin (f : RR)
  /-- `fmax` (R57). -/
  | fmax (f : RR)
  /-- `fabs` (R57). -/
  | fabs (f : RR)
  /-- `fneg` (R57). -/
  | fneg (f : RR)
  /-- `fcmp` (R57). -/
  | fcmp (f : RR)
  /-- `fclass` (R57). -/
  | fclass (f : RR)
  /-- `fcvt` (R57). -/
  | fcvt (f : RR)
  /-- `ftoi` (R57). -/
  | ftoi (f : RR)
  /-- `itof` (R57). -/
  | itof (f : RR)
  /-- `vadd` (R58). -/
  | vadd (f : RR)
  /-- `vsub` (R58). -/
  | vsub (f : RR)
  /-- `vmul` (R58). -/
  | vmul (f : RR)
  /-- `vmulh` (R58). -/
  | vmulh (f : RR)
  /-- `vfma` (R58). -/
  | vfma (f : RR)
  /-- `vmin` (R58). -/
  | vmin (f : RR)
  /-- `vmax` (R58). -/
  | vmax (f : RR)
  /-- `vabs` (R58). -/
  | vabs (f : RR)
  /-- `vneg` (R58). -/
  | vneg (f : RR)
  /-- `vand` (R58). -/
  | vand (f : RR)
  /-- `vor` (R58). -/
  | vor (f : RR)
  /-- `vxor` (R58). -/
  | vxor (f : RR)
  /-- `vandn` (R58). -/
  | vandn (f : RR)
  /-- `vshl` (R58). -/
  | vshl (f : RR)
  /-- `vshr` (R58). -/
  | vshr (f : RR)
  /-- `vsra` (R58). -/
  | vsra (f : RR)
  /-- `vcmp` (R58). -/
  | vcmp (f : RR)
  /-- `vsel` (R58). -/
  | vsel (f : RR)
  /-- `vcvt` (R58). -/
  | vcvt (f : RR)
  /-- `vdiv` (R58). -/
  | vdiv (f : RR)
  /-- `vsqrt` (R58). -/
  | vsqrt (f : RR)
  /-- `vperm` (R58). -/
  | vperm (f : RR)
  /-- `vlut16` (R58). -/
  | vlut16 (f : RR)
  /-- `vbcast` (R58). -/
  | vbcast (f : RR)
  /-- `vins` (R58). -/
  | vins (f : RR)
  /-- `vext` (R58). -/
  | vext (f : RR)
  /-- `vzip` (R58). -/
  | vzip (f : RR)
  /-- `vunzip` (R58). -/
  | vunzip (f : RR)
  /-- `vdot4` (R58). -/
  | vdot4 (f : RR)
  /-- `vdot2` (R58). -/
  | vdot2 (f : RR)
  /-- `vred.add` (R58). -/
  | vredAdd (f : RR)
  /-- `vred.max` (R58). -/
  | vredMax (f : RR)
  /-- `vred.min` (R58). -/
  | vredMin (f : RR)
  /-- `kand` (R58). -/
  | kand (f : RR)
  /-- `kor` (R58). -/
  | kor (f : RR)
  /-- `kxor` (R58). -/
  | kxor (f : RR)
  /-- `knot` (R58). -/
  | knot (f : RR)
  /-- `kmov` (R58). -/
  | kmov (f : RR)
  /-- `kpop` (R58). -/
  | kpop (f : RR)
  /-- `kset` (R58). -/
  | kset (f : RR)
  /-- `krd` (R58). -/
  | krd (f : RR)
  /-- `seq.beg` (R58). -/
  | seqBeg (f : RR)
  /-- `seq.loop` (R58). -/
  | seqLoop (f : RR)
  /-- `seq.end` (R58). -/
  | seqEnd (f : RR)
  /-- `seq.wait` (R58). -/
  | seqWait (f : RR)
  /-- `ld` (R59). -/
  | ld (f : MF)
  /-- `ldu` (R59). -/
  | ldu (f : MF)
  /-- `ld.acq` (R59). -/
  | ldAcq (f : MF)
  /-- `vld` (R59). -/
  | vld (f : MF)
  /-- `vld.raw` (R59). -/
  | vldRaw (f : MF)
  /-- `st` (R59). -/
  | st (f : MF)
  /-- `st.rel` (R59). -/
  | stRel (f : MF)
  /-- `vst` (R59). -/
  | vst (f : MF)
  /-- `ld.f` (R59). -/
  | ldF (f : MF)
  /-- `ld.fe` (R59). -/
  | ldFe (f : MF)
  /-- `st.ef` (R59). -/
  | stEf (f : MF)
  /-- `st.f` (R59). -/
  | stF (f : MF)
  /-- `tag.set` (R59). -/
  | tagSet (f : MF)
  /-- `tag.clr` (R59). -/
  | tagClr (f : MF)
  /-- `pref` (R59). -/
  | pref (f : MF)
  /-- `flush` (R59). -/
  | flush (f : MF)
  /-- `inv` (R59). -/
  | inv (f : MF)
  /-- `amo.add` (R60). -/
  | amoAdd (f : MF)
  /-- `amo.and` (R60). -/
  | amoAnd (f : MF)
  /-- `amo.or` (R60). -/
  | amoOr (f : MF)
  /-- `amo.xor` (R60). -/
  | amoXor (f : MF)
  /-- `amo.min` (R60). -/
  | amoMin (f : MF)
  /-- `amo.max` (R60). -/
  | amoMax (f : MF)
  /-- `amo.minu` (R60). -/
  | amoMinu (f : MF)
  /-- `amo.maxu` (R60). -/
  | amoMaxu (f : MF)
  /-- `amo.swap` (R60). -/
  | amoSwap (f : MF)
  /-- `amo.cas` (R60). -/
  | amoCas (f : MF)
  /-- `red.add` (R60). -/
  | redAdd (f : MF)
  /-- `red.and` (R60). -/
  | redAnd (f : MF)
  /-- `red.or` (R60). -/
  | redOr (f : MF)
  /-- `red.xor` (R60). -/
  | redXor (f : MF)
  /-- `red.min` (R60). -/
  | redMin (f : MF)
  /-- `red.max` (R60). -/
  | redMax (f : MF)
  /-- `red.minu` (R60). -/
  | redMinu (f : MF)
  /-- `red.maxu` (R60). -/
  | redMaxu (f : MF)
  /-- `fence` (R61). -/
  | fence (f : MF)
  /-- `fence.acq` (R61). -/
  | fenceAcq (f : MF)
  /-- `fence.rel` (R61). -/
  | fenceRel (f : MF)
  /-- `wait` (R61). -/
  | wait (f : RI)
  /-- `waita` (R61). -/
  | waita (f : MF)
  /-- `sem.p` (R61). -/
  | semP (f : RR)
  /-- `sem.v` (R61). -/
  | semV (f : RR)
  /-- `sem.rd` (R61). -/
  | semRd (f : RR)
  /-- `bar` (R61). -/
  | bar (f : RR)
  /-- `copy` (R61). -/
  | copy (f : RR)
  /-- `copy2` (R61). -/
  | copy2 (f : RR)
  /-- `get` (R61). -/
  | get (f : RR)
  /-- `put` (R61). -/
  | put (f : RR)
  /-- `puta` (R61). -/
  | puta (f : RR)
  /-- `wsig` (R61). -/
  | wsig (f : RR)
  /-- `digest` (R61). -/
  | digest (f : RR)
  /-- `ccnt.rd` (R61). -/
  | ccntRd (f : RR)
  /-- `ccnt.wait` (R61). -/
  | ccntWait (f : RR)
  /-- `coll.start` (R61). -/
  | collStart (f : RR)
  /-- `coll.wait` (R61). -/
  | collWait (f : RR)
  /-- `buoy` (R61). -/
  | buoy (f : RR)
  /-- `buoy.seal` (R61). -/
  | buoySeal (f : RR)
  /-- `lh.st` (R61). -/
  | lhSt (f : RR)
  /-- `tzero` (R62). -/
  | tzero (f : TF)
  /-- `tmma` (R62). -/
  | tmma (f : TF)
  /-- `gmma` (R62). -/
  | gmma (f : TF)
  /-- `tdrain` (R62). -/
  | tdrain (f : TF)
  /-- `tdrain.coll` (R62). -/
  | tdrainColl (f : TF)
  /-- `zset` (R62). -/
  | zset (f : TF)
  /-- `zclr` (R62). -/
  | zclr (f : TF)
  /-- `cvt.t` (R62). -/
  | cvtT (f : RR)
  /-- `amax.rd` (R62). -/
  | amaxRd (f : RR)
  /-- `amax.clr` (R62). -/
  | amaxClr (f : RR)
  /-- `cbk.ld` (R62). -/
  | cbkLd (f : RR)
  /-- `cbk.rd` (R62). -/
  | cbkRd (f : RR)
  /-- `gm.cfg` (R62). -/
  | gmCfg (f : RR)
  /-- `gm.step` (R62). -/
  | gmStep (f : RR)
  /-- `gm.mask` (R62). -/
  | gmMask (f : RR)
  /-- `gm.force` (R62). -/
  | gmForce (f : RR)
  /-- `gm.reset` (R62). -/
  | gmReset (f : RR)
  /-- `gm.st` (R62). -/
  | gmSt (f : RR)
  /-- R343: `swr` with SREG 0x010 or 0x011, `CBASE` or `CBOUND`. -/
  | swrCodeBounds (f : SF)
  /-- R51: a word with no assignment, the header mark 0xFE included. -/
  | unassignedEncoding (w : Word)
  /-- R230: the sequencer of the core issues its next stepped repetition. -/
  | seqRepetition (core : Nat)
  /-- R316: the gang's next barrier episode completes. -/
  | barrierEpisodeComplete (gang : Nat)
  /-- R323: a collective combines and writes its result. -/
  | collectiveComplete (coll : Nat)
  /-- R248: the row barrier's next joined `gmma` begins. -/
  | gmmaJoin (gang row : Nat)
  /-- R242: the core's finished tile operation retires. -/
  | tileOpRetire (core : Nat)
  /-- R254: the core's finished conversion retires. -/
  | cvtRetire (core : Nat)
  /-- R86, R91: the block end of a context. -/
  | blockEnd (ctx : Nat)
  /-- R117: an exiting context's counters have drained and it retires. -/
  | contextRetirement (ctx : Nat)
  /-- R118: a HALTING control context becomes HALTED. -/
  | coreHalted (core : Nat)
  /-- R108: a sleeping context's event is accepted. -/
  | sleepWake (ctx : Nat)
  /-- R121: the nth message waiting at the core's port is accepted. -/
  | messageAccept (core n : Nat)
  /-- R101: a commit that has waited revokes the pins on the retained generation. -/
  | pinRevocation (gang table : Nat)
  /-- R98: a core outside a commit's scope drops its cached copy. -/
  | yardBackgroundInvalidate (core table : Nat)
  /-- R288: PERFORM of a buffered write. -/
  | perform (ctx op : Nat)
  /-- R288: PROPAGATE. -/
  | propagate (write quarter : Nat)
  /-- R288: APPLY. -/
  | apply (write quarter : Nat)
  /-- R288: READ of one doubleword of a pending read. -/
  | read (ctx op part : Nat)
  /-- R288: ATOMIC. -/
  | atomic (ctx op : Nat)
  /-- R288: REDUCE. -/
  | reduce (ctx op : Nat)
  /-- R279, R288: MERGE of the partials of a line. -/
  | merge (line : Nat)
  /-- R288, R320: ENGINE-STEP. -/
  | engineStep (op unit : Nat)
  /-- R288, R297: FLAG. -/
  | flag (op : Nat)
  /-- R288, R298: DURABLE to the primary (0) or the mirror (1). -/
  | durable (write copy : Nat)
  /-- R277: a level-two line moves to the shed that made most of its requests. -/
  | lineMigration (line : Nat)
  /-- R386: a dirty durable line is written back to both copies. -/
  | durableWriteback (line : Nat)
  /-- R336: one read of a walk for the page that holds the address. -/
  | pageWalk (core : Nat) (page : WalkedPage) (sup : Bool)
  /-- R356: Bruris writes the next fault-ring record. -/
  | faultRecordWrite (vf referral : Nat)
  /-- R357: Bruris reads a filled response. -/
  | referralResponse (vf slot : Nat)
  /-- R359: the checker stage finds a mismatch on the context's next retiring instruction. -/
  | checkerMismatch (ctx : Nat)
  /-- R246: a checksum of the slice fails. -/
  | checksumMismatch (core : Nat)
  /-- R360: an access of the context consumes a poisoned doubleword. -/
  | poisonConsumed (ctx : Nat)
  /-- R361: the core is contained. -/
  | containment (core cause : Nat)
  /-- R363: the self-test of a contained core ends. -/
  | selfTestComplete (core : Nat)
  /-- R401: a contained core restarts. -/
  | coreRestart (core : Nat)
  /-- R366: a sweeper reads a doubleword and finds an error that it can (or, hard, cannot) correct. -/
  | sweep (loc : Nat) (hard : Bool)
  /-- R173: a sweeper re-encodes a DRAM line. -/
  | eccReencode (line : Nat)
  /-- R160: package reset. -/
  | packageReset
  /-- R299, R364: a compute die resets. -/
  | dieReset (quarter : Nat)
  /-- R364: a reset die returns to service. -/
  | dieReturn (quarter : Nat)
  /-- R154: the lowest surviving front end becomes master. -/
  | masterHandover
  /-- R389: a lighthouse layer is taken out of service. -/
  | lighthouseOutOfService (quarter : Nat)
  /-- R389: a lighthouse layer returns and its resync begins. -/
  | lighthouseReturn (quarter : Nat)
  /-- R389: the resync ends. -/
  | lighthouseResyncEnd (quarter : Nat)
  /-- R162: the CAPSEL balls change. -/
  | capSelectChange (sel : BitVec 2)
  /-- R164: the clock arbiter evaluates. -/
  | arbiterEvaluate
  /-- R165: a deferred change becomes allowed and is evaluated. -/
  | deferredEvaluation
  /-- R167: a transition that has run 2000 ticks ends. -/
  | clockTransitionEnd
  /-- R170: activity counters are charged to their queues. -/
  | energyCharge
  /-- R169: a queue's period begins. -/
  | periodRefill (vfq : Nat)
  /-- R131, R133: a LAUNCH command arrives. -/
  | launch (p : Packet)
  /-- R83, R131: a LOAD command arrives, or the queue's oldest LOAD starts. -/
  | load (p : Packet)
  /-- R344: an UNLOAD command arrives. -/
  | unload (p : Packet)
  /-- R131: a STOP command arrives. -/
  | stopCommand (p : Packet)
  /-- R415: a QUERY command arrives. -/
  | query (p : Packet)
  /-- R139: a WAITING gang becomes READY. -/
  | gangReady (gang : Nat)
  /-- R141: the master places the next runnable gang of a paddock. -/
  | gangPlace (vf : Nat)
  /-- R125: a LAUNCHING gang is released. -/
  | gangRelease (gang : Nat)
  /-- R144: the master decides a switch. -/
  | gangSwitchDecide (gang : Nat)
  /-- R142: a gang has used its slice. -/
  | sliceExpiry (gang : Nat)
  /-- R145: the timestamp of a switch arrives. -/
  | switchStop (gang : Nat)
  /-- R148: a gang's save is complete. -/
  | saveComplete (gang : Nat)
  /-- R150: a restored gang is released. -/
  | restoreRelease (gang : Nat)
  /-- R127: a gang completes. -/
  | gangComplete (gang : Nat)
  /-- R371: IDENT. -/
  | ident (m : Mgmt) (sel : Byte)
  /-- R368: ATTEST. -/
  | attest (m : Mgmt) (nonce : List Byte)
  /-- R367: BIND. -/
  | bind (m : Mgmt) (b : BindBody)
  /-- R151: PADDOCK. -/
  | paddock (m : Mgmt) (r : Option Rect)
  /-- R331: VFCFG. -/
  | vfcfg (m : Mgmt) (c : VfCfg)
  /-- R342: VFRESET. -/
  | vfreset (m : Mgmt) (release : Bool)
  /-- R341: a shed that left a function is scrubbed. -/
  | shedScrub (shed : Nat)
  /-- R346: MIGRATE, one phase of a live migration. -/
  | migrate (m : Mgmt) (phase : Nat)
  /-- R159: TABLES. -/
  | tables (m : Mgmt) (t : TablesBody)
  /-- R367: FWSTAGE. -/
  | fwstage (m : Mgmt) (f : FwImage)
  /-- R370: FWACT. -/
  | fwact (m : Mgmt) (force : Byte)
  /-- R368: ERRLOG. -/
  | errlog (m : Mgmt)
  /-- R405: LAYUP. -/
  | layup (m : Mgmt) (b : LayupBody)
  /-- R406: LAYUP with RESTORE. -/
  | layupRestore (m : Mgmt) (b : LayupBody)
  /-- R131: a command with an unlisted OPC. -/
  | unknownOpc (p : Packet) (opc : Byte)
  /-- R128: a packet that is dropped and counted. -/
  | droppedPacket (port : Nat)
deriving DecidableEq, Repr

end Sys2Proof
end

