-- ==== Sys2Proof/Config.lean ====
section
/-! DEFINITION. What is fixed for one device and what the spec leaves open.

The opaque constants are FREE VALUES: they have no body, so no proof can use what they are. Each is named in
notes/assumptions. The plain constants are counts that the spec gives (R24). -/
namespace Sys2Proof.Config

/-- Bytes of one scratchpad (R19). -/
def padBytes : Nat := 0x200000
/-- First virtual address of the scratchpad window (R272). -/
def padWindow : Nat := 0xFFFFFFFFFFE00000
/-- Bytes of one DRAM layer (R270). -/
def layerBytes : Nat := 0xC00000000
/-- Bytes of the primary part of a lighthouse layer (R271). -/
def primaryBytes : Nat := 0x600000000
/-- Global ticks between two grant changes of one gang (R165). -/
def grantWindow : Nat := 100000
/-- Global ticks of a grant transition (R165). -/
def grantTransition : Nat := 2000
/-- Resident ticks that a commit waits before it revokes pins: 100 microseconds (R101). -/
def revokeTicks : Nat := 100000

/-! ## Free values -/

/-- The contents of a general-memory line's doubleword after its key slot went to a new owner: values that the new
owner cannot choose or predict (R339). Assumption 41. -/
opaque rekeyed : Nat → Word
/-- ML-DSA-87 verification of a signature over message bytes with a named key, an external standard (R367, R370).
Assumption 40. -/
opaque mldsaVerify : Nat → List Byte → List Byte → Bool
/-- ML-DSA-87 signing with the device key (R368, R371). Assumption 40. -/
opaque mldsaSign : List Byte → List Byte
/-- SHA3-512, an external standard of which the model uses no property (R367, R368). Assumption 40. -/
opaque sha3x512 : List Byte → List Byte
/-- AES-256 key wrap of the key slots under the fused device key (R405). Assumption 40. -/
opaque keyWrap : Nat → BitVec 320
/-- The bracketing that a bulk-class collective uses for one element, as a code the combining function reads (R251).
Assumption 42. -/
opaque bulkOrder : Nat → Nat
/-- Which self-tests pass (R153, R363, R364): the verdict of the hardware, as a function of a fresh counter.
Assumption 43. -/
opaque selfTest : Nat → Bool
/-- The schedule the model follows when no turn is listed: which agent moves next is left open by the spec (R285).
The number is decoded by the step function. Assumption 2. -/
opaque freeTurn : Nat → Nat
/-- The happening that the hardware lets come next in such a turn, if any. Assumption 2. -/
opaque freeEvent : Nat → Option Instr
/-- A byte that comes from the remote side of the fabric (another package), which the spec does not model here.
Assumption 45. -/
opaque remoteByte : Nat → Byte
/-- Whether a function of another package lets a unit of an engine operation through (R128, R340), as a function of a fresh counter.
Assumption 45. -/
opaque remoteAllows : Nat → Bool
/-- The UET fabric address of this package (R340, R404), which provisioning gives. Assumption 47. -/
opaque fabricAddress : BitVec 32
/-- A choice the spec leaves to the hardware (a region's place, a scheduling timestamp inside its window).
Assumption 46. -/
opaque freeChoice : Nat → Nat

end Sys2Proof.Config
end

