-- ==== Sys2Proof/Machine/State.lean ====
section
/-! DEFINITION. The whole state of a Thrumef Bruris package as plain data, and the state after reset.

Numbers name parts: shed = 16 y + x (R16), core = 3 shed + role (T 0, C 1, A 2; R18, R19), context = 11 core + context
number (R20), quarter = x/8 + 2 (y/8). A LOCATION is the byte address of an aligned doubleword (R286): a physical address
below 2^40 (R270), or 2^40 + 2^21 shed + offset for a scratchpad (R272). Every command queue is named by its VFQ
number, 4 function + queue (R130). -/
namespace Sys2Proof.Machine

/-! ## Contexts -/

/-- What a sleeping context waits for (R108, R355). -/
inductive Wait
  /-- The sleeping instruction is tried again as a whole: its condition is its own test. -/
  | again (i : Instr)
  /-- A page fault of the instruction is with the supervisor gang (R355). -/
  | fault (referral : Nat)
  /-- `bar` waits for its episode (R316). -/
  | bar (d : BitVec 5) (episode : Nat)
  /-- `yard.cmt` before step 2 of R98 waits for its release; `ids` is the release set. -/
  | commitRelease (f : RR) (ids : List Nat)
  /-- `yard.cmt` is queued at the yard store for step 2 of R98. -/
  | commitQueued (f : RR)
  /-- `tlbinv` waits for its release (R345). -/
  | tlbinv (f : MF) (ids : List Nat)
  /-- `buoy.seal` waits for its release at recovery scope (R396). -/
  | seal (f : RR) (ids : List Nat) (image : List Word)
deriving DecidableEq, Repr

/-- The context states of R106. READY and STALLED are one constructor: which of the two holds in a cycle is computed
from the rest of the state (`State.isReady`). -/
inductive Mode
  | idle
  | ready
  | asleep (w : Wait)
  /-- Between the retirement of instruction LEN and the next block (R86). -/
  | blockEnd
  /-- In an EXIT action, `halt` or `stop`: waiting for the counters (R93, R104, R116). `notice` is the NV and NIDX of an
  EXIT action with NV = 1. -/
  | exiting (reason : BitVec 3) (notice : Option (BitVec 5))
  | retiring
  | halting
  | halted
deriving DecidableEq, Repr

/-- A context's hold on a table generation (R101). -/
structure Pin where
  table : BitVec 8
  gen : BitVec 16
  revoked : Bool
deriving DecidableEq, Repr

/-- The atomic and reduction operations of R311 and R312. -/
inductive AmoFn
  | add | and | or | xor | min | max | minu | maxu | swap | cas
deriving DecidableEq, Repr

/-- Where a read delivers its value (R304, R305, R306, R314). -/
inductive Dest
  /-- A scalar register: byte offset in the doubleword, size in bytes, sign extension. -/
  | x (d : BitVec 5) (off size : Nat) (sext : Bool)
  /-- Stored bytes of two doublewords into a vector register under a byte mask. -/
  | vraw (d : BitVec 5) (mask : BitVec 16)
  /-- Eight decoded elements (R305): format, scale format, group code, byte offset of the data in its doubleword, of the
  scale in its own, the slot copy taken at translation, and the hint and key slot of the scale's doublewords. -/
  | vdec (d : BitVec 5) (mask : BitVec 16) (fmt sc g : Nat) (doff soff : Nat) (slot : List (BitVec 16))
      (via : List (BitVec 2 × Nat))
deriving DecidableEq, Repr

/-- What a pending operation of a context is (R288, R300). -/
inductive OpKind
  /-- A pending read: the doublewords it reads and the values it has taken. -/
  | read (dst : Dest) (locs : List Nat) (got : Table Word) (acq : Bool)
  /-- A buffered write of the bytes of one doubleword, with its tag change, and its release set where it is a release. -/
  | write (loc : Nat) (mask : BitVec 8) (val : Word) (tag : Option Bool) (rel : Option (BitVec 3)) (set : List Nat)
  /-- A buffered change of a tag alone (R306). -/
  | tag (loc : Nat) (full : Bool)
  /-- A pending atomic: `ret` names the register, absent for a `red.*` taken as an atomic (R312); `done` is the old value
  once ATOMIC has been taken. -/
  | amo (fn : AmoFn) (loc off size : Nat) (b c : Word) (ret : Option (BitVec 5)) (scope : BitVec 3) (set : List Nat)
      (done : Option Word)
  /-- A buffered reduction (R312). -/
  | red (fn : AmoFn) (loc off size : Nat) (b : Word)
  /-- `yard.we` and `yard.wf` (R97). -/
  | yardEntry (table : BitVec 8) (index : BitVec 6) (value mask action : Word)
  | yardFallback (table : BitVec 8) (action : Word)
  /-- `flush` (false) and `inv` (true) on one line (R309). -/
  | line (inval : Bool) (loc : Nat) (scope : BitVec 3)
  /-- `ecc.inj` of KIND 0 (false) or 1 (true) (R365). -/
  | inject (poison : Bool) (loc : Nat)
deriving DecidableEq, Repr

/-- A pending operation. Operations with one `grp` are counted once together (R300). -/
structure Op where
  id : Nat
  grp : Nat
  hint : BitVec 2
  /-- The key slot of the page that it was translated through (R333, R339). -/
  key : Nat
  kind : OpKind
deriving DecidableEq, Repr

/-- A fence that a context has retired and whose effect may still hold moves (R289, R313). -/
structure Fence where
  id : Nat
  /-- 0 `fence`, 1 `fence.acq`, 2 `fence.rel`. -/
  kind : Nat
  scope : BitVec 3
  set : List Nat
deriving DecidableEq, Repr

/-- A read's observation of a release: the read's operation number, whether it is an acquire, and the writes of the
observed release set (R293, R295). -/
structure Seen where
  op : Nat
  acq : Bool
  set : List Nat
deriving DecidableEq, Repr

/-- What loads after a `waita` may have read before it (R314): M_q of the quarter as it stood at one of the wait's reads under what the
context had buffered, the writes then visible there, the register that the wait writes, and the doublewords that the wait reads and that
later loads have read since. -/
structure Ahead where
  mem : List Host.Cell
  vis : List Nat
  reg : BitVec 5
  /-- The operations of the window: those numbered from `start` on, and below `stop` once the window is closed. -/
  start : Nat
  stop : Option Nat
  read : List Nat
deriving DecidableEq, Repr

/-- A context: its registers (R46), system registers (R49), state (R106) and pending operations. -/
structure Ctx where
  mode : Mode
  /-- Location of the next instruction, in the layout of R45. -/
  pc : Word
  /-- Header word of the block being run (R40). -/
  hdr : Word
  x : Vector Word 32
  y0 : Word
  y1 : Word
  v : Vector Quad 32
  k : Vector (BitVec 16) 8
  c : Vector (BitVec 4) 4
  ld : BitVec 8
  st : BitVec 8
  cp : BitVec 8
  tl : BitVec 8
  tcause : BitVec 16
  tval : Word
  tpc : Word
  tyard : BitVec 8
  fstat : BitVec 5
  tinfo : BitVec 8
  cbase : Word
  cbound : Word
  /-- `CBASE` and `CBOUND` as they stood when the block being run was entered, which its fetches obey (R354). -/
  inBase : Word
  inBound : Word
  buoy : Vector Word 4
  /-- The context's own view of event bits 0 and 2 to 4 (R43); bit 1 is read from `AMAX`. -/
  event : BitVec 5
  pins : List Pin
  /-- Retirement-notice mailbox of a helper (R113, R115). -/
  notice : Option (BitVec 5)
  /-- Checker mismatches that the next retirements will take (R359, R365), and whether the instruction at `pc` did not
  commit and is to be issued again (R110). -/
  mismatch : Nat
  replay : Bool
  /-- The episode of a `bar` that did not commit at its end and is to be issued again: it has made its arrival (R110,
  R316). -/
  passed : Option Nat
  /-- Contexts of the core that must issue or stop being ready before this one issues (YIELD, `yield`). -/
  hold : List Nat
  ops : List Op
  fences : List Fence
  seen : List Seen
  ahead : Option Ahead
  /-- When the context fell asleep, for the service order of R124 and R306. -/
  since : Nat
  /-- The context reads through SROOT and may write S registers (R49, R331). -/
  sup : Bool
deriving DecidableEq, Repr

/-! ## Cores -/

/-- One mailbox register (R119), with LASTSRC (R362) and what the acceptance of its message releases (R122, R293). -/
structure Mailbox where
  data : Quad
  present : Bool
  err : Bool
  lastSrc : Option Nat
  set : List Nat
deriving DecidableEq, Repr

/-- A message on its way to or waiting at a core (R121, R149). Core numbers are the gang's logical ones (R18). -/
structure Message where
  mbox : BitVec 5
  data : Quad
  /-- Sender's logical core number and context number; a notice or a containment entry has no sender in `st`. -/
  srcCore : Nat
  srcCtx : Nat
  order : Nat
  /-- The messages that came to the port before it, and whether it is known to have come: a later message of its context has been
  accepted (R121). -/
  after : List Nat
  arrived : Bool
  /-- 0 message, 1 retirement notice, 2 error-tagged entry. -/
  kind : Nat
  /-- What must be complete before acceptance, at the narrowest scope that holds sender and target (R122). -/
  set : List Nat
  /-- The sender's st counts it: false once the sender was contained, or its context started again (R115, R361). -/
  counted : Bool
deriving DecidableEq, Repr

/-- What the commit that made a generation releases: the release set, the scope and the committing core (R98, R100). -/
structure YardRel where
  set : List Nat
  scope : BitVec 3
  core : Nat
deriving DecidableEq, Repr

/-- One generation of a yard table (R88): the entries that are not vacant, by index, as VALUE, MASK, ACTION, the fallback
action word, and the commit that made it. -/
structure YardGen where
  entries : Table (Word × Word × Word)
  fallback : Word
  rel : Option YardRel
  /-- The entries, 64 for the fallback, that are poisoned (R360). -/
  bad : List Nat
deriving DecidableEq, Repr

/-- One (table, generation) pair in a yard cache (R96). `asCurrent`: the core holds it as the current generation. -/
structure YardLine where
  table : BitVec 8
  gen : BitVec 16
  asCurrent : Bool
  copy : YardGen
deriving DecidableEq, Repr

/-- A cached translation (R335): function, root (true for SROOT), first address and size of the page, the two words of
the leaf. -/
structure TlbEntry where
  vf : Nat
  sup : Bool
  base : Nat
  size : Nat
  w0 : Word
  w1 : Word
deriving DecidableEq, Repr

/-- A step of the sequencer's operand registers (R229, R230). -/
structure SeqEntry where
  instr : Instr
  pc : Word
deriving DecidableEq, Repr

/-- The vector sequencer of a core (R111, R228 to R233). -/
structure Sequencer where
  owner : Option Nat
  recording : Bool
  /-- Traps of the owner, taken while it records, whose `eret` has not come (R229). -/
  suspended : Nat
  queue : List SeqEntry
  /-- Repetitions scheduled, the one in progress, the next queued instruction, and the steps per operand field. -/
  reps : Nat
  rep : Nat
  pos : Nat
  steps : Word
  /-- The next repetition did not commit and issues again (R110). -/
  replay : Bool
deriving DecidableEq, Repr

/-- Stored bytes of one doubleword: its virtual address and location, word 0 of its page's leaf, the value and the bytes. -/
structure Chunk where
  va : Word
  loc : Nat
  w0 : Word
  val : Word
  mask : BitVec 8
deriving DecidableEq, Repr

/-- A tile operation of an arithmetic core (R236 to R250). -/
structure TileOp where
  /-- 0 `tzero`, 1 `tmma`, 2 `gmma`, 3 `tdrain`, 4 `tdrain.coll` (the FUNC of R236). -/
  func : Nat
  ctx : Nat
  acc : BitVec 2
  atype : BitVec 4
  btype : BitVec 4
  d : Word
  a : Word
  b : Word
  c : Word
  started : Bool
  /-- Groups or rows finished (GDONE, ROWS; R244). -/
  done : Nat
  parked : Option Nat
  /-- Page classes found so far: element class of the operation, 0 for none yet (R234, R235). -/
  cls : Nat
  /-- FMT of the first page of each operand, once its first group is done (R235, R237, R238). -/
  fmtA : Nat
  fmtB : Nat
  flags : BitVec 5
  slots : Table (List (BitVec 16))
  /-- Checksum mismatches met on the current group or row (R246). -/
  mismatch : Nat
  /-- Its place in its context's program order, and the stores of the context that precede it (R243, R289). -/
  id : Nat
  before : List Nat
  /-- The parts of doublewords that a drained row shares with a later one, and which go out with it (R243). -/
  carry : List Chunk
  /-- `gmma`: the joined operation has begun (R248). -/
  joined : Bool
  /-- The leader's core for the shared A operand of a joined `gmma`. -/
  leader : Nat
  /-- The operation must be abandoned with this cause, TVAL and TINFO (R247, R248). -/
  abort : Option (BitVec 8 × Word × BitVec 8)
deriving DecidableEq, Repr

/-- A conversion in the conversion engine (R253 to R255). -/
structure CvtOp where
  ctx : Nat
  n : Nat
  scale : BitVec 32
  src : Word
  dst : Word
  srcType : BitVec 4
  ty : BitVec 4
  rnd : BitVec 3
  sat : Bool
  done : Nat
  parked : Option Nat
  flags : BitVec 5
  /-- Candidates for `AMAX`: the NaN mark and the largest magnitude (R254). -/
  candN : Bool
  candMag : BitVec 31
  /-- The conversion must be abandoned with this cause, TVAL and TINFO (R255). -/
  abort : Option (BitVec 8 × Word × BitVec 8)
  /-- Its place in its context's program order, and the stores of the context that precede it (R253, R289). -/
  id : Nat
  before : List Nat
  /-- The parts of doublewords that a unit shares with the next one, and which go out with it (R243, R253). -/
  carry : List Chunk
deriving DecidableEq, Repr

/-- The grammar engine of a conversion core (R258, R259). -/
structure Grammar where
  nstate : Nat
  start : Nat
  nclass : Nat
  vocab : Nat
  clstab : Word
  trtab : Word
  masktab : Word
  accept : Word
  state : Nat
  depth : Nat
  stack : Vector (BitVec 6) 8
  /-- The mask cache: chunk number (state * CHUNKS + q) to its 512 bits. -/
  cache : Table (BitVec 512)
deriving DecidableEq, Repr

/-- A handle of a collective on a core, with the core's member number there (R323). -/
structure Handle where
  coll : Nat
  member : Nat
deriving DecidableEq, Repr

/-- First-level line states (R275). -/
inductive L1State
  | s | e | m
deriving DecidableEq, Repr

/-- A first-level line: its state, and whether it stands at the lowest replacement priority (R281). -/
structure L1Line where
  state : L1State
  low : Bool
deriving DecidableEq, Repr

/-- A core (R20, R21, R46, R119). -/
structure Core where
  /-- Context that issued last (R109). -/
  ptr : Nat
  mbox : Vector Mailbox 32
  /-- Messages waiting at the core's port or still on their way to it, by arrival (R121). -/
  port : List Message
  seq : Sequencer
  /-- Who used the vector unit last: the sequencer (true) or a context; none once time has passed and the other side has not been waiting
  for it (R111). -/
  vecLast : Option Bool
  /-- What the scalar divider and the vector divider are computing: the number of the context in its core, and the registers that it will
write (R211, R213, R219). -/
  divider : Option (Nat × List Nat)
  vecDivider : Option (Nat × List Nat)
  yardCache : List YardLine
  /-- Words held by the instruction cache, by byte address (R54). -/
  icache : Table Word
  tlb : List TlbEntry
  /-- The first-level data cache by line: at most 2 MiB of lines (R20, R275). -/
  l1 : Table L1Line
  /-- Completion counters of a transfer core (R46, R317). -/
  cc : Vector (BitVec 32) 16
  /-- The writes whose FLAG each counter's increments release (R293). -/
  ccSet : Vector (List Nat) 16
  /-- `AMAX` and the conversion engine (R254, R255). -/
  amax : BitVec 32
  cvt : List CvtOp
  cvtRec : Word
  grammar : Option Grammar
  /-- Accumulators of an arithmetic core as cells that are not 0: 4096 tile + 64 row + column (R46). -/
  acc : Table (BitVec 32)
  z : BitVec 16
  rowprog : Word
  tiles : List TileOp
  /-- `bar` arrivals issued (R316) and `gmma` issued (R248) by this core in its gang. -/
  arrivals : Nat
  gmmas : Nat
  /-- Collectives started so far, by group. -/
  colls : Table Nat
  handles : Table Handle
  /-- Containment: the cause while the core is contained (R361 to R363). -/
  contained : Option Nat
  /-- `GTIME` of its containment (R362). -/
  containedAt : Word
  /-- Its restart: 0 not answered, 1 answered and the self-test due, 2 to be restarted (R363, R401). -/
  restart : Nat
  /-- Saved contexts and the saved sequencer held aside while an import block runs, and the import blocks still to run after it (R347). -/
  aside : List Ctx
  asideSeq : Sequencer
  imports : List Nat
deriving DecidableEq, Repr

/-! ## Sheds and gangs -/

/-- A shed's shared resources (R19, R46, R166). -/
structure Shed where
  gang : Option Nat
  sem : Vector (BitVec 16) 8
  /-- The writes whose release each semaphore's counts carry (R293). -/
  semSet : Vector (List Nat) 8
  /-- Codebook slots: 16 BF16 entries each (R195); an absent slot reads 16 zeros. -/
  slots : Table (List (BitVec 16))
  /-- Scratchpad tags that are full, by doubleword index (R273), and what the writes that set them release (R294). -/
  full : List Nat
  tagSet : Table (List Nat)
  rank : BitVec 32
  gangdim : BitVec 32
  tlb : List TlbEntry
  clkGrant : Word
  lastChange : Nat
  /-- Withdrawn from service (R363), or waiting for its scrub (R341). -/
  withdrawn : Bool
  scrub : Bool
deriving DecidableEq, Repr

/-- A commit queued at a yard table (R98): the committing context, the resident time of the gang when it arrived, its
scope and its release set. -/
structure Commit where
  ctx : Nat
  since : Nat
  scope : BitVec 3
  d : BitVec 5
  set : List Nat
  /-- Its context is held aside for an import block (R347): it waits again once the context resumes (R105), and `since` is meanwhile how long
  it had stood at step 2. -/
  aside : Bool
deriving DecidableEq, Repr

/-- A yard table (R88). -/
structure YardTable where
  cur : YardGen
  gen : BitVec 16
  retained : Option (BitVec 16 × YardGen)
  staging : YardGen
  trapt : Bool
  /-- Commits in the order they reached the yard store (R105). -/
  commits : List Commit
  /-- Cores whose cached copies of the previous generation are not yet invalidated (R98). -/
  stale : List Nat
deriving DecidableEq, Repr

/-- The gang states of R138, by their codes. -/
inductive GangState
  | waiting | ready | launching | resident | switching | saved | restoring | complete | failed
deriving DecidableEq, Repr

/-- A launch image (R155). -/
structure Image where
  gw : Nat
  gh : Nat
  firstT : BitVec 32
  firstC : BitVec 32
  firstA : BitVec 32
  trapyard : BitVec 8
  yards : List Word
  regs : List (Nat × Word)
  prefetch : List Word
  params : Word
  note : BitVec 32
  clkreq : BitVec 32
  cbase : Word
  cbound : Word
deriving DecidableEq, Repr

/-- An engine descriptor as read (R317). -/
structure EngDesc where
  dst : Word
  src : Word
  len : BitVec 32
  flags : BitVec 16
  peer : BitVec 16
  place : Word
  sig : Word
  sigval : Word
  aux : Word
  nidx : BitVec 32
  elem : BitVec 32
deriving DecidableEq, Repr

/-- An engine operation (R288, R297, R320). -/
structure EngOp where
  core : Nat
  ctx : Nat
  /-- FUNC of R318: 0 copy, 1 copy2, 2 get, 3 put, 4 puta, 5 wsig, 6 digest. -/
  func : Nat
  addr : Word
  desc : EngDesc
  /-- Far shed for PEER = 0. -/
  far : Nat
  moved : List Nat
  parked : List (Nat × Nat)
  /-- Writes of the context before it (R297), and the release set of its issue (R293). -/
  before : List Nat
  set : List Nat
  writes : List Nat
  /-- Digest: bytes absorbed so far, and whether one of them was poisoned (R360). -/
  hash : List Byte
  bad : Bool
  /-- Its remaining units are refused: the function that it targets was reset while its gang was saved (R342). -/
  refused : Bool
deriving DecidableEq, Repr

/-- What a shed's part of a save area holds (R148). -/
structure SavedShed where
  shed : Shed
  cores : List Core
  ctxs : List Ctx
  pad : List Host.Cell
  poison : List Nat
deriving DecidableEq, Repr

/-- A gang (R125, R138, R144, R153, R158). -/
structure Gang where
  vfq : Nat
  seq : BitVec 32
  state : GangState
  obj : Nat
  /-- RECIDX and PARAMS of its LAUNCH (R131), and the image built from them once the object is loaded (R155). -/
  recIdx : Nat
  params : Word
  image : Image
  /-- The LOAD that a LAUNCH waits for, by the number it got at acceptance (R133). -/
  waits : Option Nat
  /-- The LOAD of its object, by the number that it got at acceptance: which object the LAUNCH names (R344). -/
  load : Nat
  x0 : Nat
  y0 : Nat
  /-- Stamps for the orders of R141 and R142: when it became runnable and when it last started. -/
  runnable : Nat
  started : Nat
  /-- Ticks of its release, of its last grant change and spent resident since the release (R101, R165). -/
  releaseTick : Nat
  changeTick : Nat
  residentTicks : Nat
  clkreq : BitVec 32
  yards : Table YardTable
  /-- Barrier episodes completed (R316) and the releases carried by arrivals, by episode: each access with the context that arrived. -/
  episode : Nat
  arrived : Table (List (Nat × Nat))
  /-- Contained members by logical core number, and how many containments were not yet restarted (R363). -/
  lost : List Nat
  lostCount : Nat
  /-- By logical core number, the last barrier episode that completes without a restarted member (R401). -/
  skip : Table Nat
  /-- EPOCH of the last performed seal (R397). -/
  lastEpoch : Word
  openEvents : Nat
  /-- Timestamp T of a decided switch, and why it ends in a discard (R131, R144). -/
  switchAt : Option Nat
  discard : Bool
  /-- Activity counters (R170). -/
  activity : Vector Nat 7
  anchor : Word
  saved : List SavedShed
  /-- Its engine operations while it is saved (R145). -/
  engines : Table EngOp
  /-- Physical address of its save area (R149), and LAYOUT and FEATLIVE of the save header there (R148, R347). -/
  area : Option Nat
  layout : Nat
  featLive : Word
  /-- The status of its completion record while that waits for the gang's writes (R137). -/
  owed : Option Nat
  sup : Bool
  /-- Rows joined so far by row barrier, for `gmma` (R248): joined operations begun. -/
  joins : Table Nat
  /-- Regions, first and last byte + 1, that were freed by force since it was launched (R344). -/
  freed : List (Nat × Nat)
deriving DecidableEq, Repr

/-! ## The order machine -/

/-- A write of the order machine (R288). The entry's number is its operation's number. -/
structure WriteRec where
  /-- Context that issued it, for R137, and origin quarter. -/
  who : Nat
  org : Nat
  loc : Nat
  mask : BitVec 8
  val : Word
  tag : Option Bool
  /-- Order of its PERFORM. -/
  stamp : Nat
  /-- Quarters where it is visible, and quarters whose inbox holds it. -/
  vis : BitVec 4
  inbox : BitVec 4
  /-- Place in the coherence order once visible at home (R287). -/
  co : Option Nat
  /-- CP(w): the writes visible at the origin when it was performed. -/
  cp : List Nat
  /-- Release set where it is a release write, and whether an atomic wrote it (R293). -/
  rel : Option (List Nat)
  atom : Bool
  /-- Written by a `red.*` that was taken as an atomic (R312). -/
  redn : Bool
  /-- Made by MERGE (R288, R296), and the contexts whose reductions it includes. -/
  merged : Bool
  reds : List Nat
  durP : Bool
  durM : Bool
  poison : Bool
deriving DecidableEq, Repr

/-- A durable write that a die reset has lost before its copies had it (R299, R387): the bytes and their place in coherence order, the gang
that wrote them, and the quarters where they were in view. -/
structure LostWrite where
  loc : Nat
  mask : BitVec 8
  co : Nat
  gang : Nat
  vis : BitVec 4
deriving DecidableEq, Repr

/-- A commutative partial of one line in one quarter (R278): operation, element size in bytes, the partial doublewords by
location, and the contexts whose reductions each doubleword includes. -/
structure Partial where
  fn : AmoFn
  size : Nat
  dws : Table Word
  reds : Table (List Nat)
deriving DecidableEq, Repr

/-- Level-two line states (R276) of one quarter; I is an absent entry. -/
inductive L2State
  | s | o (core : Nat) | d | c | g
deriving DecidableEq, Repr

/-- A level-two line in one quarter (R276, R277). -/
structure L2Line where
  state : L2State
  /-- Shed whose slice holds it, when it is not the home slice: the home then keeps F. -/
  slice : Option Nat
  /-- The sheds that made its last requests, newest first, at most 16. -/
  asks : List Nat
  /-- The tick of its last move, and whether it stands at the lowest replacement priority (R277, R281). -/
  moved : Option Nat
  low : Bool
deriving DecidableEq, Repr

/-- A miss that a walker serves or that waits for one (R336): the core that made it and whether its access writes, and those that joined
it; and the sheds of the quarter for which the page was invalidated since it began, whose caches do not get its leaf (R345). -/
structure Walk where
  core : Nat
  wr : Bool
  joins : List (Nat × Bool)
  vf : Nat
  sup : Bool
  va : Nat
  table : Nat
  level : Nat
  w0 : Option Word
  discard : Bool
  barred : List Nat
deriving DecidableEq, Repr

/-- A member's part in a collective: its context number, descriptor address, buffer, the descriptor's second doubleword, the
contribution once read, the operations before it, its open referral, and whether that was refused (R322, R323). -/
structure Join where
  ctx : Nat
  addr : Word
  buf : Word
  word1 : Word
  contrib : Option (List (BitVec 32))
  /-- Its place in its context's program order, and the stores of the context that precede it (R289, R297). -/
  id : Nat
  before : List Nat
  parked : Option Nat
  refused : Bool
deriving DecidableEq, Repr

/-- A collective in progress (R322, R323). -/
structure Coll where
  group : Nat
  gang : Nat
  /-- Role of the members and how many of their collectives came before. -/
  role : Nat
  index : Nat
  /-- The packages and queues whose gangs are members, in member order. -/
  parts : List (BitVec 32 × Nat)
  /-- Members that have joined, and the values that `tdrain.coll` sent by element, by 2^16 gang + logical core number. -/
  joined : Table Join
  drained : Table (Table (BitVec 32))
  /-- Result: done, and the status for the waiters; the values, and the writes of the buffers. -/
  done : Option Word
  result : List (BitVec 32)
  writes : List Nat
deriving DecidableEq, Repr

/-- The order machine (R284). -/
structure Order where
  /-- M_q of the four quarters as byte cells: addresses rising, no cell equal to what an unlisted address reads as. -/
  mem : Vector (List Host.Cell) 4
  writes : Table WriteRec
  /-- Durable writes that die resets have lost, by their numbers: no seal that covers them, of their gang and of a context whose quarter had
  them in view, is made before they are written again (R299, R387, R396, R411). -/
  lost : Table LostWrite
  partials : Vector (Table Partial) 4
  engines : Table EngOp
  /-- Engine operations that have taken FLAG: the context and the writes, for its releases (R291, R292). -/
  flagged : Table (Nat × List Nat)
  colls : Table Coll
  /-- Primary and mirror copies of durable bytes, by primary physical address (R284, R385). -/
  prim : List Host.Cell
  mirr : List Host.Cell
  /-- Doublewords that an error has poisoned, with its place in coherence order (R360, R372). -/
  poison : Table Nat
  /-- Quarters whose layers 0 to 2 a die reset poisoned, with its place in coherence order (R299, R360). -/
  wiped : Vector (Option Nat) 4
  /-- Poisoned doublewords of primary and mirror copies (R388), and those with an injected correctable error (R365). -/
  badPrim : List Nat
  badMirr : List Nat
  soft : List Nat
  l2 : Vector (Table L2Line) 4
  /-- Lines of layers 0 to 2 written under DEC-TED (R173). -/
  ecc : List Nat
  /-- Misses of the translation caches in order of arrival (R336). -/
  walks : List Walk
  /-- The key that each written line of memory is encrypted under, and how often each key slot was given a new key (R339). -/
  keyed : Table Nat
  keyGen : Table Nat
deriving DecidableEq, Repr

/-! ## Functions, queues and the keeper -/

/-- A referral that is open (R355 to R357): the faulting work and its record. -/
structure Referral where
  vf : Nat
  va : Word
  detail : Word
  info : Word
  /-- 0 a context's instruction, 1 a tile operation, 2 a conversion, 3 an engine unit, 4 a containment. -/
  work : Nat
  key : Nat
  unit : Nat
  slot : Option Nat
  /-- The writes of doublewords 0 and 1 of its record, and whether doubleword 3 has been written (R356). -/
  head : List Nat
  written : Bool
  discard : Bool
deriving DecidableEq, Repr

/-- A loaded object (R80, R83, R344). -/
structure Obj where
  name : List Byte
  base : Nat
  size : Nat
  /-- Launch records as images with arena offsets; a record that breaks R155 is absent. -/
  records : List (Option Image)
  /-- Bits 0 to 63 of the required mask (R77). -/
  reqmask : Word
  /-- Bound bits, with the import block's address where the binding has one (R78). -/
  binds : List (Nat × Option Nat)
  /-- As an emulation object: the bits that it covers, its entry block and its import block (R78). -/
  covers : List Nat
  entry : Nat
  imports : Option Nat
  pending : Bool
  /-- The number that its LOAD got at acceptance (R133). -/
  loadId : Nat
deriving DecidableEq, Repr

/-- A virtual function (R331). -/
structure Vf where
  cfg : Option VfCfg
  paddock : Option Rect
  /-- A paddock that takes effect once the affected sheds are empty (R151). -/
  resize : Option (Option Rect)
  /-- No gang or load since its last reset (R342, R406). -/
  clean : Bool
  objs : Table Obj
  /-- Next fault-ring record (R356). -/
  ring : Nat
deriving DecidableEq, Repr

/-- What an accepted command is (R131). -/
inductive CmdKind
  | launch (gang : Nat)
  | load (obj : Nat) (image : List Byte)
  | unload (obj : Nat) (force : Bool)
  | stop
deriving DecidableEq, Repr

/-- An accepted command that is not complete (R132, R136). -/
structure Cmd where
  seq : BitVec 32
  flags : Byte
  depseq : BitVec 32
  depq : Byte
  tag : Word
  kind : CmdKind
  started : Bool
deriving DecidableEq, Repr

/-- A completion record (R134). -/
structure Completion where
  seq : BitVec 32
  status : BitVec 16
  vfq : BitVec 16
  tag : Word
  time : Word
  info : Word
  /-- The feature bit that a load status 3 names (R77); the spec gives it no place among the record's bytes. -/
  names : Option Nat
deriving DecidableEq, Repr

/-- A command queue (R129, R132, R169). -/
structure Queue where
  source : Option Nat
  cls : BitVec 2
  bulk : Bool
  expected : BitVec 32
  /-- How many commands have been accepted (R136). -/
  accepted : Nat
  cmds : List Cmd
  /-- Records sent so far, newest first (R132, R154). -/
  sent : List Completion
  budget : Nat
  period : Nat
  charge : Nat
  periodStart : Nat
  warned : Bool
  exhausted : Bool
  /-- The switch of its gangs still waits for a master (R154, R172). -/
  switchDue : Bool
  /-- Commands dropped unparsed (R129). -/
  dropped : Nat
deriving DecidableEq, Repr

/-- A reply of the keeper (R368): its completion record and the reply body. -/
structure Reply where
  record : Completion
  body : List Byte
deriving DecidableEq, Repr

/-- An error-log entry (R368). -/
structure LogEntry where
  time : Word
  kind : Nat
  cause : Nat
  qtr : Nat
  tier : Nat
  place : Nat
  addr : Word
  vfq : BitVec 16
deriving DecidableEq, Repr

/-- The keeper's RV32IMC processor and its 256 KiB of tightly coupled memory, as the bytes there that are not 0, at addresses below
262,144 (R14). -/
structure KeeperCpu where
  x : Vector (BitVec 32) 32
  pc : BitVec 32
  tcm : List Host.Cell
deriving DecidableEq, Repr

/-- A remote write that the source of a migration applied, as it is forwarded: its sequence number, its place and what it wrote (R346). A
scratchpad's place is that in the image of its gang. -/
structure RemoteWrite where
  seq : Nat
  loc : Nat
  val : Word
  tag : Option Bool
  /-- The key slot that it was written through (R339). -/
  slot : Nat
  poison : Bool
  /-- It reached a page, or a scratchpad whose gang was not saved yet, before the cut-over: the copy of the page or of the save area made after
  that holds it. -/
  early : Bool
deriving DecidableEq, Repr

/-- The pages of a function as the keeper copies them (R346): their bytes, the key slot of each line that has one, and the doublewords that
are poisoned. -/
structure PageCopy where
  bytes : List Host.Cell
  slots : Table Nat
  bad : List Nat
deriving DecidableEq, Repr

/-- A migration as its source holds it (R346): the pages as last copied, the recorded remote writes, oldest first, all of which are
forwarded from the cut-over on, and the tick of the cut-over. -/
structure Outgoing where
  copied : PageCopy
  writes : List RemoteWrite
  cutOver : Nat
deriving DecidableEq, Repr

/-- What has come from the source of a migration to its destination (R346): pages, save areas by the source's gang numbers, and
forwarded writes, oldest first, with the number of those already applied; and the first gang number that the save areas got here. -/
structure Incoming where
  pages : PageCopy
  areas : Table Gang
  writes : List RemoteWrite
  applied : Nat
  first : Nat
deriving DecidableEq, Repr

/-- A management command as the keeper carries it out (R367). -/
inductive Managed
  | ident (m : Mgmt) (sel : Byte)
  | attest (m : Mgmt) (nonce : List Byte)
  | bind (m : Mgmt) (b : BindBody)
  | paddock (m : Mgmt) (r : Option Rect)
  | vfcfg (m : Mgmt) (c : VfCfg)
  | vfreset (m : Mgmt) (release : Bool)
  | migrate (m : Mgmt) (phase : Nat)
  | tables (m : Mgmt) (t : TablesBody)
  | fwstage (m : Mgmt) (f : FwImage)
  | fwact (m : Mgmt) (force : Byte)
  | errlog (m : Mgmt)
  | layup (m : Mgmt) (b : LayupBody)
  | layupRestore (m : Mgmt) (b : LayupBody)
deriving DecidableEq, Repr

/-- The keeper (R14, R367 to R371). -/
structure Keeper where
  cpu : KeeperCpu
  /-- The keeper is lost (R369). -/
  lost : Bool
  /-- The management source and the operator's key (R367). -/
  source : Nat
  replies : List Reply
  log : List LogEntry
  lostEntries : Nat
  corrected : Nat
  uncorrectable : Nat
  containments : Nat
  staged : Option FwImage
  active : FwImage
  minEpoch : Nat
  identity : List Byte
  manufacturing : List Byte
  /-- Migrations and their phase, by function (R346), and a paused parser (R405). -/
  migrating : Table Nat
  outgoing : Table Outgoing
  incoming : Table Incoming
  paused : Bool
  /-- The function that was last given each key slot (R339). -/
  keyOwner : Table Nat
  /-- What lay-ups wrote to the target, by its byte offset, the key under which each line there is encrypted, and `GTIME` at step 2 of the
  one in progress (R405). -/
  layup : List Host.Cell
  layKeyed : Table Nat
  layAt : Option Nat
  /-- Management commands that wait, in order: for the keeper's return (R369), for a master (R154), for the end of a containment (R372). -/
  waiting : List Managed
deriving DecidableEq, Repr

/-- The master front end (R153). -/
structure Master where
  front : Nat
  /-- False from the reset of the master's die to the handover (R154). -/
  ready : Bool
deriving DecidableEq, Repr

/-- The clock arbiter (R159 to R168). -/
structure Power where
  rows : List RowPoint
  qtrs : List QtrPoint
  /-- Points that rows and quarters still run at and that a table loaded since does not hold; their entries follow the table's. -/
  keptRows : List RowPoint
  keptQtrs : List QtrPoint
  statics : Nat
  coeffs : Table Nat
  capA : Nat
  capB : Nat
  capC : Nat
  capsel : BitVec 2
  /-- Current entry of each shed row (by 16 quarter + row) and of each quarter. -/
  rowEntry : Table Nat
  qtrEntry : Table Nat
  /-- Transitions in progress: start tick and old entry, by the same keys (R161, R165). -/
  rowMove : Table (Nat × Nat)
  qtrMove : Table (Nat × Nat)
  /-- The ticks at which deferred changes become allowed, rising: each brings an evaluation (R165). -/
  deferred : List Nat
  evaluate : Bool
deriving DecidableEq, Repr

/-- A quarter: its die, its lighthouse layer and its ports (R11, R128, R364, R389). -/
structure Quarter where
  up : Bool
  inService : Bool
  resync : Bool
  drops : Vector Nat 4
  /-- The copy of the scheduler journal in its lighthouse domain, newest first, as kind, subject and value (R153). -/
  journal : List (Nat × Nat × Nat)
deriving DecidableEq, Repr

/-! ## The schedule, and the package -/

/-- Which agent moves next. The spec leaves the order of moves open (R285); the state lists it. -/
inductive Turn
  | issue (core : Nat)
  | event (i : Instr)
  | tick (n : Nat)
  | tile (core : Nat)
  | convert (core : Nat)
  | command (vfq : Nat)
  /-- The keeper's processor runs an instruction; the keeper is lost; it is back, or takes up the commands that wait; a command that has waited
  (R154, R369, R372). -/
  | keeper
  | keeperLost
  | keeperBack
  | managed (c : Managed)
deriving DecidableEq, Repr

/-- A whole package. -/
structure State where
  /-- The schedule still to run and, when it is empty, how many free turns were taken (assumption 2). -/
  turns : List Turn
  turnNo : Nat
  /-- The context whose instruction is executing. -/
  cur : Nat
  /-- The global tick counter behind `GTIME` (R9, R49). -/
  now : Nat
  /-- The next operation number, coherence place and order stamp. -/
  next : Nat
  /-- How many free values have been taken. -/
  free : Nat
  /-- TB-4Q (true) or TB-2Q (false) (R1, R5). -/
  four : Bool
  ctxs : Table Ctx
  cores : Table Core
  sheds : Table Shed
  gangs : Table Gang
  ord : Order
  vfs : Table Vf
  queues : Table Queue
  refs : Table Referral
  keeper : Keeper
  master : Master
  power : Power
  quarters : Vector Quarter 4
deriving DecidableEq, Repr

/-- Why the machine stops. -/
inductive Fault
  /-- Raised by the step's fetch when a context's location names no byte of the address space (R270). Safe: the spec
  gives such a byte no content. -/
  | fetchOutsideMemory (addr : Nat)
deriving DecidableEq, Repr

/-- Why the model gives no meaning. -/
inductive Refusal
  /-- Raised by `exec` for an instruction that the model has not reached. Safe: no claim holds of its result. -/
  | notModelled (mnemonic : String)
deriving DecidableEq, Repr

/-! ## Reset -/

/-- A context as R48 and R115 start it: every register 0 but k0. -/
def Ctx.reset : Ctx where
  mode := .idle
  pc := 0
  hdr := 0
  x := Vector.replicate 32 0
  y0 := 0
  y1 := 0
  v := Vector.replicate 32 0
  k := (Vector.replicate 8 0).set 0 0xFFFF
  c := Vector.replicate 4 0
  ld := 0
  st := 0
  cp := 0
  tl := 0
  tcause := 0
  tval := 0
  tpc := 0
  tyard := 0
  fstat := 0
  tinfo := 0
  cbase := 0
  cbound := 0
  inBase := 0
  inBound := 0
  buoy := Vector.replicate 4 0
  event := 0
  pins := []
  notice := none
  mismatch := 0
  replay := false
  passed := none
  hold := []
  ops := []
  fences := []
  seen := []
  ahead := none
  since := 0
  sup := false

/-- Context k where nothing has run on its core: a helper is IDLE, and the control context, which is never IDLE, has
finished (R106). -/
def Ctx.start (k : Nat) : Ctx := if k % 11 = 0 then { Ctx.reset with mode := .halted } else .reset

/-- An empty mailbox (R119). -/
def Mailbox.reset : Mailbox := { data := 0, present := false, err := false, lastSrc := none, set := [] }

/-- A sequencer that no context owns. -/
def Sequencer.reset : Sequencer :=
  { owner := none, recording := false, suspended := 0, queue := [], reps := 0, rep := 1, pos := 0, steps := 0,
    replay := false }

/-- A core as a gang launch leaves it (R109, R119, R125, R244, R254, R258). -/
def Core.reset : Core where
  ptr := 10
  mbox := Vector.replicate 32 .reset
  port := []
  seq := .reset
  vecLast := none
  divider := none
  vecDivider := none
  yardCache := []
  icache := []
  tlb := []
  l1 := []
  cc := Vector.replicate 16 0
  ccSet := Vector.replicate 16 []
  amax := 0
  cvt := []
  cvtRec := 0
  grammar := none
  acc := []
  z := 0
  rowprog := 0
  tiles := []
  arrivals := 0
  gmmas := 0
  colls := []
  handles := []
  contained := none
  containedAt := 0
  restart := 0
  aside := []
  asideSeq := .reset
  imports := []

/-- A shed that no gang occupies (R125, R195). -/
def Shed.reset : Shed where
  gang := none
  sem := Vector.replicate 8 0
  semSet := Vector.replicate 8 []
  slots := []
  full := []
  tagSet := []
  rank := 0
  gangdim := 0
  tlb := []
  clkGrant := 0
  lastChange := 0
  withdrawn := false
  scrub := false

/-- A generation with every entry vacant and fallback NONE (R88). -/
def YardGen.vacant : YardGen := { entries := [], fallback := 0, rel := none, bad := [] }

/-- A table of a new gang (R88). -/
def YardTable.reset : YardTable where
  cur := .vacant
  gen := 0
  retained := none
  staging := .vacant
  trapt := false
  commits := []
  stale := []

/-- An image that no record has filled (R155). -/
def Image.reset : Image where
  gw := 1
  gh := 1
  firstT := 0xFFFFFFFF
  firstC := 0xFFFFFFFF
  firstA := 0xFFFFFFFF
  trapyard := 0
  yards := []
  regs := []
  prefetch := []
  params := 0
  note := 0
  clkreq := 0
  cbase := 0
  cbound := 0

/-- A gang that a LAUNCH has just made (R138). -/
def Gang.reset : Gang where
  vfq := 0
  seq := 0
  state := .waiting
  obj := 0
  recIdx := 0
  params := 0
  image := .reset
  waits := none
  load := 0
  x0 := 0
  y0 := 0
  runnable := 0
  started := 0
  releaseTick := 0
  changeTick := 0
  residentTicks := 0
  clkreq := 0
  yards := []
  episode := 0
  arrived := []
  lost := []
  lostCount := 0
  skip := []
  lastEpoch := 0
  openEvents := 0
  switchAt := none
  discard := false
  activity := Vector.replicate 7 0
  anchor := 0
  saved := []
  engines := []
  area := none
  layout := 1
  featLive := 0
  owed := none
  sup := false
  joins := []
  freed := []

/-- The order machine before any move (R284). -/
def Order.reset : Order where
  mem := Vector.replicate 4 []
  writes := []
  lost := []
  partials := Vector.replicate 4 []
  engines := []
  flagged := []
  colls := []
  prim := []
  mirr := []
  poison := []
  wiped := Vector.replicate 4 none
  badPrim := []
  badMirr := []
  soft := []
  l2 := Vector.replicate 4 []
  ecc := []
  walks := []
  keyed := []
  keyGen := []

/-- A function that no VFCFG has configured (R331). -/
def Vf.reset : Vf := { cfg := none, paddock := none, resize := none, clean := true, objs := [], ring := 0 }

/-- A queue that no BIND has bound: no budget and the default period (R129, R160, R169). -/
def Queue.reset : Queue where
  source := none
  cls := 0
  bulk := false
  expected := 0
  accepted := 0
  cmds := []
  sent := []
  budget := 0
  period := 1000000
  charge := 0
  periodStart := 0
  warned := false
  exhausted := false
  switchDue := false
  dropped := 0

/-- The tables of an image that chooses none. -/
def noTables : TablesBody := { rows := none, qtrs := none, statics := none, coeffs := none, caps := none, budgets := [] }

/-- A firmware image with nothing in it. -/
def noImage : FwImage := { manifest := [], epoch := 0, layouts := [1], tables := noTables, code := [], rest := [], sig := [] }

/-- The keeper after package reset. -/
def Keeper.reset : Keeper where
  cpu := { x := Vector.replicate 32 0, pc := 0, tcm := [] }
  lost := false
  source := 0
  replies := []
  log := []
  lostEntries := 0
  corrected := 0
  uncorrectable := 0
  containments := 0
  staged := none
  active := noImage
  minEpoch := 0
  identity := List.replicate 128 0
  manufacturing := List.replicate 128 0
  migrating := []
  outgoing := []
  incoming := []
  paused := false
  keyOwner := []
  layup := []
  layKeyed := []
  layAt := none
  waiting := []

/-- The master front end after package reset (R153). -/
def Master.reset : Master := { front := 0, ready := true }

/-- The arbiter after package reset: the floor entries that every table holds, and the default caps of a TB-4Q (R159,
R160, R162). -/
def Power.reset : Power where
  rows := [{ m := 4, v := 4, power := 0 }]
  qtrs := [{ n := 4, y := 4, power := 0, ecc := false }]
  statics := 0
  coeffs := []
  capA := 1500000
  capB := 1200000
  capC := 900000
  capsel := 0
  rowEntry := []
  qtrEntry := []
  rowMove := []
  qtrMove := []
  keptRows := []
  keptQtrs := []
  deferred := []
  evaluate := false

/-- A quarter in service. -/
def Quarter.reset : Quarter := { up := true, inService := true, resync := false, drops := Vector.replicate 4 0, journal := [] }

/-- The package right after reset: no gang, no object, nothing written (R9, R48, R153, R160, R284). -/
def State.reset : State where
  turns := []
  turnNo := 0
  cur := 0
  now := 0
  next := 1
  free := 0
  four := true
  ctxs := []
  cores := []
  sheds := []
  gangs := []
  ord := .reset
  vfs := []
  queues := []
  refs := []
  keeper := .reset
  master := .reset
  power := .reset
  quarters := Vector.replicate 4 .reset

end Sys2Proof.Machine
end

