-- ==== Sys2Proof/Machine/Access.lean ====
section
/-! DEFINITION. Where each part of the state lives, and the accessors through which every register is read and
written. -/
namespace Sys2Proof

/-- Is a grid position inside a rectangle (R140)? -/
def Rect.has (r : Rect) (x y : Int) : Bool :=
  decide (r.x ≤ x) && decide (x < r.x + r.w) && decide (r.y ≤ y) && decide (y < r.y + r.h)
/-- Sheds of a rectangle, row by row. -/
def Rect.sheds (r : Rect) : List Nat :=
  (List.range (r.w * r.h)).map fun i => 16 * (r.y + i / r.w) + (r.x + i % r.w)

end Sys2Proof

namespace Sys2Proof.Machine

/-! ## Numbers of parts (R16, R18, R20) -/

def coreOfCtx (k : Nat) : Nat := k / 11
def ctxNo (k : Nat) : Nat := k % 11
def shedOfCore (c : Nat) : Nat := c / 3
def roleOf (c : Nat) : Nat := c % 3
def shedOfCtx (k : Nat) : Nat := k / 33
def shedX (d : Nat) : Nat := d % 16
def shedY (d : Nat) : Nat := d / 16
def shedAt (x y : Nat) : Nat := 16 * y + x
def qtrOfShed (d : Nat) : Nat := shedX d / 8 + 2 * (shedY d / 8)
def qtrOfCore (c : Nat) : Nat := qtrOfShed (shedOfCore c)
def qtrOfCtx (k : Nat) : Nat := qtrOfShed (shedOfCtx k)
/-- Number of quarters (R1, R11) and of logical rows (R16). -/
def State.nq (s : State) : Nat := if s.four then 4 else 2
def State.rowsN (s : State) : Nat := if s.four then 16 else 8
/-- Mirror partner of a quarter (R12). -/
def partner (q : Nat) : Nat := if q % 2 = 0 then q + 1 else q - 1

/-! ## Reading and writing the parts -/

def State.ctx (s : State) (k : Nat) : Ctx := s.ctxs.getD k (Ctx.start k)
def State.setCtx (s : State) (k : Nat) (c : Ctx) : State := { s with ctxs := s.ctxs.put k c }
def State.updCtx (s : State) (k : Nat) (f : Ctx → Ctx) : State := s.setCtx k (f (s.ctx k))
def State.core (s : State) (k : Nat) : Core := s.cores.getD k .reset
def State.setCore (s : State) (k : Nat) (c : Core) : State := { s with cores := s.cores.put k c }
def State.updCore (s : State) (k : Nat) (f : Core → Core) : State := s.setCore k (f (s.core k))
def State.shed (s : State) (k : Nat) : Shed := s.sheds.getD k .reset
def State.setShed (s : State) (k : Nat) (c : Shed) : State := { s with sheds := s.sheds.put k c }
def State.updShed (s : State) (k : Nat) (f : Shed → Shed) : State := s.setShed k (f (s.shed k))
def State.gang (s : State) (k : Nat) : Gang := s.gangs.getD k .reset
def State.setGang (s : State) (k : Nat) (c : Gang) : State := { s with gangs := s.gangs.put k c }
def State.updGang (s : State) (k : Nat) (f : Gang → Gang) : State := s.setGang k (f (s.gang k))
def State.vf (s : State) (k : Nat) : Vf := s.vfs.getD k .reset
def State.setVf (s : State) (k : Nat) (c : Vf) : State := { s with vfs := s.vfs.put k c }
def State.updVf (s : State) (k : Nat) (f : Vf → Vf) : State := s.setVf k (f (s.vf k))
def State.queue (s : State) (k : Nat) : Queue := s.queues.getD k .reset
def State.setQueue (s : State) (k : Nat) (c : Queue) : State := { s with queues := s.queues.put k c }
def State.updQueue (s : State) (k : Nat) (f : Queue → Queue) : State := s.setQueue k (f (s.queue k))
def State.updOrd (s : State) (f : Order → Order) : State := { s with ord := f s.ord }

/-- The executing context. -/
def State.me (s : State) : Ctx := s.ctx s.cur
def State.updMe (s : State) (f : Ctx → Ctx) : State := s.updCtx s.cur f
def State.myCore (s : State) : Nat := coreOfCtx s.cur
def State.myShed (s : State) : Nat := shedOfCtx s.cur
def State.myQtr (s : State) : Nat := qtrOfCtx s.cur
def State.myRole (s : State) : Nat := roleOf s.myCore

/-- The gang that occupies a shed (R125). -/
def State.gangOfShed (s : State) (d : Nat) : Option Nat := (s.shed d).gang
def State.gangOfCore (s : State) (c : Nat) : Option Nat := s.gangOfShed (shedOfCore c)
/-- Number of the gang of the executing context; 0 names no gang. -/
def State.myGang (s : State) : Nat := (s.gangOfShed s.myShed).getD 0
/-- Virtual function of a queue number (R130). -/
def vfOf (vfq : Nat) : Nat := vfq / 4
def State.myVf (s : State) : Nat := vfOf (s.gang s.myGang).vfq

/-- Sheds of a gang's rectangle, by rank (R18). -/
def Gang.sheds (g : Gang) : List Nat :=
  (List.range (g.image.gw * g.image.gh)).map fun r => shedAt (g.x0 + r % g.image.gw) (g.y0 + r / g.image.gw)
/-- Cores of a gang by logical core number (R18). -/
def Gang.cores (g : Gang) : List Nat := g.sheds.flatMap fun d => [3 * d, 3 * d + 1, 3 * d + 2]
/-- Contexts of a core. -/
def ctxsOfCore (c : Nat) : List Nat := (List.range 11).map fun i => 11 * c + i
/-- Contexts of a gang. -/
def Gang.ctxs (g : Gang) : List Nat := g.cores.flatMap ctxsOfCore
/-- Rank of a shed in a gang, and logical number of a core (R18). -/
def Gang.rankOf (g : Gang) (d : Nat) : Nat := (shedY d - g.y0) * g.image.gw + (shedX d - g.x0)
def Gang.lcore (g : Gang) (c : Nat) : Nat := 3 * g.rankOf (shedOfCore c) + roleOf c
/-- Core with a logical number in a gang. -/
def Gang.coreOf (g : Gang) (n : Nat) : Nat :=
  3 * shedAt (g.x0 + (n / 3) % g.image.gw) (g.y0 + (n / 3) / g.image.gw) + n % 3
/-- Is the shed inside the gang's rectangle? -/
def Gang.has (g : Gang) (x y : Int) : Bool :=
  decide (g.x0 ≤ x) && decide (x < g.x0 + g.image.gw) && decide (g.y0 ≤ y) && decide (y < g.y0 + g.image.gh)
/-- Does an address lie in a region freed by force (R344)? -/
def Gang.gone (g : Gang) (a : Nat) : Bool := g.freed.any fun r => decide (r.1 ≤ a) && decide (a < r.2)
/-- The states in which a context is live (R106: its helper-live bit reads 1). -/
def Mode.live : Mode → Bool
  | .ready | .asleep _ | .blockEnd | .exiting _ _ => true
  | .idle | .retiring | .halting | .halted => false

/-! ## Registers (R26, R46) -/

/-- x0 reads 0. -/
def Ctx.rx (c : Ctx) (r : BitVec 5) : Word := if r = 0 then 0 else c.x[r.toNat]
/-- Writes to x0 are discarded. -/
def Ctx.wx (c : Ctx) (r : BitVec 5) (w : Word) : Ctx :=
  if r = 0 then c else { c with x := c.x.set r.toNat w }
def Ctx.rv (c : Ctx) (r : BitVec 5) : Quad := c.v[r.toNat]
def Ctx.wv (c : Ctx) (r : BitVec 5) (w : Quad) : Ctx := { c with v := c.v.set r.toNat w }
/-- The low three bits of a field that names a mask register (R26). -/
def low3 (r : BitVec 5) : BitVec 3 := r.setWidth 3
/-- k0 reads all ones. -/
def Ctx.rk (c : Ctx) (r : BitVec 3) : BitVec 16 := if r = 0 then 0xFFFF else c.k[r.toNat]
/-- Writes to k0 are discarded. -/
def Ctx.wk (c : Ctx) (r : BitVec 3) (w : BitVec 16) : Ctx :=
  if r = 0 then c else { c with k := c.k.set r.toNat w }
def low2 (r : BitVec 5) : BitVec 2 := r.setWidth 2
def Ctx.rc (c : Ctx) (r : BitVec 2) : BitVec 4 := c.c[r.toNat]
def Ctx.wc (c : Ctx) (r : BitVec 2) (w : BitVec 4) : Ctx := { c with c := c.c.set r.toNat w }

def State.rx (s : State) (r : BitVec 5) : Word := s.me.rx r
def State.wx (s : State) (r : BitVec 5) (w : Word) : State := s.updMe (·.wx r w)
def State.rv (s : State) (r : BitVec 5) : Quad := s.me.rv r
def State.wv (s : State) (r : BitVec 5) (w : Quad) : State := s.updMe (·.wv r w)
def State.rk (s : State) (r : BitVec 3) : BitVec 16 := s.me.rk r
def State.wk (s : State) (r : BitVec 3) (w : BitVec 16) : State := s.updMe (·.wk r w)
def State.rc (s : State) (r : BitVec 2) : BitVec 4 := s.me.rc r
def State.wc (s : State) (r : BitVec 2) (w : BitVec 4) : State := s.updMe (·.wc r w)
/-- Sticky flags are only ever set (R189). -/
def State.orFlags (s : State) (f : BitVec 5) : State := s.updMe fun c => { c with fstat := c.fstat ||| f }

/-! ## Locations of the program (R45) -/

def pcIndex (pc : Word) : Nat := (pc.extractLsb' 56 8).toNat
/-- Byte address of the header that a location names. -/
def pcBlock (pc : Word) : Nat := (pc.extractLsb' 3 53).toNat * 8
def mkPc (index block : Nat) : Word :=
  (BitVec.ofNat 8 index ++ (BitVec.ofNat 64 block).extractLsb' 3 53 ++ (0 : BitVec 3) : BitVec 64)
/-- LEN, TABLE, W and P of a header (R41). -/
def hdrLen (h : Word) : Nat := (h.extractLsb' 48 8).toNat
def hdrTable (h : Word) : BitVec 8 := h.extractLsb' 40 8
def hdrW (h : Word) : Bool := h.getLsbD 1
def hdrP (h : Word) : Bool := h.getLsbD 0
/-- Key field i of a header: SRC and WC (R41, R42). -/
def hdrKey (h : Word) (i : Nat) : BitVec 8 := h.extractLsb' (32 - 8 * i) 8
def keySrc (f : BitVec 8) : Nat := (f.extractLsb' 3 5).toNat
def keyWc (f : BitVec 8) : Nat := (f.extractLsb' 0 3).toNat
/-- The header check of R40, R41 and R42. -/
def headerOk (h : Word) : Bool :=
  h.extractLsb' 56 8 = (0xFE : BitVec 8) && h.extractLsb' 2 6 = (0 : BitVec 6) &&
  (List.range 4).all fun i => keySrc (hdrKey h i) ≠ 31 || keyWc (hdrKey h i) = 0

/-- The next fresh number of the package. -/
def State.tickNext (s : State) : State := { s with next := s.next + 1 }

end Sys2Proof.Machine
end

