-- ==== Sys2Proof/Machine/Mem.lean ====
section
/-! DEFINITION. The order machine's places and the conditions of its moves (R284 to R299). -/
namespace Sys2Proof.Machine

/-! ## Locations (R270, R272, R286, R287) -/

def dwordOf (a : Nat) : Nat := a / 8 * 8
/-- First location of scratchpads. -/
def padBase : Nat := 2 ^ 40
def isPad (loc : Nat) : Bool := decide (padBase ≤ loc)
/-- Location of a scratchpad byte of a shed. -/
def padLoc (shed off : Nat) : Nat := padBase + Config.padBytes * shed + off
def padShed (loc : Nat) : Nat := (loc - padBase) / Config.padBytes
def padIndex (loc : Nat) : Nat := (loc - padBase) % Config.padBytes / 8
def physQtr (a : Nat) : Nat := a / 2 ^ 38 % 4
def physLayer (a : Nat) : Nat := a / 2 ^ 36 % 4
def physOff (a : Nat) : Nat := a % 2 ^ 36
/-- Home quarter (R287). -/
def home (loc : Nat) : Nat := if isPad loc then qtrOfShed (padShed loc) else physQtr loc
/-- Does the byte exist (R270)? -/
def State.exists_ (s : State) (a : Nat) : Bool :=
  decide (a < 2 ^ 40) && decide (physOff a < Config.layerBytes) && decide (physQtr a < s.nq)
/-- Is the location durable: in the primary part of a layer 3 (R271, R385)? -/
def isDurable (loc : Nat) : Bool :=
  !isPad loc && decide (physLayer loc = 3) && decide (physOff loc < Config.primaryBytes)
def lineOf (loc : Nat) : Nat := loc / 64 * 64

/-! ## Quarter memories and visible sets -/

def qbit (q : Nat) : BitVec 4 := BitVec.ofNat 4 (2 ^ q)
/-- M_q (R284). -/
def State.memQ (s : State) (q : Nat) : Memory := s.ord.mem[q % 4]'(Nat.mod_lt _ (by decide))
def State.setMemQ (s : State) (q : Nat) (m : Memory) : State :=
  { s with ord := { s.ord with mem := s.ord.mem.set (q % 4) m (Nat.mod_lt _ (by decide)) } }
/-- The doubleword that M_q holds. -/
def State.readQ (s : State) (q loc : Nat) : Word := (s.memQ q).dword loc
/-- One byte as M_q holds it, for frames. -/
def State.byteQ (s : State) (q a : Nat) : Byte := (s.memQ q).get a
/-- VIS(q) (R284). -/
def State.vis (s : State) (q : Nat) : List Nat :=
  (s.ord.writes.filter fun e => e.2.vis.getLsbD q).map (·.1)
def State.writeAt (s : State) (id : Nat) : Option WriteRec := s.ord.writes.get? id
def State.setWrite (s : State) (id : Nat) (w : WriteRec) : State :=
  { s with ord := { s.ord with writes := s.ord.writes.put id w } }
/-- Does a context still hold an operation whose write, reduction or atomic has not been taken? -/
def OpKind.unwritten : OpKind → Bool
  | .write _ _ _ _ _ _ => true
  | .red _ _ _ _ _ => true
  | .amo _ _ _ _ _ _ _ _ _ none => true
  | _ => false

/-! ## Members of collectives (R323) -/

/-- Member number of a core of a gang. -/
def memberKey (gang lcore : Nat) : Nat := 2 ^ 16 * gang + lcore
def memberGang (key : Nat) : Nat := key / 2 ^ 16
/-- The core that a member is now. -/
def State.memberCore (s : State) (key : Nat) : Nat := (s.gang (memberGang key)).coreOf (key % 2 ^ 16)
/-- The collective in which an access is a member's part. -/
def State.collOf (s : State) (id : Nat) : Option Coll := (s.ord.colls.find? fun e => e.2.joined.any fun j => j.2.id == id).map (·.2)
/-- Is a member's part that of context k, whose gang is on its sheds? -/
def State.partOf (s : State) (k : Nat) (j : Nat × Join) : Bool :=
  decide (11 * s.memberCore j.1 + j.2.ctx = k) && decide (s.gangOfCore (coreOfCtx k) = some (memberGang j.1))
/-- The parts of context k in collectives. -/
def State.partsOf (s : State) (k : Nat) : List Nat :=
  s.ord.colls.flatMap fun e => e.2.joined.filterMap fun j => if s.partOf k j then some j.2.id else none

/-! ## What has landed (R295) -/

/-- Has every write of a release set become visible at q, and every reduction of it been taken (R295)? -/
def State.landed (s : State) (q : Nat) (ids : List Nat) : Bool :=
  ids.all fun i => !(s.ctxs.any fun e => e.2.ops.any fun o => o.id == i && o.kind.unwritten) &&
    match s.writeAt i with
    | none => true
    | some w => w.vis.getLsbD q
/-- Is every listed write, if it still exists, visible at q? -/
def State.allVis (s : State) (q : Nat) (ids : List Nat) : Bool :=
  ids.all fun i => match s.writeAt i with
    | none => true
    | some w => w.vis.getLsbD q

/-- Sets or clears one scratchpad tag (R273). -/
def State.setTag (s : State) (loc : Nat) (full : Bool) : State :=
  s.updShed (padShed loc) fun d =>
    { d with full := if full then natInsert d.full (padIndex loc) else d.full.filter (· ≠ padIndex loc) }
def State.tag (s : State) (loc : Nat) : Bool := (s.shed (padShed loc)).full.contains (padIndex loc)

/-! ## Partials (R278, R296) -/

def State.partialsQ (s : State) (q : Nat) : Table Partial := s.ord.partials[q % 4]'(Nat.mod_lt _ (by decide))
/-- Does some quarter hold a partial of the doubleword? -/
def State.hasPartial (s : State) (loc : Nat) : Bool :=
  (List.range 4).any fun q => match (s.partialsQ q).get? (lineOf loc) with
    | none => false
    | some p => (p.dws.get? loc).isSome
/-- The merge write of a location that is latest in coherence order. -/
def State.lastMerge (s : State) (loc : Nat) : Option WriteRec :=
  s.ord.writes.foldl (fun best e =>
    if e.2.merged && e.2.loc == loc then
      match best with
      | none => some e.2
      | some b => if b.co.getD 0 < e.2.co.getD 0 then some e.2 else best
    else best) none
/-- The rule for reductions that a move touching `loc` at quarter q must meet (R296). -/
def State.redsSettled (s : State) (q loc : Nat) : Bool :=
  !s.hasPartial loc && match s.lastMerge loc with
    | none => true
    | some m => m.vis.getLsbD q

/-! ## Poison (R299, R360, R372) -/

/-- Does quarter q hold a write of the whole doubleword that comes after a place in coherence order? Its own write that has not
reached its home yet counts as later. -/
def State.rewritten (s : State) (q loc place : Nat) : Bool :=
  s.ord.writes.any fun e => e.2.loc == loc && e.2.mask == 0xFF && !e.2.poison && e.2.vis.getLsbD q &&
    match e.2.co with
    | none => e.2.org == q
    | some c => decide (place < c)
/-- Was a line left by a former owner of its key slot, so that it reads without an error (R339)? -/
def State.foreign (s : State) (loc : Nat) : Bool :=
  !isPad loc && match s.ord.keyed.get? (lineOf loc) with
    | none => false
    | some k => k ≠ 128 * s.ord.keyGen.getD (k % 128) 0 + k % 128
/-- The places of what has poisoned a doubleword: an error found there or injected, the reset of its die, a poisoned write that is
visible at q. -/
def State.poisonings (s : State) (q loc : Nat) : List Nat :=
  if s.foreign loc then [] else
  (s.ord.poison.get? loc).toList ++
  (if isPad loc || 3 ≤ physLayer loc then [] else (s.ord.wiped[physQtr loc % 4]'(Nat.mod_lt _ (by decide))).toList) ++
  s.ord.writes.filterMap fun e => if e.2.poison && e.2.loc == loc && e.2.vis.getLsbD q then some (e.2.co.getD 0) else none
/-- Is a doubleword poisoned as quarter q holds it? A later write of the whole doubleword ends it. -/
def State.poisoned (s : State) (q loc : Nat) : Bool := (s.poisonings q loc).any fun c => !s.rewritten q loc c

/-! ## Keys of memory lines (R339) -/

/-- The key that a slot holds now. -/
def State.keyOfSlot (s : State) (slot : Nat) : Nat := 128 * s.ord.keyGen.getD slot 0 + slot
/-- What a doubleword decrypts to under a key that it was not encrypted under (assumption 41). -/
def scrambled (loc line key : Nat) : Word := Config.rekeyed (loc + 2 ^ 41 * (line + 2 ^ 64 * key))
/-- The doubleword that an access of quarter q through a page's key slot reads. Scratchpads are not encrypted. -/
def State.plain (s : State) (slot q loc : Nat) : Word :=
  if isPad loc then s.readQ q loc
  else match s.ord.keyed.get? (lineOf loc) with
    | none => s.readQ q loc
    | some k => if k = s.keyOfSlot slot then s.readQ q loc else scrambled loc k (s.keyOfSlot slot)
/-- A write through a key slot encrypts the line under its key; under another key than before, the rest of the line becomes what it
decrypts to. -/
def State.encrypt (s : State) (slot loc : Nat) : State :=
  if isPad loc then s
  else
    let line := lineOf loc
    let key := s.keyOfSlot slot
    let s1 := match s.ord.keyed.get? line with
      | none => s
      | some k =>
        if k = key then s
        else
          let other (m : Memory) : Memory := (List.range 8).foldl (fun m i =>
            Memory.setDword m (line + 8 * i) 0xFF (scrambled (line + 8 * i) k key)) m
          let t := (List.range 4).foldl (fun (t : State) q => t.setMemQ q (other (t.memQ q))) s
          if isDurable line then t.updOrd fun o => { o with prim := other o.prim, mirr := other o.mirr } else t
    s1.updOrd fun o => { o with keyed := o.keyed.put line key }

/-! ## The code of a written line (R173) -/

/-- Sheds of a quarter. -/
def qtrSheds (q : Nat) : List Nat :=
  (List.range 64).map fun i => shedAt (8 * (q % 2) + i % 8) (8 * (q / 2) + i / 8)
/-- The floor entry of the quarter table (R159): of several (4, 4) entries, the one of the lowest index (DESIGN CHOICE, assumption 134). -/
def floorQtr (p : Power) : Nat := (p.qtrs.findIdx? fun e => e.n = 4 && e.y = 4).getD 0
def qtrPoint (p : Power) (i : Nat) : QtrPoint := (p.qtrs ++ p.keptQtrs).getD i { n := 4, y := 4, power := 0, ecc := false }
/-- A shed row: the row of a quarter. -/
def rowKey (d : Nat) : Nat := 16 * qtrOfShed d + shedY d
def rowSheds (key : Nat) : List Nat := (List.range 8).map fun i => shedAt (8 * (key / 16 % 2) + i) (key % 16)
/-- Does a row hold a gang that is resident, or placed and not yet released, or not yet saved (R161, R164)? -/
def State.rowHeld (s : State) (key : Nat) : Bool := (rowSheds key).any fun d => (s.gangOfShed d).isSome
/-- Does a quarter hold a gang that is resident, or placed and not yet released, or not yet saved (R161, R164)? -/
def State.qtrHeld (s : State) (q : Nat) : Bool := (qtrSheds q).any fun d => (s.gangOfShed d).isSome
/-- A quarter's current entry: the floor where no gang is. -/
def State.qtrEntryOf (s : State) (q : Nat) : Nat :=
  if s.qtrHeld q then Table.getD s.power.qtrEntry q (floorQtr s.power) else floorQtr s.power
/-- A line of layers 0 to 2 that is written takes the code of its quarter's current entry. -/
def State.recode (s : State) (loc : Nat) : State :=
  let l := lineOf loc
  if isPad l || 3 ≤ physLayer l then s
  else
    let strong := (qtrPoint s.power (s.qtrEntryOf (physQtr l))).ecc
    s.updOrd fun o => { o with ecc := if strong then natInsert o.ecc l else o.ecc.filter (· ≠ l) }

/-! ## PERFORM and APPLY (R288) -/

/-- The writer of a write that no context makes: a merge, the keeper's. -/
def noWriter : Nat := 2 ^ 64
/-- The write that PERFORM of `id` at quarter q makes. -/
def State.newWrite (s : State) (who q loc : Nat) (mask : BitVec 8) (val : Word) (tag : Option Bool)
    (rel : Option (List Nat)) (atom merged bad : Bool) : WriteRec := {
  who := who, org := q, loc := loc, mask := mask, val := val, tag := tag, stamp := s.next, vis := qbit q, inbox := 0,
  co := if home loc = q then some s.next else none, cp := s.vis q, rel := rel, atom := atom, redn := false, merged := merged, reds := [],
  durP := false, durM := false, poison := bad }

/-- A write sets or clears the tag of its scratchpad doubleword, and the tag carries what the write releases (R273, R294). -/
def State.tagWrite (s : State) (loc : Nat) (tag : Option Bool) (rel : Option (List Nat)) : State :=
  match tag with
  | none => s
  | some f => (s.setTag loc f).updShed (padShed loc) fun d =>
      { d with tagSet := match rel with
          | some r => if f then d.tagSet.put (padIndex loc) r else d.tagSet.del (padIndex loc)
          | none => d.tagSet.del (padIndex loc) }

/-- Performs write `id` at quarter q: M_q takes its bytes, it joins VIS(q) with CP := VIS(q), and at the home quarter it
takes the last place in coherence order (R288). -/
def State.perform (s : State) (who id q loc : Nat) (mask : BitVec 8) (val : Word) (tag : Option Bool)
    (rel : Option (List Nat)) (atom merged bad : Bool) : State :=
  let s1 := (s.setMemQ q ((s.memQ q).setDword loc mask val)).setWrite id (s.newWrite who q loc mask val tag rel atom merged bad)
  let s2 := if home loc = q then s1.recode loc else s1
  (s2.tagWrite loc tag rel).tickNext

/-- May write `id` enter the inbox of quarter q (R288)? -/
def State.mayPropagate (s : State) (id q : Nat) : Bool :=
  match s.writeAt id with
  | none => false
  | some w =>
    decide (q < s.nq) && !w.vis.getLsbD q && !w.inbox.getLsbD q &&
    (if home w.loc = q then
      w.vis.getLsbD w.org &&
      s.ord.writes.all fun e =>
        !(e.2.org == w.org && e.2.loc == w.loc && decide (e.2.stamp < w.stamp)) ||
        e.2.vis.getLsbD q || e.2.inbox.getLsbD q
    else w.vis.getLsbD (home w.loc))

/-- Does quarter q already hold, for byte b, a write later than coherence place `co`? Its own write that has not reached
its home yet counts as later (assumption 6). -/
def State.heldLater (s : State) (q loc b co : Nat) : Bool :=
  s.ord.writes.any fun e =>
    e.2.loc == loc && e.2.mask.getLsbD b && e.2.vis.getLsbD q &&
    match e.2.co with
    | none => e.2.org == q
    | some c => decide (co < c)

/-- The bytes of a write that an APPLY away from home takes. -/
def State.applyMask (s : State) (q : Nat) (w : WriteRec) : BitVec 8 :=
  (List.range 8).foldl (fun m b =>
    if w.mask.getLsbD b && !s.heldLater q w.loc b (w.co.getD 0) then m ||| BitVec.ofNat 8 (2 ^ b) else m) 0

/-- May write `id` be applied at quarter q (R288)? -/
def State.mayApply (s : State) (id q : Nat) : Bool :=
  match s.writeAt id with
  | none => false
  | some w => w.inbox.getLsbD q && s.allVis q w.cp

/-- APPLY (R288). -/
def State.applyWrite (s : State) (id q : Nat) : State :=
  match s.writeAt id with
  | none => s
  | some w =>
    let atHome := home w.loc == q
    let mask := if atHome then w.mask else s.applyMask q w
    let w1 := { w with vis := w.vis ||| qbit q, inbox := w.inbox &&& ~~~ qbit q,
                       co := if atHome then some s.next else w.co }
    let s1 := (s.setMemQ q ((s.memQ q).setDword w.loc mask w.val)).setWrite id w1
    (if atHome then s1.recode w.loc else s1).tickNext

/-! ## What a read observes (R293, R295) -/

/-- The write that byte b of a doubleword holds where the writes of `seen` are visible. -/
def State.holderBy (s : State) (seen : Nat → WriteRec → Bool) (loc b : Nat) : Option WriteRec :=
  (s.ord.writes.foldl (fun (best : Option (Nat × WriteRec)) e =>
    if e.2.loc == loc && e.2.mask.getLsbD b && seen e.1 e.2 then
      let rank := match e.2.co with
        | none => 2 * s.next + e.2.stamp
        | some c => c
      match best with
      | none => some (rank, e.2)
      | some (r, _) => if r < rank then some (rank, e.2) else best
    else best) none).map (·.2)
/-- The release sets that a read of a doubleword observes there (R293): that of the write it reads, and for an atomic's write those of
the writes before it. -/
def State.observedBy (s : State) (seen : Nat → WriteRec → Bool) (loc : Nat) : List Nat :=
  (List.range 8).flatMap fun b => match s.holderBy seen loc b with
    | none => []
    | some w =>
      let own := w.rel.getD []
      if w.atom then
        own ++ s.ord.writes.flatMap fun e =>
          if e.2.loc == loc && decide (e.2.co.getD (s.next) ≤ w.co.getD 0) then e.2.rel.getD [] else []
      else own
/-- The same at a quarter. -/
def State.holder (s : State) (q loc b : Nat) : Option WriteRec := s.holderBy (fun _ w => w.vis.getLsbD q) loc b
def State.observed (s : State) (q loc : Nat) : List Nat := s.observedBy (fun _ w => w.vis.getLsbD q) loc

/-- Records what a read observed (R293, R295). -/
def Ctx.see (c : Ctx) (op : Nat) (acq : Bool) (set : List Nat) : Ctx :=
  if set.isEmpty then c else { c with seen := c.seen ++ [{ op := op, acq := acq, set := set.eraseDups }] }

/-! ## Completion at a scope (R290 to R292) -/

/-- Has copy k (0 primary, 1 mirror) of a durable write been taken, a layer out of service counting as taken (R389)? -/
def State.quarterAt (s : State) (q : Nat) : Quarter := s.quarters[q % 4]'(Nat.mod_lt _ (by decide))
def State.setQuarter (s : State) (q : Nat) (v : Quarter) : State :=
  { s with quarters := s.quarters.set (q % 4) v (Nat.mod_lt _ (by decide)) }
def State.durableAt (s : State) (w : WriteRec) : Bool :=
  !isDurable w.loc ||
  ((w.durP || !(s.quarterAt (home w.loc)).inService) && (w.durM || !(s.quarterAt (partner (home w.loc))).inService))

/-- Is a performed write complete at a scope, seen from quarter q (R291)? -/
def State.writeComplete (s : State) (q : Nat) (scope : BitVec 3) (w : WriteRec) : Bool :=
  if scope.toNat = 0 then true
  else if scope.toNat ≤ 3 then w.vis.getLsbD q
  else (List.range s.nq).all (fun p => w.vis.getLsbD p) && (scope.toNat < 6 || s.durableAt w)

/-- Has every listed write, if it still exists, been taken by both copies where it is durable? -/
def State.allDurable (s : State) (ids : List Nat) : Bool :=
  ids.all fun i => match s.writeAt i with
    | none => true
    | some w => s.durableAt w
/-- Is access `id` of context k complete at a scope (R291)? A pending access is complete only at `.ctx`; an operation of an engine or of
the collective unit counts from `.fab` on. A write that a die reset has lost is waited for no more (R299). -/
def State.complete (s : State) (k : Nat) (scope : BitVec 3) (id : Nat) : Bool :=
  let q := qtrOfCtx k
  if (s.ctx k).ops.any (·.id == id) then scope = 0
  else match s.ord.engines.get? id with
    | some _ => decide (scope.toNat < 5)
    | none =>
      match s.ord.flagged.get? id with
      | some f => decide (scope.toNat < 6) || s.allDurable f.2
      | none => match s.collOf id with
        | some cl => decide (scope.toNat < 5) || (cl.done.isSome && (decide (scope.toNat < 6) || s.allDurable cl.writes))
        | none => match s.writeAt id with
        | none => true
        -- A reduction of the context counts once its ATOMIC has been taken (R312).
        | some w => (w.redn && w.who == k) || s.writeComplete q scope w

/-- Writes of a context's reductions that are not yet visible at its quarter (R312). -/
def State.redsOut (s : State) (k : Nat) : List Nat :=
  (s.ord.writes.filter fun e => e.2.redn && e.2.who == k && !e.2.vis.getLsbD (qtrOfCtx k)).map (·.1)
/-- The release set of context k at this moment: its own earlier accesses and the writes it has seen (R292). -/
def State.releaseSet (s : State) (k : Nat) : List Nat :=
  s.vis (qtrOfCtx k) ++ (s.ctx k).ops.map (·.id) ++ ((s.ord.engines.filter fun e => e.2.ctx == k).map (·.1))
    ++ ((s.ord.flagged.filter fun e => e.2.1 == k).map (·.1)) ++ s.partsOf k ++ s.redsOut k

/-- The writes of a gang that die resets have lost, of those that were in view at a quarter (R387). -/
def State.lostSeen (s : State) (g q : Nat) : List Nat := (s.ord.lost.filter fun e => e.2.gang = g && e.2.vis.getLsbD q).map (·.1)
/-- Has each byte of a lost write been written again by a later write that its copies have taken (R298, R387)? -/
def State.replaced (s : State) (l : LostWrite) : Bool :=
  (List.range 8).all fun b => !l.mask.getLsbD b || s.ord.writes.any fun e =>
    e.2.loc == l.loc && e.2.mask.getLsbD b && decide (l.co < e.2.co.getD 0) && s.durableAt e.2

/-- Is a set complete at a scope for context k? -/
def State.setComplete (s : State) (k : Nat) (scope : BitVec 3) (ids : List Nat) : Bool :=
  ids.all (s.complete k scope)

end Sys2Proof.Machine
end

