-- ==== Sys2Proof/Machine/Errors.lean ====
section
/-! DEFINITION. The error log, the correction of errors, and the copies of durable bytes (R274, R277, R288, R298, R365, R366, R368, R385 to
R389). -/
namespace Sys2Proof.Machine

/-- `GTIME` (R49). -/
def State.gtime (s : State) : Word := BitVec.ofNat 64 s.now

/-! ## Places of lines (R274, R277) -/

def State.l2Q (s : State) (q : Nat) : Table L2Line := s.ord.l2[q % 4]'(Nat.mod_lt _ (by decide))
/-- The home slice of a line: the shed of its quarter that a fixed hash of the address chooses (R274; the hash is the
model's, assumption 7). -/
def homeSlice (q line : Nat) : Nat :=
  let h := line / 64 % 64
  shedAt (8 * (q % 2) + h % 8) (8 * (q / 2) + h / 8)
/-- The slice where a line of a quarter is. -/
def L2Line.at_ (l : L2Line) (q line : Nat) : Nat := l.slice.getD (homeSlice q line)

/-! ## The error log (R366, R368) -/

/-- Tier and place of an error at a doubleword, where it is held (R368): a scratchpad, the level-two slice that holds the line in its home
quarter, or DRAM. -/
def State.errorTier (s : State) (loc : Nat) : Nat × Nat :=
  let at_ (d : Nat) : Nat := shedX d + 2 ^ 8 * shedY d
  if isPad loc then (1, at_ (padShed loc))
  else match (s.l2Q (home loc)).get? (lineOf loc) with
    | some l => (0, at_ (l.at_ (home loc) (lineOf loc)))
    | none => (if physLayer loc = 3 then 3 else 2, 0)
/-- VFQ of the gang that an error at a location affects, or 0xFFFF. -/
def State.errorVfq (s : State) (loc : Nat) : BitVec 16 :=
  match (if isPad loc then s.gangOfShed (padShed loc) else none) with
  | some g => BitVec.ofNat 16 (s.gang g).vfq
  | none => 0xFFFF

/-- Writes an entry of the keeper's error log; a full log counts it as lost (R366, R368). -/
def State.logError (s : State) (kind cause qtr tier place : Nat) (addr : Word) (vfq : BitVec 16) : State :=
  let k := s.keeper
  let k1 := { k with
    corrected := if kind = 0 then k.corrected + 1 else k.corrected,
    uncorrectable := if kind = 1 then k.uncorrectable + 1 else k.uncorrectable,
    containments := if kind = 2 then k.containments + 1 else k.containments }
  let e : LogEntry := { time := s.gtime, kind := kind, cause := cause, qtr := qtr, tier := tier, place := place,
                        addr := addr, vfq := vfq }
  { s with keeper := if k.log.length < 4096 then { k1 with log := k1.log ++ [e] }
                     else { k1 with lostEntries := k1.lostEntries + 1 } }

/-- Logs an error of a doubleword: corrected (0) or uncorrectable (1) (R366, R368). -/
def State.logAt (s : State) (kind loc : Nat) : State :=
  let t := s.errorTier loc
  s.logError kind 0 (home loc) t.1 t.2 (if isPad loc then 0 else BitVec.ofNat 64 (lineOf loc)) (s.errorVfq loc)

/-- A read meets an injected correctable error: it is corrected and logged (R365). A part of an engine's, tile slice's or conversion engine's
work that faults or has to wait counts as not read, as it is read whole again (DESIGN CHOICE, assumption 144). -/
def State.correct (s : State) (loc : Nat) : State :=
  if s.ord.soft.contains loc then (s.updOrd fun o => { o with soft := o.soft.filter (· ≠ loc) }).logAt 0 loc else s

/-- The same for every doubleword that a predicate names, and for those of a range of locations. -/
def State.correctAll (s : State) (reads : Nat → Bool) : State := (s.ord.soft.filter reads).foldl State.correct s
def State.correctRange (s : State) (lo hi : Nat) : State := s.correctAll fun a => decide (lo ≤ a) && decide (a < hi)

/-! ## The copies of durable bytes (R288, R298, R385 to R389) -/

/-- Bytes of a write that a copy takes: those of which the copy holds no later write (R298). -/
def State.copyMask (s : State) (w : WriteRec) (mirror : Bool) : BitVec 8 :=
  (List.range 8).foldl (fun m b =>
    if w.mask.getLsbD b && !(s.ord.writes.any fun e => e.2.loc == w.loc && e.2.mask.getLsbD b &&
        (if mirror then e.2.durM else e.2.durP) && decide (w.co.getD 0 < e.2.co.getD 0))
    then m ||| BitVec.ofNat 8 (2 ^ b) else m) 0

/-- Is the layer that holds a copy of a location working: in service, or returning (R389)? -/
def State.copyWorks (s : State) (loc : Nat) (mirror : Bool) : Bool :=
  let q := s.quarterAt (if mirror then partner (home loc) else home loc)
  q.inService || q.resync

/-- The bad doublewords of a copy after it has taken a write's bytes: a write of the whole doubleword ends an error there, and a poisoned
write takes its poison along (R283, R360). -/
def markCopy (bad : List Nat) (w : WriteRec) (m : BitVec 8) : List Nat :=
  if m = 0 then bad else if w.poison then natInsert bad w.loc else if m = 0xFF then bad.filter (· ≠ w.loc) else bad

/-- A copy takes a durable write that is visible at its home (R298). -/
def State.copyTakes (s : State) (id : Nat) (mirror : Bool) : State :=
  match s.writeAt id with
  | none => s
  | some w =>
    if !isDurable w.loc || !w.vis.getLsbD (home w.loc) then s
    else
      let m := s.copyMask w mirror
      let s1 := if !s.copyWorks w.loc mirror then s
        else s.updOrd fun o =>
          if mirror then { o with mirr := Memory.setDword o.mirr w.loc m w.val, badMirr := markCopy o.badMirr w m }
          else { o with prim := Memory.setDword o.prim w.loc m w.val, badPrim := markCopy o.badPrim w m }
      s1.setWrite id (if mirror then { w with durM := true } else { w with durP := true })
/-- DURABLE of write `id` to a copy: it may be taken once the write is visible at its home, and no quarter holds a partial of its
doubleword (R288, R296, R298). -/
def State.durable (s : State) (id : Nat) (mirror : Bool) : State :=
  match s.writeAt id with
  | none => s
  | some w => if !s.redsSettled (home w.loc) w.loc then s else s.copyTakes id mirror

/-- A dirty durable line is written back: the DURABLE moves of its writes are taken (R386). -/
def State.durableLine (s : State) (line : Nat) : State :=
  ((s.ord.writes.filter fun e => lineOf e.2.loc == line && isDurable e.2.loc).map (·.1)).foldl
    (fun t i => (t.durable i false).durable i true) s

/-- A durable doubleword as its copies give it: the primary, or the mirror where the primary's layer is out of service or the primary has an
uncorrectable error; none where both are lost (R388, R389). -/
def State.durableWord (s : State) (loc : Nat) : Option Word :=
  if (s.quarterAt (home loc)).inService && !s.ord.badPrim.contains loc then some (Memory.dword s.ord.prim loc)
  else if (s.quarterAt (partner (home loc))).inService && !s.ord.badMirr.contains loc then some (Memory.dword s.ord.mirr loc)
  else none
/-- The primary copy of a doubleword is written back from the mirror; what the mirror has not taken, it takes again (R388). -/
def State.repairPrimary (s : State) (loc : Nat) : State :=
  s.updOrd fun o => { o with
    prim := Memory.setDword o.prim loc 0xFF (Memory.dword o.mirr loc)
    badPrim := o.badPrim.filter (· ≠ loc)
    writes := Table.mapVals (fun _ w => if w.loc = loc then { w with durP := w.durM } else w) o.writes }

/-- The primary address of a byte of a mirror part (R271). -/
def mirrorOf (loc : Nat) : Option Nat :=
  if !isPad loc && decide (physLayer loc = 3) && decide (Config.primaryBytes ≤ physOff loc) && decide (physOff loc < Config.layerBytes) then
    some (partner (physQtr loc) * 2 ^ 38 + 3 * 2 ^ 36 + (physOff loc - Config.primaryBytes))
  else none

/-- Durable doublewords of which no copy is good any more are poisoned, but for those that are already (R360, R388, R389). -/
def State.loseDurable (s : State) (locs : List Nat) : State :=
  (s.updOrd fun o => { o with poison := (locs.filter fun a => !s.poisoned (home a) a).foldl (fun t a => t.put a s.next) o.poison }).tickNext
/-- A doubleword's uncorrectable error is found: it is poisoned, but for a durable one of which a copy is good and its layer in service. An
error of the mirror part is one of the mirror copy (R360, R388, R389). -/
def State.uncorrectable (s : State) (loc : Nat) : State :=
  let t := (s.logAt 1 loc).tickNext
  match mirrorOf loc with
  | some p => t.updOrd fun o =>
      { o with badMirr := natInsert o.badMirr p
               poison := if o.badPrim.contains p || !(t.quarterAt (home p)).inService then o.poison.put p s.next else o.poison }
  | none =>
    if !isDurable loc then t.updOrd fun o => { o with poison := o.poison.put loc s.next }
    else if t.ord.badMirr.contains loc || !(t.quarterAt (partner (home loc))).inService then
      t.updOrd fun o => { o with poison := o.poison.put loc s.next, badPrim := natInsert o.badPrim loc }
    else t.repairPrimary loc

end Sys2Proof.Machine
end

