-- ==== Sys2Proof/Machine/Paging.lean ====
section
/-! DEFINITION. Page tables, translation caches and the translation of an address (R272, R331 to R337). -/
namespace Sys2Proof.Machine

/-! ## Page-table entries (R333) -/

def pteV (w : Word) : Bool := w.getLsbD 63
def pteLeaf (w : Word) : Bool := w.getLsbD 62
def pteKey (w : Word) : Nat := (w.extractLsb' 53 7).toNat
def pteDur (w : Word) : Bool := w.getLsbD 52
def pteCom (w : Word) : Bool := w.getLsbD 51
def pteCh (w : Word) : BitVec 2 := w.extractLsb' 49 2
def pteW (w : Word) : Bool := w.getLsbD 48
def pteR (w : Word) : Bool := w.getLsbD 47
def ptePage (w : Word) : Nat := (w.extractLsb' 16 24).toNat * 2 ^ 16
def pteNext (w : Word) : Nat := (w.extractLsb' 9 31).toNat * 2 ^ 9
/-- Reserved bits of word 0 of a leaf and of a table pointer. -/
def leafReserved (w : Word) : Bool :=
  w.extractLsb' 60 2 ≠ (0 : BitVec 2) || w.extractLsb' 40 7 ≠ (0 : BitVec 7) || w.extractLsb' 0 16 ≠ (0 : BitVec 16)
def pointerReserved (w0 w1 : Word) : Bool :=
  w0.extractLsb' 60 2 ≠ (0 : BitVec 2) || w0.extractLsb' 40 7 ≠ (0 : BitVec 7) || w0.extractLsb' 0 9 ≠ (0 : BitVec 9) ||
  w1 ≠ 0

/-- Index bits and page sizes of the levels (R332). -/
def levelIndex (level va : Nat) : Nat :=
  match level with
  | 0 => va / 2 ^ 39 % 512
  | 1 => va / 2 ^ 30 % 512
  | 2 => va / 2 ^ 21 % 512
  | _ => va / 2 ^ 16 % 32
def pageSize : Nat → Nat
  | 0 => 2 ^ 39 | 1 => 2 ^ 30 | 2 => 2 ^ 21 | _ => 2 ^ 16
def tableSize (level : Nat) : Nat := if level = 3 then 512 else 8192

end Sys2Proof.Machine

namespace Sys2Proof

/-- Do some ranges, taken together, hold [lo, hi)? Each round moves `lo` past the range that holds it; the fuel is the number of
ranges. -/
def coveredBy (l : List Range) : Nat → Nat → Nat → Bool
  | 0, lo, hi => decide (hi ≤ lo)
  | n + 1, lo, hi =>
    if hi ≤ lo then true
    else match l.find? fun r => decide (r.base ≤ lo) && decide (lo < r.base + r.len) with
      | some r => coveredBy l n (r.base + r.len) hi
      | none => false
/-- Is a physical range wholly inside the grant (R337, R338)? -/
def VfCfg.holds (c : VfCfg) (base size : Nat) : Bool := coveredBy c.grant c.grant.length base (base + size)
/-- Is it wholly inside the grant's durable range? -/
def VfCfg.holdsDurable (c : VfCfg) (base size : Nat) : Bool :=
  coveredBy (c.grant.filter (·.dur)) c.grant.length base (base + size)

end Sys2Proof

namespace Sys2Proof.Machine

/-- Does a leaf let an access read (`some false`) or write (`some true`)? The loader asks for neither (R83). -/
def leafLets (w0 : Word) : Option Bool → Bool
  | none => true
  | some wr => if wr then pteW w0 else pteR w0

/-- The leaf checks 1, 2, 3, 4, 5 and 6 in that order; 0 when all pass (R337). -/
def leafReason (c : VfCfg) (w0 : Word) (level : Nat) (kind : Option Bool) : Nat :=
  let size := pageSize level
  let pa := ptePage w0
  if !pteV w0 then 1
  else if !leafLets w0 kind then 2
  else if leafReserved w0 || level = 0 || pa % size ≠ 0 then 3
  else if !c.holds pa size then 4
  else if !c.keys.contains (pteKey w0) then 5
  else if (if pteDur w0 then !c.holdsDurable pa size else decide (physLayer pa = 3)) then 6
  else 0

/-- The outcome of a translation whose walk cannot end yet; it is no reason of R337. -/
def walkWaits : Nat := 8

/-- May a walk of quarter q read an entry: its words are settled (R296), and what word 0 releases has reached the quarter, word 0
being read as an acquire (R295, R334)? -/
def State.entryReady (s : State) (q at_ : Nat) : Bool :=
  s.redsSettled q at_ && s.redsSettled q (at_ + 8) && s.landed q (s.observed q at_)
/-- Has an entry an error, which its read corrects and logs, or of which the reading core is contained (R360, R365)? PAGE_WALK makes such
a read. -/
def State.entryBad (s : State) (q at_ : Nat) : Bool :=
  [at_, at_ + 8].any fun a => s.poisoned q a || s.ord.soft.contains a
/-- A doubleword of a function's page tables as quarter q reads it: decrypted under that key slot of the function's under which its line
stands, and under its first where the line stands under a key that the function does not have. The spec names no slot for a table (DESIGN
CHOICE, assumption 105). -/
def State.tableWord (s : State) (c : VfCfg) (q loc : Nat) : Word :=
  s.plain ((c.keys.find? fun k => s.ord.keyed.get? (lineOf loc) = some (s.keyOfSlot k)).getD (c.keys.headD 0)) q loc

/-- A walk from a table at a level: the leaf's words and level, or the reason of the failure (R332, R334, R337). The fuel is
the number of levels left. The loader's walk asks for no access and stops at no error. -/
def State.walkFrom (s : State) (q : Nat) (c : VfCfg) (va : Nat) (kind : Option Bool) :
    Nat → Nat → Nat → Except Nat (Word × Word × Nat)
  | 0, _, _ => .error 3
  | fuel + 1, level, table =>
    let at_ := table + 16 * levelIndex level va
    let w0 := s.tableWord c q at_
    let w1 := s.tableWord c q (at_ + 8)
    if !s.entryReady q at_ || (kind.isSome && s.entryBad q at_) then .error walkWaits
    else if !pteV w0 then .error 1
    else if pteLeaf w0 then
      match leafReason c w0 level kind with
      | 0 => .ok (w0, w1, level)
      | r => .error r
    else if level = 3 || pointerReserved w0 w1 then .error 3
    else if !c.holds (pteNext w0) (tableSize (level + 1)) then .error 4
    else State.walkFrom s q c va kind fuel (level + 1) (pteNext w0)

/-! ## Translation caches (R335) -/

def TlbEntry.hits (e : TlbEntry) (vf : Nat) (sup : Bool) (va : Nat) : Bool :=
  e.vf = vf && e.sup = sup && decide (e.base ≤ va) && decide (va < e.base + e.size)
/-- Puts an entry first and keeps at most `n`: the least recently used one goes. -/
def tlbPut (n : Nat) (l : List TlbEntry) (e : TlbEntry) : List TlbEntry :=
  (e :: l.filter fun f => !(f.vf = e.vf && f.sup = e.sup && f.base = e.base && f.size = e.size)).take n
/-- A walk fills the core's cache and its shed's with the leaf (R335). -/
def State.tlbFill (s : State) (core : Nat) (e : TlbEntry) : State :=
  (s.updCore core fun c => { c with tlb := tlbPut 256 c.tlb e }).updShed (shedOfCore core) fun d =>
    { d with tlb := tlbPut 4096 d.tlb e }
/-- The cached leaf for an address, the core's cache first and then the shed's, and the state with that cache's entry the most
recently used. -/
def State.tlbFind (s : State) (core vf : Nat) (sup : Bool) (va : Nat) : Option (TlbEntry × State) :=
  match (s.core core).tlb.find? (·.hits vf sup va) with
  | some e => some (e, s.updCore core fun c => { c with tlb := tlbPut 256 c.tlb e })
  | none => ((s.shed (shedOfCore core)).tlb.find? (·.hits vf sup va)).map fun e =>
      (e, s.updShed (shedOfCore core) fun d => { d with tlb := tlbPut 4096 d.tlb e })

/-! ## Walks (R336) -/

/-- Walkers of a quarter. -/
def walkers : Nat := 64
/-- Is a miss of a quarter on the same page, function and root? -/
def Walk.same (w : Walk) (q vf : Nat) (sup : Bool) (va : Nat) : Bool :=
  qtrOfCore w.core = q && w.vf = vf && w.sup = sup && decide (w.va / 2 ^ 16 = va / 2 ^ 16)
/-- Does a miss that comes now find no walker: one is on its page already, or all of the quarter's are busy? -/
def State.walkHeld (s : State) (q vf : Nat) (sup : Bool) (va : Nat) : Bool :=
  (s.ord.walks.any fun w => w.same q vf sup va) || decide (walkers ≤ s.ord.walks.countP fun w => qtrOfCore w.core = q)

/-- A translated address: the byte's location, the leaf's words, the first address of its page (none in the scratchpad
window), and the state with the caches filled. -/
structure Hit where
  loc : Nat
  w0 : Word
  w1 : Word
  page : Nat
  st : State

/-- A page of a function in one step: a cached leaf, or a walk and the caches filled with its leaf (R332 to R337). -/
def State.leafFor (s : State) (core vf : Nat) (sup : Bool) (c : VfCfg) (a : Nat) (wr : Bool) : Except Nat Hit :=
  match s.tlbFind core vf sup a with
  | some (e, t) =>
    match leafReason c e.w0 (if e.size = 2 ^ 30 then 1 else if e.size = 2 ^ 21 then 2 else 3) (some wr) with
    | 0 => .ok { loc := ptePage e.w0 + (a - e.base), w0 := e.w0, w1 := e.w1, page := e.base, st := t }
    | r => .error r
  | none =>
    let root := (if sup then c.sroot else c.uroot).getD 0
    match s.walkFrom (qtrOfCore core) c a (some wr) 4 0 root with
    | .error r => .error r
    | .ok (w0, w1, level) =>
      let size := pageSize level
      let e : TlbEntry := { vf := vf, sup := sup, base := a / size * size, size := size, w0 := w0, w1 := w1 }
      .ok { loc := ptePage w0 + a % size, w0 := w0, w1 := w1, page := e.base, st := s.tlbFill core e }

/-- Translation of an address for a function and root, on a core (R332 to R337). A miss that finds a walker free is walked in one step; any
other waits for the walk that PAGE_WALK makes, and may stand in the queue of `State.miss` (assumption 56). The scratchpad window has no
leaf: it is a raw page (DESIGN CHOICE, assumption 106). -/
def State.translateFor (s : State) (core vf : Nat) (sup : Bool) (va : Word) (wr : Bool) : Except Nat Hit :=
  let a := va.toNat
  if Config.padWindow ≤ a then
    .ok { loc := padLoc (shedOfCore core) (a - Config.padWindow), w0 := 0, w1 := 0, page := 0, st := s }
  else if 2 ^ 48 ≤ a then .error 7
  else match (s.vf vf).cfg with
    | none => .error 1
    | some c =>
      if (s.tlbFind core vf sup a).isNone && s.walkHeld (qtrOfCore core) vf sup a then .error walkWaits
      else s.leafFor core vf sup c a wr

/-- A miss that cannot be walked at once joins the walk of its page, or comes into the quarter's queue (R336). -/
def State.miss (s : State) (core vf : Nat) (sup : Bool) (va : Word) (wr : Bool) : State :=
  let q := qtrOfCore core
  let a := va.toNat
  match (s.vf vf).cfg with
  | none => s
  | some c =>
    if 2 ^ 48 ≤ a || (s.tlbFind core vf sup a).isSome then s
    else match s.ord.walks.find? fun w => Walk.same w q vf sup a with
    | some w =>
      if (w.core = core && w.wr = wr) || w.joins.contains (core, wr) then s
      else
        let join (v : Walk) : Walk := if Walk.same v q vf sup a then { v with joins := v.joins ++ [(core, wr)] } else v
        s.updOrd fun o => { o with walks := o.walks.map join }
    | none => s.updOrd fun o => { o with walks := o.walks ++
        [{ core := core, wr := wr, joins := [], vf := vf, sup := sup, va := a, table := (if sup then c.sroot else c.uroot).getD 0,
           level := 0, w0 := none, discard := false, barred := [] }] }

/-- The misses that another state has taken up. -/
def State.withWalks (s t : State) : State := s.updOrd fun o => { o with walks := t.ord.walks }
/-- The function of the gang on a core. -/
def State.vfOfCore (s : State) (core : Nat) : Nat := vfOf (s.gang ((s.gangOfCore core).getD 0)).vfq
/-- The miss of a context's access. -/
def State.missOf (s : State) (k : Nat) (va : Word) (wr : Bool) : State :=
  s.miss (coreOfCtx k) (s.vfOfCore (coreOfCtx k)) (s.ctx k).sup va wr

/-- Translation of an address by a context. -/
def State.translate (s : State) (k : Nat) (va : Word) (wr : Bool) : Except Nat Hit :=
  let core := coreOfCtx k
  s.translateFor core (vfOf (s.gang ((s.gangOfCore core).getD 0)).vfq) (s.ctx k).sup va wr

/-- The hint of an access: its own, or else the page's (R333). -/
def pageHint (hint : BitVec 2) (w0 : Word) : BitVec 2 := if hint ≠ 0 then hint else pteCh w0

end Sys2Proof.Machine
end

