-- ==== Sys2Proof/Machine/Sources.lean ====
section
/-! DEFINITION. Engine operations: descriptors, sides, units, and the doublewords that a unit reads (R289, R297, R317, R318, R320,
R340). -/
namespace Sys2Proof.Machine

/-! ## Scratchpad images of saved gangs (R147, R148) -/

/-- The number that stands for a saved gang's scratchpad in locations, by rank, and for its contexts as writers. -/
def savedPadShed (g rank : Nat) : Nat := 4096 * (g + 1) + rank
def savedWriter (g : Nat) : Nat := 2 ^ 20 + g
/-- The gang and rank whose image a location lies in. -/
def imageOf (loc : Nat) : Option (Nat × Nat) :=
  if isPad loc && decide (4096 ≤ padShed loc) then some (padShed loc / 4096 - 1, padShed loc % 4096) else none
/-- The doubleword that a unit reads at a place, in quarter q's view and through a key slot. -/
def State.unitWord (s : State) (slot q loc : Nat) : Word :=
  match imageOf loc with
  | none => s.plain slot q loc
  | some (g, r) => match (s.gang g).saved[r]? with
    | some p => Memory.dword p.pad (loc - padLoc (padShed loc) 0)
    | none => 0

/-- A doubleword written into a scratchpad image, with what it does to the tag and to poison. -/
def SavedShed.write (p : SavedShed) (off : Nat) (w : Word) (full : Option Bool) (rel : Option (List Nat)) (bad : Bool) : SavedShed :=
  let h := p.shed
  { p with pad := Memory.setDword p.pad off 0xFF w
           poison := if bad then natInsert p.poison off else p.poison.filter (· ≠ off)
           shed := match full with
             | some true => { h with full := natInsert h.full (off / 8), tagSet := h.tagSet.put (off / 8) (rel.getD []) }
             | some false => { h with full := h.full.filter (· ≠ off / 8), tagSet := h.tagSet.del (off / 8) }
             | none => h }

/-! ## Descriptors (R317) -/

def dArr (d : EngDesc) : Bool := d.flags.getLsbD 0
def dCnt (d : EngDesc) : Bool := d.flags.getLsbD 1
def dCci (d : EngDesc) : Fin 16 := (d.flags.extractLsb' 2 4 : BitVec 4).toFin
def dIdx (d : EngDesc) : Bool := d.flags.getLsbD 6
def dAccum (d : EngDesc) : Bool := d.flags.getLsbD 7
def dSigadd (d : EngDesc) : Bool := d.flags.getLsbD 8
/-- Does the operation move elements or rows rather than one run of LEN bytes? -/
def dRows (func : Nat) (d : EngDesc) : Bool := func = 1 || dIdx d
/-- A peer entry of a function (R340). -/
def State.peer (s : State) (vf n : Nat) : Option Peer :=
  match (s.vf vf).cfg with
  | none => none
  | some c => c.peers.get? n

/-! ## Sides (R318, R340) -/

/-- A side of an operation. -/
inductive Side
  | near
  | far
  | peer (p : Peer)
deriving DecidableEq, Repr

/-- The far side of an operation. -/
def State.farSide (s : State) (e : EngOp) : Side :=
  if e.desc.peer = 0 then .far
  else match s.peer (vfOf (s.gang ((s.gangOfCore e.core).getD 0)).vfq) e.desc.peer.toNat with
    | some p => .peer p
    | none => .near
def State.srcSide (s : State) (e : EngOp) : Side := if e.func = 2 then s.farSide e else .near
def State.dstSide (s : State) (e : EngOp) : Side := if e.func = 3 || e.func = 4 || e.func = 5 then s.farSide e else .near

/-- The issuing function of an operation. -/
def State.engVf (s : State) (e : EngOp) : Nat := vfOf (s.gang ((s.gangOfCore e.core).getD 0)).vfq

/-- The scratchpad that a peer function's window stands for: that of rank 0 of its first gang that is on its sheds, or that is saved, in
whose image the access then lands (R147). The spec does not say whose scratchpad a peer side has (DESIGN CHOICE, assumption 88). -/
def State.peerPad (s : State) (vf : Nat) : Option Nat :=
  (s.gangs.find? fun e => vfOf e.2.vfq = vf && (e.2.state = .resident || e.2.state = .switching || e.2.state = .saved ||
      e.2.state = .restoring)).map fun e =>
    if e.2.state = .resident || e.2.state = .switching then shedAt e.2.x0 e.2.y0 else savedPadShed e.1 0

/-- Translation of one doubleword of a side: its location and key slot, or none where it lies in another package. -/
def State.engAt (s : State) (e : EngOp) (side : Side) (va : Word) (wr : Bool) : Except Nat (Option (Nat × Nat) × State) :=
  let hit (r : Except Nat Hit) : Except Nat (Option (Nat × Nat) × State) := r.map fun h => (some (h.loc, pteKey h.w0), h.st)
  let near := hit (s.translateFor e.core (s.engVf e) (s.ctx e.ctx).sup va wr)
  match side with
  | .near => near
  | .far =>
    if Config.padWindow ≤ va.toNat then .ok (some (padLoc e.far (va.toNat - Config.padWindow), 0), s) else near
  | .peer p =>
    if p.pkg ≠ Config.fabricAddress then .ok (none, s)
    else if Config.padWindow ≤ va.toNat then
      match s.peerPad p.vf with
      | some d => .ok (some (padLoc d (va.toNat - Config.padWindow), 0), s)
      | none => .error 7
    else hit (s.translateFor e.core p.vf false va wr)

/-- The quarter whose memory a side is read from. -/
def State.sideQtr (e : EngOp) (side : Side) (loc : Nat) : Nat :=
  if isPad loc then home loc
  else match side with
    | .near => qtrOfCore e.core
    | .far => qtrOfShed e.far
    | .peer _ => home loc

/-! ## Units (R320) -/

def pieces (d : EngDesc) : Nat := (d.elem.toNat + 511) / 512
/-- Units to move. -/
def engUnits (e : EngOp) : Nat :=
  if dRows e.func e.desc then e.desc.nidx.toNat * pieces e.desc else (e.desc.len.toNat + 511) / 512
/-- Element or row of a unit, its byte offset there, and its bytes. -/
def unitPart (e : EngOp) (u : Nat) : Nat × Nat × Nat :=
  if dRows e.func e.desc then
    let off := 512 * (u % pieces e.desc)
    (u / pieces e.desc, off, Nat.min 512 (e.desc.elem.toNat - off))
  else (0, 512 * u, Nat.min 512 (e.desc.len.toNat - 512 * u))
/-- First addresses of a unit at the source and the destination, with the index that applies. -/
def unitSpan (e : EngOp) (u idx : Nat) : Word × Word :=
  let (r, off, _) := unitPart e u
  let n := e.desc.elem.toNat
  let at_ (b : Word) (k : Nat) : Word := b + BitVec.ofNat 64 (k + off)
  if dIdx e.desc then
    if e.func = 2 then (at_ e.desc.src (idx * n), at_ e.desc.dst (r * n))
    else (at_ e.desc.src (r * n), at_ e.desc.dst (idx * n))
  else if e.func = 1 then
    (at_ e.desc.src (r * (e.desc.aux.extractLsb' 0 32).toNat), at_ e.desc.dst (r * (e.desc.aux.extractLsb' 32 32).toNat))
  else (at_ e.desc.src 0, at_ e.desc.dst 0)

/-! ## The contributions of collectives (R322, R323) -/

/-- COUNT and DRAIN of a descriptor's second doubleword (R322). -/
def cCount (w : Word) : Nat := (w.extractLsb' 0 32).toNat
def cDrain (w : Word) : Bool := w.getLsbD 40
/-- The parts of context k in collectives whose contribution is still to be read: what an engine operation reads of its source (R289, R297).
A DRAIN collective reads none (R323). -/
def State.unreadParts (s : State) (k : Nat) : List Join :=
  s.ord.colls.flatMap fun e => e.2.joined.filterMap fun j =>
    if s.partOf k j && j.2.contrib.isNone && !j.2.refused && !cDrain j.2.word1 then some j.2 else none

/-! ## What is still to be read (R289) -/

/-- Where a doubleword that is still to be read stands: at a place with its key slot, in another package, or nowhere yet known, where its
translation fails just now or waits for a walk. -/
inductive Source
  | at_ (loc slot : Nat)
  | elsewhere
  | unknown
deriving DecidableEq, Repr
/-- May it be one of these doublewords? A place that a walk has still to give is in memory, and may be any doubleword there: the accesses
after it wait until it is known (DESIGN CHOICE, assumption 143). -/
def Source.among (x : Source) (locs : List Nat) : Bool :=
  match x with
  | .at_ loc _ => locs.contains loc
  | .elsewhere => false
  | .unknown => locs.any (!isPad ·)

/-- The doubleword of an address of a side, as the page tables stand. -/
def State.sourceAt (s : State) (e : EngOp) (side : Side) (va : Word) : Source :=
  match s.engAt e side va false with
  | .ok (some (a, slot), _) => .at_ (dwordOf a) slot
  | .ok (none, _) => .elsewhere
  | .error _ => .unknown
/-- May a unit, as the page tables and its index list stand, read one of these doublewords: as the index that it uses, or in its source? -/
def State.unitReads (s : State) (e : EngOp) (u : Nat) (locs : List Nat) : Bool :=
  let i := e.desc.aux + BitVec.ofNat 64 (4 * (unitPart e u).1)
  let source (idx : Nat) : Bool := (List.range ((unitPart e u).2.2 / 8)).any fun n =>
    (s.sourceAt e (s.srcSide e) ((unitSpan e u idx).1 + BitVec.ofNat 64 (8 * n))).among locs
  if !dIdx e.desc then source 0
  else match s.sourceAt e .near (i &&& ~~~(7 : Word)) with
    | .at_ a slot => locs.contains a || source ((s.unitWord slot (qtrOfCore e.core) a).toNat / 2 ^ (8 * (i.toNat % 8)) % 2 ^ 32)
    | _ => !locs.isEmpty
/-- May a part of a collective read one of these doublewords as its contribution? -/
def State.partReads (s : State) (k : Nat) (j : Join) (locs : List Nat) : Bool :=
  (List.range (cCount j.word1)).any fun i => match s.translate k (j.buf + BitVec.ofNat 64 (4 * i)) false with
    | .ok h => locs.contains (dwordOf h.loc)
    | .error _ => Source.among .unknown locs
/-- Does an engine operation of the context that stands before place `id`, a contribution to a collective among them, still have to read one
of these doublewords? -/
def State.engHolds (s : State) (k id : Nat) (locs : List Nat) : Bool :=
  (s.ord.engines.any fun e => e.2.ctx == k && decide (e.1 < id) && (List.range (engUnits e.2)).any fun u =>
    !e.2.moved.contains u && s.unitReads e.2 u locs) ||
  (s.unreadParts k).any fun j => decide (j.id < id) && s.partReads k j locs

end Sys2Proof.Machine
end

