-- ==== Sys2Proof/Machine/Order.lean ====
section
/-! DEFINITION. Order within one context, and what a read takes (R288, R289, R292, R295, R313). -/
namespace Sys2Proof.Machine

/-! ## Order within one context (R289) -/

/-- Doublewords that an operation still reads and that it writes. -/
def OpKind.reads : OpKind → List Nat
  | .read _ locs got _ => (List.range locs.length).filterMap fun i => if (got.get? i).isSome then none else locs[i]?
  -- A `red.*` that is taken as an atomic orders as a write (R312).
  | .amo _ loc _ _ _ _ (some _) _ _ none => [loc]
  | _ => []
def OpKind.writes : OpKind → List Nat
  | .write loc _ _ _ _ _ => [loc]
  | .tag loc _ => [loc]
  | .amo _ loc _ _ _ _ _ _ _ none => [loc]
  | .red _ loc _ _ _ => [loc]
  | .inject _ loc => [loc]
  | _ => []
/-- A read that has not read. -/
def OpKind.unread : OpKind → Bool
  | .read _ _ _ _ => true
  | .amo _ _ _ _ _ _ (some _) _ _ none => true
  | _ => false
/-- An acquire whose READ or ATOMIC has not been taken. -/
def OpKind.acquires : OpKind → Bool
  | .read _ _ _ acq => acq
  | .amo _ _ _ _ _ _ (some _) _ _ none => true
  | _ => false
def OpKind.isWrite : OpKind → Bool
  | .read _ _ _ _ => false
  | _ => true

/-- Does pending operation a let a later operation b of its context move (R289)? Two yard writes of one context may perform in either
order: R97 lets the last performed win, and says no more (DESIGN CHOICE, assumption 19). -/
def passes (a b : OpKind) : Bool :=
  !a.acquires &&
  (b.writes.all fun x => !a.writes.contains x && !a.reads.contains x) &&
  (b.reads.all fun x => !a.reads.contains x)

/-- Does the context still owe a read before place `id` of its program order: a load, an atomic, or the source of an engine operation or of a
collective (R289)? -/
def State.unreadBefore (s : State) (k id : Nat) : Bool :=
  ((s.ctx k).ops.any fun o => decide (o.id < id) && o.kind.unread) ||
  (s.ord.engines.any fun e => e.2.ctx == k && decide (e.1 < id) && decide (e.2.moved.length < engUnits e.2)) ||
  (s.unreadParts k).any fun j => decide (j.id < id)

/-- Do the fences before operation `id` let it move (R289, R313)? -/
def State.fencesLet (s : State) (k id : Nat) (b : OpKind) : Bool :=
  (s.ctx k).fences.all fun f => decide (id ≤ f.id) ||
    match f.kind with
    | 0 => s.setComplete k f.scope f.set && !s.unreadBefore k f.id
    | 1 => !s.unreadBefore k f.id
    | _ => !b.isWrite || s.setComplete k f.scope f.set

/-- The acquire wait of R295 for operation `id`. -/
def State.acquired (s : State) (k id : Nat) : Bool :=
  let c := s.ctx k
  c.seen.all fun e => decide (id ≤ e.op) ||
    !(e.acq || c.fences.any fun f => f.kind == 1 && decide (e.op < f.id) && decide (f.id < id)) ||
    s.landed (qtrOfCtx k) e.set

/-- Is a release's set complete (R292)? -/
def State.released (s : State) (k : Nat) : OpKind → Bool
  | .write _ _ _ _ (some sc) set => s.setComplete k sc set
  | .amo _ _ _ _ _ _ (some _) sc set _ => s.setComplete k sc set
  | _ => true

/-- May operation o of context k move, as far as the order within the context goes, apart from the engine operations before it (R289)? No
rule orders the units of two engine operations (R297). -/
def State.mayMoveUnit (s : State) (k : Nat) (o : Op) : Bool :=
  ((s.ctx k).ops.all fun a => decide (o.id ≤ a.id) || passes a.kind o.kind) &&
  s.fencesLet k o.id o.kind && s.acquired k o.id && s.released k o.kind
/-- May operation o of context k move, as far as the order within the context goes (R289)? -/
def State.mayMove (s : State) (k : Nat) (o : Op) : Bool :=
  s.mayMoveUnit k o && !s.engHolds k o.id (o.kind.reads ++ o.kind.writes)

/-- A read and a write of a doubleword by a unit that works for context k, which stand at place `id` of its program order (R243, R253,
R297). -/
def readAs (id loc : Nat) : Op := { id := id, grp := id, hint := 0, key := 0, kind := .read (.x 0 0 8 false) [loc] [] false }
def writeAs (id loc : Nat) : Op := { id := id, grp := id, hint := 0, key := 0, kind := .write loc 0xFF 0 none none [] }
/-- An operation that touches no doubleword: what it waits for are the acquires and the fences before it, for a read without those that
hold no read. -/
def moveAs (id : Nat) : Op := { id := id, grp := id, hint := 0, key := 0, kind := .line false 0 0 }
def lookAs (id : Nat) : Op := { moveAs id with kind := .read (.x 0 0 8 false) [] [] false }

def Ctx.findOp (c : Ctx) (id : Nat) : Option Op := c.ops.find? (·.id == id)

/-- What a write releases (R292, R293): its own release set, and those of the fences before it, with the reductions before it whose
writes have not reached its quarter (R295, R312). -/
def State.relOf (s : State) (k : Nat) (o : Op) : Option (List Nat) :=
  let fs := (s.ctx k).fences.filter fun f => decide (f.id < o.id) && f.kind != 1
  let own := match o.kind with
    | .write _ _ _ _ (some _) set => some set
    | .amo _ _ _ _ _ _ (some _) _ set _ => some set
    | _ => none
  if own.isNone && fs.isEmpty then none
  else some ((own.getD [] ++ fs.flatMap (·.set) ++ (s.redsOut k).filter fun i => decide (i < o.id)).eraseDups)

/-! ## Reading (R288) -/

/-- Byte b of a doubleword as operation `id` of a context forwards it from the newest earlier buffered write. -/
def forwarded (ops : List Op) (id loc b : Nat) : Option Byte :=
  ops.foldl (fun best o =>
    if decide (o.id < id) then
      match o.kind with
      | .write l m v _ _ _ => if l = loc && m.getLsbD b then some (v.extractLsb' (8 * b) 8) else best
      | _ => best
    else best) none

/-- A doubleword with the bytes that an operation forwards in place of those that memory holds. -/
def forwardOver (ops : List Op) (id loc : Nat) (mem : Word) : Word :=
  (List.range 8).foldr (fun b (w : Word) =>
    (w <<< 8) ||| ((forwarded ops id loc b).getD (mem.extractLsb' (8 * b) 8)).zeroExtend 64) 0

/-- The value that READ takes through a key slot (R288, R339): each byte from the newest buffered write, or else from M_q. -/
def State.readVal (s : State) (k id slot loc : Nat) : Word :=
  forwardOver (s.ctx k).ops id loc (s.plain slot (qtrOfCtx k) loc)

/-- Does a read of a doubleword through context k's view take a poisoned byte from memory (R360)? -/
def State.readPoisoned (s : State) (k id loc : Nat) (need : BitVec 8) : Bool :=
  s.poisoned (qtrOfCtx k) loc &&
  (List.range 8).any fun b => need.getLsbD b && (forwarded (s.ctx k).ops id loc b).isNone

/-! ## The writes that a unit's work comes after (R243, R297) -/

/-- The writes of a context that are not yet visible at its quarter, buffered ones among them. -/
def State.writesOut (s : State) (k : Nat) : List Nat :=
  ((s.ctx k).ops.filter fun o => o.kind.isWrite).map (·.id) ++ s.redsOut k
/-- Have they all become visible there? -/
def State.writesIn (s : State) (k : Nat) (ids : List Nat) : Bool :=
  ids.all fun i => !((s.ctx k).ops.any (·.id == i)) && s.allVis (qtrOfCtx k) [i]

/-! ## Reading ahead of a `waita` (R314) -/

/-- A quarter's memory under the writes that a context has buffered. -/
def overBuffer (ops : List Op) (m : Memory) : Memory :=
  ops.foldl (fun m o => match o.kind with
    | .write loc mask v _ _ _ => Memory.setDword m loc mask v
    | _ => m) m
/-- A read of a `waita` leaves behind what later loads could have read at that moment, unless something before it holds them: what the
context forwards, and else M_q. The doubleword of the `waita` itself is read in order (R289). -/
def State.lookAhead (s : State) (reg : BitVec 5) (loc : Nat) : State :=
  if s.mayMove s.cur (moveAs s.next) && !s.unreadBefore s.cur s.next then
    let q := s.myQtr
    s.updMe fun c => { c with ahead := some { mem := overBuffer c.ops (s.memQ q), vis := s.vis q, reg := reg, start := s.next,
                                              stop := none, read := [loc] } }
  else s

/-- Could a plain load have read a doubleword ahead: the load stands in the window, nothing in the window has read or reduced the
doubleword, and the choice falls so (assumption 89)? -/
def State.readsAhead (s : State) (k : Nat) (o : Op) (loc : Nat) : Option Ahead :=
  (s.ctx k).ahead.bind fun a =>
    let inside := decide (a.start ≤ o.id) && (match a.stop with
      | some n => decide (o.id < n)
      | none => true)
    if inside && !o.kind.acquires && !a.read.contains loc && (s.lastMerge loc).isNone && !s.poisoned (qtrOfCtx k) loc &&
        ((s.ord.keyed.get? (lineOf loc)).all fun key => isPad loc || key = s.keyOfSlot o.key) &&
        Config.freeChoice s.free % 2 = 1 then some a else none

/-- The window of a context ends (R289, R314). -/
def Ctx.closeAhead (c : Ctx) (next : Nat) : Ctx :=
  { c with ahead := c.ahead.map fun a => if a.stop.isNone then { a with stop := some next } else a }

end Sys2Proof.Machine
end

