-- ==== Sys2Proof/Machine/Partials.lean ====
section
/-! DEFINITION. The operations of atomics and reductions, and the merging of partials (R278, R279, R288, R311, R312). -/
namespace Sys2Proof.Machine

/-! ## Values (R311) -/

/-- The new value of R311 from the old value, the operand and the compare value, as numbers of w bits. -/
def amoNew (fn : AmoFn) (w old b c : Nat) : Nat :=
  match fn with
  | .add => (old + b) % 2 ^ w
  | .and => old &&& b
  | .or => old ||| b
  | .xor => old ^^^ b
  | .min => if toInt true w b < toInt true w old then b else old
  | .max => if toInt true w old < toInt true w b then b else old
  | .minu => min old b
  | .maxu => max old b
  | .swap => b
  | .cas => if old = c then b else old

/-- Bytes [off, off+size) of a doubleword as a number. -/
def subValue (v : Word) (off size : Nat) : Nat := v.toNat / 2 ^ (8 * off) % 2 ^ (8 * size)

/-- A doubleword with bytes [off, off+size) replaced. -/
def putValue (w : Word) (off size new : Nat) : Word :=
  (w &&& ~~~ BitVec.ofNat 64 ((2 ^ (8 * size) - 1) * 2 ^ (8 * off))) ||| BitVec.ofNat 64 (new % 2 ^ (8 * size) * 2 ^ (8 * off))

/-! ## Partials (R278, R279) -/

/-- The identity of an operation in every element of a doubleword (R278). -/
def identityWord (fn : AmoFn) (size : Nat) : Word :=
  let e := match fn with
    | .and => 2 ^ (8 * size) - 1
    | .minu => 2 ^ (8 * size) - 1
    | .min => 2 ^ (8 * size - 1) - 1
    | .max => 2 ^ (8 * size - 1)
    | _ => 0
  if size = 8 then BitVec.ofNat 64 e else BitVec.ofNat 64 (e + 2 ^ 32 * e)

/-- A doubleword with a partial applied, element by element. -/
def applyPartial (p : Partial) (w part : Word) : Word :=
  (List.range (8 / p.size)).foldl (fun v i =>
    putValue v (i * p.size) p.size
      (amoNew p.fn (8 * p.size) (subValue w (i * p.size) p.size) (subValue part (i * p.size) p.size) 0)) w

def State.setPartials (s : State) (q : Nat) (t : Table Partial) : State :=
  { s with ord := { s.ord with partials := s.ord.partials.set (q % 4) t (Nat.mod_lt _ (by decide)) } }

/-- The contexts whose reductions the partials of a doubleword include. -/
def State.reducers (s : State) (loc : Nat) : List Nat :=
  ((List.range 4).flatMap fun q => match (s.partialsQ q).get? (lineOf loc) with
    | none => []
    | some p => p.reds.getD loc []).eraseDups
/-- The merge write of one doubleword (R279). -/
def State.mergeDword (s : State) (loc : Nat) : State :=
  if !s.hasPartial loc then s
  else
    let h := home loc
    let v := (List.range 4).foldl (fun w q => match (s.partialsQ q).get? (lineOf loc) with
      | none => w
      | some p => match p.dws.get? loc with
        | none => w
        | some d => applyPartial p w d) (s.readQ h loc)
    let t := s.tickNext.perform noWriter s.next h loc 0xFF v none none false true (s.poisoned h loc)
    (match t.writeAt s.next with
      | some w => t.setWrite s.next { w with reds := s.reducers loc }
      | none => t).correct loc

end Sys2Proof.Machine
end

