-- ==== Sys2Proof/Machine/Lines.lean ====
section
/-! DEFINITION. The states of cache lines (R20, R23, R274 to R279, R281, R282, R309), and the merge of a line. They never change a value
that an access returns. -/
namespace Sys2Proof.Machine

/-! ## The two levels -/

/-- Lines that a first-level cache and a level-two slice hold: 2 MiB each (R19, R20, R24). -/
def l1Lines : Nat := 32768
def sliceLines : Nat := 32768

def State.setL2 (s : State) (q : Nat) (t : Table L2Line) : State :=
  { s with ord := { s.ord with l2 := s.ord.l2.set (q % 4) t (Nat.mod_lt _ (by decide)) } }
/-- Cores of a quarter that hold a line in their first level, with its state. -/
def State.l1Holders (s : State) (q line : Nat) : List (Nat × L1State) :=
  s.cores.filterMap fun e => if qtrOfCore e.1 = q then (e.2.l1.get? line).map (fun l => (e.1, l.state)) else none
def State.dropL1 (s : State) (core line : Nat) : State := s.updCore core fun c => { c with l1 := c.l1.del line }
/-- Changes the state of a first-level line that is there. -/
def State.markL1 (s : State) (core line : Nat) (st : L1State) : State :=
  s.updCore core fun c => match c.l1.get? line with
    | some l => { c with l1 := c.l1.put line { l with state := st } }
    | none => c
/-- Changes a level-two line that is there. -/
def State.updL2 (s : State) (q line : Nat) (f : L2Line → L2Line) : State :=
  match (s.l2Q q).get? line with
  | some l => s.setL2 q ((s.l2Q q).put line (f l))
  | none => s

/-- One request of a shed for a line of a level-two slice, counted over the last 16 (R277). -/
def L2Line.ask (l : L2Line) (shed : Nat) : L2Line := { l with asks := (shed :: l.asks).take 16 }
/-- A request of a shed reaches a line of the quarter's level two. -/
def State.askL2 (s : State) (q line shed : Nat) : State := s.updL2 q line (·.ask shed)

/-! ## Eviction (R277, R281, R282) -/

/-- A member of a list of lines that has to make room: which one is the hardware's choice (assumption 7), among those of the lowest
priority where there are any. -/
def victimOf (free : Nat) (l : List (Nat × Bool)) : Option Nat :=
  let low := l.filter (·.2)
  let from_ := if low.isEmpty then l else low
  (from_[Config.freeChoice free % from_.length]?).map (·.1)

/-- A first-level line of a core is given up: dirty data goes back to level two (R282). -/
def State.evictL1 (s : State) (core line : Nat) : State :=
  match (s.core core).l1.get? line with
  | none => s
  | some l =>
    let t := s.dropL1 core line
    if l.state = .s then t
    else t.updL2 (qtrOfCore core) line fun x => { x with state := match x.state with
      | .o _ => if l.state = .m then .d else .s
      | other => other }

/-- MERGE of a line (R279, R288): every partial of the line is applied and cleared, and the line leaves C. -/
def State.mergeLine (s : State) (line : Nat) : State :=
  let s1 := (List.range 8).foldl (fun t i => t.mergeDword (line + 8 * i)) s
  (List.range 4).foldl (fun t q =>
    let t1 := t.setPartials q ((t.partialsQ q).del line)
    match (t1.l2Q q).get? line with
    | some l => if l.state = .c then t1.setL2 q ((t1.l2Q q).del line) else t1
    | none => t1) s1

/-- A level-two line is evicted: its first-level copies go first, a line in C is merged, and the data goes to its home tier, for a dirty
durable line by its DURABLE moves (R386); its F entry goes with it (R277, R279, R282). -/
def State.evictL2 (s : State) (q line : Nat) : State :=
  let t := (s.l1Holders q line).foldl (fun t h => t.evictL1 h.1 line) s
  match (t.l2Q q).get? line with
  | none => t
  | some l =>
    let u := if l.state = .c then t.mergeLine line else if l.state = .d then t.durableLine line else t
    u.setL2 q ((u.l2Q q).del line)
/-- Makes room in a slice of a quarter's level two where it is full. -/
def State.roomL2 (s : State) (q d : Nat) : State :=
  let here := (s.l2Q q).filter fun e => e.2.at_ q e.1 = d
  if here.length < sliceLines then s
  else match victimOf s.free (here.map fun e => (e.1, e.2.low)) with
    | some v => { s.evictL2 q v with free := s.free + 1 }
    | none => s

/-- Puts a line into a core's first level, where the cache is full in another's place. -/
def State.fillL1 (s : State) (core line : Nat) (st : L1State) (low : Bool) : State :=
  let have_ := ((s.core core).l1.get? line).isSome
  let s1 := if have_ || decide ((s.core core).l1.length < l1Lines) then s
    else match victimOf s.free ((s.core core).l1.map fun e => (e.1, e.2.low)) with
      | some v => { s.evictL1 core v with free := s.free + 1 }
      | none => s
  s1.updCore core fun c => { c with l1 := c.l1.put line { state := st, low := match c.l1.get? line with
    | some l => l.low
    | none => low } }
/-- Puts a line into its slice of a quarter's level two, where the slice is full in another's place. -/
def State.fillL2 (s : State) (q line : Nat) (st : L2State) (low : Bool) : State :=
  match (s.l2Q q).get? line with
  | some l => s.setL2 q ((s.l2Q q).put line { l with state := st })
  | none =>
    let s1 := s.roomL2 q (homeSlice q line)
    s1.setL2 q ((s1.l2Q q).put line { state := st, slice := none, asks := [], moved := none, low := low })

/-- The level-two state of a line: a guest where its home is another quarter (R276). -/
def l2StateFor (q line : Nat) (st : L2State) : L2State := if st = .c || home line = q then st else .g

/-! ## Accesses (R275, R276, R281) -/

/-- Does the quarter hold a line, in a first level or in level two? -/
def State.lineHere (s : State) (q line : Nat) : Bool := ((s.l2Q q).get? line).isSome || !(s.l1Holders q line).isEmpty
/-- Is a line of the quarter's level two in C? It changes only by a merge (R279, R281). -/
def State.lineInC (s : State) (q line : Nat) : Bool :=
  match (s.l2Q q).get? line with
  | some l => l.state = .c
  | none => false

/-- Another core reads a line that a core holds in E or M: its copy is clean and shared, and what was dirty goes to level two. -/
def State.shareL1 (s : State) (core line : Nat) : State :=
  match (s.core core).l1.get? line with
  | none => s
  | some l => (s.markL1 core line .s).updL2 (qtrOfCore core) line fun x => { x with state := match x.state with
    | .o _ => if l.state = .m then .d else .s
    | other => other }

/-- A load or `pref` of a line by a core: a hint changes nothing where the line is present (R275, R281). -/
def State.lineRead (s : State) (core loc : Nat) (hint : BitVec 2) : State :=
  let line := lineOf loc
  let q := qtrOfCore core
  let sh := shedOfCore core
  if isPad loc || s.lineInC q line || ((s.core core).l1.get? line).isSome then s
  else if !s.lineHere q line then
    if hint = 2 then s
    else if hint = 1 then (s.fillL2 q line (l2StateFor q line .s) false).askL2 q line sh
    else ((s.fillL2 q line (l2StateFor q line (.o core)) (hint = 3)).askL2 q line sh).fillL1 core line .e (hint = 3)
  else
    -- A dirty copy of another core goes to level two; what was dirty there stays dirty.
    let owners := (s.l1Holders q line).filter fun h => decide (h.2 ≠ L1State.s)
    let s1 := owners.foldl (fun t h => t.shareL1 h.1 line) s
    (s1.askL2 q line sh).fillL1 core line .s false

/-- A store or atomic of a line by a core (R275, R281). -/
def State.lineWrite (s : State) (core loc : Nat) (hint : BitVec 2) : State :=
  let line := lineOf loc
  let q := qtrOfCore core
  let sh := shedOfCore core
  let mine := match (s.core core).l1.get? line with
    | some l => decide (l.state ≠ L1State.s)
    | none => false
  if isPad loc || s.lineInC q line then s
  else if mine then s.markL1 core line .m
  else if !s.lineHere q line && hint = 2 then s
  else if !s.lineHere q line && hint = 1 then (s.fillL2 q line (l2StateFor q line .d) false).askL2 q line sh
  else
    let low := hint = 3 && !s.lineHere q line
    let s1 := (s.l1Holders q line).foldl (fun t h => if h.1 = core then t else t.dropL1 h.1 line) s
    ((s1.fillL2 q line (l2StateFor q line (.o core)) low).askL2 q line sh).fillL1 core line .m low

/-- A reduction's line stands in C in the quarter that holds its partial (R278). What the quarter held of the line goes to its home tier
first, so that nothing dirty is lost (R282). -/
def State.lineReduce (s : State) (q line shed : Nat) : State :=
  ((if s.lineInC q line then s else s.evictL2 q line).fillL2 q line .c false).askL2 q line shed

/-- Cores whose first-level caches a scope of `flush` or `inv` reaches (R309). -/
def State.lineCores (s : State) (core : Nat) (scope : BitVec 3) : List Nat :=
  (s.cores.map (·.1)).filter fun c =>
    if scope.toNat ≤ 1 then c = core
    else if scope.toNat = 2 then shedOfCore c = shedOfCore core
    else if scope.toNat = 3 then qtrOfCore c = qtrOfCore core
    else true
/-- Quarters whose level-two slices the scope reaches. -/
def State.lineQtrs (s : State) (core : Nat) (scope : BitVec 3) : List Nat :=
  if scope.toNat ≤ 2 then [] else if scope.toNat = 3 then [qtrOfCore core] else List.range s.nq

/-- A dirty first-level copy goes back to the line's home tier and stays, clean (R309). -/
def State.flushL1 (s : State) (core line : Nat) : State :=
  match (s.core core).l1.get? line with
  | some l => if l.state = .m then s.markL1 core line .e else s
  | none => s
/-- The same, and the copy goes; level two is left with a clean line, or with what was dirty there. -/
def State.invL1 (s : State) (core line : Nat) : State := (s.flushL1 core line).evictL1 core line

/-- Steps 2 and 3 of R309 for one line. -/
def State.lineClean (s : State) (core loc : Nat) (scope : BitVec 3) (inval : Bool) : State :=
  if isPad loc then s else
  let line := lineOf loc
  let s1 := (s.lineCores core scope).foldl (fun t c => if inval then t.invL1 c line else t.flushL1 c line) s
  (s.lineQtrs core scope).foldl (fun t q =>
    if inval then t.evictL2 q line
    else t.updL2 q line fun l => { l with state := if l.state = .d then .s else l.state }) s1

/-! ## Migration (R277) -/

/-- Has a line stood still for 4,096 network cycles? A cycle is counted at the quarter's present network ratio (assumption 7): at
ratio n/16 of 2.0 GHz a tick has n/8 cycles. -/
def State.movable (s : State) (q : Nat) (l : L2Line) : Bool :=
  match l.moved with
  | none => true
  | some t => decide (4096 * 8 ≤ (s.now - t) * (qtrPoint s.power (s.qtrEntryOf q)).n)

/-- The shed, other than the slice's own, that made at least 12 of a line's last 16 requests. -/
def L2Line.mover (l : L2Line) (q line : Nat) : Option Nat :=
  match l.state with
  | .c | .g => none
  | _ => l.asks.find? fun d => d ≠ l.at_ q line && decide (12 ≤ l.asks.countP (· == d))

/-- Every first-level line of a core is written back and dropped (R148, R282, R341). -/
def State.l1Flush (s : State) (core : Nat) : State := ((s.core core).l1.map (·.1)).foldl (fun t l => t.evictL1 core l) s

end Sys2Proof.Machine
end

