-- ==== Sys2Proof/WellFormed.lean ====
section
/-! DEFINITION. The field checks of R52 step 4: which words of each instruction are well formed, and why another is not. The
checks that need a feature bit are listed apart, because they come after every check that raises the illegal trap. -/
namespace Sys2Proof

/-- Why a word fails a check of R52 step 4 that raises the illegal trap. -/
inductive IllFormed
  /-- R8: a reserved field is not 0. -/
  | reserved
  /-- R26: the high bits of a register field are not 0. -/
  | regHigh
  /-- R29: a TYPE code that the instruction does not accept. -/
  | type
  /-- R30: a rounding code that the instruction does not accept. -/
  | rounding
  /-- R28: SAT where it has no meaning. -/
  | saturation
  /-- R31: a source modifier that breaks its table. -/
  | modifier
  /-- R32: a NARROW that breaks its table. -/
  | narrow
  /-- R35: SCOPE, HINT or SIZE. -/
  | scope
  | hint
  | size
  /-- R36, R37, R236: T-format predicate or types. -/
  | tilePredicate
  | tileType
  /-- R38: place. -/
  | place
  /-- R33, R205: an immediate outside its limit. -/
  | immediate
  /-- R50: SREG names no register, or a read-only one in `swr`. -/
  | sreg
  /-- A limit of the instruction's own description. -/
  | limit
  /-- R51: no instruction is assigned to the word. -/
  | unassigned
  /-- The row is an event of the machine and no instruction word. -/
  | event
deriving DecidableEq, Repr

/-- The first failure of a list of checks. -/
def firstFail : List (Bool × IllFormed) → Option IllFormed
  | [] => none
  | (ok, why) :: t => if ok then firstFail t else some why

/-- How an instruction uses a register field (R26): not at all, as all five bits, or as its low 3, 2 or 4 bits. -/
inductive Use
  | no | r5 | r3 | r2 | r4
deriving DecidableEq, Repr

def Use.check (u : Use) (f : BitVec 5) : Bool × IllFormed :=
  match u with
  | .no => (f = 0, .reserved)
  | .r5 => (true, .regHigh)
  | .r3 => (f.toNat < 8, .regHigh)
  | .r2 => (f.toNat < 4, .regHigh)
  | .r4 => (f.toNat < 16, .regHigh)

/-- Width of a TYPE code (R29). -/
def typeWidth (t : Nat) : Nat :=
  match t with
  | 0 | 1 | 12 | 13 | 14 => 8
  | 2 | 3 | 8 | 9 => 16
  | 4 | 5 | 10 => 32
  | _ => 64
/-- The float family of TYPE codes. -/
def typeFloat (t : Nat) : Bool := decide (8 ≤ t)

/-- How RND is used: not at all, as a rounding mode, as one only for a float TYPE, as BIT (R203), as PART (R220), or in
`vcvt` (R215). -/
inductive RndUse
  | no | mode | modeF | bit | part | cvt
deriving DecidableEq, Repr

/-- How SAT is used: not at all, always, or only for an integer TYPE. -/
inductive SatUse
  | no | yes | intOnly
deriving DecidableEq, Repr

/-- How MODA, MODB or NARROW is used: not at all, as the field of R31, or as the instruction itself says. -/
inductive ModUse
  | no | live | own
deriving DecidableEq, Repr

/-- The use that an RR or V instruction makes of its fields. An empty list of types means that TYPE is reserved. -/
structure RRUse where
  d : Use := .no
  a : Use := .no
  b : Use := .no
  c : Use := .no
  k : Bool := false
  types : List Nat := []
  rnd : RndUse := .no
  sat : SatUse := .no
  moda : ModUse := .no
  modb : ModUse := .no
  narrow : ModUse := .no
deriving DecidableEq, Repr

/-- Container width of a modifier format, or 0 where the code is reserved for the family (R31). -/
def containerBits (float : Bool) (nfmt : Nat) : Nat :=
  match nfmt with
  | 1 | 2 => 16
  | 3 | 4 => 8
  | 5 => if float then 8 else 4
  | 6 => if float then 0 else 4
  | _ => 0

/-- The validity check of a modifier field for a TYPE (R31, R32). -/
def modifierOk (ty : Nat) (m : BitVec 6) : Bool :=
  let nfmt := (m.extractLsb' 3 3).toNat
  let grp := (m.extractLsb' 0 3).toNat
  if nfmt = 0 then decide (grp = 0)
  else
    let n := containerBits (typeFloat ty) nfmt
    decide (n ≠ 0) && decide (n < typeWidth ty) && decide (grp < typeWidth ty / n)

def ModUse.check (u : ModUse) (ty : Nat) (m : BitVec 6) (why : IllFormed) : Bool × IllFormed :=
  match u with
  | .no => (m = 0, .reserved)
  | .live => (modifierOk ty m, why)
  | .own => (true, why)

def RndUse.check (u : RndUse) (ty : Nat) (r : BitVec 3) (src : BitVec 5) : Bool × IllFormed :=
  match u with
  | .no => (r = 0, .rounding)
  | .mode => (decide (r.toNat ≤ 4), .rounding)
  | .modeF => (if typeFloat ty then decide (r.toNat ≤ 4) else r = 0, .rounding)
  | .bit => (decide (r.toNat ≤ 3), .rounding)
  | .part => (decide (r.toNat ≤ 1), .rounding)
  | .cvt => (if typeFloat ty || typeFloat src.toNat then decide (r.toNat ≤ 4) else r = 0, .rounding)

def SatUse.check (u : SatUse) (ty : Nat) (b : BitVec 1) : Bool × IllFormed :=
  match u with
  | .no => (b = 0, .saturation)
  | .yes => (true, .saturation)
  | .intOnly => (!typeFloat ty || b = 0, .saturation)

/-- The checks of an RR or V word. -/
def RRUse.check (u : RRUse) (f : RR) : List (Bool × IllFormed) :=
  let ty := f.ty.toNat
  [u.d.check f.d, u.a.check f.a, u.b.check f.b, u.c.check f.c, (u.k || (f.k = 0 && f.kn = 0), .reserved),
   (if u.types.isEmpty then f.ty = 0 else u.types.contains ty, .type),
   u.rnd.check ty f.rnd f.c, u.sat.check ty f.sat,
   u.moda.check ty f.moda .modifier, u.modb.check ty f.modb .modifier, u.narrow.check ty f.narrow .narrow]

/-- The use that an M-format instruction makes of its fields. -/
structure MUse where
  d : Use := .no
  a : Use := .r5
  b : Use := .no
  c : Use := .no
  k : Bool := false
  sizes : List Nat := [0]
  scopes : List Nat := [0]
  hint : Bool := false
  off : Bool := true
deriving DecidableEq, Repr

/-- The checks of an M-format word. -/
def MUse.check (u : MUse) (f : MF) : List (Bool × IllFormed) :=
  [u.d.check f.d, u.a.check f.a, u.b.check f.b, u.c.check f.c, (u.k || (f.k = 0 && f.kn = 0), .reserved),
   (u.sizes.contains f.size.toNat, .size), (u.scopes.contains f.scope.toNat, .scope), (u.hint || f.hint = 0, .hint),
   (u.off || f.off = 0, .reserved)]

/-- The checks of an RI word with the uses of D and A. -/
def riCheck (d a : Use) (f : RI) : List (Bool × IllFormed) :=
  [d.check f.d, a.check f.a, Use.no.check f.b, Use.no.check f.c, (f.k = 0 && f.kn = 0, .reserved)]

/-- The use that a T-format instruction makes of its fields (R236). -/
structure TUse where
  d : Use := .no
  a : Use := .no
  b : Use := .no
  c : Use := .no
  atypes : List Nat := [0]
  btypes : List Nat := [0]
  acc : Bool := true
  zen : Bool := true
deriving DecidableEq, Repr

/-- Class of R234 that a type code names, 0 for none. -/
def tileClass (code : Nat) : Nat :=
  match code with
  | 1 | 2 | 7 => 1
  | 3 | 4 | 8 => 2
  | 5 | 6 => 3
  | _ => 0

def TUse.check (u : TUse) (f : TF) : List (Bool × IllFormed) :=
  let ca := tileClass f.atype.toNat
  let cb := tileClass f.btype.toNat
  [u.d.check f.d, u.a.check f.a, u.b.check f.b, u.c.check f.c, (f.k = 0 && f.kn = 0, .reserved), (f.lo = 0, .reserved),
   (u.zen || f.zen = 0, .tilePredicate), (f.zen = 1 || f.zp = 0, .tilePredicate), (u.acc || f.acc = 0, .reserved),
   (u.atypes.contains f.atype.toNat, .tileType), (u.btypes.contains f.btype.toNat, .tileType),
   (ca = 0 || cb = 0 || ca = cb, .tileType)]

/-- The checks of `sendr` and `sendr.v` (R38, R120). -/
def sendCheck (f : XF) : List (Bool × IllFormed) :=
  [(f.d = 0, .reserved), (f.c = 0, .reserved), (f.k = 0 && f.kn = 0, .reserved), (f.lo = 0, .reserved),
   (f.preg = 1 || f.b = 0, .reserved),
   (if f.preg = 1 then f.dx = 0 && f.dy = 0 && f.role = 0 else f.role ≠ 3, .place)]

/-- SREG numbers of R49, and those that `swr` may write. -/
def sregExists (n : Nat) : Bool :=
  [0x000, 0x001, 0x002, 0x003, 0x004, 0x005, 0x008, 0x009, 0x00C, 0x010, 0x011, 0x020, 0x030, 0x040, 0x050, 0x051,
   0x052, 0x053, 0x0F0, 0x0F1, 0x0F2, 0x0F3, 0x0F4, 0x0F5, 0x0F6, 0x0F7, 0x100, 0x101, 0x102].contains n
def sregWritable (n : Nat) : Bool :=
  [0x000, 0x001, 0x002, 0x003, 0x004, 0x005, 0x008, 0x009, 0x010, 0x011, 0x050, 0x051, 0x052, 0x053].contains n

def srdCheck (f : SF) : List (Bool × IllFormed) :=
  [(f.a = 0, .reserved), (f.b = 0, .reserved), (f.c = 0, .reserved), (f.k = 0 && f.kn = 0, .reserved),
   (f.hi = 0, .reserved), (sregExists f.sreg.toNat, .sreg)]
def swrCheck (f : SF) : List (Bool × IllFormed) :=
  [(f.d = 0, .reserved), (f.b = 0, .reserved), (f.c = 0, .reserved), (f.k = 0 && f.kn = 0, .reserved),
   (f.hi = 0, .reserved), (sregWritable f.sreg.toNat, .sreg)]

/-- TYPE codes: the integer codes 0 to 7, the scalar float codes, and the float codes of the vector forms (R29, R214). -/
def tI : List Nat := [0, 1, 2, 3, 4, 5, 6, 7]
def tF : List Nat := [8, 9, 10, 12, 13, 14]
def tA : List Nat := [8, 9, 10, 11]
def tS : List Nat := [8, 9, 10, 11, 12, 13, 14]
def tIF : List Nat := tI ++ tF

/-- A source-type code in C (R57, R218, R252): bit 4 is 0 and the code is in the list. -/
def srcType (c : BitVec 5) (ts : List Nat) : Bool × IllFormed := (ts.contains c.toNat, .type)

/-- `vcvt`'s groups (R218). -/
def vcvtGroups (f : RR) : Bool :=
  let w := typeWidth f.ty.toNat
  let ws := typeWidth f.c.toNat
  let m := max w ws
  decide (f.moda.toNat < m / ws) && decide (f.narrow.toNat < m / w)

/-- The modifiers of `vdot4` and `vdot2`: a format of the family whose container is W/m, group 0 (R224). -/
def dotModifier (ty m : Nat) (f : BitVec 6) : Bool :=
  let nfmt := (f.extractLsb' 3 3).toNat
  decide (nfmt ≠ 0) && decide ((f.extractLsb' 0 3).toNat = 0) &&
  decide (containerBits (typeFloat ty) nfmt = typeWidth ty / m) && decide (typeWidth ty / m ≠ 0)

/-- The checks of R52 step 4 that raise the illegal trap, by instruction. -/
def wfChecks : Instr → List (Bool × IllFormed)
  | .yardWe f => ({ d := .r5, a := .r5, b := .r5, c := .r5 } : RRUse).check f
  | .yardWf f => ({ d := .r5, a := .r5 } : RRUse).check f
  | .yardCmt f => ({ d := .r5, a := .r5 } : RRUse).check f
  | .yardRd f => ({ d := .r5, a := .r5 } : RRUse).check f
  | .yardPin f => ({ d := .r5, a := .r5 } : RRUse).check f
  | .yardUnpin f => ({ a := .r5 } : RRUse).check f
  | .yardGen f => ({ d := .r5, a := .r5 } : RRUse).check f
  | .halt f => ({  } : RRUse).check f
  | .yield f => ({  } : RRUse).check f
  | .start f => ({ d := .r5, a := .r5, b := .r5, c := .r5 } : RRUse).check f
  | .startTry f => ({ d := .r5, a := .r5, b := .r5, c := .r5 } : RRUse).check f
  | .stop f => ({ a := .r5 } : RRUse).check f
  | .hlive f => ({ d := .r5 } : RRUse).check f
  | .sendr f => sendCheck f
  | .sendrV f => sendCheck f
  | .mtake f => ({ d := .r5, a := .r5, c := .r5 } : RRUse).check f
  | .mpeek f => ({ d := .r5, a := .r5, c := .r5 } : RRUse).check f
  | .mclr f => ({ a := .r5 } : RRUse).check f
  | .clkRd f => ({ d := .r5, a := .r5 } : RRUse).check f
  | .clkReq f => ({ d := .r5, a := .r5 } : RRUse).check f
  | .clkAck f => ({ d := .r5, a := .r5 } : RRUse).check f
  | .pwrRd f => ({ d := .r5, a := .r5 } : RRUse).check f
  | .srd f => srdCheck f
  | .swr f => swrCheck f
  | .eret f => ({  } : RRUse).check f
  | .eccInj f => ({ a := .r5, b := .r5 } : RRUse).check f
  | .trap f => riCheck .no .no f
  | .icinv f => ({ b := .r5, scopes := [1, 2, 3, 4] } : MUse).check f
  | .tlbinv f => ({ b := .r5, scopes := [1, 2, 3, 4] } : MUse).check f
  | .add f => ({ d := .r5, a := .r5, b := .r5, types := tI, sat := .yes } : RRUse).check f
  | .sub f => ({ d := .r5, a := .r5, b := .r5, types := tI, sat := .yes } : RRUse).check f
  | .mul f => ({ d := .r5, a := .r5, b := .r5, types := tI, sat := .yes } : RRUse).check f
  | .mulh f => ({ d := .r5, a := .r5, b := .r5, types := tI } : RRUse).check f
  | .div f => ({ d := .r5, a := .r5, b := .r5, types := tI, sat := .yes } : RRUse).check f
  | .rem f => ({ d := .r5, a := .r5, b := .r5, types := tI } : RRUse).check f
  | .and f => ({ d := .r5, a := .r5, b := .r5, types := tI } : RRUse).check f
  | .or f => ({ d := .r5, a := .r5, b := .r5, types := tI } : RRUse).check f
  | .xor f => ({ d := .r5, a := .r5, b := .r5, types := tI } : RRUse).check f
  | .andn f => ({ d := .r5, a := .r5, b := .r5, types := tI } : RRUse).check f
  | .shl f => ({ d := .r5, a := .r5, b := .r5, types := tI, sat := .yes } : RRUse).check f
  | .shr f => ({ d := .r5, a := .r5, b := .r5, types := tI } : RRUse).check f
  | .sra f => ({ d := .r5, a := .r5, b := .r5, types := tI } : RRUse).check f
  | .rol f => ({ d := .r5, a := .r5, b := .r5, types := tI } : RRUse).check f
  | .min f => ({ d := .r5, a := .r5, b := .r5, types := tI } : RRUse).check f
  | .max f => ({ d := .r5, a := .r5, b := .r5, types := tI } : RRUse).check f
  | .abs f => ({ d := .r5, a := .r5, types := tI, sat := .yes } : RRUse).check f
  | .neg f => ({ d := .r5, a := .r5, types := tI, sat := .yes } : RRUse).check f
  | .clz f => ({ d := .r5, a := .r5, types := tI } : RRUse).check f
  | .ctz f => ({ d := .r5, a := .r5, types := tI } : RRUse).check f
  | .popc f => ({ d := .r5, a := .r5, types := tI } : RRUse).check f
  | .bfx f => ({ d := .r5, a := .r5, b := .r5, types := [6, 7] } : RRUse).check f
  | .bfi f => ({ d := .r5, a := .r5, b := .r5, c := .r5, types := [6, 7] } : RRUse).check f
  | .lea f => ({ d := .r5, a := .r5, b := .r5, c := .r5, types := tI } : RRUse).check f
  | .mov f => ({ d := .r5, a := .r5, types := tI } : RRUse).check f
  | .cmp f => ({ a := .r5, b := .r5, d := .r2, types := tI } : RRUse).check f
  | .csel f => ({ d := .r5, a := .r5, b := .r5, c := .r2, rnd := .bit, sat := .yes } : RRUse).check f
  | .setc f => ({ d := .r5, c := .r2, rnd := .bit, sat := .yes } : RRUse).check f
  | .decz f => ({ d := .r5, a := .r5, c := .r2 } : RRUse).check f
  | .addi f => riCheck .r5 .r5 f
  | .andi f => riCheck .r5 .r5 f
  | .ori f => riCheck .r5 .r5 f
  | .xori f => riCheck .r5 .r5 f
  | .li f => riCheck .r5 .no f
  | .lih f => riCheck .r5 .r5 f
  | .cmpi f => riCheck .r2 .r5 f
  | .shli f => riCheck .r5 .r5 f ++ [(decide (f.imm.toNat ≤ 63), .immediate)]
  | .shri f => riCheck .r5 .r5 f ++ [(decide (f.imm.toNat ≤ 63), .immediate)]
  | .srai f => riCheck .r5 .r5 f ++ [(decide (f.imm.toNat ≤ 63), .immediate)]
  | .fadd f => ({ d := .r5, a := .r5, b := .r5, types := tA, rnd := .mode, sat := .yes } : RRUse).check f
  | .fsub f => ({ d := .r5, a := .r5, b := .r5, types := tA, rnd := .mode, sat := .yes } : RRUse).check f
  | .fmul f => ({ d := .r5, a := .r5, b := .r5, types := tA, rnd := .mode, sat := .yes } : RRUse).check f
  | .fdiv f => ({ d := .r5, a := .r5, b := .r5, types := tA, rnd := .mode, sat := .yes } : RRUse).check f
  | .fsqrt f => ({ d := .r5, a := .r5, types := tA, rnd := .mode, sat := .yes } : RRUse).check f
  | .fma f => ({ d := .r5, a := .r5, b := .r5, c := .r5, types := tA, rnd := .mode, sat := .yes } : RRUse).check f
  | .fmin f => ({ d := .r5, a := .r5, b := .r5, types := tS } : RRUse).check f
  | .fmax f => ({ d := .r5, a := .r5, b := .r5, types := tS } : RRUse).check f
  | .fabs f => ({ d := .r5, a := .r5, types := tS } : RRUse).check f
  | .fneg f => ({ d := .r5, a := .r5, types := tS } : RRUse).check f
  | .fcmp f => ({ a := .r5, b := .r5, d := .r2, types := tS } : RRUse).check f
  | .fclass f => ({ d := .r5, a := .r5, types := tS } : RRUse).check f
  | .fcvt f => ({ d := .r5, a := .r5, c := .r5, types := tS, rnd := .mode, sat := .yes } : RRUse).check f ++ [srcType f.c tS]
  | .ftoi f => ({ d := .r5, a := .r5, c := .r5, types := tI, rnd := .mode } : RRUse).check f ++ [srcType f.c tS]
  | .itof f => ({ d := .r5, a := .r5, c := .r5, types := tS, rnd := .mode, sat := .yes } : RRUse).check f ++ [srcType f.c tI]
  | .vadd f => ({ d := .r5, a := .r5, b := .r5, types := tIF, rnd := .modeF, sat := .yes, moda := .live, modb := .live, narrow := .live, k := true } : RRUse).check f
  | .vsub f => ({ d := .r5, a := .r5, b := .r5, types := tIF, rnd := .modeF, sat := .yes, moda := .live, modb := .live, narrow := .live, k := true } : RRUse).check f
  | .vmul f => ({ d := .r5, a := .r5, b := .r5, types := tIF, rnd := .modeF, sat := .yes, moda := .live, modb := .live, narrow := .live, k := true } : RRUse).check f
  | .vmulh f => ({ d := .r5, a := .r5, b := .r5, types := tI, moda := .live, modb := .live, k := true } : RRUse).check f
  | .vfma f => ({ d := .r5, a := .r5, b := .r5, c := .r5, types := tIF, rnd := .modeF, sat := .yes, moda := .live, modb := .live, narrow := .live, k := true } : RRUse).check f
  | .vmin f => ({ d := .r5, a := .r5, b := .r5, types := tIF, moda := .live, modb := .live, narrow := .live, k := true } : RRUse).check f
  | .vmax f => ({ d := .r5, a := .r5, b := .r5, types := tIF, moda := .live, modb := .live, narrow := .live, k := true } : RRUse).check f
  | .vabs f => ({ d := .r5, a := .r5, types := tIF, sat := .intOnly, moda := .live, narrow := .live, k := true } : RRUse).check f
  | .vneg f => ({ d := .r5, a := .r5, types := tIF, sat := .intOnly, moda := .live, narrow := .live, k := true } : RRUse).check f
  | .vand f => ({ d := .r5, a := .r5, b := .r5, types := tI, moda := .live, modb := .live, k := true } : RRUse).check f
  | .vor f => ({ d := .r5, a := .r5, b := .r5, types := tI, moda := .live, modb := .live, k := true } : RRUse).check f
  | .vxor f => ({ d := .r5, a := .r5, b := .r5, types := tI, moda := .live, modb := .live, k := true } : RRUse).check f
  | .vandn f => ({ d := .r5, a := .r5, b := .r5, types := tI, moda := .live, modb := .live, k := true } : RRUse).check f
  | .vshl f => ({ d := .r5, a := .r5, b := .r5, types := tI, sat := .yes, moda := .live, modb := .live, narrow := .live, k := true } : RRUse).check f
  | .vshr f => ({ d := .r5, a := .r5, b := .r5, types := tI, moda := .live, modb := .live, k := true } : RRUse).check f
  | .vsra f => ({ d := .r5, a := .r5, b := .r5, types := tI, moda := .live, modb := .live, k := true } : RRUse).check f
  | .vcmp f => ({ a := .r5, b := .r5, d := .r3, types := tIF, rnd := .bit, sat := .yes, moda := .live, modb := .live, k := true } : RRUse).check f
  | .vsel f => ({ d := .r5, a := .r5, b := .r5, c := .r3, types := tIF, moda := .live, modb := .live, k := true } : RRUse).check f
  | .vcvt f => ({ d := .r5, a := .r5, c := .r5, types := tIF, rnd := .cvt, sat := .yes, moda := .own, narrow := .own, k := true } : RRUse).check f ++ [srcType f.c tIF, (vcvtGroups f, .modifier)]
  | .vdiv f => ({ d := .r5, a := .r5, b := .r5, types := tIF, rnd := .modeF, sat := .yes, moda := .live, modb := .live, narrow := .live, k := true } : RRUse).check f
  | .vsqrt f => ({ d := .r5, a := .r5, types := tF, rnd := .mode, sat := .yes, moda := .live, narrow := .live, k := true } : RRUse).check f
  | .vperm f => ({ d := .r5, a := .r5, b := .r5, c := .r5, types := [1], k := true } : RRUse).check f
  | .vlut16 f => ({ d := .r5, a := .r5, b := .r5, c := .r5, types := [0, 1, 2, 3, 8, 9, 12, 13, 14], modb := .own, k := true } : RRUse).check f ++ [(typeWidth f.ty.toNat ≠ 8 || f.c = 0, .reserved), (decide (f.modb.toNat < typeWidth f.ty.toNat / 4), .modifier)]
  | .vbcast f => ({ d := .r5, a := .r5, types := tIF, k := true } : RRUse).check f
  | .vins f => ({ d := .r5, a := .r5, b := .r5, types := tIF, k := true } : RRUse).check f
  | .vext f => ({ d := .r5, a := .r5, b := .r5, types := tIF } : RRUse).check f
  | .vzip f => ({ d := .r5, a := .r5, b := .r5, types := tIF, rnd := .part, k := true } : RRUse).check f
  | .vunzip f => ({ d := .r5, a := .r5, b := .r5, types := tIF, rnd := .part, k := true } : RRUse).check f
  | .vdot4 f => ({ d := .r5, a := .r5, b := .r5, c := .r5, types := [2, 3, 4, 5, 10], rnd := .modeF, sat := .yes, moda := .own, modb := .own, k := true } : RRUse).check f ++ [(dotModifier f.ty.toNat 4 f.moda, .modifier), (dotModifier f.ty.toNat 4 f.modb, .modifier)]
  | .vdot2 f => ({ d := .r5, a := .r5, b := .r5, c := .r5, types := [2, 3, 4, 5, 8, 9, 10], rnd := .modeF, sat := .yes, moda := .own, modb := .own, k := true } : RRUse).check f ++ [(dotModifier f.ty.toNat 2 f.moda, .modifier), (dotModifier f.ty.toNat 2 f.modb, .modifier)]
  | .vredAdd f => ({ d := .r5, a := .r5, c := .r5, types := tIF, rnd := .modeF, sat := .yes, moda := .live, k := true } : RRUse).check f
  | .vredMax f => ({ d := .r5, a := .r5, c := .r5, types := tIF, moda := .live, k := true } : RRUse).check f
  | .vredMin f => ({ d := .r5, a := .r5, c := .r5, types := tIF, moda := .live, k := true } : RRUse).check f
  | .kand f => ({ d := .r3, a := .r3, b := .r3 } : RRUse).check f
  | .kor f => ({ d := .r3, a := .r3, b := .r3 } : RRUse).check f
  | .kxor f => ({ d := .r3, a := .r3, b := .r3 } : RRUse).check f
  | .knot f => ({ d := .r3, a := .r3 } : RRUse).check f
  | .kmov f => ({ d := .r3, a := .r3 } : RRUse).check f
  | .kpop f => ({ d := .r5, a := .r3 } : RRUse).check f
  | .kset f => ({ d := .r3, a := .r5 } : RRUse).check f
  | .krd f => ({ d := .r5, a := .r3 } : RRUse).check f
  | .seqBeg f => ({  } : RRUse).check f
  | .seqLoop f => ({ a := .r5, b := .r5 } : RRUse).check f
  | .seqEnd f => ({  } : RRUse).check f
  | .seqWait f => ({  } : RRUse).check f
  | .ld f => ({ d := .r5, sizes := [0, 1, 2, 3], hint := true } : MUse).check f
  | .ldu f => ({ d := .r5, sizes := [0, 1, 2, 3], hint := true } : MUse).check f
  | .ldAcq f => ({ d := .r5, sizes := [0, 1, 2, 3], scopes := [0, 1, 2, 3, 4, 5], hint := true } : MUse).check f
  | .vld f => ({ d := .r5, k := true, sizes := [4], hint := true } : MUse).check f
  | .vldRaw f => ({ d := .r5, k := true, sizes := [4], hint := true } : MUse).check f
  | .st f => ({ b := .r5, sizes := [0, 1, 2, 3], hint := true } : MUse).check f
  | .stRel f => ({ b := .r5, sizes := [0, 1, 2, 3], scopes := [0, 1, 2, 3, 4, 5, 6], hint := true } : MUse).check f
  | .vst f => ({ b := .r5, k := true, sizes := [4], hint := true } : MUse).check f
  | .ldF f => ({ d := .r5, sizes := [3] } : MUse).check f
  | .ldFe f => ({ d := .r5, sizes := [3] } : MUse).check f
  | .stEf f => ({ b := .r5, sizes := [3] } : MUse).check f
  | .stF f => ({ b := .r5, sizes := [3] } : MUse).check f
  | .tagSet f => ({ sizes := [3] } : MUse).check f
  | .tagClr f => ({ sizes := [3] } : MUse).check f
  | .pref f => ({ hint := true } : MUse).check f
  | .flush f => ({ scopes := [0, 1, 2, 3, 4, 5] } : MUse).check f
  | .inv f => ({ scopes := [0, 1, 2, 3, 4, 5] } : MUse).check f
  | .amoAdd f => ({ d := .r5, b := .r5, sizes := [2, 3], scopes := [0, 1, 2, 3, 4, 5] } : MUse).check f
  | .amoAnd f => ({ d := .r5, b := .r5, sizes := [2, 3], scopes := [0, 1, 2, 3, 4, 5] } : MUse).check f
  | .amoOr f => ({ d := .r5, b := .r5, sizes := [2, 3], scopes := [0, 1, 2, 3, 4, 5] } : MUse).check f
  | .amoXor f => ({ d := .r5, b := .r5, sizes := [2, 3], scopes := [0, 1, 2, 3, 4, 5] } : MUse).check f
  | .amoMin f => ({ d := .r5, b := .r5, sizes := [2, 3], scopes := [0, 1, 2, 3, 4, 5] } : MUse).check f
  | .amoMax f => ({ d := .r5, b := .r5, sizes := [2, 3], scopes := [0, 1, 2, 3, 4, 5] } : MUse).check f
  | .amoMinu f => ({ d := .r5, b := .r5, sizes := [2, 3], scopes := [0, 1, 2, 3, 4, 5] } : MUse).check f
  | .amoMaxu f => ({ d := .r5, b := .r5, sizes := [2, 3], scopes := [0, 1, 2, 3, 4, 5] } : MUse).check f
  | .amoSwap f => ({ d := .r5, b := .r5, sizes := [2, 3], scopes := [0, 1, 2, 3, 4, 5] } : MUse).check f
  | .amoCas f => ({ d := .r5, b := .r5, c := .r5, sizes := [2, 3], scopes := [0, 1, 2, 3, 4, 5] } : MUse).check f
  | .redAdd f => ({ b := .r5, sizes := [2, 3] } : MUse).check f
  | .redAnd f => ({ b := .r5, sizes := [2, 3] } : MUse).check f
  | .redOr f => ({ b := .r5, sizes := [2, 3] } : MUse).check f
  | .redXor f => ({ b := .r5, sizes := [2, 3] } : MUse).check f
  | .redMin f => ({ b := .r5, sizes := [2, 3] } : MUse).check f
  | .redMax f => ({ b := .r5, sizes := [2, 3] } : MUse).check f
  | .redMinu f => ({ b := .r5, sizes := [2, 3] } : MUse).check f
  | .redMaxu f => ({ b := .r5, sizes := [2, 3] } : MUse).check f
  | .fence f => ({ a := .no, scopes := [0, 1, 2, 3, 4, 5, 6], off := false } : MUse).check f
  | .fenceAcq f => ({ a := .no, scopes := [0, 1, 2, 3, 4, 5], off := false } : MUse).check f
  | .fenceRel f => ({ a := .no, scopes := [0, 1, 2, 3, 4, 5, 6], off := false } : MUse).check f
  | .wait f => riCheck .no .no f
  | .waita f => ({ d := .r5, b := .r5, sizes := [3] } : MUse).check f
  | .semP f => ({ d := .r5, a := .r3 } : RRUse).check f
  | .semV f => ({ d := .r5, a := .r3, b := .r5 } : RRUse).check f
  | .semRd f => ({ d := .r5, a := .r3 } : RRUse).check f
  | .bar f => ({ d := .r5 } : RRUse).check f
  | .copy f => ({ a := .r5 } : RRUse).check f
  | .copy2 f => ({ a := .r5 } : RRUse).check f
  | .get f => ({ a := .r5 } : RRUse).check f
  | .put f => ({ a := .r5 } : RRUse).check f
  | .puta f => ({ a := .r5 } : RRUse).check f
  | .wsig f => ({ a := .r5 } : RRUse).check f
  | .digest f => ({ a := .r5 } : RRUse).check f
  | .ccntRd f => ({ d := .r5, a := .r4 } : RRUse).check f
  | .ccntWait f => ({ a := .r4, b := .r5 } : RRUse).check f
  | .collStart f => ({ d := .r5, a := .r5 } : RRUse).check f
  | .collWait f => ({ d := .r5, a := .r5 } : RRUse).check f
  | .buoy f => ({ a := .r5, b := .r5 } : RRUse).check f
  | .buoySeal f => ({ d := .r5, a := .r5, b := .r5 } : RRUse).check f
  | .lhSt f => ({ d := .r5, a := .r5 } : RRUse).check f
  | .tzero f => ({ } : TUse).check f
  | .tmma f => ({ d := .r5, a := .r5, b := .r5, c := .r5, atypes := [0, 1, 2, 3, 4, 5, 6, 7, 8], btypes := [0, 1, 2, 3, 4, 5, 6, 8] } : TUse).check f
  | .gmma f => ({ d := .r5, a := .r5, b := .r5, c := .r5, atypes := [0, 1, 2, 3, 4, 5, 6, 7, 8], btypes := [0, 1, 2, 3, 4, 5, 6, 8], zen := false } : TUse).check f
  | .tdrain f => ({ a := .r5, c := .r5, atypes := [0, 1] } : TUse).check f
  | .tdrainColl f => ({ a := .r5, b := .r5, c := .r5 } : TUse).check f
  | .zset f => ({ d := .r4, a := .r5, acc := false, zen := false } : TUse).check f
  | .zclr f => ({ d := .r4, acc := false, zen := false } : TUse).check f
  | .cvtT f => ({ d := .r5, a := .r5, b := .r5, c := .r5, types := [0, 1, 2, 3, 4, 5, 6, 7, 8, 9, 10, 12, 13, 14], rnd := .mode, sat := .yes } : RRUse).check f ++ [srcType f.c tIF]
  | .amaxRd f => ({ d := .r5, a := .r5 } : RRUse).check f
  | .amaxClr f => ({ d := .r5 } : RRUse).check f
  | .cbkLd f => ({ a := .r5, b := .r5 } : RRUse).check f
  | .cbkRd f => ({ d := .r5, a := .r5 } : RRUse).check f
  | .gmCfg f => ({ a := .r5 } : RRUse).check f
  | .gmStep f => ({ d := .r5, a := .r5 } : RRUse).check f
  | .gmMask f => ({ d := .r5, a := .r5 } : RRUse).check f ++ [(decide (f.d.toNat % 4 = 0), .limit)]
  | .gmForce f => ({ d := .r5 } : RRUse).check f
  | .gmReset f => ({  } : RRUse).check f
  | .gmSt f => ({ d := .r5, a := .r5 } : RRUse).check f
  | .swrCodeBounds f => swrCheck f ++ [(f.sreg = 0x010 || f.sreg = 0x011, .sreg)]
  | .unassignedEncoding _ => [(false, .unassigned)]
  | .seqRepetition _ => [(false, .event)]
  | .barrierEpisodeComplete _ => [(false, .event)]
  | .collectiveComplete _ => [(false, .event)]
  | .gmmaJoin _ _ => [(false, .event)]
  | .tileOpRetire _ => [(false, .event)]
  | .cvtRetire _ => [(false, .event)]
  | .blockEnd _ => [(false, .event)]
  | .contextRetirement _ => [(false, .event)]
  | .coreHalted _ => [(false, .event)]
  | .sleepWake _ => [(false, .event)]
  | .messageAccept _ _ => [(false, .event)]
  | .pinRevocation _ _ => [(false, .event)]
  | .yardBackgroundInvalidate _ _ => [(false, .event)]
  | .perform _ _ => [(false, .event)]
  | .propagate _ _ => [(false, .event)]
  | .apply _ _ => [(false, .event)]
  | .read _ _ _ => [(false, .event)]
  | .atomic _ _ => [(false, .event)]
  | .reduce _ _ => [(false, .event)]
  | .merge _ => [(false, .event)]
  | .engineStep _ _ => [(false, .event)]
  | .flag _ => [(false, .event)]
  | .durable _ _ => [(false, .event)]
  | .lineMigration _ => [(false, .event)]
  | .durableWriteback _ => [(false, .event)]
  | .pageWalk _ _ _ => [(false, .event)]
  | .faultRecordWrite _ _ => [(false, .event)]
  | .referralResponse _ _ => [(false, .event)]
  | .checkerMismatch _ => [(false, .event)]
  | .checksumMismatch _ => [(false, .event)]
  | .poisonConsumed _ => [(false, .event)]
  | .containment _ _ => [(false, .event)]
  | .selfTestComplete _ => [(false, .event)]
  | .coreRestart _ => [(false, .event)]
  | .sweep _ _ => [(false, .event)]
  | .eccReencode _ => [(false, .event)]
  | .packageReset => [(false, .event)]
  | .dieReset _ => [(false, .event)]
  | .dieReturn _ => [(false, .event)]
  | .masterHandover => [(false, .event)]
  | .lighthouseOutOfService _ => [(false, .event)]
  | .lighthouseReturn _ => [(false, .event)]
  | .lighthouseResyncEnd _ => [(false, .event)]
  | .capSelectChange _ => [(false, .event)]
  | .arbiterEvaluate => [(false, .event)]
  | .deferredEvaluation => [(false, .event)]
  | .clockTransitionEnd => [(false, .event)]
  | .energyCharge => [(false, .event)]
  | .periodRefill _ => [(false, .event)]
  | .launch _ => [(false, .event)]
  | .load _ => [(false, .event)]
  | .unload _ => [(false, .event)]
  | .stopCommand _ => [(false, .event)]
  | .query _ => [(false, .event)]
  | .gangReady _ => [(false, .event)]
  | .gangPlace _ => [(false, .event)]
  | .gangRelease _ => [(false, .event)]
  | .gangSwitchDecide _ => [(false, .event)]
  | .sliceExpiry _ => [(false, .event)]
  | .switchStop _ => [(false, .event)]
  | .saveComplete _ => [(false, .event)]
  | .restoreRelease _ => [(false, .event)]
  | .gangComplete _ => [(false, .event)]
  | .ident _ _ => [(false, .event)]
  | .attest _ _ => [(false, .event)]
  | .bind _ _ => [(false, .event)]
  | .paddock _ _ => [(false, .event)]
  | .vfcfg _ _ => [(false, .event)]
  | .vfreset _ _ => [(false, .event)]
  | .shedScrub _ => [(false, .event)]
  | .migrate _ _ => [(false, .event)]
  | .tables _ _ => [(false, .event)]
  | .fwstage _ _ => [(false, .event)]
  | .fwact _ _ => [(false, .event)]
  | .errlog _ => [(false, .event)]
  | .layup _ _ => [(false, .event)]
  | .layupRestore _ _ => [(false, .event)]
  | .unknownOpc _ _ => [(false, .event)]
  | .droppedPacket _ => [(false, .event)]

/-- The first check of R52 step 4 that an instruction fails, or none for a well-formed instruction. -/
def WellFormed.check (i : Instr) : Option IllFormed := firstFail (wfChecks i)

/-- An instruction word that passes every check that raises the illegal trap at step 4. A `swr` of a code bound is the row
SWR_CODE_BOUNDS. -/
def WellFormed (i : Instr) : Prop :=
  WellFormed.check i = none ∧ (match i with | .swr f => f.sreg ≠ 0x010 ∧ f.sreg ≠ 0x011 | _ => True)

/-! ## Features (R52 steps 2 and 4) -/

/-- Features that an FP8 code needs: bit 7 (R29); FP64 needs bit 1. -/
def typeFeature (t : Nat) : List Nat := if t = 11 then [1] else if t = 12 || t = 13 then [7] else []
/-- FP8 modifier formats need bit 7 (R31). -/
def modFeature (ty : Nat) (m : BitVec 6) : List Nat :=
  let n := (m.extractLsb' 3 3).toNat
  if typeFloat ty && (n = 3 || n = 4) then [7] else []
/-- ATYPE and BTYPE codes (R37). -/
def tileFeature (code : Nat) : List Nat := if code = 3 || code = 4 then [7] else if code = 7 then [5] else []
/-- SCOPE 6 (R35). -/
def scopeFeature (sc : BitVec 3) : List Nat := if sc = 6 then [4] else []

/-- The feature bit of an instruction's major opcode or FUNC (R52 step 2, R56 to R62). -/
def majorFeature : Instr → Nat
  | .redAdd _ | .redAnd _ | .redOr _ | .redXor _ | .redMin _ | .redMax _ | .redMinu _ | .redMaxu _ => 3
  | .lhSt _ => 4
  | .gmma _ => 6
  | .cbkLd _ | .cbkRd _ => 5
  | .gmCfg _ | .gmStep _ | .gmMask _ | .gmForce _ | .gmReset _ | .gmSt _ => 2
  | _ => 0

/-- Feature bits that the field codes of an instruction need (R52 step 4). -/
def fieldFeatures : Instr → List Nat
  | .fadd f => typeFeature f.ty.toNat
  | .fsub f => typeFeature f.ty.toNat
  | .fmul f => typeFeature f.ty.toNat
  | .fdiv f => typeFeature f.ty.toNat
  | .fsqrt f => typeFeature f.ty.toNat
  | .fma f => typeFeature f.ty.toNat
  | .fmin f => typeFeature f.ty.toNat
  | .fmax f => typeFeature f.ty.toNat
  | .fabs f => typeFeature f.ty.toNat
  | .fneg f => typeFeature f.ty.toNat
  | .fcmp f => typeFeature f.ty.toNat
  | .fclass f => typeFeature f.ty.toNat
  | .fcvt f => typeFeature f.ty.toNat ++ typeFeature f.c.toNat
  | .ftoi f => typeFeature f.ty.toNat ++ typeFeature f.c.toNat
  | .itof f => typeFeature f.ty.toNat ++ typeFeature f.c.toNat
  | .cvtT f => typeFeature f.ty.toNat ++ typeFeature f.c.toNat
  | .vcvt f => typeFeature f.ty.toNat ++ typeFeature f.c.toNat
  | .vadd f => typeFeature f.ty.toNat ++ modFeature f.ty.toNat f.moda ++ modFeature f.ty.toNat f.modb ++ modFeature f.ty.toNat f.narrow
  | .vsub f => typeFeature f.ty.toNat ++ modFeature f.ty.toNat f.moda ++ modFeature f.ty.toNat f.modb ++ modFeature f.ty.toNat f.narrow
  | .vmul f => typeFeature f.ty.toNat ++ modFeature f.ty.toNat f.moda ++ modFeature f.ty.toNat f.modb ++ modFeature f.ty.toNat f.narrow
  | .vmulh f => typeFeature f.ty.toNat ++ modFeature f.ty.toNat f.moda ++ modFeature f.ty.toNat f.modb ++ modFeature f.ty.toNat f.narrow
  | .vfma f => typeFeature f.ty.toNat ++ modFeature f.ty.toNat f.moda ++ modFeature f.ty.toNat f.modb ++ modFeature f.ty.toNat f.narrow
  | .vmin f => typeFeature f.ty.toNat ++ modFeature f.ty.toNat f.moda ++ modFeature f.ty.toNat f.modb ++ modFeature f.ty.toNat f.narrow
  | .vmax f => typeFeature f.ty.toNat ++ modFeature f.ty.toNat f.moda ++ modFeature f.ty.toNat f.modb ++ modFeature f.ty.toNat f.narrow
  | .vabs f => typeFeature f.ty.toNat ++ modFeature f.ty.toNat f.moda ++ modFeature f.ty.toNat f.modb ++ modFeature f.ty.toNat f.narrow
  | .vneg f => typeFeature f.ty.toNat ++ modFeature f.ty.toNat f.moda ++ modFeature f.ty.toNat f.modb ++ modFeature f.ty.toNat f.narrow
  | .vand f => typeFeature f.ty.toNat ++ modFeature f.ty.toNat f.moda ++ modFeature f.ty.toNat f.modb ++ modFeature f.ty.toNat f.narrow
  | .vor f => typeFeature f.ty.toNat ++ modFeature f.ty.toNat f.moda ++ modFeature f.ty.toNat f.modb ++ modFeature f.ty.toNat f.narrow
  | .vxor f => typeFeature f.ty.toNat ++ modFeature f.ty.toNat f.moda ++ modFeature f.ty.toNat f.modb ++ modFeature f.ty.toNat f.narrow
  | .vandn f => typeFeature f.ty.toNat ++ modFeature f.ty.toNat f.moda ++ modFeature f.ty.toNat f.modb ++ modFeature f.ty.toNat f.narrow
  | .vshl f => typeFeature f.ty.toNat ++ modFeature f.ty.toNat f.moda ++ modFeature f.ty.toNat f.modb ++ modFeature f.ty.toNat f.narrow
  | .vshr f => typeFeature f.ty.toNat ++ modFeature f.ty.toNat f.moda ++ modFeature f.ty.toNat f.modb ++ modFeature f.ty.toNat f.narrow
  | .vsra f => typeFeature f.ty.toNat ++ modFeature f.ty.toNat f.moda ++ modFeature f.ty.toNat f.modb ++ modFeature f.ty.toNat f.narrow
  | .vcmp f => typeFeature f.ty.toNat ++ modFeature f.ty.toNat f.moda ++ modFeature f.ty.toNat f.modb ++ modFeature f.ty.toNat f.narrow
  | .vsel f => typeFeature f.ty.toNat ++ modFeature f.ty.toNat f.moda ++ modFeature f.ty.toNat f.modb ++ modFeature f.ty.toNat f.narrow
  | .vdiv f => typeFeature f.ty.toNat ++ modFeature f.ty.toNat f.moda ++ modFeature f.ty.toNat f.modb ++ modFeature f.ty.toNat f.narrow
  | .vsqrt f => typeFeature f.ty.toNat ++ modFeature f.ty.toNat f.moda ++ modFeature f.ty.toNat f.modb ++ modFeature f.ty.toNat f.narrow
  | .vperm f => typeFeature f.ty.toNat
  | .vlut16 f => typeFeature f.ty.toNat
  | .vbcast f => typeFeature f.ty.toNat
  | .vins f => typeFeature f.ty.toNat
  | .vext f => typeFeature f.ty.toNat
  | .vzip f => typeFeature f.ty.toNat
  | .vunzip f => typeFeature f.ty.toNat
  | .vdot4 f => typeFeature f.ty.toNat ++ modFeature f.ty.toNat f.moda ++ modFeature f.ty.toNat f.modb ++ modFeature f.ty.toNat f.narrow
  | .vdot2 f => typeFeature f.ty.toNat ++ modFeature f.ty.toNat f.moda ++ modFeature f.ty.toNat f.modb ++ modFeature f.ty.toNat f.narrow
  | .vredAdd f => typeFeature f.ty.toNat ++ modFeature f.ty.toNat f.moda
  | .vredMax f => typeFeature f.ty.toNat ++ modFeature f.ty.toNat f.moda
  | .vredMin f => typeFeature f.ty.toNat ++ modFeature f.ty.toNat f.moda
  | .stRel f => scopeFeature f.scope
  | .fence f => scopeFeature f.scope
  | .fenceRel f => scopeFeature f.scope
  | .tmma f => tileFeature f.atype.toNat ++ tileFeature f.btype.toNat
  | .gmma f => tileFeature f.atype.toNat ++ tileFeature f.btype.toNat
  | _ => []

/-- The role that an instruction needs, 0 T, 1 C, 2 A, or none for any role (R21, R61, R62). -/
def roleNeeded : Instr → Option Nat
  | .copy _ => some 0
  | .copy2 _ => some 0
  | .get _ => some 0
  | .put _ => some 0
  | .puta _ => some 0
  | .wsig _ => some 0
  | .digest _ => some 0
  | .ccntRd _ => some 0
  | .ccntWait _ => some 0
  | .cvtT _ => some 1
  | .amaxRd _ => some 1
  | .amaxClr _ => some 1
  | .gmCfg _ => some 1
  | .gmStep _ => some 1
  | .gmMask _ => some 1
  | .gmForce _ => some 1
  | .gmReset _ => some 1
  | .gmSt _ => some 1
  | .tzero _ => some 2
  | .tmma _ => some 2
  | .gmma _ => some 2
  | .tdrain _ => some 2
  | .tdrainColl _ => some 2
  | .zset _ => some 2
  | .zclr _ => some 2
  | _ => none

end Sys2Proof
end

