-- ==== Sys2Proof/Decode.lean ====
section
/-! DEFINITION. From bits to instructions and back (R25 to R39, R51, R56 to R62).

`decodeWord` is total: a word that the opcode map does not assign, and the header mark 0xFE, is the row
UNASSIGNED_ENCODING, whose meaning is the illegal trap of R51. `decode` reads the first eight bytes of a list and refuses
a shorter list by name. -/
namespace Sys2Proof

/-- Bits [hi:lo] of an instruction word, as a vector of the stated width. -/
def field (w : Word) (lo n : Nat) : BitVec n := w.extractLsb' lo n

def RR.ofWord (w : Word) : RR where
  d := field w 51 5
  a := field w 46 5
  b := field w 41 5
  c := field w 36 5
  k := field w 33 3
  kn := field w 32 1
  ty := field w 22 4
  rnd := field w 19 3
  sat := field w 18 1
  moda := field w 12 6
  modb := field w 6 6
  narrow := field w 0 6

def RI.ofWord (w : Word) : RI where
  d := field w 51 5
  a := field w 46 5
  b := field w 41 5
  c := field w 36 5
  k := field w 33 3
  kn := field w 32 1
  imm := field w 0 32

def MF.ofWord (w : Word) : MF where
  d := field w 51 5
  a := field w 46 5
  b := field w 41 5
  c := field w 36 5
  k := field w 33 3
  kn := field w 32 1
  scope := field w 29 3
  hint := field w 27 2
  size := field w 24 3
  off := field w 0 24

def TF.ofWord (w : Word) : TF where
  d := field w 51 5
  a := field w 46 5
  b := field w 41 5
  c := field w 36 5
  k := field w 33 3
  kn := field w 32 1
  zp := field w 22 4
  zen := field w 21 1
  atype := field w 17 4
  btype := field w 13 4
  acc := field w 11 2
  lo := field w 0 11

def XF.ofWord (w : Word) : XF where
  d := field w 51 5
  a := field w 46 5
  b := field w 41 5
  c := field w 36 5
  k := field w 33 3
  kn := field w 32 1
  dx := field w 26 6
  dy := field w 20 6
  role := field w 18 2
  midx := field w 13 5
  preg := field w 12 1
  lo := field w 0 8

def SF.ofWord (w : Word) : SF where
  d := field w 51 5
  a := field w 46 5
  b := field w 41 5
  c := field w 36 5
  k := field w 33 3
  kn := field w 32 1
  hi := field w 12 20
  sreg := field w 0 12

/-- SREG numbers that the row SWR_CODE_BOUNDS names (R49, R343). -/
def isCodeBound (n : BitVec 12) : Bool := n = 0x010 || n = 0x011

/-- FUNC under major 0x01. -/
def decode01 (fn : Nat) (f : RR) (w : Word) : Instr :=
  match fn with
  | 0 => .yardWe f
  | 1 => .yardWf f
  | 2 => .yardCmt f
  | 3 => .yardRd f
  | 4 => .yardPin f
  | 5 => .yardUnpin f
  | 6 => .yardGen f
  | 8 => .halt f
  | 9 => .yield f
  | _ => .unassignedEncoding w

/-- FUNC under major 0x02. -/
def decode02 (fn : Nat) (f : RR) (w : Word) : Instr :=
  match fn with
  | 0 => .start f
  | 1 => .startTry f
  | 2 => .stop f
  | 3 => .hlive f
  | _ => .unassignedEncoding w

/-- FUNC under major 0x03. -/
def decode03 (fn : Nat) (f : XF) (w : Word) : Instr :=
  match fn with
  | 0 => .sendr f
  | 1 => .sendrV f
  | _ => .unassignedEncoding w

/-- FUNC under major 0x04. -/
def decode04 (fn : Nat) (f : RR) (w : Word) : Instr :=
  match fn with
  | 0 => .mtake f
  | 1 => .mpeek f
  | 2 => .mclr f
  | _ => .unassignedEncoding w

/-- FUNC under major 0x05. -/
def decode05 (fn : Nat) (f : RR) (w : Word) : Instr :=
  match fn with
  | 0 => .clkRd f
  | 1 => .clkReq f
  | 2 => .clkAck f
  | 3 => .pwrRd f
  | _ => .unassignedEncoding w

/-- FUNC under major 0x08. -/
def decode08 (fn : Nat) (f : RR) (w : Word) : Instr :=
  match fn with
  | 0 => .eret f
  | 1 => .eccInj f
  | _ => .unassignedEncoding w

/-- FUNC under major 0x10. -/
def decode10 (fn : Nat) (f : RR) (w : Word) : Instr :=
  match fn with
  | 0 => .add f
  | 1 => .sub f
  | 2 => .mul f
  | 3 => .mulh f
  | 4 => .div f
  | 5 => .rem f
  | 6 => .and f
  | 7 => .or f
  | 8 => .xor f
  | 9 => .andn f
  | 10 => .shl f
  | 11 => .shr f
  | 12 => .sra f
  | 13 => .rol f
  | 14 => .min f
  | 15 => .max f
  | 16 => .abs f
  | 17 => .neg f
  | 18 => .clz f
  | 19 => .ctz f
  | 20 => .popc f
  | 21 => .bfx f
  | 22 => .bfi f
  | 23 => .lea f
  | 24 => .mov f
  | _ => .unassignedEncoding w

/-- FUNC under major 0x11. -/
def decode11 (fn : Nat) (f : RR) (w : Word) : Instr :=
  match fn with
  | 0 => .cmp f
  | 1 => .csel f
  | 2 => .setc f
  | 3 => .decz f
  | _ => .unassignedEncoding w

/-- FUNC under major 0x20. -/
def decode20 (fn : Nat) (f : RR) (w : Word) : Instr :=
  match fn with
  | 0 => .fadd f
  | 1 => .fsub f
  | 2 => .fmul f
  | 3 => .fdiv f
  | 4 => .fsqrt f
  | 5 => .fma f
  | 6 => .fmin f
  | 7 => .fmax f
  | 8 => .fabs f
  | 9 => .fneg f
  | 10 => .fcmp f
  | 11 => .fclass f
  | 12 => .fcvt f
  | 13 => .ftoi f
  | 14 => .itof f
  | _ => .unassignedEncoding w

/-- FUNC under major 0x30. -/
def decode30 (fn : Nat) (f : RR) (w : Word) : Instr :=
  match fn with
  | 0 => .vadd f
  | 1 => .vsub f
  | 2 => .vmul f
  | 3 => .vmulh f
  | 4 => .vfma f
  | 5 => .vmin f
  | 6 => .vmax f
  | 7 => .vabs f
  | 8 => .vneg f
  | 9 => .vand f
  | 10 => .vor f
  | 11 => .vxor f
  | 12 => .vandn f
  | 13 => .vshl f
  | 14 => .vshr f
  | 15 => .vsra f
  | 16 => .vcmp f
  | 17 => .vsel f
  | 18 => .vcvt f
  | 19 => .vdiv f
  | 20 => .vsqrt f
  | _ => .unassignedEncoding w

/-- FUNC under major 0x31. -/
def decode31 (fn : Nat) (f : RR) (w : Word) : Instr :=
  match fn with
  | 0 => .vperm f
  | 1 => .vlut16 f
  | 2 => .vbcast f
  | 3 => .vins f
  | 4 => .vext f
  | 5 => .vzip f
  | 6 => .vunzip f
  | _ => .unassignedEncoding w

/-- FUNC under major 0x32. -/
def decode32 (fn : Nat) (f : RR) (w : Word) : Instr :=
  match fn with
  | 0 => .vdot4 f
  | 1 => .vdot2 f
  | 2 => .vredAdd f
  | 3 => .vredMax f
  | 4 => .vredMin f
  | _ => .unassignedEncoding w

/-- FUNC under major 0x33. -/
def decode33 (fn : Nat) (f : RR) (w : Word) : Instr :=
  match fn with
  | 0 => .kand f
  | 1 => .kor f
  | 2 => .kxor f
  | 3 => .knot f
  | 4 => .kmov f
  | 5 => .kpop f
  | 6 => .kset f
  | 7 => .krd f
  | _ => .unassignedEncoding w

/-- FUNC under major 0x34. -/
def decode34 (fn : Nat) (f : RR) (w : Word) : Instr :=
  match fn with
  | 0 => .seqBeg f
  | 1 => .seqLoop f
  | 2 => .seqEnd f
  | 3 => .seqWait f
  | _ => .unassignedEncoding w

/-- FUNC under major 0x75. -/
def decode75 (fn : Nat) (f : RR) (w : Word) : Instr :=
  match fn with
  | 0 => .semP f
  | 1 => .semV f
  | 2 => .semRd f
  | _ => .unassignedEncoding w

/-- FUNC under major 0x76. -/
def decode76 (fn : Nat) (f : RR) (w : Word) : Instr :=
  match fn with
  | 0 => .bar f
  | _ => .unassignedEncoding w

/-- FUNC under major 0x78. -/
def decode78 (fn : Nat) (f : RR) (w : Word) : Instr :=
  match fn with
  | 0 => .copy f
  | 1 => .copy2 f
  | 2 => .get f
  | 3 => .put f
  | 4 => .puta f
  | 5 => .wsig f
  | 6 => .digest f
  | _ => .unassignedEncoding w

/-- FUNC under major 0x79. -/
def decode79 (fn : Nat) (f : RR) (w : Word) : Instr :=
  match fn with
  | 0 => .ccntRd f
  | 1 => .ccntWait f
  | _ => .unassignedEncoding w

/-- FUNC under major 0x7A. -/
def decode7A (fn : Nat) (f : RR) (w : Word) : Instr :=
  match fn with
  | 0 => .collStart f
  | 1 => .collWait f
  | _ => .unassignedEncoding w

/-- FUNC under major 0x7C. -/
def decode7C (fn : Nat) (f : RR) (w : Word) : Instr :=
  match fn with
  | 0 => .buoy f
  | 1 => .buoySeal f
  | 2 => .lhSt f
  | _ => .unassignedEncoding w

/-- FUNC under major 0x80. -/
def decode80 (fn : Nat) (f : TF) (w : Word) : Instr :=
  match fn with
  | 0 => .tzero f
  | 1 => .tmma f
  | 2 => .gmma f
  | 3 => .tdrain f
  | 4 => .tdrainColl f
  | 5 => .zset f
  | 6 => .zclr f
  | _ => .unassignedEncoding w

/-- FUNC under major 0x81. -/
def decode81 (fn : Nat) (f : RR) (w : Word) : Instr :=
  match fn with
  | 0 => .cvtT f
  | 1 => .amaxRd f
  | 2 => .amaxClr f
  | _ => .unassignedEncoding w

/-- FUNC under major 0x82. -/
def decode82 (fn : Nat) (f : RR) (w : Word) : Instr :=
  match fn with
  | 0 => .cbkLd f
  | 1 => .cbkRd f
  | _ => .unassignedEncoding w

/-- FUNC under major 0x83. -/
def decode83 (fn : Nat) (f : RR) (w : Word) : Instr :=
  match fn with
  | 0 => .gmCfg f
  | 1 => .gmStep f
  | 2 => .gmMask f
  | 3 => .gmForce f
  | 4 => .gmReset f
  | 5 => .gmSt f
  | _ => .unassignedEncoding w

/-- The instruction that a 64-bit word holds (R51, R56 to R62). -/
def decodeWord (w : Word) : Instr :=
  match (field w 56 8).toNat with
  | 0x01 => decode01 (field w 26 6).toNat (.ofWord w) w
  | 0x02 => decode02 (field w 26 6).toNat (.ofWord w) w
  | 0x03 => decode03 (field w 8 4).toNat (.ofWord w) w
  | 0x04 => decode04 (field w 26 6).toNat (.ofWord w) w
  | 0x05 => decode05 (field w 26 6).toNat (.ofWord w) w
  | 0x06 => .srd (.ofWord w)
  | 0x07 => if isCodeBound (field w 0 12) then .swrCodeBounds (.ofWord w) else .swr (.ofWord w)
  | 0x08 => decode08 (field w 26 6).toNat (.ofWord w) w
  | 0x09 => .trap (.ofWord w)
  | 0x0A => .icinv (.ofWord w)
  | 0x0B => .tlbinv (.ofWord w)
  | 0x10 => decode10 (field w 26 6).toNat (.ofWord w) w
  | 0x11 => decode11 (field w 26 6).toNat (.ofWord w) w
  | 0x12 => .addi (.ofWord w)
  | 0x13 => .andi (.ofWord w)
  | 0x14 => .ori (.ofWord w)
  | 0x15 => .xori (.ofWord w)
  | 0x16 => .li (.ofWord w)
  | 0x17 => .lih (.ofWord w)
  | 0x18 => .cmpi (.ofWord w)
  | 0x19 => .shli (.ofWord w)
  | 0x1A => .shri (.ofWord w)
  | 0x1B => .srai (.ofWord w)
  | 0x20 => decode20 (field w 26 6).toNat (.ofWord w) w
  | 0x30 => decode30 (field w 26 6).toNat (.ofWord w) w
  | 0x31 => decode31 (field w 26 6).toNat (.ofWord w) w
  | 0x32 => decode32 (field w 26 6).toNat (.ofWord w) w
  | 0x33 => decode33 (field w 26 6).toNat (.ofWord w) w
  | 0x34 => decode34 (field w 26 6).toNat (.ofWord w) w
  | 0x40 => .ld (.ofWord w)
  | 0x41 => .ldu (.ofWord w)
  | 0x42 => .ldAcq (.ofWord w)
  | 0x43 => .vld (.ofWord w)
  | 0x44 => .vldRaw (.ofWord w)
  | 0x45 => .st (.ofWord w)
  | 0x46 => .stRel (.ofWord w)
  | 0x47 => .vst (.ofWord w)
  | 0x48 => .ldF (.ofWord w)
  | 0x49 => .ldFe (.ofWord w)
  | 0x4A => .stEf (.ofWord w)
  | 0x4B => .stF (.ofWord w)
  | 0x4C => .tagSet (.ofWord w)
  | 0x4D => .tagClr (.ofWord w)
  | 0x4E => .pref (.ofWord w)
  | 0x4F => .flush (.ofWord w)
  | 0x50 => .inv (.ofWord w)
  | 0x58 => .amoAdd (.ofWord w)
  | 0x59 => .amoAnd (.ofWord w)
  | 0x5A => .amoOr (.ofWord w)
  | 0x5B => .amoXor (.ofWord w)
  | 0x5C => .amoMin (.ofWord w)
  | 0x5D => .amoMax (.ofWord w)
  | 0x5E => .amoMinu (.ofWord w)
  | 0x5F => .amoMaxu (.ofWord w)
  | 0x60 => .amoSwap (.ofWord w)
  | 0x61 => .amoCas (.ofWord w)
  | 0x62 => .redAdd (.ofWord w)
  | 0x63 => .redAnd (.ofWord w)
  | 0x64 => .redOr (.ofWord w)
  | 0x65 => .redXor (.ofWord w)
  | 0x66 => .redMin (.ofWord w)
  | 0x67 => .redMax (.ofWord w)
  | 0x68 => .redMinu (.ofWord w)
  | 0x69 => .redMaxu (.ofWord w)
  | 0x70 => .fence (.ofWord w)
  | 0x71 => .fenceAcq (.ofWord w)
  | 0x72 => .fenceRel (.ofWord w)
  | 0x73 => .wait (.ofWord w)
  | 0x74 => .waita (.ofWord w)
  | 0x75 => decode75 (field w 26 6).toNat (.ofWord w) w
  | 0x76 => decode76 (field w 26 6).toNat (.ofWord w) w
  | 0x78 => decode78 (field w 26 6).toNat (.ofWord w) w
  | 0x79 => decode79 (field w 26 6).toNat (.ofWord w) w
  | 0x7A => decode7A (field w 26 6).toNat (.ofWord w) w
  | 0x7C => decode7C (field w 26 6).toNat (.ofWord w) w
  | 0x80 => decode80 (field w 26 6).toNat (.ofWord w) w
  | 0x81 => decode81 (field w 26 6).toNat (.ofWord w) w
  | 0x82 => decode82 (field w 26 6).toNat (.ofWord w) w
  | 0x83 => decode83 (field w 26 6).toNat (.ofWord w) w
  | _ => .unassignedEncoding w

/-- Why a list of bytes holds no instruction. -/
inductive DecodeError
  /-- Fewer than the eight bytes of an instruction word. -/
  | shortInput (have_ : Nat)
deriving DecidableEq, Repr

/-- Eight bytes, the lowest address first, as a word (R6). -/
def leWord : List Byte → Word
  | [] => 0
  | b :: bs => (b.zeroExtend 64) ||| (leWord bs <<< 8)

/-- The eight bytes of a word, the lowest address first (R6). -/
def wordBytes (w : Word) : List Byte :=
  (List.range 8).map fun i => w.extractLsb' (8 * i) 8

/-- The instruction at the front of a list of bytes, and the bytes after it. -/
def decode : List Byte → Except DecodeError (Instr × List Byte)
  | b0 :: b1 :: b2 :: b3 :: b4 :: b5 :: b6 :: b7 :: rest =>
      .ok (decodeWord (leWord [b0, b1, b2, b3, b4, b5, b6, b7]), rest)
  | bs => .error (.shortInput bs.length)

/-- The instruction that this decoder reads from a word whose bits are numbered as the opcode table numbers them. Every
instruction is one 64-bit word (R25), stored in its little-endian byte order, and bits above `nbits` are 0. -/
def decodeTableWord (nbits w : Nat) : Option Instr :=
  match decode (wordBytes (BitVec.ofNat 64 (w % 2 ^ nbits))) with
  | .ok (i, _) => some i
  | .error _ => none

/-! ## The encoder, from the same tables -/

/-- Bits [63:32] of every word (R25). -/
def packHead (major : BitVec 8) (d a b c : BitVec 5) (k : BitVec 3) (kn : BitVec 1) : BitVec 32 :=
  major ++ d ++ a ++ b ++ c ++ k ++ kn

def RR.pack (major : BitVec 8) (fn : BitVec 6) (f : RR) : Word :=
  packHead major f.d f.a f.b f.c f.k f.kn ++ (fn ++ f.ty ++ f.rnd ++ f.sat ++ f.moda ++ f.modb ++ f.narrow : BitVec 32)

def RI.pack (major : BitVec 8) (f : RI) : Word :=
  packHead major f.d f.a f.b f.c f.k f.kn ++ f.imm

def MF.pack (major : BitVec 8) (f : MF) : Word :=
  packHead major f.d f.a f.b f.c f.k f.kn ++ (f.scope ++ f.hint ++ f.size ++ f.off : BitVec 32)

def TF.pack (major : BitVec 8) (fn : BitVec 6) (f : TF) : Word :=
  packHead major f.d f.a f.b f.c f.k f.kn ++ (fn ++ f.zp ++ f.zen ++ f.atype ++ f.btype ++ f.acc ++ f.lo : BitVec 32)

def XF.pack (major : BitVec 8) (fn : BitVec 4) (f : XF) : Word :=
  packHead major f.d f.a f.b f.c f.k f.kn ++ (f.dx ++ f.dy ++ f.role ++ f.midx ++ f.preg ++ fn ++ f.lo : BitVec 32)

def SF.pack (major : BitVec 8) (f : SF) : Word :=
  packHead major f.d f.a f.b f.c f.k f.kn ++ (f.hi ++ f.sreg : BitVec 32)

/-- The word of an instruction. An event has no word; it answers 0, and no well-formed word instruction does. -/
def encode : Instr → Word
  | .yardWe f => f.pack 0x01 0
  | .yardWf f => f.pack 0x01 1
  | .yardCmt f => f.pack 0x01 2
  | .yardRd f => f.pack 0x01 3
  | .yardPin f => f.pack 0x01 4
  | .yardUnpin f => f.pack 0x01 5
  | .yardGen f => f.pack 0x01 6
  | .halt f => f.pack 0x01 8
  | .yield f => f.pack 0x01 9
  | .start f => f.pack 0x02 0
  | .startTry f => f.pack 0x02 1
  | .stop f => f.pack 0x02 2
  | .hlive f => f.pack 0x02 3
  | .sendr f => f.pack 0x03 0
  | .sendrV f => f.pack 0x03 1
  | .mtake f => f.pack 0x04 0
  | .mpeek f => f.pack 0x04 1
  | .mclr f => f.pack 0x04 2
  | .clkRd f => f.pack 0x05 0
  | .clkReq f => f.pack 0x05 1
  | .clkAck f => f.pack 0x05 2
  | .pwrRd f => f.pack 0x05 3
  | .srd f => f.pack 0x06
  | .swr f => f.pack 0x07
  | .eret f => f.pack 0x08 0
  | .eccInj f => f.pack 0x08 1
  | .trap f => f.pack 0x09
  | .icinv f => f.pack 0x0A
  | .tlbinv f => f.pack 0x0B
  | .add f => f.pack 0x10 0
  | .sub f => f.pack 0x10 1
  | .mul f => f.pack 0x10 2
  | .mulh f => f.pack 0x10 3
  | .div f => f.pack 0x10 4
  | .rem f => f.pack 0x10 5
  | .and f => f.pack 0x10 6
  | .or f => f.pack 0x10 7
  | .xor f => f.pack 0x10 8
  | .andn f => f.pack 0x10 9
  | .shl f => f.pack 0x10 10
  | .shr f => f.pack 0x10 11
  | .sra f => f.pack 0x10 12
  | .rol f => f.pack 0x10 13
  | .min f => f.pack 0x10 14
  | .max f => f.pack 0x10 15
  | .abs f => f.pack 0x10 16
  | .neg f => f.pack 0x10 17
  | .clz f => f.pack 0x10 18
  | .ctz f => f.pack 0x10 19
  | .popc f => f.pack 0x10 20
  | .bfx f => f.pack 0x10 21
  | .bfi f => f.pack 0x10 22
  | .lea f => f.pack 0x10 23
  | .mov f => f.pack 0x10 24
  | .cmp f => f.pack 0x11 0
  | .csel f => f.pack 0x11 1
  | .setc f => f.pack 0x11 2
  | .decz f => f.pack 0x11 3
  | .addi f => f.pack 0x12
  | .andi f => f.pack 0x13
  | .ori f => f.pack 0x14
  | .xori f => f.pack 0x15
  | .li f => f.pack 0x16
  | .lih f => f.pack 0x17
  | .cmpi f => f.pack 0x18
  | .shli f => f.pack 0x19
  | .shri f => f.pack 0x1A
  | .srai f => f.pack 0x1B
  | .fadd f => f.pack 0x20 0
  | .fsub f => f.pack 0x20 1
  | .fmul f => f.pack 0x20 2
  | .fdiv f => f.pack 0x20 3
  | .fsqrt f => f.pack 0x20 4
  | .fma f => f.pack 0x20 5
  | .fmin f => f.pack 0x20 6
  | .fmax f => f.pack 0x20 7
  | .fabs f => f.pack 0x20 8
  | .fneg f => f.pack 0x20 9
  | .fcmp f => f.pack 0x20 10
  | .fclass f => f.pack 0x20 11
  | .fcvt f => f.pack 0x20 12
  | .ftoi f => f.pack 0x20 13
  | .itof f => f.pack 0x20 14
  | .vadd f => f.pack 0x30 0
  | .vsub f => f.pack 0x30 1
  | .vmul f => f.pack 0x30 2
  | .vmulh f => f.pack 0x30 3
  | .vfma f => f.pack 0x30 4
  | .vmin f => f.pack 0x30 5
  | .vmax f => f.pack 0x30 6
  | .vabs f => f.pack 0x30 7
  | .vneg f => f.pack 0x30 8
  | .vand f => f.pack 0x30 9
  | .vor f => f.pack 0x30 10
  | .vxor f => f.pack 0x30 11
  | .vandn f => f.pack 0x30 12
  | .vshl f => f.pack 0x30 13
  | .vshr f => f.pack 0x30 14
  | .vsra f => f.pack 0x30 15
  | .vcmp f => f.pack 0x30 16
  | .vsel f => f.pack 0x30 17
  | .vcvt f => f.pack 0x30 18
  | .vdiv f => f.pack 0x30 19
  | .vsqrt f => f.pack 0x30 20
  | .vperm f => f.pack 0x31 0
  | .vlut16 f => f.pack 0x31 1
  | .vbcast f => f.pack 0x31 2
  | .vins f => f.pack 0x31 3
  | .vext f => f.pack 0x31 4
  | .vzip f => f.pack 0x31 5
  | .vunzip f => f.pack 0x31 6
  | .vdot4 f => f.pack 0x32 0
  | .vdot2 f => f.pack 0x32 1
  | .vredAdd f => f.pack 0x32 2
  | .vredMax f => f.pack 0x32 3
  | .vredMin f => f.pack 0x32 4
  | .kand f => f.pack 0x33 0
  | .kor f => f.pack 0x33 1
  | .kxor f => f.pack 0x33 2
  | .knot f => f.pack 0x33 3
  | .kmov f => f.pack 0x33 4
  | .kpop f => f.pack 0x33 5
  | .kset f => f.pack 0x33 6
  | .krd f => f.pack 0x33 7
  | .seqBeg f => f.pack 0x34 0
  | .seqLoop f => f.pack 0x34 1
  | .seqEnd f => f.pack 0x34 2
  | .seqWait f => f.pack 0x34 3
  | .ld f => f.pack 0x40
  | .ldu f => f.pack 0x41
  | .ldAcq f => f.pack 0x42
  | .vld f => f.pack 0x43
  | .vldRaw f => f.pack 0x44
  | .st f => f.pack 0x45
  | .stRel f => f.pack 0x46
  | .vst f => f.pack 0x47
  | .ldF f => f.pack 0x48
  | .ldFe f => f.pack 0x49
  | .stEf f => f.pack 0x4A
  | .stF f => f.pack 0x4B
  | .tagSet f => f.pack 0x4C
  | .tagClr f => f.pack 0x4D
  | .pref f => f.pack 0x4E
  | .flush f => f.pack 0x4F
  | .inv f => f.pack 0x50
  | .amoAdd f => f.pack 0x58
  | .amoAnd f => f.pack 0x59
  | .amoOr f => f.pack 0x5A
  | .amoXor f => f.pack 0x5B
  | .amoMin f => f.pack 0x5C
  | .amoMax f => f.pack 0x5D
  | .amoMinu f => f.pack 0x5E
  | .amoMaxu f => f.pack 0x5F
  | .amoSwap f => f.pack 0x60
  | .amoCas f => f.pack 0x61
  | .redAdd f => f.pack 0x62
  | .redAnd f => f.pack 0x63
  | .redOr f => f.pack 0x64
  | .redXor f => f.pack 0x65
  | .redMin f => f.pack 0x66
  | .redMax f => f.pack 0x67
  | .redMinu f => f.pack 0x68
  | .redMaxu f => f.pack 0x69
  | .fence f => f.pack 0x70
  | .fenceAcq f => f.pack 0x71
  | .fenceRel f => f.pack 0x72
  | .wait f => f.pack 0x73
  | .waita f => f.pack 0x74
  | .semP f => f.pack 0x75 0
  | .semV f => f.pack 0x75 1
  | .semRd f => f.pack 0x75 2
  | .bar f => f.pack 0x76 0
  | .copy f => f.pack 0x78 0
  | .copy2 f => f.pack 0x78 1
  | .get f => f.pack 0x78 2
  | .put f => f.pack 0x78 3
  | .puta f => f.pack 0x78 4
  | .wsig f => f.pack 0x78 5
  | .digest f => f.pack 0x78 6
  | .ccntRd f => f.pack 0x79 0
  | .ccntWait f => f.pack 0x79 1
  | .collStart f => f.pack 0x7A 0
  | .collWait f => f.pack 0x7A 1
  | .buoy f => f.pack 0x7C 0
  | .buoySeal f => f.pack 0x7C 1
  | .lhSt f => f.pack 0x7C 2
  | .tzero f => f.pack 0x80 0
  | .tmma f => f.pack 0x80 1
  | .gmma f => f.pack 0x80 2
  | .tdrain f => f.pack 0x80 3
  | .tdrainColl f => f.pack 0x80 4
  | .zset f => f.pack 0x80 5
  | .zclr f => f.pack 0x80 6
  | .cvtT f => f.pack 0x81 0
  | .amaxRd f => f.pack 0x81 1
  | .amaxClr f => f.pack 0x81 2
  | .cbkLd f => f.pack 0x82 0
  | .cbkRd f => f.pack 0x82 1
  | .gmCfg f => f.pack 0x83 0
  | .gmStep f => f.pack 0x83 1
  | .gmMask f => f.pack 0x83 2
  | .gmForce f => f.pack 0x83 3
  | .gmReset f => f.pack 0x83 4
  | .gmSt f => f.pack 0x83 5
  | .swrCodeBounds f => f.pack 0x07
  | .unassignedEncoding w => w
  | .seqRepetition _ => 0
  | .barrierEpisodeComplete _ => 0
  | .collectiveComplete _ => 0
  | .gmmaJoin _ _ => 0
  | .tileOpRetire _ => 0
  | .cvtRetire _ => 0
  | .blockEnd _ => 0
  | .contextRetirement _ => 0
  | .coreHalted _ => 0
  | .sleepWake _ => 0
  | .messageAccept _ _ => 0
  | .pinRevocation _ _ => 0
  | .yardBackgroundInvalidate _ _ => 0
  | .perform _ _ => 0
  | .propagate _ _ => 0
  | .apply _ _ => 0
  | .read _ _ _ => 0
  | .atomic _ _ => 0
  | .reduce _ _ => 0
  | .merge _ => 0
  | .engineStep _ _ => 0
  | .flag _ => 0
  | .durable _ _ => 0
  | .lineMigration _ => 0
  | .durableWriteback _ => 0
  | .pageWalk _ _ _ => 0
  | .faultRecordWrite _ _ => 0
  | .referralResponse _ _ => 0
  | .checkerMismatch _ => 0
  | .checksumMismatch _ => 0
  | .poisonConsumed _ => 0
  | .containment _ _ => 0
  | .selfTestComplete _ => 0
  | .coreRestart _ => 0
  | .sweep _ _ => 0
  | .eccReencode _ => 0
  | .packageReset => 0
  | .dieReset _ => 0
  | .dieReturn _ => 0
  | .masterHandover => 0
  | .lighthouseOutOfService _ => 0
  | .lighthouseReturn _ => 0
  | .lighthouseResyncEnd _ => 0
  | .capSelectChange _ => 0
  | .arbiterEvaluate => 0
  | .deferredEvaluation => 0
  | .clockTransitionEnd => 0
  | .energyCharge => 0
  | .periodRefill _ => 0
  | .launch _ => 0
  | .load _ => 0
  | .unload _ => 0
  | .stopCommand _ => 0
  | .query _ => 0
  | .gangReady _ => 0
  | .gangPlace _ => 0
  | .gangRelease _ => 0
  | .gangSwitchDecide _ => 0
  | .sliceExpiry _ => 0
  | .switchStop _ => 0
  | .saveComplete _ => 0
  | .restoreRelease _ => 0
  | .gangComplete _ => 0
  | .ident _ _ => 0
  | .attest _ _ => 0
  | .bind _ _ => 0
  | .paddock _ _ => 0
  | .vfcfg _ _ => 0
  | .vfreset _ _ => 0
  | .shedScrub _ => 0
  | .migrate _ _ => 0
  | .tables _ _ => 0
  | .fwstage _ _ => 0
  | .fwact _ _ => 0
  | .errlog _ => 0
  | .layup _ _ => 0
  | .layupRestore _ _ => 0
  | .unknownOpc _ _ => 0
  | .droppedPacket _ => 0

end Sys2Proof
end

