-- ==== Sys2Proof/Machine/Yard.lean ====
section
/-! DEFINITION. Fetch, keys and yard-table lookup (R40 to R45, R54, R85 to R100, R343). -/
namespace Sys2Proof.Machine

/-! ## Fetch (R54, R343) -/

/-- Words that an instruction cache holds (R20: 128 KiB). -/
def icacheWords : Nat := 16384

/-- The key slot of the code arena of the function on a core (R331). -/
def State.arenaSlot (s : State) (core : Nat) : Nat :=
  match (s.vf (s.vfOfCore core)).cfg with
  | some c => c.arenaKey
  | none => 0
/-- The word that a core's instruction cache delivers for a byte address, and the state with the word cached: it is read through the
function's arena key (R331, R339), and an error there is corrected (R365). A word already cached is delivered as it was when it was cached
(R54). -/
def State.fetch (s : State) (core addr : Nat) : Word × State :=
  match (s.core core).icache.get? addr with
  | some w => (w, s)
  | none =>
    let w := s.plain (s.arenaSlot core) (qtrOfCore core) addr
    (w, (s.correct addr).updCore core fun c =>
      { c with icache := Table.put (if icacheWords ≤ c.icache.length then c.icache.tail else c.icache) addr w })

/-- Is a byte address inside a context's code bounds (R343)? -/
def Ctx.inCode (c : Ctx) (addr : Nat) : Bool :=
  decide (c.cbase.toNat * 8 ≤ addr) && decide (addr < c.cbound.toNat * 8)

/-- Is a byte address inside the bounds that the block being run was entered with (R343, R354)? -/
def Ctx.inBlockCode (c : Ctx) (addr : Nat) : Bool :=
  decide (c.inBase.toNat * 8 ≤ addr) && decide (addr < c.inBound.toNat * 8)

/-- Entering a block takes up the code bounds as they stand (R354). -/
def Ctx.entered (c : Ctx) : Ctx := { c with inBase := c.cbase, inBound := c.cbound }

/-! ## Keys (R42, R43) -/

def keyWidth : Nat → Nat
  | 0 => 1 | 1 => 2 | 2 => 3 | 3 => 4 | 4 => 6 | 5 => 8 | 6 => 12 | _ => 16

def bitsOf (n : Nat) (f : Nat → Bool) : Nat :=
  (List.range n).foldl (fun m i => if f i then m + 2 ^ i else m) 0

/-- The event bits that a context sees (R43): bit 1 reads `AMAX`.N of its conversion core (R254). -/
def State.eventBits (s : State) (k : Nat) : BitVec 5 :=
  let c := s.ctx k
  let n := roleOf (coreOfCtx k) = 1 && (s.core (coreOfCtx k)).amax.getLsbD 31
  (c.event &&& 0b11101) ||| (if n then 0b00010 else 0)

/-- Live bits of helpers 1 to 10: helper h at bit h - 1. -/
def State.liveMask (s : State) (core : Nat) : Nat :=
  bitsOf 10 fun i => (s.ctx (11 * core + i + 1)).mode.live

/-- Repetitions of the queue still to issue (R230): a repetition issues and retires in one step of this model. -/
def Sequencer.left (q : Sequencer) : Nat :=
  if q.queue.isEmpty then 0 else (q.reps + 1 - q.rep) * q.queue.length - q.pos

/-- The source of a key field (R43); `gen` is the generation that this lookup uses. -/
def State.keySource (s : State) (k : Nat) (gen : BitVec 16) (src : Nat) : Nat :=
  let c := s.ctx k
  let core := s.core (coreOfCtx k)
  if src < 4 then (c.c[src]?.getD 0).toNat
  else if src < 19 then (c.x[src - 3]?.getD 0).toNat % 2 ^ 16
  else if src = 19 then bitsOf 16 fun i => ((core.mbox[i]?).getD .reset).present
  else if src = 20 then bitsOf 16 fun i => ((core.mbox[16 + i]?).getD .reset).present
  else if src = 21 then bitsOf 16 fun i => ((core.mbox[i]?).getD .reset).err
  else if src = 22 then (s.eventBits k).toNat
  else if src = 23 then
    bitsOf 8 (fun i => c.rk (BitVec.ofNat 3 i) ≠ 0) + 2 ^ 8 * bitsOf 8 (fun i => c.rk (BitVec.ofNat 3 i) = 0xFFFF)
  else if src = 24 then (if roleOf (coreOfCtx k) = 2 then core.z.toNat else 0)
  else if src = 25 then
    bitsOf 5 (fun i => match i with
      | 0 => c.ld ≠ 0 | 1 => c.st ≠ 0 | 2 => c.cp ≠ 0 | 3 => c.tl ≠ 0 | _ => core.seq.owner = some k && core.seq.left ≠ 0)
      + (if core.seq.owner = some k then 2 ^ 5 * core.seq.queue.length else 0)
  else if src = 26 then ctxNo k + 2 ^ 4 * s.liveMask (coreOfCtx k)
  else if src = 27 then gen.toNat
  else if src = 28 then c.y0.toNat % 2 ^ 16
  else if src = 29 then c.y1.toNat % 2 ^ 16
  else 0

/-- The key of a header, assembled field by field (R42). -/
def State.keyOf (s : State) (k : Nat) (gen : BitVec 16) (h : Word) : Word :=
  (List.range 4).foldl (fun key i =>
    let f := hdrKey h i
    if keySrc f = 31 then key
    else
      let w := keyWidth (keyWc f)
      (key <<< w) ||| BitVec.ofNat 64 (s.keySource k gen (keySrc f) % 2 ^ w)) 0

/-! ## Tables (R88 to R96) -/

def Gang.yard (g : Gang) (t : BitVec 8) : YardTable := g.yards.getD t.toNat .reset
def Gang.setYard (g : Gang) (t : BitVec 8) (y : YardTable) : Gang := { g with yards := g.yards.put t.toNat y }

def actKind (a : Word) : Nat := (a.extractLsb' 60 4).toNat
def actTarget (a : Word) : Nat := (a.extractLsb' 32 24).toNat
def actP1 (a : Word) : BitVec 16 := a.extractLsb' 16 16
def actP0 (a : Word) : BitVec 16 := a.extractLsb' 0 16

/-- The winning action word: the lowest entry that is not vacant and matches, or else the fallback (R91). -/
def YardGen.lookup (t : YardGen) (key : Word) : Word :=
  match t.entries.find? (fun e => actKind e.2.2.2 ≠ 0 && (key ^^^ e.2.1) &&& e.2.2.1 = 0) with
  | some e => e.2.2.2
  | none => t.fallback

/-- Is core b within a scope of core a (R98, R345)? -/
def inScope (scope : BitVec 3) (a b : Nat) : Bool :=
  if scope.toNat ≤ 1 then a = b
  else if scope.toNat = 2 then shedOfCore a = shedOfCore b
  else if scope.toNat = 3 then qtrOfCore a = qtrOfCore b
  else true

/-- Puts a pair first in a yard cache of 16 (R96). -/
def yardCachePut (l : List YardLine) (y : YardLine) : List YardLine :=
  (y :: l.filter fun z => !(z.table = y.table && z.gen = y.gen && z.asCurrent = y.asCurrent)).take 16

/-- A lookup of context k in a generation acquires the commit that made it, where its core is within the scope (R100). -/
def State.acquireYard (s : State) (k : Nat) (rel : Option YardRel) : State :=
  match rel with
  | some r => if inScope r.scope r.core (coreOfCtx k) then (s.updCtx k fun c => c.see s.next true r.set).tickNext else s
  | none => s

/-- The generation that a lookup of context k in table t uses, its content, and the state with the pair in the yard cache
(R91, R96). With `pinned`, a pin gives the generation. The lookup acquires the commit that made the generation it uses, be that one current,
cached or retained; from a later commit a lookup on an older generation gains nothing (R100). -/
def State.yardUse (s : State) (k : Nat) (t : BitVec 8) (pinned : Bool) : BitVec 16 × YardGen × State :=
  let core := coreOfCtx k
  let g := (s.gangOfCore core).getD 0
  let y := (s.gang g).yard t
  let pin := if pinned then (s.ctx k).pins.find? (·.table = t) else none
  match pin with
  | some p =>
    let copy := if p.gen = y.gen then y.cur else match y.retained with
      | some (rg, rc) => if rg = p.gen then rc else y.cur
      | none => y.cur
    let s1 := s.updCore core fun c =>
      { c with yardCache := yardCachePut c.yardCache { table := t, gen := p.gen, asCurrent := false, copy := copy } }
    (p.gen, copy, s1.acquireYard k copy.rel)
  | none =>
    let line := ((s.core core).yardCache.find? fun z => z.table = t && z.asCurrent).getD
      { table := t, gen := y.gen, asCurrent := true, copy := y.cur }
    let s1 := s.updCore core fun c => { c with yardCache := yardCachePut c.yardCache line }
    (line.gen, line.copy, s1.acquireYard k line.copy.rel)

/-! ## The contexts of a gang, and their pins (R88, R101, R347) -/

/-- The contexts that a gang's save area holds, those held aside for an import block among them (R148, R347). -/
def Gang.savedCtxs (g : Gang) : List Ctx := g.saved.flatMap fun p => p.ctxs ++ p.cores.flatMap (·.aside)
/-- The contexts of a gang: those in its save area until it is restored, or else those on its sheds with those held aside there. -/
def State.gangCtxs (s : State) (g : Gang) : List Ctx :=
  if g.saved.isEmpty then g.ctxs.map s.ctx ++ g.cores.flatMap fun c => (s.core c).aside else g.savedCtxs

/-- Does a context's location, `TPC` or a buoy lie in a range of addresses (R344)? -/
def Ctx.pointsInto (c : Ctx) (lo hi : Nat) : Bool :=
  (c.pc :: c.tpc :: c.buoy.toList).any fun w => decide (lo ≤ pcBlock w) && decide (pcBlock w < hi)
/-- Has a gang code in a range of the arena: its image's code lies there, or a context of it points into it? -/
def State.hasCode (s : State) (g : Gang) (lo hi : Nat) : Bool :=
  (decide (g.image.cbase.toNat * 8 < hi) && decide (lo < g.image.cbound.toNat * 8)) ||
  ((!g.saved.isEmpty || g.state = .resident || g.state = .switching) && (s.gangCtxs g).any fun c => c.pointsInto lo hi)

/-- Does some context of the gang hold a pin, not revoked, on a generation? Saved contexts and those held aside keep their pins (R101). -/
def State.pinned (s : State) (g : Gang) (t : BitVec 8) (gen : BitVec 16) : Bool :=
  (s.gangCtxs g).any fun c => c.pins.any fun p => p.table = t && p.gen = gen && !p.revoked

/-- A retained generation that no context pins any longer goes (R88). -/
def State.dropRetained (s : State) (gang : Nat) (t : BitVec 8) : State :=
  let g := s.gang gang
  let y := g.yard t
  match y.retained with
  | some (rg, _) => if s.pinned g t rg then s else s.updGang gang fun v => v.setYard t { y with retained := none }
  | none => s

/-- The same for every table of a gang. -/
def State.pruneRetained (s : State) (gang : Nat) : State :=
  ((s.gang gang).yards.map fun e => BitVec.ofNat 8 e.1).foldl (fun u t => u.dropRetained gang t) s

/-! ## The queue of commits (R98, R101) -/

/-- The commit of a table that stands at step 2 of R98: the first in the queue whose context is not held aside (R105, R347). -/
def YardTable.first (y : YardTable) : Option Commit := y.commits.find? (!·.aside)
/-- The first commit of a queue whose context is not held aside stands at step 2 of R98 from this resident tick on (R101, assumption 18). -/
def standFirst (now : Nat) : List Commit → List Commit
  | [] => []
  | m :: rest => if m.aside then m :: standFirst now rest else { m with since := now } :: rest
/-- Queued commits are withdrawn; where the one at step 2 goes, the next begins to wait there. -/
def YardTable.withdraw (y : YardTable) (now : Nat) (gone : Commit → Bool) : YardTable :=
  let left := y.commits.filter fun m => !gone m
  { y with commits := if y.first.any gone then standFirst now left else left }
/-- The commit at step 2 leaves the queue; the next one then stands there. -/
def YardTable.takeFirst (y : YardTable) (now : Nat) : YardTable :=
  { y with commits := standFirst now (y.commits.eraseP (!·.aside)) }
/-- The commits of a core's contexts are held aside with them, each with the time that it had stood at step 2 (R105, R347). -/
def YardTable.setAside (y : YardTable) (now core : Nat) : YardTable :=
  let first := y.first
  { y with commits := y.commits.map fun m =>
      if m.aside || coreOfCtx m.ctx ≠ core then m
      else { m with aside := true, since := if first = some m then now - m.since else 0 } }
/-- The commits held aside wait again, in their old places, as their contexts resume; the time that they had stood at step 2 counts on. -/
def YardTable.endAside (y : YardTable) (now core : Nat) : YardTable :=
  { y with commits := y.commits.map fun m =>
      if m.aside && coreOfCtx m.ctx = core then { m with aside := false, since := now - m.since } else m }
def Gang.setAside (g : Gang) (core : Nat) : Gang := { g with yards := g.yards.mapVals fun _ y => y.setAside g.residentTicks core }
def Gang.endAside (g : Gang) (core : Nat) : Gang := { g with yards := g.yards.mapVals fun _ y => y.endAside g.residentTicks core }
/-- Queued commits of a gang's tables are withdrawn. -/
def Gang.withdraw (g : Gang) (gone : Commit → Bool) : Gang :=
  { g with yards := g.yards.mapVals fun _ y => y.withdraw g.residentTicks gone }

/-- Base byte address of the arena window of context k's function (R89, R343). -/
def State.arenaBase (s : State) (k : Nat) : Nat :=
  match (s.vf (vfOf (s.gang ((s.gangOfCore (coreOfCtx k)).getD 0)).vfq)).cfg with
  | some c => c.abase
  | none => 0

/-- Enters the block whose header lies at a byte address, after the code-bound check and the header check (R94, R416); or
the cause and value of the trap, with the state that the reads before it left (R365). A region freed by force is entered without reading it
(R344). -/
def State.enterBlock (s : State) (k addr : Nat) : Except (BitVec 8 × Word × State) State :=
  let c := s.ctx k
  let w := BitVec.ofNat 64 addr
  if !c.inCode addr then .error (5, w, s)
  else if addr % 8 ≠ 0 then .error (1, w, s)
  else if (s.gang ((s.gangOfCore (coreOfCtx k)).getD 0)).gone addr then
    .ok (s.updCtx k fun c => { c.entered with pc := mkPc 0 addr, mode := .ready })
  else
    let (h, s1) := s.fetch (coreOfCtx k) addr
    if headerOk h then .ok (s1.updCtx k fun c => { c.entered with pc := mkPc 0 addr, hdr := h, mode := .ready })
    else .error (1, w, s1)

/-- Contexts of a core, other than k, that are READY or STALLED now (R93, R104). -/
def State.readyOthers (s : State) (k : Nat) : List Nat :=
  (ctxsOfCore (coreOfCtx k)).filter fun j => j ≠ k && (s.ctx j).mode = .ready

/-- The owner's EXIT, `halt` or `stop` acts as `seq.end` (R232): its ownership ends once no repetition is left. -/
def State.endSeq (s : State) (k : Nat) : State :=
  s.updCore (coreOfCtx k) fun c => if c.seq.owner = some k && c.seq.left = 0 then { c with seq := .reset } else c

/-- Context k begins to retire with a reason, and waits for its counters (R93, R104, R116, R351). -/
def State.exitCtx (s : State) (k : Nat) (reason : BitVec 3) (notice : Option (BitVec 5)) : State :=
  (s.updCtx k fun c => { c with mode := .exiting reason notice, hold := [] }).endSeq k

/-- Applies an action word (R93, R94), or gives the cause and value of the trap. -/
def State.applyAction (s : State) (k : Nat) (key act : Word) : Except (BitVec 8 × Word × State) State :=
  let c := s.ctx k
  let go := s.enterBlock k (s.arenaBase k + 8 * actTarget act)
  let sety (y0 y1 : Word) : Except (BitVec 8 × Word × State) State :=
    go.map fun t => t.updCtx k fun d => { d with y0 := y0, y1 := y1 }
  match actKind act with
  | 0 => .error (8, key, s)
  | 1 => go
  | 2 => sety ((actP0 act).zeroExtend 64) ((actP1 act).zeroExtend 64)
  | 3 => sety (c.rx ((actP0 act).setWidth 5)) (c.rx ((actP1 act).setWidth 5))
  | 4 =>
    let notice := if (actP0 act).getLsbD 5 then some ((actP0 act).setWidth 5) else none
    .ok (s.exitCtx k 0 notice)
  | 5 => go.map fun t => t.updCtx k fun d => { d with hold := s.readyOthers k }
  | 6 => .error (9, key, s)
  | _ => .error (10, act, s)

end Sys2Proof.Machine
end

