-- ==== Sys2Proof/Machine/Queues.lean ====
section
/-! DEFINITION. Commands that complete and gangs that leave their sheds (R127, R134, R137 to R139, R153). -/
namespace Sys2Proof.Machine

/-- A copy of the scheduler journal takes a record where the lighthouse layer that holds it is in service. -/
def State.journalAt (s : State) (q : Nat) (r : Nat × Nat × Nat) : State :=
  let v := s.quarterAt q
  if v.inService || v.resync then s.setQuarter q { v with journal := r :: v.journal } else s
/-- The master journals a decision before it takes effect, in its quarter and in that quarter's mirror partner (R153): kind 0 acceptance,
1 start, 2 switch, 3 placement, 4 completion, 5 anchor (R400). -/
def State.journal (s : State) (kind subject value : Nat) : State :=
  let q := s.master.front
  (s.journalAt q (kind, subject, value)).journalAt (partner q) (kind, subject, value)
/-- The journal as its surviving copy holds it (R154). -/
def State.readJournal (s : State) : List (Nat × Nat × Nat) :=
  let q := s.quarterAt s.master.front
  if q.inService then q.journal else (s.quarterAt (partner s.master.front)).journal

/-- Do a gang's contexts and engines go on: it is RESIDENT, or a switch is decided and its timestamp has not come (R144, R145)? -/
def Gang.runs (g : Gang) (now : Nat) : Bool :=
  match g.switchAt with
  | none => g.state = .resident
  | some t => decide (now < t)
def State.gangRuns (s : State) (g : Nat) : Bool := Gang.runs (s.gang g) s.now
/-- May a core's contexts and units go on: it is not contained, its die is up, and its gang runs (R144, R361, R364)? -/
def State.coreRuns (s : State) (core : Nat) : Bool :=
  (s.core core).contained.isNone && (s.quarterAt (qtrOfCore core)).up && match s.gangOfCore core with
  | none => false
  | some g => s.gangRuns g

/-- Do a core's engine operations and contributions go on: the core runs, or its gang has stopped for a switch and an access that it has
issued, which may come after one of them, is still to be performed before the save (R145; DEDUCED, assumption 68)? -/
def State.enginesRun (s : State) (core : Nat) : Bool :=
  s.coreRuns core || ((s.core core).contained.isNone && (s.quarterAt (qtrOfCore core)).up && match s.gangOfCore core with
    | none => false
    | some g => (s.gang g).state = .switching && (s.gang g).switchAt.isNone && (s.gang g).ctxs.any fun k => !(s.ctx k).ops.isEmpty)

/-- The arbiter evaluates after this happening (R164). -/
def State.askEvaluate (s : State) : State := { s with power := { s.power with evaluate := true } }

/-- Sends the completion record of a queue's command, with the bit that its status names, and drops the command (R77, R134, R137). -/
def State.completeNaming (s : State) (vfq : Nat) (seq : BitVec 32) (status : Nat) (info : Word) (names : Option Nat) : State :=
  let q := s.queue vfq
  match q.cmds.find? (·.seq = seq) with
  | none => s
  | some c =>
    let r : Completion := { seq := seq, status := BitVec.ofNat 16 status, vfq := BitVec.ofNat 16 vfq, tag := c.tag,
                            time := s.gtime, info := info, names := names }
    (s.setQueue vfq { q with cmds := q.cmds.filter (·.seq ≠ seq), sent := r :: q.sent }).journal 4 vfq seq.toNat

/-- The same for a status that names no bit. -/
def State.completeCmd (s : State) (vfq : Nat) (seq : BitVec 32) (status : Nat) (info : Word) : State :=
  s.completeNaming vfq seq status info none

/-- A context whose gang has left its core: a helper is IDLE and the control context HALTED (R106). -/
def Ctx.vacate (k : Nat) (c : Ctx) : Ctx := { c with mode := (Ctx.start k).mode, ops := [], fences := [], seen := [], pins := [], hold := [] }

/-- Rows and quarters that no gang is on any more have no entry and no transition: they stand at the floor (R161). -/
def State.dropEntries (s : State) : State :=
  { s with power := { s.power with
    rowEntry := s.power.rowEntry.filter fun e => s.rowHeld e.1,
    qtrEntry := s.power.qtrEntry.filter fun e => s.qtrHeld e.1,
    rowMove := s.power.rowMove.filter fun e => s.rowHeld e.1,
    qtrMove := s.power.qtrMove.filter fun e => s.qtrHeld e.1 } }

/-- Takes a gang off its sheds: its contexts stop, its engine operations stop with it, and the sheds are free. What its first-level caches
hold goes back to level two (R282, R341). -/
def State.vacate (s : State) (g : Nat) : State :=
  let gg := s.gang g
  let mine := gg.sheds.filter fun d => s.gangOfShed d = some g
  let s0 := (mine.flatMap fun d => [3 * d, 3 * d + 1, 3 * d + 2]).foldl (fun t c => t.l1Flush c) s
  let s1 := (mine.foldl (fun t d => t.updShed d fun v => { v with gang := none }) s0).dropEntries
  let s2 := (mine.flatMap fun d => (List.range 33).map (33 * d + ·)).foldl (fun t k => t.updCtx k (Ctx.vacate k)) s1
  let s3 := (mine.flatMap fun d => [3 * d, 3 * d + 1, 3 * d + 2]).foldl (fun t c =>
    t.updCore c fun v => { v with tiles := [], cvt := [], seq := .reset, port := [], handles := [] }) s2
  s3.updOrd fun o => { o with engines := o.engines.filter fun e => !mine.contains (shedOfCore e.2.core) }

/-- Is a gang of the function's supervisor RESIDENT or SAVED (R358, R363)? -/
def State.supervisor (s : State) (vf : Nat) : Option Nat :=
  (s.gangs.find? fun e => e.2.sup && vfOf e.2.vfq = vf && (e.2.state = .resident || e.2.state = .saved)).map (·.1)

/-- INFO of a fault record (R356). -/
def Gang.faultInfo (g : Gang) : Word := (g.seq ++ BitVec.ofNat 16 g.vfq : BitVec 48).zeroExtend 64

/-- The open page-fault referrals of a gang's work are answered into nothing, with `all` its containment records too (R357). -/
def State.orphan (s : State) (g : Nat) (all : Bool) : State :=
  let info := (s.gang g).faultInfo
  { s with refs := s.refs.mapVals fun _ r => if r.info = info && (all || r.work ≠ 4) then { r with discard := true } else r }

/-- The writes and the reductions of contexts that leave their sheds stay known as the gang's. -/
def Order.disown (o : Order) (g : Nat) (ctxs : List Nat) : Order :=
  let name (k : Nat) : Nat := if ctxs.contains k then savedWriter g else k
  let part (p : Partial) : Partial := { p with reds := p.reds.mapVals fun _ l => l.map name }
  { o with writes := Table.mapVals (fun _ w => { w with who := name w.who, reds := w.reds.map name }) o.writes
           partials := o.partials.map fun t => t.mapVals fun _ p => part p }

/-- Is every write of a gang performed at `.pkg` (R137)? -/
def State.gangPerformed (s : State) (n : Nat) (g : Gang) : Bool :=
  s.ord.writes.all fun e => !((g.ctxs.contains e.2.who && s.gangOfCore (coreOfCtx e.2.who) = some n) || e.2.who = savedWriter n) ||
    (List.range s.nq).all fun q => e.2.vis.getLsbD q

/-- The completion record of a gang's LAUNCH is sent, once every write of the gang is performed at `.pkg` and a master is there to send it
(R137, R154). -/
def State.payGang (s : State) (n : Nat) : State :=
  let g := s.gang n
  match g.owed with
  | none => s
  | some status =>
    if !s.master.ready || !s.gangPerformed n g then s
    else (s.updGang n fun v => { v with owed := none }).completeCmd g.vfq g.seq status (BitVec.ofNat 64 g.lostCount)
/-- The records that a queue owes are sent where they may be. -/
def State.payQueue (s : State) (vfq : Nat) : State :=
  (s.gangs.filter fun e => e.2.vfq = vfq).foldl (fun t e => t.payGang e.1) s

/-- One gang goes to FAILED, and its LAUNCH completes with a status (R139, R363) once its writes are performed (R137). A gang that a STOP
has failed already has status 4 (R131). -/
def State.failOne (s : State) (g status : Nat) : State :=
  let gg := s.gang g
  if gg.state = .complete || gg.state = .failed then s else
  let mine := gg.ctxs.filter fun k => s.gangOfCore (coreOfCtx k) = some g
  let s1 := (if gg.state = .saved then s else (s.updOrd fun o => o.disown g mine).vacate g).orphan g true
  let s2 := s1.updGang g fun v =>
    { v with state := .failed, saved := [], engines := [], switchAt := none, area := none,
             owed := some (if gg.discard then 4 else status) }
  (s2.payGang g).askEvaluate

/-- Once a function has no supervisor gang, the gangs whose containment records are still open fail (R363). -/
def State.supervisorGone (s : State) (vf : Nat) : State :=
  if (s.supervisor vf).isSome then s
  else (s.refs.filter fun e => e.2.work = 4 && e.2.vf = vf && !e.2.discard).foldl (fun t e => t.failOne e.2.unit 5) s

/-- A gang fails (R139, R363). -/
def State.failGang (s : State) (g status : Nat) : State :=
  let t := s.failOne g status
  if (s.gang g).sup then t.supervisorGone (vfOf (s.gang g).vfq) else t

end Sys2Proof.Machine
end

