-- ==== Sys2Proof/Machine/Contain.lean ====
section
/-! DEFINITION. Referrals to the supervisor gang and the containment of a core (R355 to R364). -/
namespace Sys2Proof.Machine

/-! ## Sender counters -/

/-- Counter updates: up on issue, down on completion (R300). -/
def Ctx.decLd (c : Ctx) : Ctx := if c.ld = 0 then c else { c with ld := c.ld - 1 }
def Ctx.decSt (c : Ctx) : Ctx := if c.st = 0 then c else { c with st := c.st - 1 }
def Ctx.decCp (c : Ctx) : Ctx := if c.cp = 0 then c else { c with cp := c.cp - 1 }
def Ctx.decTl (c : Ctx) : Ctx := if c.tl = 0 then c else { c with tl := c.tl - 1 }

/-- The sender of a message sees it accepted (R120); notices and error entries are not counted. -/
def State.sentAccepted (s : State) (g : Gang) (m : Message) : State :=
  if m.kind = 0 && m.counted then s.updCtx (11 * g.coreOf m.srcCore + m.srcCtx) Ctx.decSt else s

/-- The messages of a port that come before a new one m (R121, R362): those of the same context, those that are known to have come, for
an error entry all that wait for its mailbox; and what came before those. -/
def portBefore (port : List Message) (m : Message) : List Nat :=
  (port.flatMap fun e =>
    if e.arrived || (if m.kind = 2 then e.mbox = m.mbox else e.srcCore = m.srcCore && e.srcCtx = m.srcCtx) then e.order :: e.after
    else []).eraseDups

/-- A message goes to a core's port (R121). -/
def State.post (s : State) (core : Nat) (m : Message) : State :=
  (s.updCore core fun c => { c with port := c.port ++ [{ m with order := s.next, after := portBefore c.port m }] }).tickNext

/-! ## Referrals (R355, R356) -/

/-- DETAIL of a fault record (R356). -/
def faultDetail (reason : Nat) (wr eng tile remote : Bool) (kind ctx core rvf : Nat) : Word :=
  BitVec.ofNat 64 (reason % 8 + (if wr then 8 else 0) + (if eng then 16 else 0) + (if tile then 32 else 0) +
    (if remote then 64 else 0) + kind * 2 ^ 8 + ctx * 2 ^ 12 + (if remote then 0 else core) * 2 ^ 16 + rvf * 2 ^ 32)

/-- Opens a referral; it waits for a ring record (R356). -/
def State.openReferral (s : State) (r : Referral) : State := ({ s with refs := s.refs.put s.next r }).tickNext

/-! ## The contexts of cores -/

/-- Something happens to every context of some cores, those held aside there among them (R347). -/
def State.eachCtx (s : State) (cores : List Nat) (f : Ctx → Ctx) : State :=
  cores.foldl (fun t c => ((ctxsOfCore c).foldl (fun u k => u.updCtx k f) t).updCore c fun v => { v with aside := v.aside.map f }) s
/-- Event bits set in a context that is live. -/
def Ctx.setEvent (c : Ctx) (bits : BitVec 5) : Ctx := if c.mode.live then { c with event := c.event ||| bits } else c

/-! ## Containment (R361, R362) -/

/-- The containment record of R362. -/
def containRecord (time : Word) (cause lcore : Nat) : Quad :=
  time ++ (BitVec.ofNat 40 0 ++ BitVec.ofNat 8 cause ++ BitVec.ofNat 16 lcore : BitVec 64)

/-- Is a referral one of core X's work: an instruction, a tile operation or conversion, an engine operation, or its part in a collective
(R357, R372)? -/
def State.refersTo (s : State) (x : Nat) (r : Referral) : Bool :=
  match r.work with
  | 0 => coreOfCtx r.key = x
  | 1 | 2 => r.key = x
  | 3 => match s.ord.engines.get? r.key with
    | some e => e.core = x
    | none => (s.ord.colls.get? r.key).isSome && match s.gangOfCore x with
      | some g => r.unit = 2 ^ 16 * g + (s.gang g).lcore x
      | none => false
  | _ => false

/-- The event on core X itself (R361): its pending work is discarded. A gang that is being restored has its contexts, with their pins and
queued commits, in its save area still: they stay (R101, R105). -/
def State.dropCore (s : State) (x : Nat) (cause : Nat) : State :=
  let s1 := (ctxsOfCore x).foldl (fun t k => t.updCtx k fun c =>
    { c with ops := [], fences := [], seen := [], pins := [], hold := [], ld := 0, st := 0, cp := 0, tl := 0 }) s
  let s2 := s1.updCore x fun c =>
    { c with tiles := [], cvt := [], seq := .reset, port := [], contained := some cause, containedAt := s.gtime, restart := 0,
             aside := [], asideSeq := .reset, imports := [] }
  let s2a := { s2 with refs := s2.refs.mapVals fun _ r => if s.refersTo x r then { r with discard := true } else r }
  let s3 := s2a.updOrd fun o => { o with engines := o.engines.filter fun e => e.2.core ≠ x }
  match s.gangOfCore x with
  | none => s3
  | some g => if (s3.gang g).saved.isEmpty then (s3.updGang g fun v => v.withdraw fun m => coreOfCtx m.ctx = x).pruneRetained g else s3

/-- A member's contained core makes the other members' joined `gmma` abandon with the row-abort trap (R248). -/
def State.abortRow (s : State) (g : Gang) (x : Nat) : State :=
  (g.cores.filter fun c => c ≠ x && roleOf c = 2 && shedY (shedOfCore c) = shedY (shedOfCore x) &&
      qtrOfCore c = qtrOfCore x).foldl (fun t c => t.updCore c fun v => { v with tiles := match v.tiles with
    | op :: rest =>
      if op.func = 2 && op.joined && op.abort.isNone then
        { op with abort := some (18, BitVec.ofNat 64 (g.rankOf (shedOfCore x)), 0) } :: rest
      else op :: rest
    | [] => [] }) s

/-- The error log's entry of a containment (R362, R368). -/
def State.logContainment (s : State) (x cause vfq : Nat) : State :=
  s.logError 2 cause (qtrOfCore x) 4 (shedX (shedOfCore x) + 2 ^ 8 * shedY (shedOfCore x) + 2 ^ 16 * roleOf x) 0
    (BitVec.ofNat 16 vfq)

/-- What a containment of core X does at the event (R361) and on the gang's other cores (steps 1 to 4 of R362), with its log entry. A gang
that is not released yet has no other core that ran. -/
def State.containCore (s : State) (x cause : Nat) : State :=
  match s.gangOfCore x with
  | none => (s.dropCore x cause).logContainment x cause 0xFFFF
  | some g =>
    if (s.gang g).state = .launching || (s.gang g).state = .restoring then (s.dropCore x cause).logContainment x cause (s.gang g).vfq else
    let gg := s.gang g
    let me := gg.lcore x
    -- Messages addressed to X count as accepted for their senders.
    let s1 := (s.core x).port.foldl (fun t m => t.sentAccepted gg m) s
    let s2 := gg.cores.foldl (fun t c => t.updCore c fun v => { v with port := v.port.map fun m =>
      if m.srcCore = me then { m with counted := false } else m }) (s1.dropCore x cause)
    -- Error-tagged entries for the mailboxes whose last sender was X.
    let s3 := (gg.cores.filter (· ≠ x)).foldl (fun t c =>
      let boxes := (List.range 32).filter fun i => (((t.core c).mbox[i]?).getD .reset).lastSrc = some me
      boxes.foldl (fun u i =>
        u.post c { mbox := BitVec.ofNat 5 i, data := containRecord s.gtime cause me, srcCore := me, srcCtx := 0,
                   order := 0, after := [], arrived := false, kind := 2, set := [], counted := false }) t) s2
    -- Gang error event.
    let s4 := s3.eachCtx (gg.cores.filter (· ≠ x)) (·.setEvent 0b01000)
    let s4a := if roleOf x = 2 then s4.abortRow gg x else s4
    (s4a.updGang g fun v => { v with lost := natInsert v.lost me, lostCount := v.lostCount + 1 }).logContainment x cause gg.vfq

/-- The keeper relaunches a supervisor gang from its launch record, with that record's clock request (R158), and the records that are open
are written again into its new ring (R363). -/
def State.relaunch (s : State) (g : Nat) : State :=
  let vf := vfOf (s.gang g).vfq
  let s1 := (s.vacate g).updGang g fun v =>
    { v with state := .ready, lost := [], openEvents := 0, runnable := s.next, switchAt := none, discard := false,
             clkreq := v.image.clkreq }
  let s2 := { s1 with refs := s1.refs.mapVals fun _ r => if r.vf = vf then { r with slot := none, head := [], written := false } else r }
  (s2.updVf vf fun v => { v with ring := 0 }).tickNext

/-- The fault record of a contained core opens (step 5 of R362). -/
def State.recordCore (s : State) (g x cause : Nat) : State :=
  let gg := s.gang g
  s.openReferral { vf := vfOf gg.vfq, va := 0, detail := faultDetail cause false false false false 1 0 (gg.lcore x) 0,
                   info := gg.faultInfo, work := 4, key := x, unit := g, slot := none, head := [], written := false, discard := false }

/-- What an event of contained cores means for one gang, by the state in which it found the package (R363): the gang fails where it has to,
where an earlier event is not answered, or where no supervisor gang could answer; a supervisor gang is relaunched; otherwise each core has
its record. -/
def State.gangHit (s before : State) (cause : Nat) (lost : Bool) (g : Nat) (xs : List Nat) : State :=
  let gg := before.gang g
  if gg.state = .launching || gg.state = .restoring then (if lost then s.failGang g 5 else s)
  else if lost then s.failGang g 5
  else if gg.sup && !gg.discard then s.relaunch g
  else if decide (0 < gg.openEvents) || (before.supervisor (vfOf gg.vfq)).isNone then s.failGang g 5
  else xs.foldl (fun t x => t.recordCore g x cause) (s.updGang g fun v => { v with openEvents := v.openEvents + 1 })

/-- Containment of some cores at one event (R361 to R364). `lost` says of a gang that it fails in any case. What it means for supervisor gangs
comes last, when the other gangs have their records. -/
def State.containAll (s : State) (xs : List Nat) (cause : Nat) (lost : Gang → Bool) : State :=
  let s1 := xs.foldl (fun t x => t.containCore x cause) s
  let hit := (xs.filterMap s.gangOfCore).eraseDups
  let order := hit.filter (fun g => !(s.gang g).sup) ++ hit.filter fun g => (s.gang g).sup
  order.foldl (fun t g => t.gangHit s cause (lost (s.gang g)) g (xs.filter fun x => s.gangOfCore x = some g)) s1

/-- Containment of core X with a cause (R361 to R363). -/
def State.containEvent (s : State) (x cause : Nat) : State := s.containAll [x] cause fun _ => false

end Sys2Proof.Machine
end

