-- ==== Sys2Proof/Machine/Ops.lean ====
section
/-! DEFINITION. Retiring an instruction, taking a trap and returning from one (R85, R247, R348 to R352, R359): the shared
operations on which every meaning ends. -/
namespace Sys2Proof.Machine

/-! ## Retirement (R85, R86) -/

/-- Context k's instruction has retired: the next one, or the block end after instruction LEN. -/
def State.retire (s : State) (k : Nat) : State :=
  s.updCtx k fun c =>
    if pcIndex c.pc = hdrLen c.hdr then { c with mode := .blockEnd }
    else { c with mode := .ready, pc := mkPc (pcIndex c.pc + 1) (pcBlock c.pc) }

/-! ## Taking a trap (R350, R351) -/

/-- A failed dispatch raises no further trap: a helper retires with reason 3, and a control context contains its core
(R351). -/
def State.failDispatch (s : State) (k : Nat) : State :=
  if ctxNo k = 0 then s.containEvent (coreOfCtx k) 5
  else s.exitCtx k 3 none

/-- Dispatch: table TYARD is looked up with the 16 bits of TCAUSE, in the current generation, and the action applied
(R92, R351). -/
def State.dispatch (s : State) (k : Nat) : State :=
  let c := s.ctx k
  let (_, copy, s1) := s.yardUse k c.tyard false
  let key := c.tcause.zeroExtend 64
  let act := copy.lookup key
  -- A yard-store read consumes poison (R360).
  if !copy.bad.isEmpty then s1.containEvent (coreOfCtx k) 3
  else match s1.applyAction k key act with
  | .ok t => t
  | .error e => e.2.2.failDispatch k

/-- Recording in the sequencer is suspended when its owner traps, once more for a trap inside a handler (R229, R350). -/
def State.suspendRecording (s : State) (k : Nat) : State :=
  s.updCore (coreOfCtx k) fun c =>
    if c.seq.owner = some k && c.seq.recording then { c with seq := { c.seq with suspended := c.seq.suspended + 1 } } else c

/-- The trap registers as R350 writes them; `bend` is TCAUSE.BEND (R348). What the context has yielded to stays owed (R93, R104): a trap that
comes before its next instruction issues leaves the handler's first instruction held back in its place (DESIGN CHOICE, assumption 124). -/
def Ctx.trapRegs (c : Ctx) (cause : BitVec 8) (bend : Bool) (tval tpc : Word) (tinfo : BitVec 8) : Ctx :=
  { c with tcause := (if bend then 0x8000 else 0) ||| cause.zeroExtend 16, tval := tval, tpc := tpc, tinfo := tinfo,
           mode := .ready, replay := false }

/-- Context k takes a trap at its location (R350): the trap registers are written, recording is suspended and the trap is
dispatched. -/
def State.takeTrap (s : State) (k : Nat) (cause : BitVec 8) (bend : Bool) (tval : Word) (tinfo : BitVec 8) : State :=
  ((s.updCtx k fun c => c.trapRegs cause bend tval c.pc tinfo).suspendRecording k).dispatch k

/-- The instruction at which context k sleeps is given up without effect (R116, R247): its barrier arrival is taken back and
the core's later arrivals move up, its queued commit leaves the yard store, and its referral is dropped. `held`: the context is one held
aside for an import block, whose commit waits with it (R347). -/
def State.unsleep (s : State) (k : Nat) (held : Bool := false) : State :=
  let core := coreOfCtx k
  match (s.ctx k).mode with
  | .asleep (.bar _ n) =>
    (ctxsOfCore core).foldl (fun t j => t.updCtx j fun c => match c.mode with
      | .asleep (.bar d m) => if n < m then { c with mode := .asleep (.bar d (m - 1)) } else c
      | _ => c) (s.updCore core fun c => { c with arrivals := c.arrivals - 1 })
  | .asleep (.commitQueued _) => s.updGang ((s.gangOfCore core).getD 0) fun v => v.withdraw fun m => m.ctx = k && m.aside = held
  | .asleep (.fault r) =>
    { s with refs := Table.mapVals (fun id v => if id = r then { v with discard := true } else v) s.refs }
  | _ => s

/-- A trap of an operation that had already retired comes to its context at an instruction boundary (R247, R320): with
BEND = 1 and `TPC` naming instruction LEN at a block end or in an EXIT action, be it one that the dispatch of a trap chose. A context that is
no longer live, or that is being stopped, takes none. -/
def State.deliverTrap (s : State) (k : Nat) (cause : BitVec 8) (tval : Word) (tinfo : BitVec 8) : State :=
  match (s.ctx k).mode with
  | .ready => s.takeTrap k cause false tval tinfo
  -- The sleeping instruction issues again after `eret`.
  | .asleep _ => (s.unsleep k).takeTrap k cause false tval tinfo
  | .blockEnd => s.takeTrap k cause true tval tinfo
  | .exiting 0 _ => (s.updCtx k fun c => { c with pc := mkPc (hdrLen c.hdr) (pcBlock c.pc) }).takeTrap k cause true tval tinfo
  | .exiting 1 _ => s.takeTrap k cause false tval tinfo
  | _ => s

/-! ## Returning (R352) -/

/-- Resumption of a cause: NX for feature and user, RE for every other (R349). -/
def resumesNext (cause : BitVec 16) : Bool := (cause.extractLsb' 0 8 : BitVec 8) = 2 || (cause.extractLsb' 0 8 : BitVec 8) = 28

/-- The return of R352 from TCAUSE and TPC as they stand: the next state, or the trap of a failed check with the state that the read of the
header left. -/
def State.trapReturn (s : State) (k : Nat) : Except (BitVec 8 × Word × State) State :=
  let c := s.ctx k
  let blk := pcBlock c.tpc
  let idx := pcIndex c.tpc
  if !c.inCode blk then .error (5, BitVec.ofNat 64 blk, s)
  else
    let (h, s1) := s.fetch (coreOfCtx k) blk
    if !headerOk h then .error (1, BitVec.ofNat 64 blk, s1)
    else if hdrLen h < idx then .error (1, c.tpc, s1)
    else
      let s2 := s1.updCore (coreOfCtx k) fun v =>
        if v.seq.owner = some k then { v with seq := { v.seq with suspended := v.seq.suspended - 1 } } else v
      let at_ (i : Nat) (m : Mode) : State :=
        s2.updCtx k fun c => { c.entered with pc := mkPc i blk, hdr := h, mode := m }
      if c.tcause.getLsbD 15 then .ok (at_ (hdrLen h) .blockEnd)
      else if resumesNext c.tcause then
        if idx < hdrLen h then .ok (at_ (idx + 1) .ready) else .ok (at_ (hdrLen h) .blockEnd)
      else .ok (at_ idx .ready)

/-! ## The end of every meaning -/

/-- What an instruction's own effect comes to, after the checks of R52. -/
inductive Eff
  /-- It retires with this state. -/
  | done (s : State)
  /-- It retires and has placed its context itself (`eret`, `halt`). -/
  | leave (s : State)
  /-- Its core is contained at it, and it does not retire (R360). -/
  | contained (s : State)
  /-- It traps: cause, TVAL, TINFO. -/
  | trap (cause : BitVec 8) (tval : Word) (tinfo : BitVec 8)
  /-- Its context sleeps at it. -/
  | sleep (w : Wait) (s : State)
  /-- It cannot issue yet, because a unit is busy or a read at its issue is not done: its context is STALLED (R106). -/
  | stall (s : State)
  /-- A translation failed with a reason at an address; `wr` says that the access writes (R337, R355). -/
  | fault (va : Word) (reason : Nat) (wr : Bool)
  /-- The same two after reads that it has made at its issue, with the state that they left. -/
  | trapRead (t : State) (cause : BitVec 8) (tval : Word) (tinfo : BitVec 8)
  | faultRead (t : State) (va : Word) (reason : Nat) (wr : Bool)

/-- An effect that follows reads made at issue. -/
def Eff.after (t : State) : Eff → Eff
  | .trap cause tval tinfo => .trapRead t cause tval tinfo
  | .fault va reason wr => .faultRead t va reason wr
  | e => e
/-- What reads leave behind where their instruction has no other effect (R350): the errors that they met are corrected and logged (R365). -/
def State.readBy (s t : State) : State := { s with ord := { s.ord with soft := t.ord.soft }, keeper := t.keeper }

/-- The context falls asleep (R107, R108). -/
def State.sleepMe (s : State) (w : Wait) : State :=
  (s.updMe fun c => { c with mode := .asleep w, since := s.next }).tickNext

/-- A failed translation of an instruction: a supervisor context traps, a function without a supervisor traps, and any
other fault is referred (R355, R358). -/
def State.pageFault (s : State) (va : Word) (reason : Nat) (wr : Bool) : State :=
  let g := s.gang s.myGang
  if s.me.sup then s.takeTrap s.cur 15 false va (BitVec.ofNat 8 reason)
  else if (s.supervisor s.myVf).isNone then s.takeTrap s.cur 30 false va (BitVec.ofNat 8 reason)
  else
    let id := s.next
    let detail := faultDetail reason wr false false false 0 (ctxNo s.cur) (g.lcore s.myCore) 0
    (s.openReferral { vf := s.myVf, va := va, detail := detail, info := g.faultInfo, work := 0, key := s.cur, unit := 0,
                      slot := none, head := [], written := false, discard := false }).sleepMe (.fault id)

/-- The state after an instruction's effect (R53, R85, R350). -/
def State.finish (s : State) : Eff → State
  | .done t => t.retire s.cur
  | .leave t => t
  | .contained t => t
  | .trap cause tval tinfo => s.takeTrap s.cur cause false tval tinfo
  | .sleep w t => t.sleepMe w
  | .stall t => t
  | .fault va reason wr => s.pageFault va reason wr
  | .trapRead t cause tval tinfo => (s.readBy t).takeTrap s.cur cause false tval tinfo
  | .faultRead t va reason wr => (s.readBy t).pageFault va reason wr

/-- What the checker refuses to let retire does not commit, and is to be issued again by its context (R110, R359). -/
def State.replayMe (s : State) : State :=
  (s.unsleep s.cur).updMe fun c => { c with mode := .ready, mismatch := c.mismatch - 1, replay := true }

/-- Is a repetition of the context's sequencer between its two issues? A second mismatch is then that repetition's (R110, R365). -/
def State.repetitionReplays (s : State) (k : Nat) : Bool :=
  let q := (s.core (coreOfCtx k)).seq
  q.owner = some k && q.replay && !(s.ctx k).replay
/-- A retirement meets the checker (R359, R365): with no mismatch due it stands; else the instruction does not commit and is to be issued
again, and a second mismatch on that issue contains the core. -/
def State.checked (s t : State) : State :=
  if s.me.mismatch = 0 then t
  else if s.repetitionReplays s.cur then t.updCtx s.cur fun c => { c with mismatch := c.mismatch + s.me.mismatch }
  else if s.me.replay then s.containEvent s.myCore 1
  else s.replayMe

/-- Runs an effect in the executing context. Only a retirement takes a mismatch that is due (R359, R365); an instruction that has not
retired keeps it, and is still the one that was issued again. -/
def State.run (s : State) (eff : State → Eff) : State :=
  if s.me.mismatch = 0 ∧ s.me.replay = false then s.finish (eff s)
  else
    let keep (t : State) : State := t.updMe fun c => { c with mismatch := s.me.mismatch, replay := s.me.replay }
    match eff (s.updMe fun c => { c with mismatch := 0, replay := false }) with
    | .done t => s.checked (t.retire s.cur)
    | .leave t => s.checked t
    | .contained t => t
    | .trap cause tval tinfo => s.takeTrap s.cur cause false tval tinfo
    | .sleep w t => (keep t).sleepMe w
    | .stall t => keep t
    | .fault va reason wr => s.pageFault va reason wr
    | .trapRead t cause tval tinfo => (s.readBy t).takeTrap s.cur cause false tval tinfo
    | .faultRead t va reason wr => (s.readBy t).pageFault va reason wr

end Sys2Proof.Machine
end

