-- ==== Sys2Proof/Machine/Translate.lean ====
section
/-! DEFINITION. The plain loads that an instruction makes at its issue: descriptors, records and tables (R317). -/
namespace Sys2Proof.Machine

/-! ## Loads made at issue (R317): descriptors, records and tables read as plain loads -/

/-- What such a load comes to. -/
inductive Sync
  | ok (ws : List Word) (s : State)
  /-- The order rules do not let the read happen yet, or its walk has to wait, in the queue of the state given (R336). -/
  | wait (s : State)
  /-- A translation failed, after the reads of the doublewords before it. -/
  | fault (va : Word) (reason : Nat) (s : State)
  | poisoned (s : State)

/-- Reads n doublewords at rising 8-aligned addresses as plain loads of context k, that consume the poison of the bytes `need` alone
(R360). -/
def State.syncPart (s : State) (k : Nat) (need : BitVec 8) (va : Word) : Nat → Sync
  | 0 => .ok [] s
  | n + 1 =>
    match s.translate k va false with
    | .error r => if r = walkWaits then .wait (s.missOf k va false) else .fault va r s
    | .ok h =>
      let loc := dwordOf h.loc
      let o : Op := { id := s.next, grp := s.next, hint := 0, key := pteKey h.w0, kind := .read (.x 0 0 8 false) [loc] [] false }
      if !(h.st.mayMove k o && h.st.redsSettled (qtrOfCtx k) loc) then .wait s
      else if h.st.readPoisoned k s.next loc need then .poisoned h.st
      else
        let v := h.st.readVal k s.next (pteKey h.w0) loc
        let s1 := (h.st.updCtx k fun c => c.see s.next false (h.st.observed (qtrOfCtx k) loc)).lineRead (coreOfCtx k) loc (pageHint 0 h.w0)
        match State.syncPart (s1.correct loc).tickNext k need (va + 8) n with
        | .ok ws t => .ok (v :: ws) t
        | r => r

/-- The same, every byte of them. -/
def State.syncLoad (s : State) (k : Nat) (va : Word) (n : Nat) : Sync := s.syncPart k 0xFF va n

/-- One byte or halfword as a plain load of context k; a fault names its own address (R261). -/
def State.syncByte (s : State) (k : Nat) (va : Word) : Sync :=
  match s.syncPart k (BitVec.ofNat 8 (2 ^ (va.toNat % 8))) (va &&& ~~~(7 : Word)) 1 with
  | .ok [w] t => .ok [(w >>> (8 * (va.toNat % 8))) &&& 0xFF] t
  | .fault _ r t => .fault va r t
  | r => r
def State.syncHalf (s : State) (k : Nat) (va : Word) : Sync :=
  match s.syncPart k (BitVec.ofNat 8 (3 * 2 ^ (va.toNat % 8))) (va &&& ~~~(7 : Word)) 1 with
  | .ok [w] t => .ok [(w >>> (8 * (va.toNat % 8))) &&& 0xFFFF] t
  | .fault _ r t => .fault va r t
  | r => r

/-- Continues an effect with what a load gave; the context is STALLED until the read is done (R317). What it reads is read, also where the
instruction then traps (R350, R365). -/
def Sync.bind (s : State) (r : Sync) (f : List Word → State → Eff) : Eff :=
  match r with
  | .ok ws t => (f ws t).after t
  | .wait t => .stall (s.withWalks t)
  | .fault va reason t => .faultRead t va reason false
  | .poisoned t => .contained (t.containEvent s.myCore 3)

end Sys2Proof.Machine
end

