-- ==== Sys2Proof/Machine/Issue.lean ====
section
/-! DEFINITION. The checks that every instruction meets at issue, and what a meaning is (R2, R21, R52, R53). -/
namespace Sys2Proof.Machine

/-- What `exec` answers. -/
abbrev Out := Host.Outcome State Fault Refusal

/-- FEAT0[7:0]: every bit on TB-4Q; bits 1 and 2 absent on TB-2Q (R2, R3). -/
def State.feat0 (s : State) : BitVec 8 := if s.four then 0xFF else 0xF9
def State.hasFeature (s : State) (n : Nat) : Bool := s.feat0.getLsbD n

/-- The first check of R52 steps 1 to 4 that the instruction fails in the executing context: the cause of its trap. -/
def State.issueTrap (s : State) (i : Instr) : Option (BitVec 8) :=
  if !s.hasFeature (majorFeature i) then some 2
  else if (match roleNeeded i with
    | some r => r != s.myRole
    | none => false) then some 1
  else if (WellFormed.check i).isSome then some 1
  else if (fieldFeatures i).any fun n => !s.hasFeature n then some 2
  else none

/-- The state after an instruction: the trap of a failed check, with TVAL the word (R53), or else its effect. -/
def State.issue (s : State) (i : Instr) (eff : State → Eff) : State :=
  match s.issueTrap i with
  | some cause => s.takeTrap s.cur cause false (encode i) 0
  | none => s.run eff

/-- Counts an operation, or lets the instruction wait at issue while its counter stands at 255 (R46, R300). -/
def counted (i : Instr) (s : State) (count : Ctx → BitVec 8) (eff : Eff) : Eff :=
  if count s.me = 255 then .sleep (.again i) s else eff

end Sys2Proof.Machine
end

