-- ==== Sys2Proof/Machine/Operands.lean ====
section
/-! DEFINITION. Operand forms: lanes and masks, source modifiers and NARROW, effective addresses, places, and the elements of a
formatted page (R17, R27, R31, R32, R34, R38, R191 to R196). -/
namespace Sys2Proof.Machine

/-! ## Lanes (R29, R46) -/

/-- Bits [lo+n-1:lo] of a vector register as a number. -/
def bits (v : Quad) (lo n : Nat) : Nat := v.toNat / 2 ^ lo % 2 ^ n
/-- Lane i of width w. -/
def lane (v : Quad) (w i : Nat) : Nat := bits v (w * i) w
/-- The register with bits [lo+n-1:lo] replaced. -/
def putBits (v : Quad) (lo n x : Nat) : Quad :=
  (v &&& ~~~ BitVec.ofNat 128 ((2 ^ n - 1) * 2 ^ lo)) ||| BitVec.ofNat 128 (x % 2 ^ n * 2 ^ lo)
/-- The register with lane i replaced. -/
def putLane (v : Quad) (w i x : Nat) : Quad := putBits v (w * i) w x
/-- Lane count of a width (R29). -/
def lanesOf (w : Nat) : Nat := 128 / w

/-- Is lane i active under a mask value and KN (R27)? -/
def active (m : BitVec 16) (kn : BitVec 1) (i : Nat) : Bool := m.getLsbD i != (kn = 1)
/-- The active lanes below L, in rising order. -/
def activeLanes (m : BitVec 16) (kn : BitVec 1) (l : Nat) : List Nat := (List.range l).filter (active m kn)

/-! ## Modifiers and NARROW (R31, R32, R187, R188) -/

def modNfmt (m : BitVec 6) : Nat := (m.extractLsb' 3 3).toNat
def modGrp (m : BitVec 6) : Nat := (m.extractLsb' 0 3).toNat
/-- The float format of an NFMT code, as a TYPE code (R31). -/
def nfmtFloat (nfmt : Nat) : Nat :=
  match nfmt with
  | 1 => 8
  | 2 => 9
  | 3 => 12
  | 4 => 13
  | _ => 14
/-- The bits of a float NFMT slot or of a lane of an own format that an F6 does not use read 0 (R180). -/
def floatTrim (ty p : Nat) : Nat := (fmtOf ty).trim p

/-- SOURCE_LANE of R31 as a pattern of W bits. -/
def sourceLane (v : Quad) (m : BitVec 6) (ty i : Nat) : Nat :=
  let w := typeWidth ty
  let nfmt := modNfmt m
  if nfmt = 0 then lane v w i
  else
    let n := containerBits (typeFloat ty) nfmt
    let e := bits v (modGrp m * lanesOf w * n + i * n) n
    if typeFloat ty then (roundF (fmtOf ty) 0 false ((fmtOf (nfmtFloat nfmt)).value e)).1
    else ofInt w (toInt (nfmt % 2 = 1) n e)

/-- PLACE of R216: lane i, or its narrow slot, takes a result's bits. -/
def placeLane (v : Quad) (narrow : BitVec 6) (ty i x : Nat) : Quad :=
  let w := typeWidth ty
  if modNfmt narrow = 0 then putLane v w i x
  else
    let n := containerBits (typeFloat ty) (modNfmt narrow)
    putBits v (modGrp narrow * lanesOf w * n + i * n) n x

/-- ROUND_TO of R216 for an exact float value. -/
def roundLane (ty : Nat) (narrow : BitVec 6) (rnd : Nat) (sat : Bool) (v : FVal) : Nat × BitVec 5 :=
  roundF (fmtOf (if modNfmt narrow = 0 then ty else nfmtFloat (modNfmt narrow))) rnd sat v

/-- ROUND_TO of R216 for an exact integer. -/
def clampLane (ty : Nat) (narrow : BitVec 6) (sat : Bool) (r : Int) : Nat × BitVec 5 :=
  if modNfmt narrow = 0 then intResult (intSigned ty) (typeWidth ty) sat r
  else intResult (modNfmt narrow % 2 = 1) (containerBits false (modNfmt narrow)) sat r

/-! ## Addresses (R34) and places (R17, R38) -/

/-- Effective address of an M-format instruction. -/
def MF.ea (f : MF) (s : State) : Word := s.rx f.a + f.off.signExtend 64

/-- A place as the instruction gives it (R38): offsets and role. -/
structure Place where
  dx : Int
  dy : Int
  role : Nat
deriving DecidableEq, Repr

/-- A place in a register; none where a reserved bit or role 3 stands in it (R38). -/
def placeOf (w : Word) : Option Place :=
  let role := (w.extractLsb' 12 2).toNat
  if w.extractLsb' 14 50 ≠ (0 : BitVec 50) || role = 3 then none
  else some { dx := (w.extractLsb' 0 6 : BitVec 6).toInt, dy := (w.extractLsb' 6 6 : BitVec 6).toInt, role := role }

/-- A place as the value of TVAL: that of the register layout. -/
def Place.word (p : Place) : Word :=
  (BitVec.ofNat 2 p.role ++ BitVec.ofInt 6 p.dy ++ BitVec.ofInt 6 p.dx : BitVec 14).zeroExtend 64

/-- The target core of a place inside the paddock that owns the executing shed (R17). -/
def State.target (s : State) (p : Place) : Option Nat :=
  let x := (shedX s.myShed : Int) + p.dx
  let y := (shedY s.myShed : Int) + p.dy
  match (s.vf s.myVf).paddock with
  | none => none
  | some r => if r.has x y then some (3 * shedAt x.toNat y.toNat + p.role) else none

/-- The target inside the executing gang (R17). -/
def State.gangTarget (s : State) (p : Place) : Option Nat :=
  match s.target p with
  | none => none
  | some c =>
    let d := shedOfCore c
    if (s.gang s.myGang).has (shedX d) (shedY d) then some c else none

/-! ## Formats of pages (R191 to R194, R333) -/

/-- The attributes of a page as a decoding access reads them (R191, R333). -/
structure PageFmt where
  fmt : Nat
  g : Nat
  sc : Nat
  slot : Nat
  soff : Int
deriving DecidableEq, Repr

/-- Group size in elements, with 0 for no groups. -/
def PageFmt.group (p : PageFmt) : Nat := if p.g = 0 then 0 else 2 ^ p.g
/-- Bytes of one scale. -/
def PageFmt.z (p : PageFmt) : Nat := if p.sc = 1 then 2 else 1
/-- Does the page carry a scale plane? -/
def PageFmt.scaled (p : PageFmt) : Bool := decide (p.sc ≠ 0)
/-- Stored bytes of one element; a CB4 byte holds two (R191). -/
def PageFmt.size (p : PageFmt) : Nat :=
  match p.fmt with
  | 3 | 4 => 2
  | 5 => 4
  | _ => 1

end Sys2Proof.Machine
end

