-- ==== Sys2Proof/Machine/Sleep.lean ====
section
/-! DEFINITION. The order in which sleepers are served (R124, R233, R306, R315) and the counters of outstanding operations
(R300). -/
namespace Sys2Proof.Machine

/-- The contexts that sleep at an instruction which is tried again, with the instruction and the stamp of falling asleep. A
contained core serves none. -/
def State.sleepers (s : State) : List (Nat × Instr × Nat) :=
  s.ctxs.filterMap fun e => match e.2.mode with
    | .asleep (.again i) => if (s.core (coreOfCtx e.1)).contained.isSome then none else some (e.1, i, e.2.since)
    | _ => none

/-- No sleeper that waits for the same thing began to sleep earlier than the executing context. -/
def State.myTurn (s : State) (same : Nat → Instr → Bool) : Bool :=
  s.sleepers.all fun e => e.1 == s.cur || !same e.1 e.2.1 ||
    match s.me.mode with
    | .asleep _ => decide (s.me.since < e.2.2)
    | _ => false

/-- Counter steps at issue (R300). -/
def Ctx.incLd (c : Ctx) : Ctx := { c with ld := c.ld + 1 }
def Ctx.incSt (c : Ctx) : Ctx := { c with st := c.st + 1 }
def Ctx.incCp (c : Ctx) : Ctx := { c with cp := c.cp + 1 }
def Ctx.incTl (c : Ctx) : Ctx := { c with tl := c.tl + 1 }

/-- Adds an operation to the executing context, with the key slot of its page. -/
def State.pushOp (s : State) (key : Nat) (hint : BitVec 2) (kind : OpKind) : State :=
  (s.updMe fun c => { c with ops := c.ops ++ [{ id := s.next, grp := s.next, hint := hint, key := key, kind := kind }] }).tickNext

/-- Lets the instruction sleep while an order rule or a condition holds it, or else goes on. -/
def holdUnless (ok : Bool) (i : Instr) (s : State) (eff : Eff) : Eff := if ok then eff else .sleep (.again i) s

/-- Keeps the context STALLED while a unit is busy (R106), or else goes on. -/
def stallUnless (ok : Bool) (s : State) (eff : Eff) : Eff := if ok then eff else .stall s

/-- Continues with the translation of an address (R337); the context is STALLED while its walk waits (R336). -/
def withHit (s : State) (va : Word) (wr : Bool) (k : Hit → Eff) : Eff :=
  match s.translate s.cur va wr with
  | .error r => if r = walkWaits then .stall (s.missOf s.cur va wr) else .fault va r wr
  | .ok h => k h

/-- The alignment trap (R303). -/
def aligned (ea : Word) (n : Nat) (eff : Eff) : Eff := if ea.toNat % n = 0 then eff else .trap 13 ea 0

end Sys2Proof.Machine
end

