-- ==== Sys2Proof/Machine/Memory.lean ====
section
/-! DEFINITION. Loads, stores, tagged accesses and cache control: majors 0x40 to 0x50 (R302 to R309). An access becomes
pending at its issue; the moves of the order machine take it later. -/
namespace Sys2Proof.Machine

/-- Bytes of a SIZE code (R35). -/
def sizeBytes (z : BitVec 3) : Nat := 2 ^ z.toNat
/-- Mask of n bytes from byte `off` of a doubleword, and a value moved there. -/
def byteMask (off n : Nat) : BitVec 8 := BitVec.ofNat 8 ((2 ^ n - 1) * 2 ^ off)
def byteValue (off : Nat) (v : Word) : Word := v <<< (8 * off)

/-! ## Scalar accesses (R304) -/

/-- `ld`, `ldu` and `ld.acq`. -/
def loadEff (i : Instr) (f : MF) (sext acq : Bool) (s : State) : Eff :=
  let ea := MF.ea f s
  let n := sizeBytes f.size
  counted i s (·.ld) <| aligned ea n <| withHit s ea false fun h =>
    .done ((h.st.pushOp (pteKey h.w0) (pageHint f.hint h.w0)
      (.read (.x f.d (h.loc % 8) n sext) [dwordOf h.loc] [] acq)).updMe Ctx.incLd)

/-- `st` and `st.rel`: the value enters the write buffer. -/
def storeEff (i : Instr) (f : MF) (rel : Option (BitVec 3)) (s : State) : Eff :=
  let ea := MF.ea f s
  let n := sizeBytes f.size
  counted i s (·.st) <| aligned ea n <| withHit s ea true fun h =>
    let set := if rel.isSome then h.st.releaseSet s.cur else []
    .done ((h.st.pushOp (pteKey h.w0) (pageHint f.hint h.w0)
      (.write (dwordOf h.loc) (byteMask (h.loc % 8) n) (byteValue (h.loc % 8) (s.rx f.b)) none rel set)).updMe Ctx.incSt)

/-! ## Vector accesses (R305) -/

/-- The attributes of a page as word 1 of its leaf holds them (R191, R333). -/
def pageFmt (w1 : Word) : PageFmt where
  fmt := (w1.extractLsb' 56 8).toNat
  g := (w1.extractLsb' 52 4).toNat
  sc := (w1.extractLsb' 50 2).toNat
  slot := (w1.extractLsb' 44 6).toNat
  soff := (w1.extractLsb' 0 40 : BitVec 40).toInt
/-- The table of R191 and the reserved bits of R333, for a decoding access (R192). -/
def pageFmtOk (w1 : Word) : Bool :=
  let p := pageFmt w1
  let grouped := p.fmt = 1 || p.fmt = 2 || p.fmt = 6 || p.fmt = 7 || p.fmt = 8
  decide (p.fmt ≤ 9) && w1.extractLsb' 40 4 = (0 : BitVec 4) && (p.fmt = 9 || p.slot = 0) &&
  (if p.fmt = 9 then decide (5 ≤ p.g) && decide (p.g ≤ 8) && decide (p.sc ≤ 2)
   else if grouped then (p.g = 0 && p.sc = 0) || (decide (5 ≤ p.g) && decide (p.g ≤ 8) && decide (p.sc ≤ 2))
   else p.g = 0 && p.sc = 0)
/-- Does DECODE make BF16 elements of the page (R194)? -/
def PageFmt.decodes (p : PageFmt) : Bool := decide (p.g ≠ 0)

/-- Address of the scale of the element at byte `off` of its page that begins at `pb` (R194). -/
def scaleAddr (p : PageFmt) (pb off : Nat) : Word :=
  let z := PageFmt.z p
  let g := PageFmt.group p
  if p.fmt = 9 then
    BitVec.ofInt 64 ((pb : Int) + p.soff + ((off / 512 * 16 / g * 64 * z + z * (off % 512 / 8) : Nat) : Int))
  else BitVec.ofInt 64 ((pb : Int) + p.soff + ((off / g * z : Nat) : Int))

/-- The value of a stored element of an 8-bit or F6 format, or of a codebook entry (R194). -/
def elemValue (fmt : Nat) (slot : List (BitVec 16)) (code : Nat) : FVal :=
  match fmt with
  | 1 => ofIntVal (toInt true 8 code)
  | 2 => ofIntVal (toInt false 8 code)
  | 6 => (fmtOf 12).value code
  | 7 => (fmtOf 13).value code
  | 8 => (fmtOf 14).value code
  | _ => (fmtOf 9).value (slot.getD code 0).toNat
/-- The value of a scale (R191): 1.0, BF16 or E4M3. -/
def scaleValue (sc raw : Nat) : FVal :=
  match sc with
  | 1 => (fmtOf 9).value raw
  | 2 => (fmtOf 12).value raw
  | _ => .fin false 1 0
/-- ROUND_BF16_QUIET of element times scale (R194). -/
def decodeElem (fmt : Nat) (slot : List (BitVec 16)) (sc code scale : Nat) : Nat :=
  match mulTerm (elemValue fmt slot code) (scaleValue sc scale) false with
  | .invalid => (fmtOf 9).nan false
  | .val v => (roundF (fmtOf 9) 0 false v).1

/-- Stored entries of a codebook slot of a shed (R195). -/
def State.slotOf (s : State) (shed slot : Nat) : List (BitVec 16) := (s.shed shed).slots.getD slot (List.replicate 16 0)

/-- The mask of 16 lanes that K and KN select (R27). -/
def State.laneMask (s : State) (f : MF) : BitVec 16 := if f.kn = 1 then ~~~ s.rk f.k else s.rk f.k

/-- The doublewords of a 16-byte access whose bytes a mask touches. -/
def halves (loc : Nat) (m : BitVec 16) : List Nat :=
  (if m.extractLsb' 0 8 = (0 : BitVec 8) then [] else [loc]) ++ (if m.extractLsb' 8 8 = (0 : BitVec 8) then [] else [loc + 8])

/-- A 16-byte load of stored bytes at a translated place. -/
def rawLoad (f : MF) (m : BitVec 16) (_ : State) (h : Hit) : Eff :=
  .done ((h.st.pushOp (pteKey h.w0) (pageHint f.hint h.w0) (.read (.vraw f.d m) (halves (h.loc) m) [] false)).updMe Ctx.incLd)

/-- `vld` from a page that decodes: the data doubleword, then the scale's, each through its own translation. -/
def decLoad (f : MF) (m : BitVec 16) (ea : Word) (p : PageFmt) (s : State) (h : Hit) : Eff :=
  let go (st : State) (locs : List Nat) (soff : Nat) (via : List (BitVec 2 × Nat)) : Eff :=
    .done ((st.pushOp (pteKey h.w0) (pageHint f.hint h.w0)
      (.read (.vdec f.d m p.fmt p.sc p.g (h.loc % 8) soff (s.slotOf s.myShed p.slot) via) (dwordOf h.loc :: locs) [] false)).updMe
        Ctx.incLd)
  let how (g : Hit) : BitVec 2 × Nat := (pageHint f.hint g.w0, pteKey g.w0)
  if PageFmt.scaled p then
    let sa := scaleAddr p h.page (ea.toNat - h.page)
    withHit h.st sa false fun g =>
      if sa.toNat % 8 + PageFmt.z p ≤ 8 then go g.st [dwordOf g.loc] (g.loc % 8) [how g]
      else withHit g.st (sa + 1) false fun g2 => go g2.st [dwordOf g.loc, dwordOf g2.loc] (g.loc % 8) [how g, how g2]
  else go h.st [] 0 []

/-- `vld` (R305): where the page decodes, lanes 8 to 15 do not exist, so a mask that selects only those has no active lane (R27). -/
def vldEff (i : Instr) (f : MF) (s : State) : Eff :=
  let ea := MF.ea f s
  let m := s.laneMask f
  if m = 0 then .done s else
  counted i s (·.ld) <| withHit s ea false fun h =>
    let p := pageFmt h.w1
    if !pageFmtOk h.w1 then .trap 16 ea 0
    else if p.fmt = 9 && !s.hasFeature 5 then .trap 2 (encode i) 0
    else if PageFmt.decodes p then
      if m.extractLsb' 0 8 = (0 : BitVec 8) then .done h.st
      else aligned ea (if p.fmt = 9 then 4 else 8) <| decLoad f m ea p s h
    else aligned ea 16 <| rawLoad f m s h

/-- `vld.raw` (R305). -/
def vldRawEff (i : Instr) (f : MF) (s : State) : Eff :=
  let ea := MF.ea f s
  let m := s.laneMask f
  if m = 0 then .done s else
  counted i s (·.ld) <| aligned ea 16 <| withHit s ea false fun h => rawLoad f m s h

/-- `vst` (R305): one counted operation of at most two doubleword writes. -/
def vstEff (i : Instr) (f : MF) (s : State) : Eff :=
  let ea := MF.ea f s
  let m := s.laneMask f
  if m = 0 then .done s else
  counted i s (·.st) <| aligned ea 16 <| withHit s ea true fun h =>
    let v := s.rv f.b
    let half (lo : Nat) : List (Nat × BitVec 8 × Word) :=
      if m.extractLsb' lo 8 = (0 : BitVec 8) then [] else [(h.loc + lo, m.extractLsb' lo 8, v.extractLsb' (8 * lo) 64)]
    let grp := s.next
    let t := (half 0 ++ half 8).foldl (fun (t : State) w =>
      (t.updMe fun c => { c with ops := c.ops ++ [{ id := t.next, grp := grp, hint := pageHint f.hint h.w0, key := pteKey h.w0,
                                                    kind := .write w.1 w.2.1 w.2.2 none none [] }] }).tickNext) h.st
    .done (t.updMe Ctx.incSt)

/-! ## Tagged accesses (R306) -/

/-- Their address checks, and the translation of the window. -/
def tagged (i : Instr) (f : MF) (s : State) (count : Ctx → BitVec 8) (k : Nat → Eff) : Eff :=
  let ea := MF.ea f s
  if ea.toNat < Config.padWindow then .trap 14 ea 0
  else aligned ea 8 <| counted i s count <| k (padLoc s.myShed (ea.toNat - Config.padWindow))

/-- Does an instruction sleep on the same word for a full tag, or for an empty one? -/
def sameTag (s : State) (loc : Nat) (full : Bool) (k : Nat) (i : Instr) : Bool :=
  shedOfCtx k = padShed loc &&
  match i with
  | .ldF f => full && padLoc (shedOfCtx k) (((s.ctx k).rx f.a + f.off.signExtend 64).toNat - Config.padWindow) = loc
  | .ldFe f => full && padLoc (shedOfCtx k) (((s.ctx k).rx f.a + f.off.signExtend 64).toNat - Config.padWindow) = loc
  | .stEf f => !full && padLoc (shedOfCtx k) (((s.ctx k).rx f.a + f.off.signExtend 64).toNat - Config.padWindow) = loc
  | _ => false

/-- The consuming read of a full word: an acquire, that leaves the tag full or empties it. It observes what it reads and the write that
set the tag, whose value a plain store may since have replaced (R293, R294). -/
def consumeEff (i : Instr) (f : MF) (empty : Bool) (s : State) : Eff :=
  tagged i f s (·.ld) fun loc =>
    let wr : Op := { moveAs s.next with kind := if empty then .tag loc false else .read (.x f.d 0 8 false) [loc] [] true }
    let set := (s.observed s.myQtr loc ++ (s.shed (padShed loc)).tagSet.getD (padIndex loc) []).eraseDups
    holdUnless (s.tag loc && s.mayMove s.cur wr && s.mayMove s.cur (readAs s.next loc) && s.myTurn (sameTag s loc true)) i s <|
      if s.readPoisoned s.cur s.next loc 0xFF then .contained (s.containEvent s.myCore 3)
      else
        let t := ((s.correct loc).updMe fun c => c.see s.next true set).wx f.d (s.readVal s.cur s.next 0 loc)
        .done ((if empty then t.tagWrite loc (some false) none else t).tickNext)

/-- `st.ef`: an atomic write of an empty word, a release at `.shed`. -/
def fillEff (i : Instr) (f : MF) (s : State) : Eff :=
  tagged i f s (·.st) fun loc =>
    let set := s.releaseSet s.cur
    let o : Op := { moveAs s.next with kind := .write loc 0xFF (s.rx f.b) (some true) (some 2) set }
    holdUnless (!s.tag loc && s.mayMove s.cur o && s.myTurn (sameTag s loc false)) i s <|
      .done (s.tickNext.perform s.cur s.next s.myQtr loc 0xFF (s.rx f.b) (some true) (some set) true false false)

/-- `st.f`: a buffered write that sets the tag, a release at `.shed`. -/
def setFullEff (i : Instr) (f : MF) (s : State) : Eff :=
  tagged i f s (·.st) fun loc =>
    .done ((s.pushOp 0 0 (.write loc 0xFF (s.rx f.b) (some true) (some 2) (s.releaseSet s.cur))).updMe Ctx.incSt)

/-- `tag.set` and `tag.clr`. -/
def tagEff (i : Instr) (f : MF) (full : Bool) (s : State) : Eff :=
  tagged i f s (·.st) fun loc => .done ((s.pushOp 0 0 (.tag loc full)).updMe Ctx.incSt)

/-! ## Cache control (R308, R309) -/

/-- `pref`: only line states change; the fetch merges the line's partials first (R279), and corrects the errors that it meets (R365). The context is STALLED while its walk waits
(R336). -/
def prefEff (f : MF) (s : State) : Eff :=
  match s.translate s.cur (MF.ea f s) false with
  | .error r => if r = walkWaits then .stall (s.missOf s.cur (MF.ea f s) false) else .done s
  | .ok h =>
    let hint := pageHint f.hint h.w0
    let idle := isPad h.loc || (hint = 2 && !h.st.lineHere s.myQtr (lineOf h.loc))
    .done (if idle then h.st
      else ((h.st.mergeLine (lineOf h.loc)).lineRead s.myCore h.loc hint).correctRange (lineOf h.loc) (lineOf h.loc + 64))

/-- `flush` and `inv`. -/
def lineEff (i : Instr) (f : MF) (inval : Bool) (s : State) : Eff :=
  counted i s (·.st) <|
    match s.translate s.cur (MF.ea f s) false with
    | .error r => if r = walkWaits then .stall (s.missOf s.cur (MF.ea f s) false) else .done s
    | .ok h => if isPad h.loc then .done h.st
               else .done ((h.st.pushOp (pteKey h.w0) 0 (.line inval (lineOf h.loc) f.scope)).updMe Ctx.incSt)

/-! ## The instructions -/

/-- The effect of `ld` (R304). -/
def effLd (f : MF) (s : State) : Eff := loadEff (.ld f) f true false s
/-- `ld` (R304). -/
def execLd (f : MF) (s : State) : Out := .next (s.issue (.ld f) (effLd f))
/-- The effect of `ldu` (R304). -/
def effLdu (f : MF) (s : State) : Eff := loadEff (.ldu f) f false false s
/-- `ldu` (R304). -/
def execLdu (f : MF) (s : State) : Out := .next (s.issue (.ldu f) (effLdu f))
/-- The effect of `ld.acq` (R304). -/
def effLdAcq (f : MF) (s : State) : Eff := loadEff (.ldAcq f) f false true s
/-- `ld.acq` (R304). -/
def execLdAcq (f : MF) (s : State) : Out := .next (s.issue (.ldAcq f) (effLdAcq f))
/-- The effect of `vld` (R305). -/
def effVld (f : MF) (s : State) : Eff := vldEff (.vld f) f s
/-- `vld` (R305). -/
def execVld (f : MF) (s : State) : Out := .next (s.issue (.vld f) (effVld f))
/-- The effect of `vld.raw` (R305). -/
def effVldRaw (f : MF) (s : State) : Eff := vldRawEff (.vldRaw f) f s
/-- `vld.raw` (R305). -/
def execVldRaw (f : MF) (s : State) : Out := .next (s.issue (.vldRaw f) (effVldRaw f))
/-- The effect of `st` (R304). -/
def effSt (f : MF) (s : State) : Eff := storeEff (.st f) f none s
/-- `st` (R304). -/
def execSt (f : MF) (s : State) : Out := .next (s.issue (.st f) (effSt f))
/-- The effect of `st.rel` (R304). -/
def effStRel (f : MF) (s : State) : Eff := storeEff (.stRel f) f (some f.scope) s
/-- `st.rel` (R304). -/
def execStRel (f : MF) (s : State) : Out := .next (s.issue (.stRel f) (effStRel f))
/-- The effect of `vst` (R305). -/
def effVst (f : MF) (s : State) : Eff := vstEff (.vst f) f s
/-- `vst` (R305). -/
def execVst (f : MF) (s : State) : Out := .next (s.issue (.vst f) (effVst f))
/-- The effect of `ld.f` (R306). -/
def effLdF (f : MF) (s : State) : Eff := consumeEff (.ldF f) f false s
/-- `ld.f` (R306). -/
def execLdF (f : MF) (s : State) : Out := .next (s.issue (.ldF f) (effLdF f))
/-- The effect of `ld.fe` (R306). -/
def effLdFe (f : MF) (s : State) : Eff := consumeEff (.ldFe f) f true s
/-- `ld.fe` (R306). -/
def execLdFe (f : MF) (s : State) : Out := .next (s.issue (.ldFe f) (effLdFe f))
/-- The effect of `st.ef` (R306). -/
def effStEf (f : MF) (s : State) : Eff := fillEff (.stEf f) f s
/-- `st.ef` (R306). -/
def execStEf (f : MF) (s : State) : Out := .next (s.issue (.stEf f) (effStEf f))
/-- The effect of `st.f` (R306). -/
def effStF (f : MF) (s : State) : Eff := setFullEff (.stF f) f s
/-- `st.f` (R306). -/
def execStF (f : MF) (s : State) : Out := .next (s.issue (.stF f) (effStF f))
/-- The effect of `tag.set` (R306). -/
def effTagSet (f : MF) (s : State) : Eff := tagEff (.tagSet f) f true s
/-- `tag.set` (R306). -/
def execTagSet (f : MF) (s : State) : Out := .next (s.issue (.tagSet f) (effTagSet f))
/-- The effect of `tag.clr` (R306). -/
def effTagClr (f : MF) (s : State) : Eff := tagEff (.tagClr f) f false s
/-- `tag.clr` (R306). -/
def execTagClr (f : MF) (s : State) : Out := .next (s.issue (.tagClr f) (effTagClr f))
/-- The effect of `pref` (R308). -/
def effPref (f : MF) (s : State) : Eff := prefEff f s
/-- `pref` (R308). -/
def execPref (f : MF) (s : State) : Out := .next (s.issue (.pref f) (effPref f))
/-- The effect of `flush` (R309). -/
def effFlush (f : MF) (s : State) : Eff := lineEff (.flush f) f false s
/-- `flush` (R309). -/
def execFlush (f : MF) (s : State) : Out := .next (s.issue (.flush f) (effFlush f))
/-- The effect of `inv` (R309). -/
def effInv (f : MF) (s : State) : Eff := lineEff (.inv f) f true s
/-- `inv` (R309). -/
def execInv (f : MF) (s : State) : Out := .next (s.issue (.inv f) (effInv f))

end Sys2Proof.Machine
end

