-- ==== Sys2Proof/Machine/Atomics.lean ====
section
/-! DEFINITION. Atomics and reductions: majors 0x58 to 0x69 (R310 to R312). -/
namespace Sys2Proof.Machine

/-- `amo.*`: an acquire and a release at its scope, taken by ATOMIC later. It runs on a line in E or M, whatever hint its page has (R275). -/
def amoEff (fn : AmoFn) (i : Instr) (f : MF) (s : State) : Eff :=
  let ea := MF.ea f s
  let n := sizeBytes f.size
  counted i s (·.ld) <| aligned ea n <| withHit s ea true fun h =>
    .done ((h.st.pushOp (pteKey h.w0) 0 (.amo fn (dwordOf h.loc) (h.loc % 8) n (s.rx f.b) (s.rx f.c) (some f.d) f.scope
      (h.st.releaseSet s.cur) none)).updMe Ctx.incLd)

/-- `red.*` (R312): REDUCE on a page with the permission, ATOMIC with its result discarded elsewhere. -/
def redRun (fn : AmoFn) (i : Instr) (f : MF) (s : State) : Eff :=
  let ea := MF.ea f s
  let n := sizeBytes f.size
  counted i s (·.st) <| aligned ea n <| withHit s ea true fun h =>
    let kind : OpKind :=
      if !isPad h.loc && pteCom h.w0 then .red fn (dwordOf h.loc) (h.loc % 8) n (s.rx f.b)
      else .amo fn (dwordOf h.loc) (h.loc % 8) n (s.rx f.b) 0 none 0 [] none
    .done ((h.st.pushOp (pteKey h.w0) (pageHint 0 h.w0) kind).updMe Ctx.incSt)

/-- The effect of `amo.add` (R311). -/
def effAmoAdd (f : MF) (s : State) : Eff := amoEff .add (.amoAdd f) f s
/-- `amo.add` (R311). -/
def execAmoAdd (f : MF) (s : State) : Out := .next (s.issue (.amoAdd f) (effAmoAdd f))
/-- The effect of `amo.and` (R311). -/
def effAmoAnd (f : MF) (s : State) : Eff := amoEff .and (.amoAnd f) f s
/-- `amo.and` (R311). -/
def execAmoAnd (f : MF) (s : State) : Out := .next (s.issue (.amoAnd f) (effAmoAnd f))
/-- The effect of `amo.or` (R311). -/
def effAmoOr (f : MF) (s : State) : Eff := amoEff .or (.amoOr f) f s
/-- `amo.or` (R311). -/
def execAmoOr (f : MF) (s : State) : Out := .next (s.issue (.amoOr f) (effAmoOr f))
/-- The effect of `amo.xor` (R311). -/
def effAmoXor (f : MF) (s : State) : Eff := amoEff .xor (.amoXor f) f s
/-- `amo.xor` (R311). -/
def execAmoXor (f : MF) (s : State) : Out := .next (s.issue (.amoXor f) (effAmoXor f))
/-- The effect of `amo.min` (R311). -/
def effAmoMin (f : MF) (s : State) : Eff := amoEff .min (.amoMin f) f s
/-- `amo.min` (R311). -/
def execAmoMin (f : MF) (s : State) : Out := .next (s.issue (.amoMin f) (effAmoMin f))
/-- The effect of `amo.max` (R311). -/
def effAmoMax (f : MF) (s : State) : Eff := amoEff .max (.amoMax f) f s
/-- `amo.max` (R311). -/
def execAmoMax (f : MF) (s : State) : Out := .next (s.issue (.amoMax f) (effAmoMax f))
/-- The effect of `amo.minu` (R311). -/
def effAmoMinu (f : MF) (s : State) : Eff := amoEff .minu (.amoMinu f) f s
/-- `amo.minu` (R311). -/
def execAmoMinu (f : MF) (s : State) : Out := .next (s.issue (.amoMinu f) (effAmoMinu f))
/-- The effect of `amo.maxu` (R311). -/
def effAmoMaxu (f : MF) (s : State) : Eff := amoEff .maxu (.amoMaxu f) f s
/-- `amo.maxu` (R311). -/
def execAmoMaxu (f : MF) (s : State) : Out := .next (s.issue (.amoMaxu f) (effAmoMaxu f))
/-- The effect of `amo.swap` (R311). -/
def effAmoSwap (f : MF) (s : State) : Eff := amoEff .swap (.amoSwap f) f s
/-- `amo.swap` (R311). -/
def execAmoSwap (f : MF) (s : State) : Out := .next (s.issue (.amoSwap f) (effAmoSwap f))
/-- The effect of `amo.cas` (R311). -/
def effAmoCas (f : MF) (s : State) : Eff := amoEff .cas (.amoCas f) f s
/-- `amo.cas` (R311). -/
def execAmoCas (f : MF) (s : State) : Out := .next (s.issue (.amoCas f) (effAmoCas f))
/-- The effect of `red.add` (R312). -/
def effRedAdd (f : MF) (s : State) : Eff := redRun .add (.redAdd f) f s
/-- `red.add` (R312). -/
def execRedAdd (f : MF) (s : State) : Out := .next (s.issue (.redAdd f) (effRedAdd f))
/-- The effect of `red.and` (R312). -/
def effRedAnd (f : MF) (s : State) : Eff := redRun .and (.redAnd f) f s
/-- `red.and` (R312). -/
def execRedAnd (f : MF) (s : State) : Out := .next (s.issue (.redAnd f) (effRedAnd f))
/-- The effect of `red.or` (R312). -/
def effRedOr (f : MF) (s : State) : Eff := redRun .or (.redOr f) f s
/-- `red.or` (R312). -/
def execRedOr (f : MF) (s : State) : Out := .next (s.issue (.redOr f) (effRedOr f))
/-- The effect of `red.xor` (R312). -/
def effRedXor (f : MF) (s : State) : Eff := redRun .xor (.redXor f) f s
/-- `red.xor` (R312). -/
def execRedXor (f : MF) (s : State) : Out := .next (s.issue (.redXor f) (effRedXor f))
/-- The effect of `red.min` (R312). -/
def effRedMin (f : MF) (s : State) : Eff := redRun .min (.redMin f) f s
/-- `red.min` (R312). -/
def execRedMin (f : MF) (s : State) : Out := .next (s.issue (.redMin f) (effRedMin f))
/-- The effect of `red.max` (R312). -/
def effRedMax (f : MF) (s : State) : Eff := redRun .max (.redMax f) f s
/-- `red.max` (R312). -/
def execRedMax (f : MF) (s : State) : Out := .next (s.issue (.redMax f) (effRedMax f))
/-- The effect of `red.minu` (R312). -/
def effRedMinu (f : MF) (s : State) : Eff := redRun .minu (.redMinu f) f s
/-- `red.minu` (R312). -/
def execRedMinu (f : MF) (s : State) : Out := .next (s.issue (.redMinu f) (effRedMinu f))
/-- The effect of `red.maxu` (R312). -/
def effRedMaxu (f : MF) (s : State) : Eff := redRun .maxu (.redMaxu f) f s
/-- `red.maxu` (R312). -/
def execRedMaxu (f : MF) (s : State) : Out := .next (s.issue (.redMaxu f) (effRedMaxu f))

end Sys2Proof.Machine
end

