-- ==== Sys2Proof/Machine/Tiles.lean ====
section
/-! DEFINITION. The matrix slice: major 0x80, its queue and its progress (R234 to R250). -/
namespace Sys2Proof.Machine

/-! ## Issue (R236, R237, R240, R242) -/

/-- Element size that an ATYPE or BTYPE code fixes; 1 where the code is 0 (R237). -/
def codeSize (code : Nat) : Nat := if code = 1 || code = 2 then 2 else 1
/-- Page FMT that a code requires (R235). -/
def codeFmt (code : Nat) : Nat :=
  match code with
  | 1 => 4 | 2 => 3 | 3 => 6 | 4 => 7 | 5 => 1 | 6 => 2 | 7 => 9 | 8 => 8 | _ => 0

/-- The checks of R237 on the registers of `tmma` and `gmma`: the offending value. Of several, the first in the order K word, strides, A, B
(DESIGN CHOICE, assumption 140). -/
def productCheck (f : TF) (s : State) : Option Word :=
  let kw := s.rx f.d
  let st := s.rx f.c
  let k := kw.toNat
  let sa := (st.extractLsb' 0 32).toNat
  let sb := (st.extractLsb' 32 32).toNat
  let ea := codeSize f.atype.toNat
  let eb := codeSize f.btype.toNat
  if 65520 < k || k < 16 || k % 16 ≠ 0 then some kw
  else if (if f.atype = 7 then sa ≠ 0 else sa % ea ≠ 0) || sb % eb ≠ 0 then some st
  else if (s.rx f.a).toNat % (if f.atype = 7 then 512 else ea) ≠ 0 then some (s.rx f.a)
  else if (s.rx f.b).toNat % eb ≠ 0 then some (s.rx f.b)
  else none

/-- The checks of R237 on the registers of `tdrain`: the row stride before the destination (DESIGN CHOICE, assumption 140). -/
def drainCheck (f : TF) (s : State) : Option Word :=
  let n := if f.atype = 1 then 2 else 4
  let st := s.rx f.c
  if st.extractLsb' 32 32 ≠ (0 : BitVec 32) || st.toNat % n ≠ 0 then some st
  else if (s.rx f.a).toNat % n ≠ 0 then some (s.rx f.a)
  else none

/-- The checks of R237 and R250 on the registers of `tdrain.coll`: the row stride before the handle (DESIGN CHOICE, assumption 140). -/
def collDrainCheck (f : TF) (s : State) : Option Word :=
  let st := s.rx f.c
  if st.extractLsb' 32 32 ≠ (0 : BitVec 32) then some st
  else if (Table.get? (s.core s.myCore).handles (s.rx f.a).toNat).isNone then some (s.rx f.a)
  else none

/-- Is the guard of a T-format instruction met (R36, R240)? -/
def guardMet (f : TF) (s : State) : Bool := f.zen = 0 || (s.core s.myCore).z.getLsbD f.zp.toNat

/-- Issue of a tile operation: a guard that is 0 retires it at once, a failed check traps, and a fifth operation leaves
its context STALLED (R240, R242). -/
def tileRun (func : Nat) (i : Instr) (check : State → Option Word) (f : TF) (s : State) : Eff :=
  if !guardMet f s then .done s
  else match check s with
    | some v => .trap 17 v 0
    | none =>
      counted i s (·.tl) <| stallUnless (decide ((s.core s.myCore).tiles.length < 4)) s <|
        let op : TileOp := {
          func := func, ctx := s.cur, acc := f.acc, atype := f.atype, btype := f.btype, d := s.rx f.d, a := s.rx f.a,
          b := s.rx f.b, c := s.rx f.c, started := false, done := 0, parked := none, cls := 0, fmtA := 0, fmtB := 0, flags := 0, slots := [],
          mismatch := 0, id := s.next, before := (s.me.ops.filter fun o => o.kind.isWrite).map (·.id),
          carry := [], joined := false, leader := s.myCore, abort := none }
        .done (((s.updCore s.myCore fun c => { c with
          tiles := c.tiles ++ [op], gmmas := if func = 2 then c.gmmas + 1 else c.gmmas }).updMe Ctx.incTl).tickNext)

/-- The effect of `tzero` (R240). -/
def effTzero (f : TF) (s : State) : Eff := tileRun 0 (.tzero f) (fun _ => none) f s
/-- `tzero` (R240). -/
def execTzero (f : TF) (s : State) : Out := .next (s.issue (.tzero f) (effTzero f))
/-- The effect of `tmma` (R239). -/
def effTmma (f : TF) (s : State) : Eff := tileRun 1 (.tmma f) (productCheck f) f s
/-- `tmma` (R239). -/
def execTmma (f : TF) (s : State) : Out := .next (s.issue (.tmma f) (effTmma f))
/-- The effect of `gmma` (R248). -/
def effGmma (f : TF) (s : State) : Eff := tileRun 2 (.gmma f) (productCheck f) f s
/-- `gmma` (R248). -/
def execGmma (f : TF) (s : State) : Out := .next (s.issue (.gmma f) (effGmma f))
/-- The effect of `tdrain` (R249). -/
def effTdrain (f : TF) (s : State) : Eff := tileRun 3 (.tdrain f) (drainCheck f) f s
/-- `tdrain` (R249). -/
def execTdrain (f : TF) (s : State) : Out := .next (s.issue (.tdrain f) (effTdrain f))
/-- The effect of `tdrain.coll` (R250). -/
def effTdrainColl (f : TF) (s : State) : Eff := tileRun 4 (.tdrainColl f) (collDrainCheck f) f s
/-- `tdrain.coll` (R250). -/
def execTdrainColl (f : TF) (s : State) : Out := .next (s.issue (.tdrainColl f) (effTdrainColl f))

/-- z_D of an arithmetic core. -/
def State.setZ (s : State) (n : Nat) (v : Bool) : State :=
  s.updCore s.myCore fun c => { c with z := if v then c.z ||| BitVec.ofNat 16 (2 ^ n) else c.z &&& ~~~ BitVec.ofNat 16 (2 ^ n) }
/-- The effect of `zset` (R240). -/
def effZset (f : TF) (s : State) : Eff := .done (s.setZ (f.d.toNat % 16) (s.rx f.a ≠ 0))
/-- `zset` (R240). -/
def execZset (f : TF) (s : State) : Out := .next (s.issue (.zset f) (effZset f))
/-- The effect of `zclr` (R240). -/
def effZclr (f : TF) (s : State) : Eff := .done (s.setZ (f.d.toNat % 16) false)
/-- `zclr` (R240). -/
def execZclr (f : TF) (s : State) : Out := .next (s.issue (.zclr f) (effZclr f))

/-! ## Progress, parking and abandonment (R244, R245, R247) -/

/-- The word of `ROWPROG`: STATE 0 retired, 1 running, 2 parked, 3 abandoned (R244). -/
def rowprogWord (state : Nat) (op : TileOp) : Word :=
  BitVec.ofNat 64 (state * 2 ^ 62 + ctxNo op.ctx * 2 ^ 58 + op.func * 2 ^ 55 + op.acc.toNat * 2 ^ 53 +
    (if op.func ≤ 2 then op.done * 2 ^ 32 else op.done))
/-- `tzero` does not change `ROWPROG`. -/
def State.setRowprog (s : State) (core state : Nat) (op : TileOp) : State :=
  if op.func = 0 then s else s.updCore core fun c => { c with rowprog := rowprogWord state op }
/-- The operation at the head of a slice. -/
def State.tileHead (s : State) (core : Nat) : Option TileOp := (s.core core).tiles.head?
def State.setTileHead (s : State) (core : Nat) (op : TileOp) : State :=
  s.updCore core fun c => { c with tiles := op :: c.tiles.tail }
/-- Number of groups or rows of an operation. -/
def TileOp.total (op : TileOp) : Nat :=
  match op.func with
  | 0 => 1
  | 1 | 2 => op.d.toNat / 16
  | _ => 64

/-- Performs stored bytes as a plain store of a context, by the operation that stands at place `id` of its program order: after a fence it
releases as any store does (R243, R293). -/
def State.putChunk (s : State) (k id : Nat) (c : Chunk) : State :=
  ((s.encrypt (pteKey c.w0) c.loc).tickNext.perform k s.next (qtrOfCtx k) c.loc c.mask c.val none (s.relOf k (writeAs id c.loc)) false false
    false).lineWrite (coreOfCtx k) c.loc (pageHint 0 c.w0)
/-- Do the order rules let an operation send out some stored bytes (R243, R289, R296)? -/
def State.letsChunks (s : State) (k id : Nat) (l : List Chunk) : Bool :=
  l.all fun c => s.mayMove k (writeAs id c.loc) && s.redsSettled (qtrOfCtx k) c.loc

/-- Abandonment (R247). Rows that a drain has finished are written whole, so it waits until the order rules let them go. -/
def State.abandonTile (s : State) (core : Nat) (cause : BitVec 8) (tval : Word) (tinfo : BitVec 8) : State :=
  match s.tileHead core with
  | none => s
  | some op =>
    if !s.letsChunks op.ctx op.id op.carry then s.setTileHead core { op with parked := none, abort := some (cause, tval, tinfo) } else
    let t0 := op.carry.foldl (fun t c => t.putChunk op.ctx op.id c) s
    let t := (t0.updCore core fun c => { c with tiles := c.tiles.tail }).setRowprog core 3 op
    let t1 := { t with refs := t.refs.mapVals fun _ r =>
      if r.work = 1 && some r.key = some core then { r with discard := true } else r }
    (t1.updCtx op.ctx fun c => { Ctx.decTl c with fstat := c.fstat ||| op.flags }).deliverTrap op.ctx cause tval tinfo

/-- Row-barrier members: the gang's arithmetic cores of one shed row and one quarter (R125, R248). The number of a row
barrier is 2 * row + column half. -/
def Gang.rowCores (g : Gang) (row : Nat) : List Nat :=
  g.cores.filter fun c => roleOf c = 2 && 2 * shedY (shedOfCore c) + shedX (shedOfCore c) / 8 = row
def rowOfCore (c : Nat) : Nat := 2 * shedY (shedOfCore c) + shedX (shedOfCore c) / 8

/-- The cores whose heads are parts of one running operation: all members of a joined `gmma`, or the core alone. -/
def State.tileMates (s : State) (core : Nat) (op : TileOp) : List Nat :=
  if op.func = 2 then
    ((s.gang ((s.gangOfCore core).getD 0)).rowCores (rowOfCore core)).filter fun c => match s.tileHead c with
      | some o => o.func = 2 && o.joined
      | none => false
  else [core]

/-- Every member of a joined operation abandons: the faulting one with its own trap, the others with the row-abort trap and
the rank of the faulting one (R248). -/
def State.abandonRow (s : State) (core : Nat) (cause : BitVec 8) (tval : Word) (tinfo : BitVec 8) : State :=
  match s.tileHead core with
  | none => s
  | some op =>
    let g := s.gang ((s.gangOfCore core).getD 0)
    let rank := g.rankOf (shedOfCore core)
    ((s.tileMates core op).filter (· ≠ core)).foldl (fun t c => t.abandonTile c 18 (BitVec.ofNat 64 rank) 0)
      (s.abandonTile core cause tval tinfo)

/-- A translation fault parks the operation, every member of a joined one with it (R245, R248), or abandons it where no
supervisor can answer (R358). -/
def State.parkTile (s : State) (core : Nat) (op : TileOp) (va : Word) (reason : Nat) (wr : Bool) : State :=
  let gk := (s.gangOfCore core).getD 0
  let g := s.gang gk
  let vf := vfOf g.vfq
  if (s.ctx op.ctx).sup then s.abandonRow core 15 va (BitVec.ofNat 8 reason)
  else if (s.supervisor vf).isNone then s.abandonRow core 30 va (BitVec.ofNat 8 reason)
  else
    let r := s.next
    let detail := faultDetail reason wr false true false 0 (ctxNo op.ctx) (g.lcore core) 0
    let t := s.openReferral { vf := vf, va := va, detail := detail, info := g.faultInfo, work := 1, key := core, unit := 0,
                              slot := none, head := [], written := false, discard := false }
    (s.tileMates core op).foldl (fun u c => match u.tileHead c with
      | none => u
      | some o => (u.setTileHead c { o with parked := some r }).setRowprog c 2 o) t

/-! ## Elements (R234, R235, R238) -/

/-- A delivered element: a float value or an integer. -/
inductive TVal
  | f (v : FVal)
  | i (z : Int)
deriving DecidableEq, Repr

/-- Why an element cannot be taken. -/
inductive TErr
  | fault (va : Word) (reason : Nat)
  | format (va : Word)
  | held
  /-- Its walk has to wait (R336). -/
  | waits (va : Word) (wr : Bool)
  | poison
deriving DecidableEq, Repr

/-- A translation that failed with a reason, or that has to wait for its walk. -/
def TErr.ofReason (va : Word) (wr : Bool) (r : Nat) : TErr := if r = walkWaits then .waits va wr else .fault va r
/-- The state in which work of a context waits: the miss of its access may join a walk or the queue (R336). -/
def State.waitFor (s : State) (k : Nat) : TErr → State
  | .waits va wr => s.missOf k va wr
  | _ => s

def TVal.float : TVal → FVal
  | .f v => v
  | .i z => ofIntVal z
def TVal.int : TVal → Int
  | .f _ => 0
  | .i z => z

/-- A doubleword with the bytes of a value in place of its own. -/
def overlay (m : BitVec 8) (v w : Word) : Word :=
  (List.range 8).foldr (fun b (x : Word) =>
    (x <<< 8) ||| ((if m.getLsbD b then v else w).extractLsb' (8 * b) 8).zeroExtend 64) 0

/-- n bytes of one doubleword as a plain load of a context by the operation that stands at place `id` of its program order (R243, R289),
over bytes that the operation itself has yet to send out; `unit` says that it is an engine operation's read, which those of other operations do
not hold (R297). -/
def State.loadFor (s : State) (k id : Nat) (unit : Bool) (own : List Chunk) (va : Word) (n : Nat) : Except TErr (Nat × State) :=
  match s.translate k va false with
  | .error r => .error (.ofReason va false r)
  | .ok h =>
    let q := qtrOfCtx k
    let loc := dwordOf h.loc
    let may := if unit then h.st.mayMoveUnit k (readAs id loc) else h.st.mayMove k (readAs id loc)
    if !(may && h.st.redsSettled q loc) then .error .held
    else if h.st.poisoned q loc then .error .poison
    else
      let v := own.foldl (fun w c => if c.loc = loc then overlay c.mask c.val w else w) (h.st.plain (pteKey h.w0) q loc)
      let t := (h.st.updCtx k fun c => c.see id false (h.st.observed q loc)).lineRead (coreOfCtx k) loc (pageHint 0 h.w0)
      .ok (v.toNat / 2 ^ (8 * (h.loc % 8)) % 2 ^ (8 * n), t.correct loc)
/-- The same for a tile operation or a conversion, a plain access of its context (R243, R253, R289). -/
def State.engineLoad (s : State) (k id : Nat) (own : List Chunk) (va : Word) (n : Nat) : Except TErr (Nat × State) :=
  s.loadFor k id false own va n

/-- n bytes at any address, read byte by byte. -/
def State.engineBytes (s : State) (k id : Nat) (va : Word) : Nat → Except TErr (Nat × State)
  | 0 => .ok (0, s)
  | n + 1 =>
    match s.engineLoad k id [] va 1 with
    | .error e => .error e
    | .ok (b, t) => match State.engineBytes t k id (va + 1) n with
      | .error e => .error e
      | .ok (r, t2) => .ok (b + 256 * r, t2)

/-- Class of a page's delivered elements (R234). -/
def PageFmt.cls (p : PageFmt) : Nat :=
  if p.g ≠ 0 || p.fmt = 3 || p.fmt = 4 then 1 else if p.fmt = 1 || p.fmt = 2 then 3 else 2

/-- One element of an operand (R194, R235, R238): its value and class. -/
def State.tileElem (s : State) (k id : Nat) (va : Word) (half : Nat) (isB : Bool) (code cls : Nat)
    (slots : Table (List (BitVec 16))) : Except TErr (TVal × Nat × State) :=
  match s.translate k va false with
  | .error r => .error (.ofReason va false r)
  | .ok h =>
    let p := pageFmt h.w1
    let c := PageFmt.cls p
    if !pageFmtOk h.w1 || p.fmt = 0 || p.fmt = 5 || (code ≠ 0 && codeFmt code ≠ p.fmt) || (isB && p.fmt = 9) ||
        (cls ≠ 0 && cls ≠ c) then .error (.format va)
    else match h.st.engineLoad k id [] va (PageFmt.size p) with
      | .error e => .error e
      | .ok (raw, t) =>
        if p.g ≠ 0 then
          let code := if p.fmt = 9 then (if half = 0 then raw % 16 else raw / 16) else raw
          let slot := slots.getD p.slot (List.replicate 16 0)
          if p.sc = 0 then .ok (.f ((fmtOf 9).value (decodeElem p.fmt slot 0 code 0)), 1, t)
          else match t.engineBytes k id (scaleAddr p h.page (va.toNat - h.page)) (PageFmt.z p) with
            | .error e => .error e
            | .ok (sc, t2) => .ok (.f ((fmtOf 9).value (decodeElem p.fmt slot p.sc code sc)), 1, t2)
        else match p.fmt with
          | 1 => .ok (.i (toInt true 8 raw), 3, t)
          | 2 => .ok (.i (toInt false 8 raw), 3, t)
          | 3 => .ok (.f ((fmtOf 8).value raw), 1, t)
          | 4 => .ok (.f ((fmtOf 9).value raw), 1, t)
          | f => .ok (.f (elemValue f [] raw), 2, t)

/-- The elements at a list of addresses with their nibbles, in order. -/
def State.tileElems (s : State) (k id : Nat) (isB : Bool) (code cls : Nat) (slots : Table (List (BitVec 16))) :
    List (Word × Nat) → Except TErr (List TVal × Nat × State)
  | [] => .ok ([], cls, s)
  | (va, half) :: rest =>
    match s.tileElem k id va half isB code cls slots with
    | .error e => .error e
    | .ok (v, c, t) => match State.tileElems t k id isB code c slots rest with
      | .error e => .error e
      | .ok (vs, c2, t2) => .ok (v :: vs, c2, t2)

/-- FMT of the page at an operand's first address, or what its code names; it is looked up with the first group alone. It
gives the element size of every address of the operand, also where a later page has another one (DESIGN CHOICE, assumption 139). -/
def State.operandFmt (s : State) (k : Nat) (va : Word) (code known : Nat) : Except TErr (Nat × State) :=
  if code ≠ 0 then .ok (codeFmt code, s)
  else if known ≠ 0 then .ok (known, s)
  else match s.translate k va false with
    | .error r => .error (.ofReason va false r)
    | .ok h => .ok ((pageFmt h.w1).fmt, h.st)
def fmtSize (fmt : Nat) : Nat := if fmt = 3 || fmt = 4 then 2 else 1

/-- Addresses of group g of operand A, row by row (R238). -/
def aAddrs (x : Word) (stride fmt g : Nat) : List (Word × Nat) :=
  (List.range 1024).map fun n =>
    let i := n / 16
    let k := 16 * g + n % 16
    if fmt = 9 then (x + BitVec.ofNat 64 (k / 16 * 512 + 8 * i + k % 16 / 2), k % 2)
    else (x + BitVec.ofNat 64 (i * stride + k * fmtSize fmt), 0)
/-- Addresses of group g of operand B, row by row. -/
def bAddrs (x : Word) (stride fmt g : Nat) : List (Word × Nat) :=
  (List.range 1024).map fun n => (x + BitVec.ofNat 64 ((16 * g + n / 64) * stride + n % 64 * fmtSize fmt), 0)

/-- Group g of operand A as the operation of a context reads it. With code 0 a first page of 2-byte elements asks for even
addresses (R237). -/
def State.groupA (s : State) (k : Nat) (op : TileOp) (cls g : Nat) : Except TErr (List TVal × Nat × State) :=
  let stride := (op.c.extractLsb' 0 32).toNat
  match s.operandFmt k op.a op.atype.toNat op.fmtA with
  | .error e => .error e
  | .ok (fmt, t) =>
    if fmtSize fmt = 2 && (op.a.toNat % 2 ≠ 0 || stride % 2 ≠ 0) then .error (.format op.a)
    else t.tileElems k op.id false op.atype.toNat cls op.slots (aAddrs op.a stride fmt g)
def State.groupB (s : State) (k : Nat) (op : TileOp) (cls g : Nat) : Except TErr (List TVal × Nat × State) :=
  let stride := (op.c.extractLsb' 32 32).toNat
  match s.operandFmt k op.b op.btype.toNat op.fmtB with
  | .error e => .error e
  | .ok (fmt, t) =>
    if fmtSize fmt = 2 && (op.b.toNat % 2 ≠ 0 || stride % 2 ≠ 0) then .error (.format op.b)
    else t.tileElems k op.id true op.btype.toNat cls op.slots (bAddrs op.b stride fmt g)

/-! ## The product (R239) -/

def accKey (tile i j : Nat) : Nat := 4096 * tile + 64 * i + j
def Core.cell (c : Core) (tile i j : Nat) : BitVec 32 := c.acc.getD (accKey tile i j) 0
/-- Replaces the cells of one tile by a list of 4096, row by row; a cell of 0 is not listed. -/
def Core.setTile (c : Core) (tile : Nat) (cells : List (BitVec 32)) : Core :=
  let new := ((List.range 4096).zip cells).filterMap fun e => if e.2 = 0 then none else some (4096 * tile + e.1, e.2)
  { c with acc := (c.acc.filter (·.1 < 4096 * tile)) ++ new ++ (c.acc.filter (4096 * (tile + 1) ≤ ·.1)) }

/-- GROUP_SUM (R239). -/
def groupSum (acc : BitVec 32) (ps : List (FVal × FVal)) : BitVec 32 × BitVec 5 :=
  let v := sumTerms (.val ((fmtOf 10).value acc.toNat) :: ps.map fun p => mulTerm p.1 p.2 true) false
  let r := roundF (fmtOf 10) 0 false v.1
  (BitVec.ofNat 32 r.1, v.2 ||| r.2)
/-- One cell of a group, from its row of A and column of B. -/
def cellStep (cls : Nat) (acc : BitVec 32) (row col : List TVal) : BitVec 32 × BitVec 5 :=
  if cls = 3 then
    (BitVec.ofInt 32 ((row.zip col).foldl (fun z p => z + p.1.int * p.2.int) acc.toInt), 0)
  else groupSum acc ((row.zip col).map fun p => (p.1.float, p.2.float))

/-- Every cell of a group with its flags. -/
def Core.groupCells (c : Core) (tile cls : Nat) (as bs : List TVal) : List (BitVec 32) × BitVec 5 :=
  let cols := (List.range 64).map fun j => (List.range 16).map fun k => bs.getD (64 * k + j) (.i 0)
  let rs := (List.range 64).flatMap fun i =>
    let row := (as.drop (16 * i)).take 16
    (cols.zip (List.range 64)).map fun cj => cellStep cls (Core.cell c tile i cj.2) row cj.1
  (rs.map (·.1), rs.foldl (fun f r => f ||| r.2) 0)

/-- FMT of the page at an operand's first address, where it translates. -/
def State.firstFmt (s : State) (k : Nat) (va : Word) : Nat :=
  match s.translate k va false with
  | .ok h => (pageFmt h.w1).fmt
  | .error _ => 0
/-- The tile operation of a core takes its finished group into its cells. -/
def State.finishGroup (s : State) (core cls : Nat) (as bs : List TVal) : State :=
  match s.tileHead core with
  | none => s
  | some op =>
    let r := Core.groupCells (s.core core) op.acc.toNat cls as bs
    let first (known : Nat) (va : Word) : Nat := if op.done = 0 then s.firstFmt op.ctx va else known
    let op1 := { op with done := op.done + 1, cls := cls, flags := op.flags ||| r.2, mismatch := 0, fmtA := first op.fmtA op.a,
                         fmtB := first op.fmtB op.b }
    ((s.updCore core fun c => Core.setTile c op.acc.toNat r.1).setTileHead core op1).setRowprog core 1 op1

/-- What stops a group: the error of a member. -/
def State.tileStop (s : State) (core : Nat) (op : TileOp) (e : TErr) : State :=
  match e with
  | .fault va r => s.parkTile core op va r false
  | .format va => s.abandonRow core 16 va 0
  | .poison => s.containEvent core 3
  | e => s.waitFor op.ctx e

/-- Groups of every member, read before any is taken: the member's core, class and B. -/
def State.rowB (s : State) (cls g : Nat) : List Nat → Except (Nat × TErr) (List (Nat × Nat × List TVal) × State)
  | [] => .ok ([], s)
  | c :: rest =>
    match s.tileHead c with
    | none => State.rowB s cls g rest
    | some op =>
      match s.groupB op.ctx op cls g with
      | .error e => .error (c, e)
      | .ok (bs, k, t) => match State.rowB t cls g rest with
        | .error e => .error e
        | .ok (more, t2) => .ok ((c, k, bs) :: more, t2)

/-- One group of a product, of every member in lockstep (R239, R248). Its elements are taken in this order: A row by row, then B row by
row, of the members in rank order; it decides which page check or fault comes first (DESIGN CHOICE, assumption 138). -/
def State.groupStep (s : State) (core : Nat) (op : TileOp) : State :=
  let lead := if op.func = 2 then op.leader else core
  match s.tileHead lead with
  | none => s
  | some lop =>
    match s.groupA lop.ctx lop op.cls op.done with
    | .error e => s.tileStop lead lop e
    | .ok (as, cls, t) =>
      match t.rowB cls op.done (s.tileMates core op) with
      | .error (c, e) => match s.tileHead c with
        | some o => s.tileStop c o e
        | none => s
      | .ok (members, t2) => members.foldl (fun u m => u.finishGroup m.1 m.2.1 as m.2.2) t2

/-! ## Drains (R249, R250) -/

/-- The bytes of one cell as a drain writes it, with its flags. -/
def drainCell (op : TileOp) (cell : BitVec 32) : Nat × BitVec 5 :=
  if op.atype = 1 then floatToFloat (fmtOf 10) (fmtOf 9) 0 false cell.toNat else (cell.toNat, 0)

/-- Adds stored bytes to those of their doubleword. -/
def addChunk (c : Chunk) : List Chunk → List Chunk
  | [] => [c]
  | p :: t => if p.loc = c.loc then { c with val := overlay c.mask c.val p.val, mask := c.mask ||| p.mask } :: t else p :: addChunk c t
/-- The stored bytes of n-byte elements at rising addresses, over those that are held back. -/
def State.tileChunks (s : State) (k n : Nat) (va : Word) (held : List Chunk) : List Nat → Except TErr (List Chunk × State)
  | [] => .ok (held, s)
  | x :: rest =>
    match s.translate k va true with
    | .error r => .error (.ofReason va true r)
    | .ok h =>
      let c : Chunk := { va := va &&& ~~~(7 : Word), loc := dwordOf h.loc, w0 := h.w0, mask := byteMask (h.loc % 8) n,
                         val := byteValue (h.loc % 8) (BitVec.ofNat 64 x) }
      State.tileChunks h.st k n (va + BitVec.ofNat 64 n) (addChunk c held) rest
/-- Performs stored bytes for the operation at place `id` of a context, if the order rules let each of them go (R243, R289, R296). -/
def State.putChunks (s : State) (k id : Nat) (l : List Chunk) : Except TErr State :=
  if s.letsChunks k id l then .ok (l.foldl (fun t c => t.putChunk k id c) s) else .error .held
/-- Does a run of bytes touch the doubleword at a virtual address? -/
def touches (d : Word) (first : Word) (n : Nat) : Bool := decide ((d + 7 - first).toNat < n + 7)

def Core.row (c : Core) (tile i : Nat) : List (BitVec 32) := (List.range 64).map (Core.cell c tile i)

/-- One row of `tdrain`. A doubleword that a later row also writes goes out with the last of them, so that no load finds it half drained
(R243). -/
def State.drainStep (s : State) (core : Nat) (op : TileOp) : State :=
  let rowAt (i : Nat) : Word := op.a + BitVec.ofNat 64 (i * (op.c.extractLsb' 0 32).toNat)
  let n := if op.atype = 1 then 2 else 4
  let cells := (Core.row (s.core core) op.acc.toNat op.done).map (drainCell op)
  match s.tileChunks op.ctx n (rowAt op.done) op.carry (cells.map (·.1)) with
  | .error (.fault v r) => s.parkTile core op v r true
  | .error e => s.waitFor op.ctx e
  | .ok (l, t) =>
    let later (c : Chunk) : Bool := (List.range 64).any fun i => decide (op.done < i) && touches c.va (rowAt i) (64 * n)
    match t.putChunks op.ctx op.id (l.filter fun c => !later c) with
    | .error _ => s
    | .ok t2 =>
      let op1 := { op with done := op.done + 1, flags := cells.foldl (fun f c => f ||| c.2) op.flags, mismatch := 0,
                           carry := l.filter later }
      (t2.setTileHead core op1).setRowprog core 1 op1

/-- One row of `tdrain.coll`: the contributions of the core to the collective of its handle. -/
def State.collStep (s : State) (core : Nat) (op : TileOp) : State :=
  let row := Core.row (s.core core) op.acc.toNat op.done
  let first := (op.b + BitVec.ofNat 64 (op.done * (op.c.extractLsb' 0 32).toNat)).toNat
  let op1 := { op with done := op.done + 1, mismatch := 0 }
  let t := match Table.get? (s.core core).handles op.a.toNat with
    | none => s
    | some hd => s.updOrd fun o => match o.colls.get? hd.coll with
      | none => o
      | some cl =>
        let mine := ((List.range 64).zip row).foldl
          (fun (m : Table (BitVec 32)) (e : Nat × BitVec 32) => Table.put m ((first + e.1) % 2 ^ 64) e.2) (cl.drained.getD hd.member [])
        { o with colls := o.colls.put hd.coll { cl with drained := cl.drained.put hd.member mine } }
  (t.setTileHead core op1).setRowprog core 1 op1

/-! ## Turns and retirement -/

/-- Has every earlier store of the context been performed (R243)? -/
def State.tileReady (s : State) (op : TileOp) : Bool :=
  op.before.all fun i => !((s.ctx op.ctx).ops.any (·.id == i))

/-- One turn of a slice: its head operation begins, takes its next group or row, or is abandoned. -/
def State.tileTurn (s : State) (core : Nat) : State :=
  if !s.coreRuns core then s else
  match s.tileHead core with
  | none => s
  | some op =>
    match op.abort with
    | some (cause, tval, tinfo) => s.abandonTile core cause tval tinfo
    | none =>
      if op.parked.isSome || op.total ≤ op.done || !s.tileReady op || (op.func = 2 && !op.joined) then s
      else if !op.started then
        -- The operation begins: it copies the slots of its shed (R196, R264).
        (s.setTileHead core { op with started := true, slots := (s.shed (shedOfCore core)).slots }).setRowprog core 1 op
      else match op.func with
        | 0 => (s.updCore core fun c => Core.setTile c op.acc.toNat []).setTileHead core { op with done := 1 }
        | 1 => s.groupStep core op
        | 2 =>
          if (s.tileMates core op).all fun c => match s.tileHead c with
              | some o => o.started && s.tileReady o && o.parked.isNone && o.abort.isNone
              | none => true
          then s.groupStep core op else s
        | 3 => s.drainStep core op
        | _ => s.collStep core op

/-- GMMA_JOIN (R248): every member of a row barrier has a `gmma` at the head of its slice; they join, or abandon where they
do not agree. One that waits there has not begun, so that the first `gmma` of a member that restarted joins it (R401; DEDUCED, assumption
119). -/
def execGmmaJoin (gang row : Nat) (s : State) : Out :=
  let g := s.gang gang
  let cores := g.rowCores row
  let heads := cores.filterMap fun c => (s.tileHead c).map fun o => (c, o)
  let ready := s.gangRuns gang && !cores.isEmpty && heads.length = cores.length &&
    (heads.all fun h => h.2.func = 2 && !h.2.joined) && cores.all fun c => (s.core c).contained.isNone
  if !ready then .next s else
  let lead := cores.headD 0
  let agree := heads.all fun h => match s.tileHead lead with
    | some l => h.2.d = l.d && h.2.atype = l.atype && h.2.btype = l.btype
    | none => true
  let t := heads.foldl (fun u h => u.setTileHead h.1 { h.2 with
    joined := true, leader := lead, abort := if agree then none else some (17, h.2.d, 0) }) s
  .next (t.updGang gang fun v => { v with joins := Table.put v.joins row (Table.getD v.joins row 0 + 1) })

/-- TILE_OP_RETIRE (R242, R244, R249, R250): the finished head retires; its flags are merged once and tl falls. -/
def execTileOpRetire (core : Nat) (s : State) : Out :=
  match s.tileHead core with
  | none => .next s
  | some op =>
    if !s.coreRuns core || op.done < op.total || op.parked.isSome || op.abort.isSome then .next s
    else
      let t := (s.updCore core fun c => { c with tiles := c.tiles.tail }).setRowprog core 0 op
      .next (t.updCtx op.ctx fun c => { Ctx.decTl c with fstat := c.fstat ||| op.flags })

/-- CHECKSUM_MISMATCH (R246): the current group or row is made again; a second mismatch on it contains the core. -/
def execChecksumMismatch (core : Nat) (s : State) : Out :=
  match s.tileHead core with
  | none => .next s
  | some op =>
    if !s.coreRuns core || !op.started || op.total ≤ op.done || op.parked.isSome || op.func = 0 then .next s
    else if 1 ≤ op.mismatch then .next (s.containEvent core 2)
    else .next (s.setTileHead core { op with mismatch := op.mismatch + 1 })

end Sys2Proof.Machine
end

