-- ==== Sys2Proof/Machine/Collectives.lean ====
section
/-! DEFINITION. Collectives: major 0x7A, the reading of contributions and COLLECTIVE_COMPLETE (R251, R322, R323). -/
namespace Sys2Proof.Machine

/-! ## Descriptors and members -/

/-- OP and GROUP of a descriptor's second doubleword (R322). -/
def cOp (w : Word) : Nat := (w.extractLsb' 32 8).toNat
def cGroup (w : Word) : Nat := (w.extractLsb' 48 16).toNat

/-- A peer entry of the executing function that is a fabric group (R340). -/
def State.groupEntry (s : State) (n : Nat) : Option Peer :=
  match (s.vf s.myVf).cfg with
  | none => none
  | some c => match c.peers.get? n with
    | some p => if p.kind = 2 then some p else none
    | none => none

/-- The checks of R322. -/
def collDescOk (s : State) (ws : List Word) : Bool :=
  let w := ws.getD 1 0
  (ws.getD 0 0).toNat % 64 = 0 && decide (1 ≤ cCount w) && decide (cCount w ≤ 16777216) && decide (cOp w ≤ 3) &&
  w.extractLsb' 41 7 = (0 : BitVec 7) && ws.getD 2 0 = 0 && ws.getD 3 0 = 0 &&
  (cGroup w = 0 || (decide (cGroup w ≤ 255) && (s.groupEntry (cGroup w)).isSome))

/-- The packages and queues whose gangs are members of a group, in member order (R323, R340). -/
def State.groupParts (s : State) (n : Nat) : List (BitVec 32 × Nat) :=
  let own := (Config.fabricAddress, (s.gang s.myGang).vfq)
  if n = 0 then [own]
  else match s.groupEntry n, (s.vf s.myVf).cfg with
    | some p, some c =>
      let named := p.members.filterMap fun m => match c.peers.get? m with
        | some e => if e.kind = 1 then some (e.pkg, 4 * e.vf + p.queue) else none
        | none => none
      if named.contains own then named else own :: named
    | _, _ => [own]

/-- A number for a fabric group that is the same for every member: its parts in order of package and queue. -/
def groupNumber (n : Nat) (parts : List (BitVec 32 × Nat)) : Nat :=
  if n = 0 then 0
  else 256 + ((parts.map fun p => p.1.toNat * 4096 + p.2 + 1).foldl natInsert []).foldl (fun a c => a * 2 ^ 48 + c) 0

/-- Is a gang released and not yet at its end, be it on sheds or switched out? -/
def GangState.joins : GangState → Bool
  | .resident | .switching | .saved | .restoring => true
  | _ => false
/-- The gang of a queue that is a member of a collective: one that has joined it, or else one that can (R323, R324, R340). -/
def State.partGang (s : State) (cl : Coll) (vfq : Nat) : Option Nat :=
  let mine := s.gangs.filter fun e => e.2.vfq = vfq
  match mine.find? fun e => cl.joined.any fun j => memberGang j.1 = e.1 with
  | some e => some e.1
  | none => (mine.find? fun e => e.2.state.joins).map (·.1)
/-- The member gangs in this package by part, none where a part has no gang yet. -/
def State.collGangs (s : State) (cl : Coll) : List (Option Nat) :=
  if cl.group = 0 then [some cl.gang]
  else (cl.parts.filter fun p => p.1 = Config.fabricAddress).map fun p => s.partGang cl p.2
/-- The members of a collective in this package, in the order of the ordered class (R251, R323). -/
def State.collMembers (s : State) (cl : Coll) : List Nat :=
  ((s.collGangs cl).filterMap id).flatMap fun g =>
    ((s.gang g).cores.filter fun c => roleOf c = cl.role).map fun c => memberKey g ((s.gang g).lcore c)

/-! ## `coll.start` -/

def lowestFree (t : Table Handle) : Option Nat := (List.range 16).find? fun i => (Table.get? t i).isNone

/-- Joins the executing core to its next collective of a group (R323). -/
def joinColl (s : State) (addr : Word) (ws : List Word) (h : Nat) : State :=
  let w := ws.getD 1 0
  let parts := s.groupParts (cGroup w)
  let group := groupNumber (cGroup w) parts
  let core := s.core s.myCore
  let index := Table.getD core.colls group 0
  let gang := if group = 0 then s.myGang else 0
  let role := s.myRole
  let key := memberKey s.myGang ((s.gang s.myGang).lcore s.myCore)
  let me : Join := { ctx := ctxNo s.cur, addr := addr, buf := ws.getD 0 0, word1 := w, contrib := none,
                     id := s.next, before := s.writesOut s.cur, parked := none, refused := false }
  let found := s.ord.colls.find? fun e => e.2.group = group && e.2.gang = gang && e.2.role = role && e.2.index = index
  let id := match found with
    | some e => e.1
    | none => s.next
  let cl : Coll := match found with
    | some e => e.2
    | none => { group := group, gang := gang, role := role, index := index, parts := parts, joined := [], drained := [],
                done := none, result := [], writes := [] }
  let s1 := s.updOrd fun o => { o with colls := o.colls.put id { cl with joined := cl.joined.put key me } }
  (s1.updCore s.myCore fun c => { c with colls := Table.put c.colls group (index + 1),
                                         handles := Table.put c.handles h { coll := id, member := key } }).tickNext

/-- The effect of `coll.start` (R322, R323). -/
def effCollStart (f : RR) (s : State) : Eff :=
  let xa := s.rx f.a
  counted (.collStart f) s (·.cp) <| aligned xa 8 <| Sync.bind s (s.syncLoad s.cur xa 4) fun ws t =>
    if !collDescOk s ws then .trap 27 xa 0
    else match lowestFree (s.core s.myCore).handles with
      | none => .sleep (.again (.collStart f)) (s.readBy t)
      | some h => .done (((joinColl t xa ws h).wx f.d (BitVec.ofNat 64 h)).updMe Ctx.incCp)
/-- `coll.start` (R322, R323). -/
def execCollStart (f : RR) (s : State) : Out := .next (s.issue (.collStart f) (effCollStart f))

/-! ## Contributions -/

def State.updColl (s : State) (id : Nat) (f : Coll → Coll) : State :=
  s.updOrd fun o => match o.colls.get? id with
    | none => o
    | some c => { o with colls := o.colls.put id (f c) }
def Coll.updJoin (c : Coll) (key : Nat) (f : Join → Join) : Coll :=
  match c.joined.get? key with
  | none => c
  | some j => { c with joined := c.joined.put key (f j) }

/-- The elements of a buffer as 32-bit words, read for the collective at place `id` of a context: an engine operation's reads, which no rule
orders after those of other operations (R297). -/
def State.readElems (s : State) (k id : Nat) (va : Word) : Nat → Except TErr (List (BitVec 32) × State)
  | 0 => .ok ([], s)
  | n + 1 =>
    match s.loadFor k id true [] va 4 with
    | .error e => .error e
    | .ok (v, t) => match State.readElems t k id (va + 4) n with
      | .error e => .error e
      | .ok (vs, t2) => .ok (BitVec.ofNat 32 v :: vs, t2)

/-- The row values that `tdrain.coll` sent a member, or 0 (R323). -/
def drainElems (t : Table (BitVec 32)) (n : Nat) : List (BitVec 32) := (List.range n).map fun e => t.getD e 0

/-- A member whose fault is refused leaves the collective: its handle is free and its context takes the engine-fault trap, as
an engine operation does (R320; DEDUCED, assumption 50). -/
def State.leaveColl (s : State) (id key : Nat) (cause : BitVec 8) (tval : Word) (tinfo : BitVec 8) : State :=
  match s.ord.colls.get? id with
  | none => s
  | some cl => match cl.joined.get? key with
    | none => s
    | some j =>
      let core := s.memberCore key
      let s1 := s.updColl id fun c => Coll.updJoin c key fun v =>
        { v with refused := true, parked := none, contrib := some (v.contrib.getD []) }
      let s2 := s1.updCore core fun c => { c with handles := c.handles.filter fun h => h.2.coll ≠ id }
      let k := 11 * core + j.ctx
      let s3 := if j.contrib.isNone || cDrain j.word1 then s2.updCtx k Ctx.decCp else s2
      s3.deliverTrap k cause tval tinfo

/-- A translation fault of a member's buffer is referred as an engine unit's is (R355, R358). -/
def State.parkColl (s : State) (id key : Nat) (va : Word) (reason : Nat) (wr : Bool) : State :=
  match s.ord.colls.get? id with
  | none => s
  | some cl => match cl.joined.get? key with
    | none => s
    | some j =>
      let core := s.memberCore key
      let k := 11 * core + j.ctx
      let g := s.gang (memberGang key)
      if (s.ctx k).sup then s.leaveColl id key 15 va (BitVec.ofNat 8 reason)
      else if (s.supervisor (vfOf g.vfq)).isNone then s.leaveColl id key 30 va (BitVec.ofNat 8 reason)
      else
        let r := s.next
        let detail := faultDetail reason wr true false false 0 j.ctx (g.lcore core) 0
        (s.openReferral { vf := vfOf g.vfq, va := va, detail := detail, info := g.faultInfo, work := 3, key := id,
                          unit := key, slot := none, head := [], written := false, discard := false }).updColl id fun c =>
          Coll.updJoin c key fun v => { v with parked := some r }

/-- ENGINE_STEP of the collective unit (R288, R297): a member's contribution is read whole, after the writes before it. -/
def State.collRead (s : State) (id key : Nat) : State :=
  match s.ord.colls.get? id with
  | none => s
  | some cl => match cl.joined.get? key with
    | none => s
    | some j =>
      let core := s.memberCore key
      let k := 11 * core + j.ctx
      if j.contrib.isSome || cDrain j.word1 || j.parked.isSome || s.gangOfCore core ≠ some (memberGang key) || !s.enginesRun core ||
          !s.writesIn k j.before || !s.mayMove k (moveAs j.id) then s
      else match s.readElems k j.id j.buf (cCount j.word1) with
        | .error (.fault va r) => s.parkColl id key va r false
        | .error .poison => s.containEvent core 3
        | .error e => s.waitFor k e
        | .ok (vs, t) =>
          (t.updColl id fun c => Coll.updJoin c key fun v => { v with contrib := some vs }).updCtx k Ctx.decCp

/-! ## Combination (R251) -/

/-- One addition of two FP32 contributions. -/
def addFp (a b : BitVec 32) : BitVec 32 :=
  BitVec.ofNat 32 (floatOp .add (fmtOf 10) (fmtOf 10) 0 false a.toNat b.toNat 0).1

/-- Some full binary bracketing of the values in some order, as a code chooses: two values are taken and their sum put
back, until one is left. -/
def bracket (code : Nat) : Nat → List (BitVec 32) → BitVec 32
  | 0, vs => vs.headD 0
  | _ + 1, [] => 0
  | _ + 1, [v] => v
  | fuel + 1, vs =>
    let n := vs.length
    let i := code % n
    let rest := vs.eraseIdx i
    let j := code / n % (n - 1)
    bracket (code / (n * (n - 1))) fuel (addFp (vs.getD i 0) (rest.getD j 0) :: rest.eraseIdx j)

/-- The result of one element from its contributions in member order. -/
def combine (op : Nat) (bulk : Bool) (code : Nat) (vs : List (BitVec 32)) : BitVec 32 :=
  match vs with
  | [] => 0
  | v :: rest =>
    match op with
    | 0 => if bulk then bracket code vs.length vs else rest.foldl addFp v
    | 1 => rest.foldl (· + ·) v
    | 2 => rest.foldl (fun a b => BitVec.ofNat 32 (fminmax (fmtOf 10) true a.toNat b.toNat)) v
    | _ => rest.foldl (fun a b => BitVec.ofNat 32 (fminmax (fmtOf 10) false a.toNat b.toNat)) v

/-- Contributions from members in other packages: values that the model does not know (assumption 45). -/
def remoteElem (n : Nat) : BitVec 32 :=
  Config.remoteByte (4 * n + 3) ++ Config.remoteByte (4 * n + 2) ++ Config.remoteByte (4 * n + 1) ++ Config.remoteByte (4 * n)

/-- Did a context of a core make a write, or a reduction that it includes? What its gang wrote before a switch may be the core's. -/
def State.madeBy (s : State) (core : Nat) (w : WriteRec) : Bool :=
  (w.who :: w.reds).any fun k => (ctxsOfCore core).contains k || (s.gangOfCore core).any fun g => k = savedWriter g
/-- Is a store of a core's contexts to a doubleword still to come to a quarter: one in a buffer, or one that was performed at another quarter,
as an atomic is at its home, and that is not in view at this one? -/
def State.storesTo (s : State) (core q loc : Nat) : Bool :=
  ((ctxsOfCore core).any fun k => (s.ctx k).ops.any fun o => o.kind.writes.contains loc) ||
  s.ord.writes.any fun e => e.2.loc = loc && !e.2.vis.getLsbD q && s.madeBy core e.2
/-- Is every write of a doubleword that a quarter sees complete at `.fab`? A contribution releases the writes to the buffers (R293). -/
def State.spread (s : State) (q loc : Nat) : Bool :=
  s.ord.writes.all fun e => e.2.loc != loc || !e.2.vis.getLsbD q || (List.range s.nq).all fun p => e.2.vis.getLsbD p
/-- Was some byte of the element at a byte of a doubleword last written, as a quarter holds it, by a store of a member, or by a merge that
includes a reduction of it, and not by the collective's result? -/
def State.overwritten (s : State) (core q : Nat) (result : List Nat) (loc off : Nat) : Bool :=
  (List.range 4).any fun b => match s.holder q loc (off + b) with
    | none => false
    | some w => s.madeBy core w && !(result.any fun i => match s.writeAt i with
        | some r => r.stamp = w.stamp
        | none => false)

/-- Writes those elements of a result that are asked for to a member's buffer at its quarter, once no store of the member to it is
pending: the result overwrites such stores (R323). -/
def State.writeElems (s : State) (core k : Nat) (asked : State → Nat → Nat → Bool) (va : Word) :
    List (BitVec 32) → Except TErr (State × List Nat)
  | [] => .ok (s, [])
  | v :: rest =>
    match s.translate k va true with
    | .error r => .error (.ofReason va true r)
    | .ok h =>
      let q := qtrOfCore core
      let loc := dwordOf h.loc
      let off := h.loc % 8
      if !h.st.redsSettled q loc || h.st.storesTo core q loc then .error .held
      else if !asked h.st loc off then State.writeElems h.st core k asked (va + 4) rest
      else if !h.st.spread q loc then .error .held
      else
        let s1 := h.st.encrypt (pteKey h.w0) loc
        let t := s1.tickNext.perform k s1.next q loc (byteMask off 4) (byteValue off (v.zeroExtend 64)) none none false false false
        match State.writeElems t core k asked (va + 4) rest with
        | .error e => .error e
        | .ok (t2, ids) => .ok (t2, s1.next :: ids)

/-- The members' buffers take the result, or the first failing translation: member, address, reason. A gang that is at its end has no
buffer any more. -/
def State.writeMembers (s : State) (vals : List (BitVec 32)) :
    List (Nat × Join) → Except (Nat × TErr) (State × List Nat)
  | [] => .ok (s, [])
  | (key, j) :: rest =>
    let core := s.memberCore key
    match (if j.refused || (s.gang (memberGang key)).state = .complete then .ok (s, [])
      else s.writeElems core (11 * core + j.ctx) (fun _ _ _ => true) j.buf vals) with
    | .error e => .error (key, e)
    | .ok (t, ids) => match State.writeMembers t vals rest with
      | .error e => .error e
      | .ok (t2, more) => .ok (t2, ids ++ more)

/-- Status of a collective whose members' descriptors differ: `coll.wait` then traps. -/
def collDiffers : Word := 2

/-- A member's core where it stands, or as it is saved. -/
def State.memberState (s : State) (m : Nat) : Core :=
  let g := s.gang (memberGang m)
  if g.state = .resident || g.state = .switching then s.core (s.memberCore m)
  else (g.saved.flatMap (·.cores)).getD (m % 2 ^ 16) Core.reset
/-- Is a member contained, did its gang fail, or was it restarted after the collective had begun (R323, R401)? -/
def memberLost (s : State) (cl : Coll) (m : Nat) : Bool :=
  let core := s.memberState m
  core.contained.isSome || (s.gang (memberGang m)).lost.contains (m % 2 ^ 16) || (s.gang (memberGang m)).state = .failed ||
  ((cl.joined.get? m).isNone && decide (cl.index < Table.getD core.colls cl.group 0))

/-- The logical core number in the status that a lost member leaves (R316, R323). -/
def lostMember (s : State) (cl : Coll) (ms : List Nat) : Option Nat := (ms.find? (memberLost s cl)).map (· % 2 ^ 16)

/-- COLLECTIVE_COMPLETE (R323, R324): every member that is not contained has joined and given its contribution; a member that is
switched out is waited for. -/
def execCollectiveComplete (coll : Nat) (s : State) : Out :=
  match s.ord.colls.get? coll with
  | none => .next s
  | some cl =>
    let ms := s.collMembers cl
    let lost := lostMember s cl ms
    let live := ms.filter fun m => !memberLost s cl m
    let joins := cl.joined.filter fun e => live.contains e.1
    let present := (s.collGangs cl).all (·.isSome) && live.all fun m => (cl.joined.get? m).isSome
    let differ := joins.any fun a => joins.any fun b => a.2.word1 ≠ b.2.word1
    if cl.done.isSome || live.isEmpty || !present then .next s
    else if (live.any fun m => !(s.gangRuns (memberGang m) || (s.gang (memberGang m)).state = .complete)) then .next s
    else match lost with
      | some c => .next (s.updColl coll fun x => { x with done := some (BitVec.ofNat 64 (1 + 2 ^ 16 * c)) })
      | none =>
        if differ then .next (s.updColl coll fun x => { x with done := some collDiffers })
        else if joins.any fun e => e.2.contrib.isNone || e.2.parked.isSome then .next s
        else
          let ordered := live.filterMap fun m => (cl.joined.get? m).map fun j => (m, j)
          let w := (ordered.headD (0, { ctx := 0, addr := 0, buf := 0, word1 := 0, contrib := none, id := 0,
                                        before := [], parked := none, refused := false })).2.word1
          let n := cCount w
          let far := (cl.parts.filter fun p => p.1 ≠ Config.fabricAddress).length
          let bulk := cl.parts.all fun p => p.1 = Config.fabricAddress && (s.queue p.2).bulk
          let vals := (List.range n).map fun e =>
            let mine := (ordered.filter fun o => !o.2.refused).map fun o => (o.2.contrib.getD []).getD e 0
            let theirs := (List.range far).map fun p => remoteElem (s.free + n * p + e)
            -- A sum in member order depends on where the unknown contributions stand, so it is unknown itself (assumption 45).
            if cOp w = 0 && far ≠ 0 then remoteElem (s.free + e)
            else combine (cOp w) bulk (Config.bulkOrder (s.free + e)) (mine ++ theirs)
          match s.writeMembers vals ordered with
          | .error (key, .fault va r) => .next (s.parkColl coll key va r true)
          | .error (key, e) => .next (s.waitFor (11 * s.memberCore key + ((cl.joined.get? key).map (·.ctx)).getD 0) e)
          | .ok (t, ids) =>
            .next { (t.updColl coll fun x => { x with done := some 0, result := vals, writes := ids }) with free := s.free + n * (far + 1) }

/-! ## `coll.wait` -/

/-- The effect of `coll.wait` (R323). A DRAIN collective leaves the cp of the context that started it, whichever of the core waits (R300).
Stores of the member to its buffer since the collective completed are overwritten by the result. -/
def effCollWait (f : RR) (s : State) : Eff :=
  let xa := s.rx f.a
  let core := s.core s.myCore
  match (if xa.toNat < 16 then Table.get? core.handles xa.toNat else none) with
  | none => .trap 27 xa 0
  | some h => match s.ord.colls.get? h.coll with
    | none => .trap 27 xa 0
    | some cl =>
      let j := cl.joined.get? h.member
      let drain := match j with
        | some v => cDrain v.word1
        | none => false
      let count := match j with
        | some v => cCount v.word1
        | none => 0
      -- Step 2: every `tdrain.coll` of the core on the handle has retired; its rows are then the contribution.
      if drain && core.tiles.any fun op => op.func = 4 && op.a = xa then .sleep (.again (.collWait f)) s
      else
        let s1 := if drain then s.updColl h.coll fun c => Coll.updJoin c h.member fun v =>
            { v with contrib := some (v.contrib.getD (drainElems (cl.drained.getD h.member []) count)) } else s
        match cl.done with
        | none => .sleep (.again (.collWait f)) s1
        | some st =>
          let ends (t : State) : Eff :=
            let s2 := (t.updCore s.myCore fun c => { c with handles := c.handles.del xa.toNat }).wx f.d st
            .done (match (if drain then j else none) with
              | some v => s2.updCtx (11 * s.myCore + v.ctx) Ctx.decCp
              | none => s2)
          if st = collDiffers then .trap 27 xa 0
          else match (if st = 0 then j else none) with
            | none => ends s1
            | some v =>
              let q := s.myQtr
              let mine := cl.writes.filter fun i => match s1.writeAt i with
                | some w => (ctxsOfCore s.myCore).contains w.who || w.who = savedWriter s.myGang
                | none => false
              let asked (t : State) (loc off : Nat) : Bool := !v.refused && t.overwritten s.myCore q cl.writes loc off
              match s1.writeElems s.myCore (11 * s.myCore + v.ctx) asked v.buf cl.result with
              | .error (.fault va r) => .fault va r true
              | .error e => .sleep (.again (.collWait f)) (s1.waitFor (11 * s.myCore + v.ctx) e)
              | .ok (t, ids) =>
                if !t.landed q mine then .sleep (.again (.collWait f)) s1
                -- The completion is the acquire of the contributions, over the buffers (R293).
                else ends ((t.updMe fun c => c.see t.next true (cl.writes ++ ids)).tickNext)
/-- `coll.wait` (R323). -/
def execCollWait (f : RR) (s : State) : Out := .next (s.issue (.collWait f) (effCollWait f))

end Sys2Proof.Machine
end

