-- ==== Sys2Proof/Machine/Convert.lean ====
section
/-! DEFINITION. The conversion engine, `AMAX` and the codebook slots: majors 0x81 and 0x82 (R195, R196, R252 to R257). -/
namespace Sys2Proof.Machine

/-! ## `cvt.t` (R253, R255) -/

/-- The effect of `cvt.t` (R253): the alignment checks, then the conversion is queued. The source is checked before the destination, and
both also where N = 0 (DESIGN CHOICE, assumption 141). -/
def effCvtT (f : RR) (s : State) : Eff :=
  let n := s.rx f.d
  let src := s.rx f.a
  let dst := s.rx f.b
  if src.toNat % (typeWidth f.c.toNat / 8) ≠ 0 then .trap 17 src 0
  else if dst.toNat % (typeWidth f.ty.toNat / 8) ≠ 0 then .trap 17 dst 0
  else if n.extractLsb' 0 32 = (0 : BitVec 32) then .done s
  else counted (.cvtT f) s (·.tl) <|
    let op : CvtOp := {
      ctx := s.cur, n := (n.extractLsb' 0 32).toNat, scale := n.extractLsb' 32 32, src := src, dst := dst,
      srcType := f.c.setWidth 4, ty := f.ty, rnd := f.rnd, sat := f.sat = 1, done := 0, parked := none, flags := 0,
      candN := false, candMag := 0, abort := none, id := s.next, before := (s.me.ops.filter fun o => o.kind.isWrite).map (·.id), carry := [] }
    .done ((s.updCore s.myCore fun c => { c with cvt := c.cvt ++ [op] }).updMe Ctx.incTl |>.tickNext)
/-- `cvt.t` (R253). -/
def execCvtT (f : RR) (s : State) : Out := .next (s.issue (.cvtT f) (effCvtT f))

/-- The conversion of one element with its flags (R181, R184 to R186, R253). -/
def cvtElem (src dst rnd : Nat) (sat : Bool) (scale : BitVec 32) (raw : Nat) : Nat × BitVec 5 :=
  let x : FVal := if typeFloat src then (fmtOf src).value raw else ofIntVal (toInt (intSigned src) (typeWidth src) raw)
  let sv := (fmtOf 10).value scale.toNat
  let out (v : FVal) (fl : BitVec 5) : Nat × BitVec 5 :=
    if typeFloat dst then
      let r := roundF (fmtOf dst) rnd sat v
      (r.1, fl ||| r.2)
    else
      let r := toIntClamp (intSigned dst) (typeWidth dst) rnd v
      (ofInt (typeWidth dst) r.1, fl ||| r.2)
  if !typeFloat src && !typeFloat dst && scale = 0x3F800000 then
    intResult (intSigned dst) (typeWidth dst) sat (toInt (intSigned src) (typeWidth src) raw)
  else match x, sv with
    | .nan n, _ => out (.nan n) 0
    | _, .nan n => out (.nan n) 0
    | a, b => match mulTerm a b false with
      | .invalid => out (.nan false) flagI
      | .val v => out v 0

/-- The candidate of a source element (R254): a NaN mark, or its magnitude rounded up into FP32. -/
def cvtCand (src raw : Nat) : Bool × BitVec 31 :=
  let x : FVal := if typeFloat src then (fmtOf src).value raw else ofIntVal (toInt (intSigned src) (typeWidth src) raw)
  match x with
  | .nan _ => (true, 0)
  | .inf _ => (false, BitVec.ofNat 31 0x7F800000)
  | .fin _ m e => (false, BitVec.ofNat 31 (roundF (fmtOf 10) 2 false (.fin false m e)).1)

/-- The word of the progress record (R255). -/
def cvtRecord (state : Nat) (op : CvtOp) : Word := BitVec.ofNat 64 (state * 2 ^ 62 + ctxNo op.ctx * 2 ^ 58 + op.done)
def State.setCvt (s : State) (core state : Nat) (op : CvtOp) : State :=
  s.updCore core fun c => { c with cvt := op :: c.cvt.tail, cvtRec := cvtRecord state op }

/-- Merges what a conversion found: flags into `FSTAT`, candidates into `AMAX` (R254, R255). -/
def State.mergeCvt (s : State) (core : Nat) (op : CvtOp) : State :=
  (s.updCore core fun c =>
    let mag : BitVec 31 := c.amax.extractLsb' 0 31
    let top : BitVec 31 := if mag.toNat < op.candMag.toNat then op.candMag else mag
    { c with amax := BitVec.ofNat 32 ((if c.amax.getLsbD 31 || op.candN then 2 ^ 31 else 0) + top.toNat) }).updCtx op.ctx
    fun c => { Ctx.decTl c with fstat := c.fstat ||| op.flags }

/-- Abandonment (R247, R255): what finished units have written goes out, so it waits until the order rules let it. -/
def State.abandonCvt (s : State) (core : Nat) (cause : BitVec 8) (tval : Word) (tinfo : BitVec 8) : State :=
  match (s.core core).cvt.head? with
  | none => s
  | some op =>
    if !s.letsChunks op.ctx op.id op.carry then s.updCore core fun c =>
      { c with cvt := { op with parked := none, abort := some (cause, tval, tinfo) } :: c.cvt.tail } else
    let t := (op.carry.foldl (fun t c => t.putChunk op.ctx op.id c) s).updCore core fun c =>
      { c with cvt := c.cvt.tail, cvtRec := cvtRecord 3 op }
    let t1 := { t with refs := t.refs.mapVals fun _ r => if r.work = 2 && r.key = core then { r with discard := true } else r }
    (t1.mergeCvt core op).deliverTrap op.ctx cause tval tinfo

/-- A translation fault parks the conversion, or abandons it where no supervisor can answer (R255, R358). -/
def State.parkCvt (s : State) (core : Nat) (op : CvtOp) (va : Word) (reason : Nat) (wr : Bool) : State :=
  let g := s.gang ((s.gangOfCore core).getD 0)
  let vf := vfOf g.vfq
  if (s.ctx op.ctx).sup then s.abandonCvt core 15 va (BitVec.ofNat 8 reason)
  else if (s.supervisor vf).isNone then s.abandonCvt core 30 va (BitVec.ofNat 8 reason)
  else
    let r := s.next
    let detail := faultDetail reason wr false true false 0 (ctxNo op.ctx) (g.lcore core) 0
    (s.openReferral { vf := vf, va := va, detail := detail, info := g.faultInfo, work := 2, key := core, unit := 0,
                      slot := none, head := [], written := false, discard := false }).setCvt core 2 { op with parked := some r }

/-- Source elements of a unit. -/
def State.cvtRead (s : State) (op : CvtOp) (va : Word) : Nat → Except TErr (List Nat × State)
  | 0 => .ok ([], s)
  | n + 1 =>
    let w := typeWidth op.srcType.toNat / 8
    match s.engineLoad op.ctx op.id op.carry va w with
    | .error e => .error e
    | .ok (v, t) => match State.cvtRead t op (va + BitVec.ofNat 64 w) n with
      | .error e => .error e
      | .ok (vs, t2) => .ok (v :: vs, t2)

/-- One unit of at most 64 elements: read whole, then written (R253). A doubleword that the next unit also writes goes out with it
(R243). -/
def State.cvtUnit (s : State) (core : Nat) (op : CvtOp) : State :=
  let n := Nat.min 64 (op.n - op.done)
  let src := op.src + BitVec.ofNat 64 (op.done * (typeWidth op.srcType.toNat / 8))
  let w := typeWidth op.ty.toNat / 8
  let dst := op.dst + BitVec.ofNat 64 (op.done * w)
  match s.cvtRead op src n with
  | .error (.fault va r) => s.parkCvt core op va r false
  | .error .poison => s.containEvent core 3
  | .error e => s.waitFor op.ctx e
  | .ok (xs, t) =>
    let rs := xs.map (cvtElem op.srcType.toNat op.ty.toNat op.rnd.toNat op.sat op.scale)
    let left := (op.n - op.done - n) * w
    let later (c : Chunk) : Bool := decide (0 < left) && touches c.va (dst + BitVec.ofNat 64 (n * w)) left
    match t.tileChunks op.ctx w dst op.carry (rs.map (·.1)) with
    | .error (.fault va r) => s.parkCvt core op va r true
    | .error e => s.waitFor op.ctx e
    | .ok (l, t1) => match t1.putChunks op.ctx op.id (l.filter fun c => !later c) with
    | .error _ => s
    | .ok t2 =>
      let cs := xs.map (cvtCand op.srcType.toNat)
      t2.setCvt core 1 { op with
        done := op.done + n, flags := rs.foldl (fun f r => f ||| r.2) op.flags, candN := op.candN || cs.any (·.1),
        candMag := cs.foldl (fun m c => if m.toNat < c.2.toNat then c.2 else m) op.candMag, carry := l.filter later }

/-- One turn of a conversion engine. -/
def State.cvtTurn (s : State) (core : Nat) : State :=
  if !s.coreRuns core then s else
  match (s.core core).cvt.head? with
  | none => s
  | some op =>
    match op.abort with
    | some (cause, tval, tinfo) => s.abandonCvt core cause tval tinfo
    | none =>
    if op.parked.isSome || op.n ≤ op.done || !(op.before.all fun i => !((s.ctx op.ctx).ops.any (·.id == i))) then s
    else s.cvtUnit core op

/-- CVT_RETIRE (R254, R255). -/
def execCvtRetire (core : Nat) (s : State) : Out :=
  match (s.core core).cvt.head? with
  | none => .next s
  | some op =>
    if !s.coreRuns core || op.done < op.n || op.parked.isSome || op.abort.isSome then .next s
    else .next ((s.updCore core fun c => { c with cvt := c.cvt.tail, cvtRec := cvtRecord 0 op }).mergeCvt core op)

/-! ## `AMAX` (R256) -/

/-- The effect of `amax.rd` (R256). -/
def effAmaxRd (f : RR) (s : State) : Eff :=
  let c := s.core s.myCore
  if s.rx f.a = 0 then .done (s.wx f.d (c.amax.zeroExtend 64))
  else if s.rx f.a = 1 then .done (s.wx f.d c.cvtRec)
  else .trap 17 (s.rx f.a) 0
/-- `amax.rd` (R256). -/
def execAmaxRd (f : RR) (s : State) : Out := .next (s.issue (.amaxRd f) (effAmaxRd f))

/-- The effect of `amax.clr` (R256). -/
def effAmaxClr (f : RR) (s : State) : Eff :=
  .done ((s.wx f.d ((s.core s.myCore).amax.zeroExtend 64)).updCore s.myCore fun c => { c with amax := 0 })
/-- `amax.clr` (R256). -/
def execAmaxClr (f : RR) (s : State) : Out := .next (s.issue (.amaxClr f) (effAmaxClr f))

/-! ## Codebook slots (R257) -/

/-- The 16 halfwords of a record of four doublewords. -/
def slotEntries (ws : List Word) : List (BitVec 16) :=
  (List.range 16).map fun i => (ws.getD (i / 4) 0).extractLsb' (16 * (i % 4)) 16

/-- The effect of `cbk.ld` (R257): the slot changes as a whole, before the instruction retires (R196). The shed has one
table per slot, so a decode on another core sees the new one from then on, also without the release and acquire of R196 (DESIGN CHOICE,
assumption 135). Of a bad slot number and a bad record address, the slot number is the offending value (DESIGN CHOICE, assumption 142). -/
def effCbkLd (f : RR) (s : State) : Eff :=
  let slot := s.rx f.b
  let rec_ := s.rx f.a
  if 63 < slot.toNat then .trap 19 slot 0
  else if rec_.toNat % 32 ≠ 0 then .trap 19 rec_ 0
  else Sync.bind s (s.syncLoad s.cur rec_ 4) fun ws t =>
    .done (t.updShed s.myShed fun d => { d with slots := Table.put d.slots slot.toNat (slotEntries ws) })
/-- `cbk.ld` (R257). -/
def execCbkLd (f : RR) (s : State) : Out := .next (s.issue (.cbkLd f) (effCbkLd f))

/-- The effect of `cbk.rd` (R257). -/
def effCbkRd (f : RR) (s : State) : Eff :=
  let a := s.rx f.a
  if a &&& ~~~ (0xF3F : Word) ≠ 0 then .trap 19 a 0
  else .done (s.wx f.d (((s.slotOf s.myShed (a.extractLsb' 0 6).toNat).getD (a.extractLsb' 8 4).toNat 0).zeroExtend 64))
/-- `cbk.rd` (R257). -/
def execCbkRd (f : RR) (s : State) : Out := .next (s.issue (.cbkRd f) (effCbkRd f))

end Sys2Proof.Machine
end

