-- ==== Sys2Proof/Machine/Sha3.lean ====
section
/-! DEFINITION. The SHA3-256 digest of R391 and R395, by the definition of its standard, which the spec names and does not give
(assumption 48). The tables of the standard are not written out: both the rotations and the round constants follow from its recurrences. -/
namespace Sys2Proof.Sha3

/-- The sponge's state: five columns of five lanes; lane y of column x holds bytes 8 (x + 5 y) and on. -/
abbrev Cols := List (List Word)

def Cols.lane (a : Cols) (x y : Nat) : Word := (a.getD (x % 5) []).getD (y % 5) 0
/-- The columns whose lanes a rule gives. -/
def cols (rule : Nat → Nat → Word) : Cols := [0, 1, 2, 3, 4].map fun x => [0, 1, 2, 3, 4].map (rule x)

/-- Every lane of a column takes the parity of the column before it and, turned by one bit, of the one after it. -/
def Cols.mixColumns (a : Cols) : Cols :=
  let parity := a.map fun col => col.foldl (· ^^^ ·) 0
  a.mapIdx fun x col =>
    let w := parity.getD ((x + 4) % 5) 0 ^^^ (parity.getD ((x + 1) % 5) 0).rotateLeft 1
    col.map (· ^^^ w)

/-- A walk through the places other than (0, 0): after (x, y) comes (y, 2 x + 3 y). Each lane goes one place on, and the one at step t turns by
the triangular number of t + 1. The walk gives each new lane's place with the lane's own and its turn. -/
def walk : Nat → Nat → Nat → Nat → List ((Nat × Nat) × (Nat × Nat) × Nat)
  | 0, _, _, _ => []
  | n + 1, t, x, y =>
    let z := (2 * x + 3 * y) % 5
    ((y, z), (x, y), (t + 1) * (t + 2) / 2 % 64) :: walk n (t + 1) y z
def Cols.moveLanes (a : Cols) : Cols :=
  let steps := walk 24 0 1 0
  cols fun x y => match steps.lookup (x, y) with
    | some (src, turn) => (a.lane src.1 src.2).rotateLeft turn
    | none => a.lane x y

/-- Within a row, a bit flips where the next column has 0 and the one after it 1. -/
def Cols.mixRows (a : Cols) : Cols := cols fun x y => a.lane x y ^^^ (a.lane (x + 2) y &&& ~~~ a.lane (x + 1) y)

/-- The shift register behind the round constants: the powers of x modulo x^8 + x^6 + x^5 + x^4 + 1, of which each gives its lowest bit. -/
def shiftReg (r : BitVec 8) : BitVec 8 := if r.getLsbD 7 then (r <<< 1) ^^^ 0b01110001 else r <<< 1
/-- Seven of its bits make a round constant, at positions 0, 1, 3, 7, 15, 31 and 63; with it the register after them. -/
def constant (r : BitVec 8) : Word × BitVec 8 :=
  [0, 1, 3, 7, 15, 31, 63].foldl (fun (acc : Word × BitVec 8) p =>
    (if acc.2.getLsbD 0 then acc.1 ||| (1 : Word) <<< p else acc.1, shiftReg acc.2)) (0, r)

/-- n rounds; the constant goes into lane (0, 0). -/
def rounds : Nat → BitVec 8 → Cols → Cols
  | 0, _, a => a
  | n + 1, r, a =>
    let k := constant r
    let b := a.mixColumns.moveLanes.mixRows
    rounds n k.2 (cols fun x y => if x = 0 && y = 0 then b.lane 0 0 ^^^ k.1 else b.lane x y)

/-- The little-endian lane of eight bytes from an offset, absent bytes being 0. -/
def laneAt (m : List Byte) (off : Nat) : Word :=
  [7, 6, 5, 4, 3, 2, 1, 0].foldl (fun (w : Word) i => (w <<< 8) ||| (m.getD (off + i) 0).zeroExtend 64) 0

/-- Bytes of one block of the digest of 256 bits. -/
def blockBytes : Nat := 136
/-- The message with the suffix 01 and the padding 10*1, up to a whole number of blocks. -/
def padded (m : List Byte) : List Byte :=
  let room := blockBytes - m.length % blockBytes
  m ++ (List.range room).map fun i => (if i = 0 then (0x06 : Byte) else 0) ||| (if i + 1 = room then 0x80 else 0)

/-- Blocks are added to the state one after another, each followed by the 24 rounds; the fuel is their number. -/
def soak : Nat → Cols → List Byte → Cols
  | 0, a, _ => a
  | n + 1, a, m =>
    let fed := cols fun x y => a.lane x y ^^^ (if x + 5 * y < blockBytes / 8 then laneAt m (8 * (x + 5 * y)) else 0)
    soak n (rounds 24 1 fed) (m.drop blockBytes)

/-- The digest as four words, the first at the lowest address. -/
def digest (m : List Byte) : List Word :=
  let p := padded m
  let a := soak (p.length / blockBytes) (cols fun _ _ => 0) p
  [0, 1, 2, 3].map fun x => a.lane x 0

end Sys2Proof.Sha3
end

