-- ==== Sys2Proof/Machine/Engines.lean ====
section
/-! DEFINITION. The copy engine and its completion counters: majors 0x78 and 0x79, ENGINE_STEP and FLAG (R288, R297, R317 to
R321, R340, R395). -/
namespace Sys2Proof.Machine

/-! ## Issue (R317 to R319) -/

/-- The descriptor that eight doublewords hold. -/
def engDesc (ws : List Word) : EngDesc :=
  let w (i : Nat) := ws.getD i 0
  { dst := w 0, src := w 1, len := (w 2).extractLsb' 0 32, flags := (w 2).extractLsb' 32 16,
    peer := (w 2).extractLsb' 48 16, place := w 3, sig := w 4, sigval := w 5, aux := w 6,
    nidx := (w 7).extractLsb' 0 32, elem := (w 7).extractLsb' 32 32 }

/-- FLAGS bits that a form allows (R318, R395). -/
def flagsAllowed (func : Nat) : BitVec 16 :=
  match func with
  | 2 => 0b1111111
  | 3 => 0b11111110
  | 4 => 0b1111111
  | 5 => 0b100111110
  | _ => 0b111111

/-- The checks of R319 and R395 that raise the engine-range trap. -/
def descOk (s : State) (func : Nat) (d : EngDesc) : Bool :=
  let rows := dRows func d
  let far := func = 2 || func = 3 || func = 4 || func = 5
  (d.flags &&& ~~~ flagsAllowed func) = 0 &&
  (func ≠ 4 || dArr d) && (!dAccum d || dIdx d) &&
  d.dst.toNat % (if func = 6 then 32 else 8) = 0 && d.src.toNat % 8 = 0 &&
  (if rows then
    d.len = 0 && decide (1 ≤ d.nidx.toNat) && decide (d.nidx.toNat ≤ 16777216) &&
    d.elem.toNat % 8 = 0 && decide (8 ≤ d.elem.toNat) && decide (d.elem.toNat ≤ 65536)
   else d.nidx = 0 && d.elem = 0 && d.len.toNat % 8 = 0 && decide (8 ≤ d.len.toNat) &&
    decide (d.len.toNat ≤ 0x08000000)) &&
  (if dIdx d then d.aux.toNat % 4 = 0
   else if func = 1 then d.aux &&& 0x0000000700000007 = 0 else d.aux = 0) &&
  (if dArr d then d.sig &&& ~~~ (0x1FFFF8 : Word) = 0
   else if func = 5 then d.sig.toNat % 8 = 0 else d.sig = 0 && d.sigval = 0) &&
  (if d.peer = 0 then (far || d.place = 0) && d.place.extractLsb' 14 50 = (0 : BitVec 50)
   else far && func ≠ 4 && d.place = 0 && decide (d.peer.toNat ≤ 255) &&
    (match s.peer s.myVf d.peer.toNat with
     | some p => p.kind = 1
     | none => false))

/-- The far shed of a form (R319): the shed at PLACE inside the paddock, or the own shed where the form has no far side in
this package. -/
def farShed (s : State) (func : Nat) (d : EngDesc) : Option Nat :=
  if (func = 2 || func = 3 || func = 4 || func = 5) && d.peer = 0 then
    (s.target { dx := (d.place.extractLsb' 0 6 : BitVec 6).toInt, dy := (d.place.extractLsb' 6 6 : BitVec 6).toInt,
                role := 0 }).map shedOfCore
  else some s.myShed

/-- Issue of an engine operation (R317, R319). -/
def engineRun (func : Nat) (i : Instr) (f : RR) (s : State) : Eff :=
  let xa := s.rx f.a
  counted i s (·.cp) <| aligned xa 8 <| Sync.bind s (s.syncLoad s.cur xa 8) fun ws t =>
    let d := engDesc ws
    if !descOk s func d then .trap 25 xa 0
    else match farShed s func d with
      | none => .trap 4 d.place 0
      | some far =>
        let e : EngOp := {
          core := s.myCore, ctx := s.cur, func := func, addr := xa, desc := d, far := far, moved := [], parked := [],
          before := s.writesOut s.cur, set := t.releaseSet s.cur, writes := [], hash := [], bad := false, refused := false }
        .done (((t.updOrd fun o => { o with engines := o.engines.put t.next e }).updMe Ctx.incCp).tickNext)

/-- The effect of `copy` (R318). -/
def effCopy (f : RR) (s : State) : Eff := engineRun 0 (.copy f) f s
/-- `copy` (R318). -/
def execCopy (f : RR) (s : State) : Out := .next (s.issue (.copy f) (effCopy f))
/-- The effect of `copy2` (R318). -/
def effCopy2 (f : RR) (s : State) : Eff := engineRun 1 (.copy2 f) f s
/-- `copy2` (R318). -/
def execCopy2 (f : RR) (s : State) : Out := .next (s.issue (.copy2 f) (effCopy2 f))
/-- The effect of `get` (R318). -/
def effGet (f : RR) (s : State) : Eff := engineRun 2 (.get f) f s
/-- `get` (R318). -/
def execGet (f : RR) (s : State) : Out := .next (s.issue (.get f) (effGet f))
/-- The effect of `put` (R318). -/
def effPut (f : RR) (s : State) : Eff := engineRun 3 (.put f) f s
/-- `put` (R318). -/
def execPut (f : RR) (s : State) : Out := .next (s.issue (.put f) (effPut f))
/-- The effect of `puta` (R318). -/
def effPuta (f : RR) (s : State) : Eff := engineRun 4 (.puta f) f s
/-- `puta` (R318). -/
def execPuta (f : RR) (s : State) : Out := .next (s.issue (.puta f) (effPuta f))
/-- The effect of `wsig` (R318). -/
def effWsig (f : RR) (s : State) : Eff := engineRun 5 (.wsig f) f s
/-- `wsig` (R318). -/
def execWsig (f : RR) (s : State) : Out := .next (s.issue (.wsig f) (effWsig f))
/-- The effect of `digest` (R395). -/
def effDigest (f : RR) (s : State) : Eff := engineRun 6 (.digest f) f s
/-- `digest` (R395). -/
def execDigest (f : RR) (s : State) : Out := .next (s.issue (.digest f) (effDigest f))

/-! ## The remote side's leave (R128, R340) -/

/-- Is an operation's work at its far side an atomic add (ACCUM, SIGADD)? -/
def dAtomic (d : EngDesc) : Bool := dAccum d || dSigadd d
/-- Does the remote function's table allow the operation (R340)? A function of another package decides there, and its answer is free
(assumption 45). -/
def State.peerAllows (s : State) (e : EngOp) (p : Peer) : Bool :=
  if p.pkg ≠ Config.fabricAddress then Config.remoteAllows s.free
  else match (s.vf p.vf).cfg with
  | none => false
  | some c => c.peers.any fun q => q.2.kind = 1 && q.2.pkg = Config.fabricAddress && q.2.vf = s.engVf e &&
      (if e.func = 2 then q.2.perm.getLsbD 0 else q.2.perm.getLsbD 1)

/-- What a part of a unit comes to. -/
inductive Part (α : Type)
  | ok (a : α) (s : State)
  /-- The order rules do not allow the move yet, or its walk has to wait, in the queue of the state given (R336). -/
  | held (s : State)
  /-- A translation failed: address, reason, write, side. -/
  | fault (va : Word) (reason : Nat) (wr : Bool) (side : Side)

/-- The miss of an access to a side (R336). -/
def State.engMiss (s : State) (e : EngOp) (side : Side) (va : Word) (wr : Bool) : State :=
  match side with
  | .peer p => s.miss e.core p.vf false va wr
  | _ => s.miss e.core (s.engVf e) (s.ctx e.ctx).sup va wr

/-- Reads n doublewords of a side: values and poison. The source reads are plain reads of the issuing context, which a later `fence.acq` may
make acquires; no rule orders them after those of other operations (R289, R295, R297). -/
def State.engRead (s : State) (id : Nat) (e : EngOp) (side : Side) (va : Word) : Nat → Part (List (Word × Bool))
  | 0 => .ok [] s
  | n + 1 =>
    match s.engAt e side va false with
    | .error r => if r = walkWaits then .held (s.engMiss e side va false) else .fault va r false side
    | .ok (none, t) =>
      let b (i : Nat) : Byte := Config.remoteByte (8 * t.free + i)
      let v := (List.range 8).foldr (fun i (w : Word) => (w <<< 8) ||| (b i).zeroExtend 64) 0
      match State.engRead { t with free := t.free + 1 } id e side (va + 8) n with
      | .ok vs t2 => .ok ((v, false) :: vs) t2
      | r => r
    | .ok (some (a, slot), t) =>
      let loc := dwordOf a
      let q := State.sideQtr e side loc
      if !t.redsSettled q loc || !t.mayMoveUnit e.ctx (readAs id loc) then .held s
      else match State.engRead ((t.correct loc).updCtx e.ctx fun c => c.see id false (t.observed q loc)) id e side (va + 8) n with
        | .ok vs t2 => .ok ((t.unitWord slot q loc, t.poisoned q loc) :: vs) t2
        | r => r

/-- May an engine's write to a place be taken: the reductions of the doubleword are settled there, and for an atomic add the home has all
that the issuing quarter has seen (R288, R296)? -/
def State.engLets (s : State) (e : EngOp) (add : Bool) (l : Nat) : Bool :=
  s.redsSettled (home l) (dwordOf l) && (!add || (imageOf l).isSome || s.allVis (home l) (s.vis (qtrOfCore e.core)))
/-- Translates the n doublewords of a destination, to be written or added to: their locations and key slots. -/
def State.engDsts (s : State) (e : EngOp) (side : Side) (add : Bool) (va : Word) : Nat → Part (List (Option (Nat × Nat)))
  | 0 => .ok [] s
  | n + 1 =>
    match s.engAt e side va true with
    | .error r => if r = walkWaits then .held (s.engMiss e side va true) else .fault va r true side
    | .ok (a, t) =>
      if (match a with
          | some (l, _) => !t.engLets e add l
          | none => false) then .held s
      else match State.engDsts t e side add (va + 8) n with
        | .ok ls t2 => .ok (a.map (fun p => (dwordOf p.1, p.2)) :: ls) t2
        | r => r

/-- A write into the scratchpad image of a saved gang, with its tag effect (R147, R307). It is in view of every quarter. -/
def State.imageWrite (s : State) (who id loc : Nat) (val : Word) (tag : Option Bool) (rel : Option (List Nat)) (bad : Bool) : State :=
  match imageOf loc with
  | none => s
  | some (g, r) =>
    let off := loc - padLoc (padShed loc) 0
    let w := { s.newWrite who (home loc) loc 0xFF val tag rel false false bad with vis := 0xF, co := some s.next }
    ((s.setWrite id w).updGang g fun v =>
      { v with saved := v.saved.mapIdx fun i p => if i = r then SavedShed.write p off val tag rel bad else p }).tickNext

/-- The place of a scratchpad doubleword in the image that its gang has when it is saved; any other place is its own. -/
def State.imagePlace (s : State) (loc : Nat) : Nat :=
  if !isPad loc || (imageOf loc).isSome then loc
  else match s.gangOfShed (padShed loc) with
    | some g => padLoc (savedPadShed g ((s.gang g).rankOf (padShed loc))) ((loc - padBase) % Config.padBytes)
    | none => loc
/-- A remote write that a function's pages, scratchpads or save images take in phase 2 or 3 of its migration is recorded with a sequence number
(R346). -/
def State.recordRemote (s : State) (e : EngOp) (loc slot : Nat) (w : Word) (tag : Option Bool) (bad : Bool) : State :=
  match s.dstSide e with
  | .peer p =>
    match s.keeper.outgoing.get? p.vf with
    | some o =>
      if Table.getD s.keeper.migrating p.vf 0 < 2 then s
      else
        let r : RemoteWrite := { seq := o.writes.length, loc := s.imagePlace loc, val := w, tag := tag, slot := slot, poison := bad
                                 early := decide (Table.getD s.keeper.migrating p.vf 0 < 3) && (imageOf loc).isNone }
        { s with keeper := { s.keeper with outgoing := Table.put s.keeper.outgoing p.vf { o with writes := o.writes ++ [r] } } }
    | none => s
  | _ => s

/-- One doubleword write of an operation, performed at the destination's quarter (R297). An atomic add reads the home value
first. -/
def State.engWrite (s : State) (id : Nat) (e : EngOp) (loc slot : Nat) (v : Word) (bad add : Bool) (tag : Option Bool)
    (rel : Option (List Nat)) : State :=
  let q := home loc
  let w := if add then s.unitWord slot q loc + v else v
  let bad := bad || (add && s.poisoned q loc)
  let n := s.next
  let t0 := s.recordRemote e loc slot w tag bad
  let t1 := if (imageOf loc).isSome then t0.tickNext.imageWrite e.ctx n loc w tag rel bad
    else (t0.tickNext.encrypt slot loc).perform e.ctx n q loc 0xFF w tag rel add false bad
  let t := if add then t1.correct loc else t1
  t.updOrd fun o => match o.engines.get? id with
    | none => o
    | some x => { o with engines := o.engines.put id { x with writes := x.writes ++ [n] } }

/-- Changes an engine operation. -/
def State.updEng (s : State) (id : Nat) (f : EngOp → EngOp) : State :=
  s.updOrd fun o => match o.engines.get? id with
    | none => o
    | some x => { o with engines := o.engines.put id (f x) }

/-- The operation as it stands. -/
def State.engOp (s : State) (id : Nat) (e : EngOp) : EngOp := (s.ord.engines.get? id).getD e

/-- Abandonment (R320): no signal, cp falls, and the issuing context takes the trap. -/
def State.dropEngine (s : State) (id : Nat) (e : EngOp) (cause : BitVec 8) (tval : Word) (tinfo : BitVec 8) : State :=
  let t := { s with ord := { s.ord with engines := s.ord.engines.del id },
                    refs := s.refs.mapVals fun _ r => if r.work = 3 && r.key = id then { r with discard := true } else r }
  (t.updCtx e.ctx Ctx.decCp).deliverTrap e.ctx cause tval tinfo

/-- Opens the referral of a failed translation of a unit, or abandons the operation (R320, R340, R355, R358). -/
def State.parkUnit (s : State) (id : Nat) (e : EngOp) (u : Nat) (va : Word) (reason : Nat) (wr : Bool) (side : Side) : State :=
  let g := s.gang ((s.gangOfCore e.core).getD 0)
  let (vf, remote) := match side with
    | .peer p => (p.vf, true)
    | _ => (s.engVf e, false)
  if (s.ctx e.ctx).sup && !remote then s.dropEngine id e 26 e.addr 0
  else if (s.supervisor vf).isNone then s.dropEngine id e 30 va (BitVec.ofNat 8 reason)
  else
    let r := s.next
    let detail := faultDetail reason wr true false remote 0 (ctxNo e.ctx) (g.lcore e.core) (if remote then vf else 0)
    (s.openReferral { vf := vf, va := va, detail := detail, info := g.faultInfo, work := 3, key := id, unit := u,
                      slot := none, head := [], written := false, discard := false }).updEng id fun x => { x with parked := x.parked ++ [(u, r)] }

/-- Does a remote side refuse the unit, or the flag of `wsig` (R340)? A peer entry that is gone lets nothing through. -/
def State.refusesUnit (s : State) (e : EngOp) : Bool :=
  if e.desc.peer = 0 then false
  else match s.farSide e with
    | .peer p => !s.peerAllows e p
    | _ => true

/-- May the operation move: every write before it is visible at its quarter (R297), and the acquires and fences before it let it
(R289, R313)? -/
def State.engReady (s : State) (id : Nat) (e : EngOp) : Bool :=
  s.writesIn e.ctx e.before && s.mayMove e.ctx (moveAs id)

/-- The index that applies to a unit, read as a near plain load (R318), and whether it is poisoned. -/
def State.engIndex (s : State) (id : Nat) (e : EngOp) (u : Nat) : Part (Nat × Bool) :=
  if !dIdx e.desc then .ok (0, false) s
  else
    let va := e.desc.aux + BitVec.ofNat 64 (4 * (unitPart e u).1)
    match s.engRead id e .near (va &&& ~~~ (7 : Word)) 1 with
    | .ok vs t =>
      let w := vs.headD (0, false)
      .ok ((w.1 >>> (8 * (va.toNat % 8))).extractLsb' 0 32 |>.toNat, w.2) t
    | .held t => .held t
    | .fault v r w sd => .fault v r w sd

/-- Writes some values to translated doublewords; those of another package are not the model's. -/
def State.engWrites (s : State) (id : Nat) (e : EngOp) (add bad : Bool) (ls : List (Option (Nat × Nat))) (vs : List (Word × Bool)) :
    State :=
  (List.zip ls vs).foldl (fun t p => match p.1 with
    | none => t
    | some (loc, slot) => t.engWrite id e loc slot p.2.1 (p.2.2 || bad) add none none) s

/-- The move of a copying unit: read whole, then written. A poisoned index or source makes a poisoned destination (R360). -/
def State.moveUnit (s : State) (id : Nat) (e : EngOp) (u : Nat) : Part Unit :=
  match s.engIndex id e u with
  | .held t => .held t
  | .fault v r w sd => .fault v r w sd
  | .ok (idx, badIdx) s1 =>
    let (src, dst) := unitSpan e u idx
    let n := (unitPart e u).2.2 / 8
    match s1.engRead id e (s.srcSide e) src n with
    | .held t => .held t
    | .fault v r w sd => .fault v r w sd
    | .ok vs s2 =>
      match s2.engDsts e (s.dstSide e) (dAccum e.desc) dst n with
      | .held t => .held t
      | .fault v r w sd => .fault v r w sd
      | .ok ls s3 =>
        .ok () (s3.engWrites id e (dAccum e.desc) badIdx ls vs)

/-- The move of a unit of `digest`: the next 512 bytes. -/
def State.digestUnit (s : State) (id : Nat) (e : EngOp) (u : Nat) : Part Unit :=
  match s.engRead id e .near (unitSpan e u 0).1 ((unitPart e u).2.2 / 8) with
  | .held t => .held t
  | .fault v r w sd => .fault v r w sd
  | .ok vs t => .ok () (t.updEng id fun x =>
      { x with hash := x.hash ++ vs.flatMap fun v => wordBytes v.1, bad := x.bad || vs.any (·.2) })
/-- PROPAGATE and APPLY of a write at every quarter where it is not in view (R288). -/
def State.spreadWrite (s : State) (id : Nat) : State :=
  (List.range s.nq).foldl (fun t q => match t.writeAt id with
    | none => t
    | some w => if w.vis.getLsbD q then t else t.applyWrite id q) s
/-- May a write to a place be applied at every quarter at once: does each have all that its home has in view (R288)? -/
def State.maySpread (s : State) (loc : Nat) : Bool := (List.range s.nq).all fun q => s.allVis q (s.vis (home loc))
/-- The result of `digest`: four words, poisoned where a source byte was. They are written with FLAG, so that a containment leaves no result
without it (R360, R395), and are in view of every quarter before the signal is performed, whose causal past holds them (R293, R297;
DEDUCED, assumption 125). Any other operation has none. -/
def State.digestResult (s : State) (id : Nat) (e : EngOp) : Part Unit :=
  if e.func ≠ 6 then .ok () s
  else match s.engDsts e .near false e.desc.dst 4 with
    | .held t => .held t
    | .fault v r w sd => .fault v r w sd
    | .ok ls t =>
      if !(ls.all fun l => l.all fun p => t.maySpread p.1) then .held t
      else
        let u := t.engWrites id e false e.bad ls ((Sha3.digest e.hash).map fun w => (w, false))
        .ok () (((u.engOp id e).writes.drop e.writes.length).foldl State.spreadWrite u)

/-- ENGINE_STEP (R288, R297, R320): a unit of a copy-engine operation, or the contribution of a member of a collective. -/
def execEngineStep (op unit : Nat) (s : State) : Out :=
  match s.ord.engines.get? op with
  | none => .next (s.collRead op unit)
  | some e =>
    if !s.enginesRun e.core || e.moved.contains unit || e.parked.any (·.1 = unit) || engUnits e ≤ unit || !s.engReady op e ||
        (e.func = 6 && unit ≠ e.moved.length) then .next s
    else if e.refused || s.refusesUnit e then .next ({ s with free := s.free + 1 }.dropEngine op e 26 e.addr 0)
    else match (if e.func = 6 then s.digestUnit op e unit else s.moveUnit op e unit) with
      | .held t => .next (s.withWalks t)
      | .fault va r wr sd => .next (s.parkUnit op e unit va r wr sd)
      | .ok _ t => .next ({ t with free := t.free + 1 }.updEng op fun x => { x with moved := x.moved ++ [unit] })

/-! ## FLAG (R297, R316, R320) -/

/-- The completion signal: an arrival word, a flag word or counter, or nothing. -/
def State.engSignal (s : State) (id : Nat) (e : EngOp) : Part Unit :=
  let rel := some ((e.writes ++ e.set).eraseDups)
  if dArr e.desc then
    let shed := if e.func = 4 then e.far else shedOfCore e.core
    .ok () (s.engWrite id e (padLoc shed e.desc.sig.toNat) 0 e.desc.sigval false false (some true) rel)
  else if e.func = 5 then
    match s.engDsts e (s.dstSide e) (dSigadd e.desc) e.desc.sig 1 with
    | .held t => .held t
    | .fault v r w sd => .fault v r w sd
    | .ok ls t => match ls.headD none with
      | none => .ok () t
      | some (loc, slot) => .ok () (t.engWrite id e loc slot e.desc.sigval false (dSigadd e.desc) none rel)
  else .ok () s

/-- The result of a digest, and then the signal. -/
def State.engFinish (s : State) (id : Nat) (e : EngOp) : Part Unit :=
  match s.digestResult id e with
  | .held t => .held t
  | .fault v r w sd => .fault v r w sd
  | .ok _ t => t.engSignal id (t.engOp id e)

/-- May FLAG be taken: every unit has moved, and the release at `.fab` over the operation's writes and the release set of its issue is
complete (R288, R293, R297)? The signal's causal past then holds the whole payload. -/
def State.flagReady (s : State) (e : EngOp) : Bool :=
  s.enginesRun e.core && decide (engUnits e ≤ e.moved.length) && e.parked.isEmpty && e.set.all (s.complete e.ctx 4) &&
    e.writes.all (s.complete e.ctx 4)

/-- FLAG (R288, R297): the signal and the counter together; then cp falls. A remote side may refuse the flag of `wsig` (R340). -/
def execFlag (op : Nat) (s : State) : Out :=
  match s.ord.engines.get? op with
  | none => .next s
  | some e =>
    if !s.flagReady e then .next s
    else if e.func = 5 && (e.refused || s.refusesUnit e) then .next ({ s with free := s.free + 1 }.dropEngine op e 26 e.addr 0)
    else match s.engFinish op e with
      | .held t => .next (s.withWalks t)
      | .fault va r wr sd => .next (s.parkUnit op e (engUnits e) va r wr sd)
      | .ok _ t =>
        let ws := (t.engOp op e).writes
        let t1 := if dCnt e.desc then t.updCore e.core fun c =>
            { c with cc := c.cc.set (dCci e.desc) (c.cc[dCci e.desc] + 1),
                     ccSet := c.ccSet.set (dCci e.desc) ((c.ccSet[dCci e.desc] ++ ws ++ e.set).eraseDups) } else t
        let t2 := t1.updOrd fun o => { o with engines := o.engines.del op, flagged := o.flagged.put op (e.ctx, ws) }
        .next (t2.updCtx e.ctx Ctx.decCp)

/-! ## Completion counters (R321) -/

def ccOf (f : RR) : Fin 16 := (f.a.setWidth 4).toFin
/-- The effect of `ccnt.rd` (R321). -/
def effCcntRd (f : RR) (s : State) : Eff := .done (s.wx f.d ((s.core s.myCore).cc[ccOf f].zeroExtend 64))
/-- `ccnt.rd` (R321). -/
def execCcntRd (f : RR) (s : State) : Out := .next (s.issue (.ccntRd f) (effCcntRd f))

/-- The effect of `ccnt.wait` (R321): the acquire of the increments that it observes. -/
def effCcntWait (f : RR) (s : State) : Eff :=
  let b := s.rx f.b
  let c := s.core s.myCore
  if b.extractLsb' 32 32 ≠ (0 : BitVec 32) then .trap 25 b 0
  else holdUnless (decide ((c.cc[ccOf f] - b.extractLsb' 0 32).toNat < 2 ^ 31)) (.ccntWait f) s <|
    .done ((s.updMe (·.see s.next true c.ccSet[ccOf f])).tickNext)
/-- `ccnt.wait` (R321). -/
def execCcntWait (f : RR) (s : State) : Out := .next (s.issue (.ccntWait f) (effCcntWait f))

end Sys2Proof.Machine
end

