-- ==== Sys2Proof/Machine/Grant.lean ====
section
/-! DEFINITION. The clock arbiter: power estimate, cap, grant groups and EVALUATE (R157 to R173). -/
namespace Sys2Proof.Machine

/-! ## Requests (R155, R157) -/

/-- Ratio code and weight of domain d: 0 matrix, 1 vector, 2 network, 3 memory. -/
def reqCode (w : BitVec 32) (d : Nat) : Nat := (w.extractLsb' (8 * d) 5).toNat
def reqWeight (w : BitVec 32) (d : Nat) : Nat := (w.extractLsb' (8 * d + 5) 2).toNat
/-- Each byte has bit 7 = 0 and code 0 or 4 to 16 (R155, R175). -/
def reqOk (w : BitVec 32) : Bool :=
  (List.range 4).all fun d => !w.getLsbD (8 * d + 7) && (reqCode w d = 0 || (decide (4 ≤ reqCode w d) && decide (reqCode w d ≤ 16)))
/-- The term of one domain; code 0 or weight 0 adds none. -/
def reqTerm (code weight e : Nat) : Nat := if code = 0 then 0 else weight * ((code - e) + (e - code))

/-! ## Rows, quarters and their entries -/

def State.allRows (s : State) : List Nat :=
  (List.range s.nq).flatMap fun q => (List.range 8).map fun r => 16 * q + 8 * (q / 2) + r
def Gang.rows (g : Gang) : List Nat := (g.sheds.map rowKey).eraseDups
def Gang.qtrs (g : Gang) : List Nat := (g.sheds.map qtrOfShed).eraseDups

/-- The floor entry of the row table (R159): of several (4, 4) entries, the one of the lowest index (DESIGN CHOICE, assumption 134). -/
def floorRow (p : Power) : Nat := (p.rows.findIdx? fun e => e.m = 4 && e.v = 4).getD 0
def rowPoint (p : Power) (i : Nat) : RowPoint := (p.rows ++ p.keptRows).getD i { m := 4, v := 4, power := 0 }

/-- A row's current entry: the floor where no gang is. -/
def State.rowEntryOf (s : State) (key : Nat) : Nat :=
  if s.rowHeld key then Table.getD s.power.rowEntry key (floorRow s.power) else floorRow s.power

/-- Power of a row and of a quarter in milliwatts: the higher of old and new during a transition (R161). -/
def State.rowPower (s : State) (key : Nat) : Nat :=
  let p := (rowPoint s.power (s.rowEntryOf key)).power
  match (if s.rowHeld key then Table.get? s.power.rowMove key else none) with
  | some m => max p (rowPoint s.power m.2).power
  | none => p
def State.qtrPower (s : State) (q : Nat) : Nat :=
  let p := (qtrPoint s.power (s.qtrEntryOf q)).power
  match (if s.qtrHeld q then Table.get? s.power.qtrMove q else none) with
  | some m => max p (qtrPoint s.power m.2).power
  | none => p

def natSum (l : List Nat) : Nat := l.foldl (· + ·) 0
/-- EST (R161). -/
def State.est (s : State) : Nat :=
  s.power.statics + natSum (s.allRows.map s.rowPower) + natSum ((List.range s.nq).map s.qtrPower)
/-- The package floor (R159) under given tables. -/
def packageFloor (s : State) (p : Power) : Nat :=
  p.statics + s.allRows.length * (rowPoint p (floorRow p)).power + s.nq * (qtrPoint p (floorQtr p)).power
/-- The effective cap (R162). -/
def State.cap (s : State) : Nat :=
  if s.power.capsel = 0 then s.power.capA
  else if s.power.capsel = 1 then s.power.capB
  else if s.power.capsel = 2 then s.power.capC
  else packageFloor s s.power

/-! ## EVALUATE (R163, R164, R165, R171) -/

/-- Gangs on sheds, and whether a gang is not yet released. -/
def State.onSheds (s : State) : List (Nat × Gang) :=
  s.gangs.filter fun e => e.2.state = .resident || e.2.state = .launching || e.2.state = .restoring || e.2.state = .switching
def Gang.fresh (g : Gang) : Bool := g.state = .launching || g.state = .restoring
/-- The earliest tick at which a gang's grant may change (R165). -/
def Gang.mayChange (g : Gang) : Nat := max g.changeTick g.releaseTick + Config.grantWindow

/-- WEIGHTED_MAX: code and weight of one domain over some gangs. -/
def weightedMax (gs : List Gang) (d : Nat) : Nat × Nat :=
  gs.foldl (fun b g =>
    let c := reqCode g.clkreq d
    let w := reqWeight g.clkreq d
    if c ≠ 0 && w ≠ 0 && (decide (b.2 < w) || (b.2 = w && decide (b.1 < c))) then (c, w) else b) (0, 0)

/-- The first of a list that no later one betters. -/
def pickBest {α : Type} (better : α → α → Bool) : List α → Option α
  | [] => none
  | a :: t => match pickBest better t with
    | none => some a
    | some b => if better b a then some b else some a

/-- BEST of a table by score and two tie codes, or the entry of least power when none fits. Entries are (index, power,
score, tie, tie). -/
def bestEntry (fits : Nat → Nat → Bool) (l : List (Nat × Nat × Nat × Nat × Nat)) : Nat :=
  match pickBest (fun b a => decide (b.2.2.1 < a.2.2.1) || (b.2.2.1 = a.2.2.1 &&
      (decide (a.2.2.2.1 < b.2.2.2.1) || (a.2.2.2.1 = b.2.2.2.1 && decide (a.2.2.2.2 < b.2.2.2.2)))))
      (l.filter fun e => fits e.1 e.2.1) with
  | some e => e.1
  | none => match pickBest (fun b a => decide (b.2.1 < a.2.1)) l with
    | some e => e.1
    | none => 0

/-- Does a shed's CLKGRANT view differ from its entries? -/
def State.grantCodes (s : State) (d : Nat) : Word :=
  let r := rowPoint s.power (s.rowEntryOf (rowKey d))
  let q := qtrPoint s.power (s.qtrEntryOf (qtrOfShed d))
  BitVec.ofNat 64 (r.m + r.v * 2 ^ 8 + q.n * 2 ^ 16 + q.y * 2 ^ 24)
def grantView (w : Word) : Word := w &&& 0x1F1F1F1F
def grantSeq (w : Word) : Nat := (w.extractLsb' 32 16).toNat

/-- Marks the gangs whose grant changes now, and shows TRANS on the sheds whose codes will change (R165, R166). The tick of the change
is that of its beginning, t0 (DESIGN CHOICE, assumption 29). -/
def State.beginChange (s : State) (gs : List (Nat × Gang)) : State :=
  gs.foldl (fun t e =>
    let t1 := t.updGang e.1 fun v => { v with changeTick := t.now }
    e.2.sheds.foldl (fun u d =>
      let w := (u.shed d).clkGrant
      if grantView w = u.grantCodes d then u
      else u.updShed d fun h => { h with clkGrant := h.clkGrant ||| 0x80000000 }) t1) s

/-- Rows take an entry. Within an evaluation what is decided counts at its new power alone (R164); where the entry stays, its transition goes
on (R161). -/
def Power.takeRows (p : Power) (rows : List Nat) (e : Nat) : Power :=
  rows.foldl (fun (p : Power) r => if p.rowEntry.get? r = some e then p
    else { p with rowMove := p.rowMove.del r, rowEntry := p.rowEntry.put r e }) p
def Power.takeQtr (p : Power) (q e : Nat) : Power :=
  if p.qtrEntry.get? q = some e then p else { p with qtrMove := p.qtrMove.del q, qtrEntry := p.qtrEntry.put q e }
/-- An evaluation is scheduled for the tick at which a deferred change becomes allowed, beside those that are (R165). -/
def Power.deferTo (p : Power) (due : Nat) : Power := { p with deferred := natInsert p.deferred due }

/-- Gangs that a change affects, and the tick at which it is allowed for all of them (R165). -/
def settledOf (members : List (Nat × Gang)) : List (Nat × Gang) := members.filter fun e => !Gang.fresh e.2
def dueOf (members : List (Nat × Gang)) : Nat := (settledOf members).foldl (fun m e => max m (Gang.mayChange e.2)) 0

/-- The decision for a quarter: the entry is taken, or the change waits for the tick at which it is allowed. -/
def State.settleQtr (s : State) (members : List (Nat × Gang)) (q best : Nat) : State :=
  if !(settledOf members).isEmpty && s.qtrEntryOf q ≠ best && decide (s.now < dueOf members) then
    { s with power := s.power.deferTo (dueOf members) }
  else { s with power := s.power.takeQtr q best }

/-- The decision for the rows of a group: the entry is taken, or the change waits. Rows that only new gangs hold then take the entry
that the group runs at, for a group has one entry (R163; DEDUCED, assumption 97); where a new gang joins groups that run at two entries, it
takes the first row's, and the others keep theirs until the change is allowed (DESIGN CHOICE, assumption 103). The new rows take the
running entry without a test of the cap or of BUDGET_FITS, so that EST can stand above the cap until then (DESIGN CHOICE, assumption
103). -/
def State.settleRows (s : State) (members : List (Nat × Gang)) (rows : List Nat) (best : Nat) : State :=
  let held (r : Nat) : Bool := (settledOf members).any fun e => e.2.rows.contains r
  let now := (rows.filter held).map s.rowEntryOf
  if (now.any fun e => e ≠ best) && decide (s.now < dueOf members) then
    { s with power := (s.power.takeRows (rows.filter fun r => !held r) (now.headD best)).deferTo (dueOf members) }
  else { s with power := s.power.takeRows rows best }

/-- The quarter stage for one quarter. -/
def State.quarterStage (s : State) (gangs : List (Nat × Gang)) (q : Nat) : State :=
  let members := gangs.filter fun e => e.2.qtrs.contains q
  if members.isEmpty then s else
  let wn := weightedMax (members.map (·.2)) 2
  let wy := weightedMax (members.map (·.2)) 3
  let rest := s.est - s.qtrPower q
  let l := (List.range s.power.qtrs.length).map fun i =>
    let e := qtrPoint s.power i
    (i, e.power, reqTerm wn.1 wn.2 e.n + reqTerm wy.1 wy.2 e.y, e.y, e.n)
  s.settleQtr members q (bestEntry (fun _ p => decide (rest + p ≤ s.cap)) l)

/-- Grant groups: gangs that share a shed row, transitively (R163). -/
def grantGroups (gangs : List (Nat × Gang)) : List (List (Nat × Gang)) :=
  gangs.foldl (fun groups e =>
    let touches := fun (grp : List (Nat × Gang)) => grp.any fun m => m.2.rows.any e.2.rows.contains
    (e :: (groups.filter touches).flatten) :: groups.filter fun grp => !touches grp) []

/-- The tick at which the period that a tick lies in began: a multiple of P (R169, R175). -/
def Queue.periodBegan (q : Queue) (now : Nat) : Nat := now / q.period * q.period

/-- BUDGET_FITS (R171), in femtojoules. -/
def State.budgetFits (s : State) (members : List (Nat × Gang)) (power : Nat) : Bool :=
  members.all fun e =>
    let k := s.queue e.2.vfq
    k.budget = 0 ||
    decide (power * e.2.rows.length * (Queue.periodBegan k s.now + k.period - s.now) * 1000 + k.charge ≤ k.budget * 10 ^ 9)

/-- Order of groups: by class, P0 first, and then by the earliest release tick (R164). Of a group whose members differ the first member in
that order counts, and a gang that is not released yet counts with the present tick (DESIGN CHOICE, assumption 104). -/
def State.groupKey (s : State) (grp : List (Nat × Gang)) : Nat :=
  grp.foldl (fun m e =>
    min m (2 ^ 64 * (s.queue e.2.vfq).cls.toNat + if Gang.fresh e.2 then s.now else e.2.releaseTick)) (2 ^ 70)

/-- The row stage for one group. -/
def State.rowStage (s : State) (grp : List (Nat × Gang)) : State :=
  let rows := (grp.flatMap fun e => e.2.rows).eraseDups
  let rest := s.est - natSum (rows.map s.rowPower)
  let l := (List.range s.power.rows.length).map fun i =>
    let e := rowPoint s.power i
    (i, e.power, natSum (grp.map fun g =>
      reqTerm (reqCode g.2.clkreq 0) (reqWeight g.2.clkreq 0) e.m + reqTerm (reqCode g.2.clkreq 1) (reqWeight g.2.clkreq 1) e.v),
      e.m, e.v)
  s.settleRows grp rows (bestEntry (fun _ p => decide (rest + rows.length * p ≤ s.cap) && s.budgetFits grp p) l)

/-- Puts a group among groups in rising order of key. Groups of one class and one release tick keep the order of `grantGroups`, in which a
later-numbered gang's group comes first: the spec does not order them (DESIGN CHOICE, assumption 90). -/
def insertGroup (key : List (Nat × Gang) → Nat) (a : List (Nat × Gang)) : List (List (Nat × Gang)) → List (List (Nat × Gang))
  | [] => [a]
  | b :: t => if key a ≤ key b then a :: b :: t else b :: insertGroup key a t

/-- The changes of an evaluation begin: the rows and quarters whose entry it changed, where a gang was there before, and what was in
transition goes on (R161); and the gangs whose own rows or quarters they are (R165). -/
def State.beginChanges (s old : State) (gangs : List (Nat × Gang)) : State :=
  let settled := settledOf gangs
  let rowNew (r : Nat) : Bool := s.rowEntryOf r ≠ old.rowEntryOf r && settled.any fun e => e.2.rows.contains r
  let qtrNew (q : Nat) : Bool := s.qtrEntryOf q ≠ old.qtrEntryOf q && settled.any fun e => e.2.qtrs.contains q
  let moves (m : Table (Nat × Nat)) (l : List Nat) (new : Nat → Bool) (was : Nat → Nat) : Table (Nat × Nat) :=
    l.foldl (fun t r => if new r then t.put r (s.now, was r) else t) m
  let p := { s.power with
    rowMove := moves (old.power.rowMove.filter fun e => s.rowEntryOf e.1 = old.rowEntryOf e.1) s.allRows rowNew old.rowEntryOf
    qtrMove := moves (old.power.qtrMove.filter fun e => s.qtrEntryOf e.1 = old.qtrEntryOf e.1) (List.range s.nq) qtrNew old.qtrEntryOf }
  ({ s with power := p } : State).beginChange (settled.filter fun e => e.2.rows.any rowNew || e.2.qtrs.any qtrNew)

/-- EVALUATE (R164). A gang's quarter and row decisions of one evaluation are one change. -/
def State.arbitrate (s : State) : State :=
  let gangs := s.onSheds
  let s0 := { s with power := { s.power with
    evaluate := false,
    rowEntry := s.power.rowEntry.filter fun e => s.rowHeld e.1,
    qtrEntry := s.power.qtrEntry.filter fun e => s.qtrHeld e.1,
    rowMove := s.power.rowMove.filter fun e => s.rowHeld e.1,
    qtrMove := s.power.qtrMove.filter fun e => s.qtrHeld e.1 } }
  let s1 := (List.range s.nq).foldl (fun t q => t.quarterStage gangs q) s0
  let groups := (grantGroups gangs).foldr (insertGroup s.groupKey) []
  (groups.foldl (fun t g => t.rowStage g) s1).beginChanges s0 gangs

/-! ## The end of a change (R167, R168) -/

/-- The note write of R167: the word is set full in the shed's scratchpad, as `st.f` would do. -/
def State.writeNote (s : State) (g : Gang) (d : Nat) : State :=
  if g.image.note.getLsbD 31 then
    let loc := padLoc d ((g.image.note.extractLsb' 3 18).toNat * 8)
    s.tickNext.perform (33 * d) s.next (qtrOfShed d) loc 0xFF ((s.shed d).clkGrant) (some true) (some []) false false false
  else s

/-- A shed's view takes its new codes: SEQ + 1, the note, event bit 0 in every live context (R167). The tick of the shed's last change, which
`clk.rd` 2 reads, is this one (DESIGN CHOICE, assumption 29). -/
def State.landGrant (s : State) (g : Gang) (d : Nat) : State :=
  let w := (s.shed d).clkGrant
  let new : Word := s.grantCodes d ||| BitVec.ofNat 64 ((grantSeq w + 1) % 2 ^ 16 * 2 ^ 32)
  let s1 := s.updShed d fun h => { h with clkGrant := new, lastChange := s.now }
  (s1.writeNote g d).eachCtx [3 * d, 3 * d + 1, 3 * d + 2] (·.setEvent 1)

/-- `CLKGRANT` at a launch's release tick: SEQ 0, no event (R165, R168). It shows the codes decided and TRANS 0 also while its quarter or
its rows are in the transition of another gang's change (DESIGN CHOICE, assumption 130). -/
def State.firstGrant (s : State) (d : Nat) : State :=
  s.updShed d fun h => { h with clkGrant := s.grantCodes d, lastChange := s.now }

/-- A queue's charge E in microjoules (R170), rounded down, and B - E so rounded up: the spec does not say (DESIGN CHOICE, assumption
91). -/
def Queue.energy (q : Queue) : Nat := q.charge / 10 ^ 9

/-! ## Periods (R169, R172) -/

/-- Event bit 4 in every live context of the gangs of a queue that run on their sheds; it clears also where a gang has stopped for a switch
(R144, R172). -/
def State.warnQueue (s : State) (vfq : Nat) (set : Bool) : State :=
  let cores := (s.gangs.filter fun e => e.2.vfq = vfq &&
    (e.2.state = .resident || (e.2.state = .switching && (!set || e.2.switchAt.isSome)))).flatMap fun e => e.2.cores
  s.eachCtx cores fun c => if set then c.setEvent 0b10000 else { c with event := c.event &&& 0b01111 }

/-- A queue's period begins: its charge returns to 0, and its gangs may be placed again (R169, R172). -/
def State.refill (s : State) (vfq : Nat) : State :=
  let q := s.queue vfq
  ((s.setQueue vfq { q with charge := 0, periodStart := Queue.periodBegan q s.now, warned := false, exhausted := false, switchDue := false }).warnQueue vfq
    false).askEvaluate
/-- The periods of the queues that began since a tick. -/
def State.refillSince (s : State) (before : Nat) : State :=
  ((s.queues.map (·.1)).filter fun n =>
      let q := s.queue n
      q.period ≠ 0 && Queue.periodBegan q before ≠ Queue.periodBegan q s.now).foldl (fun t n => t.refill n) s

end Sys2Proof.Machine
end

