-- ==== Sys2Proof/Machine/Isolation.lean ====
section
/-! DEFINITION. The fault ring, containment and its answers, and the sweepers, as events (R173, R356 to R366). -/
namespace Sys2Proof.Machine

/-! ## The fault ring (R356) -/

/-- First location of record k of the ring in a shed's scratchpad (R272, R356). -/
def ringLoc (shed k : Nat) : Nat := padLoc shed (0x1FE000 + 32 * k)
/-- The supervisor gang's rank-0 shed, where it is resident. -/
def Gang.rank0 (g : Gang) : Nat := shedAt g.x0 g.y0

/-- A doubleword of the image of a saved gang's rank-0 scratchpad, by offset. -/
def State.savedPad (s : State) (g : Nat) (f : SavedShed → SavedShed) : State :=
  s.updGang g fun v => { v with saved := match v.saved with
    | h :: t => f h :: t
    | [] => [] }

/-- FAULT_RECORD_WRITE (R356): once the tags of doublewords 2 and 3 of the next record are empty, doublewords 0 and 1 are written;
once those are visible everywhere, doubleword 3 is written with its tag full. A supervisor gang that is saved gets the record in
its scratchpad image (R358). -/
def execFaultRecordWrite (vf referral : Nat) (s : State) : Out :=
  match s.refs.get? referral, s.supervisor vf with
  | some r, some gn =>
    let g := s.gang gn
    if r.vf ≠ vf || r.written then .next s
    else
      let k := match r.slot with
        | some k => k
        | none => (s.vf vf).ring
      let off := 0x1FE000 + 32 * k
      let put (t : State) (f : Referral → Referral) : State := { t with refs := t.refs.put referral (f r) }
      let turn (t : State) : State := t.updVf vf fun v => { v with ring := (v.ring + 1) % 256 }
      if g.state = .saved then
        match g.saved.head? with
        | none => .next s
        | some h =>
          if r.slot.isNone && (h.shed.full.contains (off / 8 + 2) || h.shed.full.contains (off / 8 + 3)) then .next s
          else
            let t := s.savedPad gn fun p =>
              ((p.write off r.va none none false).write (off + 8) r.detail none none false).write (off + 24) r.info (some true) none false
            .next (put (if r.slot.isNone then turn t else t) fun r => { r with slot := some k, written := true })
      else
        let d := g.rank0
        let loc := ringLoc d k
        let who := 33 * d
        match r.slot with
        | none =>
          if s.tag (loc + 16) || s.tag (loc + 24) then .next s
          else
            let t1 := s.tickNext.perform who s.next (qtrOfShed d) loc 0xFF r.va none none false false false
            let t2 := t1.tickNext.perform who t1.next (qtrOfShed d) (loc + 8) 0xFF r.detail none none false false false
            .next (put (turn t2) fun r => { r with slot := some k, head := [s.next, t1.next] })
        | some _ =>
          if !r.head.all (s.complete who 4) then .next s
          else .next (put (s.tickNext.perform who s.next (qtrOfShed d) (loc + 24) 0xFF r.info (some true) (some r.head) false
            false false) fun r => { r with written := true })
  | _, _ => .next s

/-! ## Answers (R357, R363) -/

/-- The core that a gang's member with a logical number stands on, and the change of it there, or in the save area. -/
def State.updMember (s : State) (g lcore : Nat) (f : Core → Core) : State :=
  let gg := s.gang g
  if gg.state = .saved || gg.state = .restoring then s.updGang g fun v => { v with saved := v.saved.mapIdx fun i h =>
      if i = lcore / 3 then { h with cores := h.cores.mapIdx fun j c => if j = lcore % 3 then f c else c } else h }
  else s.updCore (gg.coreOf lcore) f

/-- A gang is to leave at timestamp T: it is SWITCHING from the decision on (R139), or, where it is to be discarded at T, goes on as
RESIDENT until then (R131). -/
def State.leaveAt (s : State) (g t : Nat) (drop : Bool) : State :=
  let gg := s.gang g
  match gg.switchAt with
  | some _ => s.updGang g fun v => { v with discard := v.discard || drop }
  | none =>
    if gg.state ≠ .resident then s
    else (s.updGang g fun v =>
      { v with switchAt := some t, discard := drop, state := if drop then .resident else .switching }).journal 2 g t
/-- A switch of some gangs is decided at this tick: they leave at one T, 1,000 to 2,000 ticks ahead (R144). `drop` says that they are
discarded at T. -/
def State.decideSwitches (s : State) (gs : List Nat) (drop : Bool) : State :=
  let t := s.now + 1000 + Config.freeChoice s.free % 1001
  gs.foldl (fun u g => u.leaveAt g t drop) { s with free := s.free + 1 }
/-- The switch of one gang. -/
def State.decideSwitch (s : State) (g : Nat) (drop : Bool) : State := s.decideSwitches [g] drop

/-- The answer to a containment's record (R363). A die reset's core cannot restart where it stands (R364). -/
def State.answerContainment (s : State) (r : Referral) (restart : Bool) : State :=
  let g := s.gang r.unit
  let lcore := (r.detail.extractLsb' 16 16).toNat
  if g.state = .complete || g.state = .failed then s
  else if !restart then s.failGang r.unit 5
  else if (r.detail.extractLsb' 0 3).toNat = 4 then (s.updMember r.unit lcore fun c => { c with restart := 2 }).decideSwitch r.unit false
  else s.updMember r.unit lcore fun c => { c with restart := 1 }

/-- A retry or a refusal of the faulting work (R357). -/
def State.answerFault (s : State) (id : Nat) (r : Referral) (retry : Bool) : State :=
  let reason : BitVec 8 := (r.detail.extractLsb' 0 3).zeroExtend 8
  match r.work with
  | 0 =>
    match (s.ctx r.key).mode with
    | .asleep (.fault n) =>
      if n ≠ id then s
      else if retry then s.updCtx r.key fun c => { c with mode := .ready }
      else s.takeTrap r.key 15 false r.va reason
    | _ => s
  | 1 =>
    match s.tileHead r.key with
    | none => s
    | some op =>
      if op.parked ≠ some id then s
      else if retry then (s.tileMates r.key op).foldl (fun t c => match t.tileHead c with
        | some o => (t.setTileHead c { o with parked := none }).setRowprog c 1 o
        | none => t) s
      else s.abandonRow r.key 15 r.va reason
  | 2 =>
    match (s.core r.key).cvt.head? with
    | none => s
    | some op =>
      if op.parked ≠ some id then s
      else if retry then s.setCvt r.key 1 { op with parked := none }
      else s.abandonCvt r.key 15 r.va reason
  | 3 =>
    match s.ord.engines.get? r.key with
    | some e =>
      if retry then s.updEng r.key fun x => { x with parked := x.parked.filter (·.2 ≠ id) }
      else s.dropEngine r.key e 26 e.addr 0
    | none =>
      if retry then s.updColl r.key fun c => Coll.updJoin c r.unit fun j => { j with parked := none }
      else s.leaveColl r.key r.unit 15 r.va reason
  | _ => s.answerContainment r retry

/-- Is an answer one that has the master decide a switch: the restart of a die reset's core (R144, R364)? -/
def Referral.switches (r : Referral) : Bool := r.work = 4 && (r.detail.extractLsb' 0 3).toNat = 4
/-- REFERRAL_RESPONSE (R357): doubleword 2 of a written record is full; Bruris reads it, sets its tag empty and acts. An answer by which a
switch is decided waits for a master (R154). -/
def execReferralResponse (vf slot : Nat) (s : State) : Out :=
  match s.refs.find? (fun e => e.2.vf = vf && e.2.slot = some slot && e.2.written), s.supervisor vf with
  | some (id, r), some gn =>
    let g := s.gang gn
    let off := 0x1FE000 + 32 * slot + 16
    let answer (t : State) (w : Word) : State :=
      let t1 := { t with refs := Table.del t.refs id }
      if r.discard then t1 else t1.answerFault id r ((w.extractLsb' 0 2 : BitVec 2) = 1)
    if r.switches && !s.master.ready then .next s
    else if g.state = .saved then
      match g.saved.head? with
      | some h =>
        if !h.shed.full.contains (off / 8) then .next s
        else
          let w := Memory.dword h.pad off
          .next (answer (s.savedPad gn fun p => p.write off w (some false) none false) w)
      | none => .next s
    else
      let loc := padLoc g.rank0 off
      if !s.tag loc then .next s
      else .next (answer ((s.setTag loc false).correct loc) (s.readQ (home loc) loc))
  | _, _ => .next s

/-! ## The checker and containment (R359, R361 to R363) -/

/-- CHECKER_MISMATCH (R359): the context's next retiring instruction meets one mismatch more. -/
def execCheckerMismatch (ctx : Nat) (s : State) : Out :=
  .next (s.updCtx ctx fun c => { c with mismatch := c.mismatch + 1 })

/-- CONTAINMENT (R361): a core that runs for a gang is contained once. -/
def execContainment (core cause : Nat) (s : State) : Out :=
  .next (if (s.core core).contained.isSome || (s.gangOfCore core).isNone then s else s.containEvent core cause)

/-- SELF_TEST_COMPLETE (R363): a core that passes is restarted where it stands; otherwise its shed is withdrawn and its gang is
switched out, which waits for a master (R154). Which tests pass is the hardware's (assumption 43). -/
def execSelfTestComplete (core : Nat) (s : State) : Out :=
  let c := s.core core
  match c.contained, s.gangOfCore core with
  | some _, some g =>
    if c.restart ≠ 1 || (!Config.selfTest s.free && !s.master.ready) then .next s
    else
      let t := ({ s with free := s.free + 1 }).updCore core fun v => { v with restart := 2 }
      -- The codebook slots of a shed that the self-test restores read 0 again (R195).
      .next (if Config.selfTest s.free then t.updShed (shedOfCore core) fun d => { d with slots := [] }
        else (t.updShed (shedOfCore core) fun d => { d with withdrawn := true }).decideSwitch g false)
  | _, _ => .next s

/-! ## The sweepers (R173, R366) -/

/-- SWEEP (R366): a sweeper corrects a doubleword in place, or poisons it. It changes no value and no tag. -/
def execSweep (loc : Nat) (hard : Bool) (s : State) : Out :=
  let d := dwordOf loc
  if hard then .next (s.uncorrectable d)
  else .next ((s.updOrd fun o => { o with soft := o.soft.filter (· ≠ d) }).logAt 0 d)

/-- ECC_REENCODE (R173): a line of layers 0 to 2 takes the code of its quarter's current entry. -/
def execEccReencode (line : Nat) (s : State) : Out := .next (s.recode line)

end Sys2Proof.Machine
end

