-- ==== Sys2Proof/Machine/Clocks.lean ====
section
/-! DEFINITION. The events of the clock arbiter and of the joule budgets (R162, R164 to R172). -/
namespace Sys2Proof.Machine

/-- CAP_SELECT_CHANGE (R162): the balls select another cap, and the arbiter evaluates. -/
def execCapSelectChange (sel : BitVec 2) (s : State) : Out :=
  .next (State.askEvaluate { s with power := { s.power with capsel := sel } })

/-- ARBITER_EVALUATE (R164): EVALUATE, after a happening that asks for it. -/
def execArbiterEvaluate (s : State) : Out := .next (if s.power.evaluate then s.arbitrate else s)

/-- DEFERRED_EVALUATION (R165): the first tick for which an evaluation is scheduled has come, and the arbiter evaluates. -/
def execDeferredEvaluation (s : State) : Out :=
  match s.power.deferred with
  | [] => .next s
  | t :: rest => .next (if s.now < t then s else State.arbitrate { s with power := { s.power with deferred := rest } })

/-- Has a transition that began at a tick run its 2000 ticks? -/
def State.moveOver (s : State) (m : Nat × Nat) : Bool := decide (m.1 + Config.grantTransition ≤ s.now)

/-- CLOCK_TRANSITION_END (R167): transitions that have run their 2000 ticks end, and the sheds whose view changed take the steps of
R167. A gang that has stopped for a switch takes none of them: what is saved is its state at T, and its restore brings its grant (R144,
R176). -/
def execClockTransitionEnd (s : State) : Out :=
  let p := s.power
  let rows := p.rowMove.filter fun e => s.moveOver e.2
  let qtrs := p.qtrMove.filter fun e => s.moveOver e.2
  let s1 := { s with power := { p with
    rowMove := p.rowMove.filter fun e => !s.moveOver e.2
    qtrMove := p.qtrMove.filter fun e => !s.moveOver e.2 } }
  let touched (d : Nat) : Bool := (rows.any fun e => e.1 = rowKey d) || qtrs.any fun e => e.1 = qtrOfShed d
  let moving (d : Nat) : Bool := (s1.power.rowMove.any fun e => e.1 = rowKey d) || s1.power.qtrMove.any fun e => e.1 = qtrOfShed d
  let gangs := s.gangs.filter fun e => e.2.state = .resident || (e.2.state = .switching && e.2.switchAt.isSome)
  .next (gangs.foldl (fun t e => (e.2.sheds.filter fun d => touched d && !moving d).foldl (fun u d =>
    if grantView (u.shed d).clkGrant = u.grantCodes d then
      u.updShed d fun h => { h with clkGrant := h.clkGrant &&& ~~~(0x80000000 : Word) }
    else u.landGrant e.2 d) t) s1)

/-! ## Energy (R169 to R172) -/

/-- The coefficient of an activity kind at a table entry, in femtojoules per unit (R170). -/
def Power.coeff (p : Power) (kind entry : Nat) : Nat := if 32 ≤ entry then 0 else Table.getD p.coeffs (32 * kind + entry) 0

/-- What one gang's counters come to: kinds 3 to 5 are charged at the quarter entry of its rank-0 shed, the others at its rows'
entry. The model counts occupied shed ticks (kind 6) and issues; the cycles of kind 1 with a repetition alone, and the kinds that depend
on caches and on timing, are free (assumption 46). -/
def State.gangEnergy (s : State) (g : Gang) : Nat :=
  let d := g.rank0
  let row := s.rowEntryOf (rowKey d)
  let qtr := s.qtrEntryOf (qtrOfShed d)
  natSum ((List.range 7).map fun k =>
    let known := if k = 1 || k = 6 then (g.activity[k]?).getD 0 else 0
    let n := if k = 6 then known else known + Config.freeChoice (s.free + k)
    n * s.power.coeff k (if k = 3 || k = 4 || k = 5 then qtr else row))

/-- The switch of an exhausted queue's resident gangs is decided once a master is there to decide it (R154, R172). -/
def State.dueSwitch (s : State) (vfq : Nat) : State :=
  let q := s.queue vfq
  if !q.switchDue || !s.master.ready then s
  else (s.setQueue vfq { q with switchDue := false }).decideSwitches
    ((s.gangs.filter fun e => e.2.vfq = vfq && e.2.state = .resident).map (·.1)) false
/-- A queue's charge E stands at 7/8 of its budget B or above (R172). -/
def Queue.atLevel (q : Queue) : Bool := q.budget ≠ 0 && decide (7 * (q.budget * 10 ^ 9) ≤ 8 * q.charge)
/-- A queue's levels after a charge (R172): at 7/8 of B the warning, at B the exhaustion and the switch of its resident gangs. The
switch is decided once, for the gangs that are resident then: one that is released later stays until another switch (DESIGN CHOICE,
assumption 108). -/
def State.levels (s : State) (vfq : Nat) : State :=
  let q := s.queue vfq
  let b := q.budget * 10 ^ 9
  let s1 := if !q.warned && q.atLevel then
      ((s.setQueue vfq { q with warned := true }).warnQueue vfq true).askEvaluate else s
  let q1 := s1.queue vfq
  if q.budget ≠ 0 && !q1.exhausted && decide (b ≤ q1.charge) then
    (s1.setQueue vfq { q1 with exhausted := true, switchDue := true }).dueSwitch vfq
  else s1

/-- The counters of the gangs on sheds are charged to their queues and cleared. What a gang has counted since the last charge when it leaves its
sheds is dropped where it completes, fails or is launched again, and is charged after its restore where it is saved: the spec does not say
(DESIGN CHOICE, assumption 126). -/
def State.chargeEnergy (s : State) : State :=
  let gangs := s.gangs.filter fun e => e.2.state = .resident || e.2.state = .switching || e.2.state = .restoring
  gangs.foldl (fun (t : State) e =>
    let g := e.2
    let n := t.gangEnergy g
    let t1 := { t with free := t.free + 7 }.updGang e.1 fun v => { v with activity := Vector.replicate 7 0 }
    (t1.updQueue g.vfq fun q => { q with charge := q.charge + n }).levels g.vfq) s
/-- ENERGY_CHARGE (R170): the charge at a multiple of 1000 ticks. Time that comes to one makes it too. -/
def execEnergyCharge (s : State) : Out := .next (if s.now % 1000 ≠ 0 then s else s.chargeEnergy)

/-- PERIOD_REFILL (R169, R172): a queue's period begins at a multiple of P. Time that passes over a multiple of P begins it too. -/
def execPeriodRefill (vfq : Nat) (s : State) : Out :=
  let q := s.queue vfq
  .next (if q.period = 0 || s.now % q.period ≠ 0 then s else s.refill vfq)

end Sys2Proof.Machine
end

