-- ==== Sys2Proof/Machine/Loader.lean ====
section
/-! DEFINITION. MBZ objects and the loader (R69 to R84, R90, R155). The fields that a launch record shares with the launch image
name symbols where the image holds offsets and addresses (assumption 60). -/
namespace Sys2Proof.Machine

/-! ## Bytes of an object (R80) -/

/-- The little-endian number of n bytes at an offset. -/
def leAt (b : List Byte) (off n : Nat) : Nat := ((b.drop off).take n).foldr (fun x m => x.toNat + 256 * m) 0
def zeroAt (b : List Byte) (off n : Nat) : Bool := ((b.drop off).take n).all (· = 0)
/-- Is an offset that of a zero-ended name of the string table? -/
def nameOk (b : List Byte) (strs len off : Nat) : Bool := ((b.drop (strs + off)).take (len - off)).contains 0
/-- A zero-ended name of the string table. -/
def nameAt (b : List Byte) (strs len off : Nat) : List Byte := ((b.drop (strs + off)).take (len - off)).takeWhile (· ≠ 0)
/-- Replaces n bytes of a list. -/
def patch (b : List Byte) (off n v : Nat) : List Byte :=
  b.take off ++ (List.range n).map (fun i => BitVec.ofNat 8 (v / 256 ^ i)) ++ b.drop (off + n)

/-- A section record (R81). -/
structure Sect where
  kind : Nat
  foff : Nat
  fsize : Nat
  msize : Nat
  addr : Nat
deriving DecidableEq, Repr

/-- A symbol record (R81). -/
structure Sym where
  name : List Byte
  sect : Nat
  kind : Nat
  value : Nat
deriving DecidableEq, Repr

/-- A relocation record (R81, R82). -/
structure Reloc where
  sect : Nat
  kind : Nat
  sym : Nat
  offset : Nat
  addend : Nat
deriving DecidableEq, Repr

/-- An emulation record (R81, R78). -/
structure Emul where
  bit : Nat
  own : Bool
  obj : List Byte
  entry : List Byte
  imports : Option (List Byte)
deriving DecidableEq, Repr

/-- A parsed object. -/
structure Mbz where
  reqmask : List Byte
  name : List Byte
  sects : List Sect
  syms : List Sym
  relocs : List Reloc
  emuls : List Emul
  /-- Offset of each launch record. -/
  launches : List Nat
deriving DecidableEq, Repr

/-- Records of one size that an offset and count pair of the header names, by their offsets. -/
def records (b : List Byte) (field size : Nat) : Except Nat (List Nat) :=
  let off := leAt b field 4
  let n := leAt b (field + 4) 4
  if b.length < off + n * size then .error 2 else .ok ((List.range n).map fun i => off + i * size)

/-- Bytes of a launch record with its lists (R155). -/
def launchSize (b : List Byte) (off : Nat) : Nat := 64 + 8 * (leAt b (off + 21) 1 + leAt b (off + 22) 1 + leAt b (off + 23) 1)
/-- Offsets of n launch records, one after another. -/
def launchOffsets (b : List Byte) (off : Nat) : Nat → Except Nat (List Nat)
  | 0 => if b.length < off then .error 2 else .ok []
  | n + 1 =>
    if b.length < off + 64 || b.length < off + launchSize b off then .error 2
    else (launchOffsets b (off + launchSize b off) n).map (off :: ·)

/-- Tables of a yard section by offset, descriptor first (R90); none where a descriptor is malformed. The fuel is the number of
words. -/
def yardTables (b : List Byte) (off last : Nat) : Nat → Option (List (Nat × Word))
  | 0 => some []
  | n + 1 =>
    if last ≤ off then some []
    else
      let d := BitVec.ofNat 64 (leAt b off 8)
      let count := (d.extractLsb' 16 7).toNat
      if d.extractLsb' 23 41 ≠ (0 : BitVec 41) || d.extractLsb' 9 7 ≠ (0 : BitVec 7) || 64 < count ||
          last < off + 16 + 24 * count then none
      else (yardTables b (off + 16 + 24 * count) last n).map ((off, d) :: ·)

/-- Step 1 of R83: the header and the records. A section whose FSIZE exceeds its MSIZE is refused with status 2: the spec states no
relation between the two (DESIGN CHOICE, assumption 84). So is a relocation of a listed kind whose patched bytes pass its section's FSIZE:
the spec does not bound OFFSET by FSIZE (DESIGN CHOICE, assumption 122). A kind that R82 does not list patches nothing that could be
bounded; it is left to status 6. -/
def parseMbz (b : List Byte) : Except Nat Mbz := do
  if leAt b 0 4 ≠ 0x005A424D || b.length < 4 then .error 1
  if b.length < 160 || leAt b 4 4 ≠ 160 || !zeroAt b 132 28 then .error 2
  let strs := leAt b 124 4
  let slen := leAt b 128 4
  if b.length < strs + slen then .error 2
  let name (off : Nat) : List Byte := nameAt b strs slen off
  let inside (off : Nat) : Bool := nameOk b strs slen off
  let ss ← records b 76 32
  let ys ← records b 84 16
  let rs ← records b 92 24
  let es ← records b 100 16
  let ps ← records b 116 32
  let ls ← launchOffsets b (leAt b 108 4) (leAt b 112 4)
  let sects := ss.map fun o => ({ kind := leAt b o 2, foff := leAt b (o + 8) 4, fsize := leAt b (o + 12) 4,
                                  msize := leAt b (o + 16) 4, addr := leAt b (o + 24) 8 } : Sect)
  let syms := ys.map fun o => ({ name := name (leAt b o 4), sect := leAt b (o + 4) 2, kind := leAt b (o + 6) 2,
                                 value := leAt b (o + 8) 8 } : Sym)
  let relocs := rs.map fun o => ({ sect := leAt b o 2, kind := leAt b (o + 2) 2, sym := leAt b (o + 4) 4,
                                   offset := leAt b (o + 8) 8, addend := leAt b (o + 16) 8 } : Reloc)
  let emuls := es.map fun o => ({ bit := leAt b o 2, own := leAt b (o + 2) 2 = 1, obj := name (leAt b (o + 4) 4),
                                  entry := name (leAt b (o + 8) 4),
                                  imports := if leAt b (o + 12) 4 = 0 then none else some (name (leAt b (o + 12) 4)) } : Emul)
  let sectOk (o : Nat) (x : Sect) : Bool := 1 ≤ x.kind && decide (x.kind ≤ 4) && zeroAt b (o + 2) 2 && inside (leAt b (o + 4) 4) &&
    decide (x.fsize ≤ x.msize) && decide (x.foff + x.fsize ≤ b.length) &&
    (x.kind ≠ 4 || (yardTables b x.foff (x.foff + x.fsize) x.fsize).isSome)
  let symOk (o : Nat) (y : Sym) : Bool := decide (y.kind ≤ 3) && (y.kind = 3 || decide (y.sect < sects.length)) && inside (leAt b o 4)
  let relOk (r : Reloc) : Bool := decide (r.sym < syms.length) && match sects[r.sect]? with
    | some x => r.kind = 0 || decide (7 < r.kind) ||
        decide (r.offset + (if r.kind = 2 || r.kind = 3 || r.kind = 6 || r.kind = 7 then 4 else 8) ≤ x.fsize)
    | none => false
  let emuOk (o : Nat) : Bool := decide (leAt b o 2 < 512) && decide (leAt b (o + 2) 2 ≤ 1) && inside (leAt b (o + 4) 4) &&
    inside (leAt b (o + 8) 4) && (leAt b (o + 12) 4 = 0 || inside (leAt b (o + 12) 4))
  let pageOk (o : Nat) : Bool := leAt b (o + 20) 1 / 4 % 4 ≠ 3 && decide (leAt b (o + 20) 1 < 32) && zeroAt b (o + 21) 3
  if !((ss.zip sects).all fun e => sectOk e.1 e.2) || !((ys.zip syms).all fun e => symOk e.1 e.2) || !relocs.all relOk ||
      !es.all emuOk || !ps.all pageOk || !inside (leAt b 72 4) then .error 2
  pure { reqmask := (b.drop 8).take 64, name := name (leAt b 72 4), sects := sects, syms := syms, relocs := relocs,
         emuls := emuls, launches := ls }

/-! ## The required mask and the bindings (R75 to R78) -/

def Mbz.requires (o : Mbz) (n : Nat) : Bool := ((o.reqmask[n / 8]?).getD 0).getLsbD (n % 8)
def State.featureBit (s : State) (n : Nat) : Bool := decide (n < 8) && s.hasFeature n
/-- Binding records and the records that make the object an emulation object. -/
def Mbz.bindings (o : Mbz) : List Emul := o.emuls.filter fun e => !e.own

/-- The function's loaded emulation object that an object's bindings name, where it covers every bound bit; of several objects of that name,
the one with the lowest number (DESIGN CHOICE, assumption 113). -/
def State.emulatorOf (s : State) (vf : Nat) (o : Mbz) : Option Obj :=
  match o.bindings.head? with
  | none => none
  | some e => ((s.vf vf).objs.find? fun x => !x.2.pending && x.2.name = e.obj &&
      o.bindings.all fun b => b.obj = e.obj && x.2.covers.contains b.bit).map (·.2)

/-- The lowest required bit that is absent and unbound, which status 3 names (R77). -/
def State.unmet (s : State) (o : Mbz) : Option Nat :=
  (List.range 512).find? fun n => o.requires n && !s.featureBit n && !(o.bindings.any (·.bit = n))

/-- Step 2 of R83. -/
def State.checkFeatures (s : State) (vf : Nat) (o : Mbz) : Except Nat Unit :=
  if !o.requires 0 then .error 7
  else if (s.unmet o).isSome then .error 3
  else if !o.bindings.isEmpty && (s.emulatorOf vf o).isNone then .error 8
  else .ok ()

/-! ## The region (R83 step 3) -/

/-- Sections that lie in the region. ADDR is an offset from the object's code base for code (R81); a yard section's ADDR, of which the spec
says nothing, is taken as one too (DESIGN CHOICE, assumption 120). -/
def Mbz.inRegion (o : Mbz) : List Sect := o.sects.filter fun x => x.kind = 1 || x.kind = 4
def Mbz.size (o : Mbz) : Nat := (o.inRegion.foldl (fun m x => max m (x.addr + x.msize)) 0 + 7) / 8 * 8

/-- Is a range free of every region in use? -/
def freeRegion (objs : Table Obj) (base size : Nat) : Bool :=
  objs.all fun e => e.2.pending || decide (base + size ≤ e.2.base) || decide (e.2.base + e.2.size ≤ base)

/-- The loader's choice of a region: any free one (assumption 46), or the first free one where the choice falls on none. -/
def State.chooseRegion (s : State) (vf : Nat) (c : VfCfg) (size : Nat) : Option Nat :=
  let objs := (s.vf vf).objs
  let fits (base : Nat) : Bool := decide (c.abase ≤ base) && decide (base + size ≤ c.abase + c.asize) && freeRegion objs base size
  let pick := c.abase + Config.freeChoice s.free % (c.asize / 8 + 1) * 8
  if fits pick then some pick
  else (c.abase :: (objs.filter fun e => !e.2.pending).map fun e => e.2.base + e.2.size).find? fits

/-! ## Relocation (R82) -/

/-- Address of a symbol: in the region for code and yard sections, its link address for data. -/
def Mbz.address (o : Mbz) (base n : Nat) : Nat :=
  match o.syms[n]? with
  | none => 0
  | some y =>
    if y.kind = 3 then y.value
    else match o.sects[y.sect]? with
      | none => y.value
      | some x => (if x.kind = 1 || x.kind = 4 then base else 0) + x.addr + y.value

/-- Address of a block by its name. -/
def Mbz.named (o : Mbz) (base : Nat) (name : List Byte) : Option Nat :=
  (o.syms.findIdx? fun y => y.kind = 1 && y.name = name).map (o.address base)

/-- Resolves one relocation at an offset of some bytes, `base` being the region's and `abase` the arena's address. -/
def Mbz.relocate (o : Mbz) (base abase at_ : Nat) (bytes : List Byte) (r : Reloc) : Except Nat (List Byte) :=
  let v := (o.address base r.sym + r.addend) % 2 ^ 64
  match r.kind with
  | 1 => .ok (patch bytes at_ 8 v)
  | 2 => .ok (patch bytes at_ 4 (v % 2 ^ 32))
  | 3 => .ok (patch bytes at_ 4 (v / 2 ^ 32))
  | 4 =>
    let t := (v - abase) / 8
    if 2 ^ 24 ≤ t || v < abase then .error 6 else .ok (patch bytes (at_ + 4) 3 t)
  | 5 | 6 | 7 => .ok bytes
  | _ => .error 6

/-- The region's bytes before relocation: each code and yard section stands at its ADDR from the region's base (for a yard section DESIGN
CHOICE, assumption 120). -/
def Mbz.regionBytes (o : Mbz) (b : List Byte) : List Byte :=
  o.inRegion.foldl (fun m x => m.take x.addr ++ (b.drop x.foff).take x.fsize ++ m.drop (x.addr + x.fsize))
    (List.replicate o.size 0)

/-- Relocations of the sections of the region. -/
def Mbz.relocateAll (o : Mbz) (base abase : Nat) (bytes : List Byte) : Except Nat (List Byte) :=
  o.relocs.foldlM (fun m r => match o.sects[r.sect]? with
    | some x => if x.kind = 1 || x.kind = 4 then o.relocate base abase (x.addr + r.offset) m r
                else if 7 < r.kind || r.kind = 0 then .error 6 else .ok m
    | none => .error 2) bytes

/-- A data section's bytes, relocated and filled to its size. A zero section whose FSIZE is not 0 is treated alike: its file bytes are written
first, since the spec does not say what they mean (DESIGN CHOICE, assumption 121). -/
def Mbz.dataBytes (o : Mbz) (b : List Byte) (base abase n : Nat) (x : Sect) : Except Nat (List Byte) :=
  (o.relocs.filter (·.sect = n)).foldlM (fun m r => o.relocate base abase r.offset m r)
    ((b.drop x.foff).take x.fsize ++ List.replicate (x.msize - x.fsize) 0)

/-! ## Launch records (R76, R81, R155) -/

/-- Set bits of REGMASK. -/
def maskRegs (m : Nat) : List Nat := (List.range 32).filter fun i => m / 2 ^ i % 2 = 1

/-- A launch record with its symbols resolved; none where it breaks R155. `params=` is a data name with an addend (R76): the spec does
not say where the addend stands, and the model reads the symbol's index at offset 24 and an unsigned 32-bit addend at offset 28
(DESIGN CHOICE, assumption 99). -/
def Mbz.image (o : Mbz) (b : List Byte) (base abase off : Nat) : Option Image :=
  let at_ (f n : Nat) : Nat := leAt b (off + f) n
  let offset (sym : Nat) : Nat := (o.address base sym - abase) / 8
  let first (f : Nat) : BitVec 32 := if at_ f 4 = 0xFFFFFFFF then 0xFFFFFFFF else BitVec.ofNat 32 (offset (at_ f 4))
  let ny := at_ 21 1
  let nr := at_ 22 1
  let np := at_ 23 1
  let regs := maskRegs (at_ 56 4)
  let note : BitVec 32 := BitVec.ofNat 32 (at_ 32 4)
  let req : BitVec 32 := BitVec.ofNat 32 (at_ 36 4)
  if at_ 0 2 ≠ 1 || at_ 2 2 ≠ 0 || at_ 4 2 = 0 || 16 < at_ 4 2 || at_ 6 2 = 0 || 16 < at_ 6 2 || nr ≠ regs.length ||
      note.extractLsb' 21 10 ≠ (0 : BitVec 10) || note.extractLsb' 0 3 ≠ (0 : BitVec 3) || !reqOk req || at_ 56 4 % 16 ≠ 0 ||
      at_ 60 4 ≠ 0 then none
  else some {
    gw := at_ 4 2, gh := at_ 6 2, firstT := first 8, firstC := first 12, firstA := first 16,
    trapyard := BitVec.ofNat 8 (at_ 20 1),
    yards := (List.range ny).map fun i => BitVec.ofNat 64 (offset (at_ (64 + 8 * i) 8)),
    regs := (List.range nr).map fun i => (regs.getD i 0, BitVec.ofNat 64 (at_ (64 + 8 * ny + 8 * i) 8)),
    prefetch := (List.range np).map fun i =>
      let w := at_ (64 + 8 * ny + 8 * nr + 8 * i) 8
      BitVec.ofNat 64 (offset (w % 2 ^ 40) + w / 2 ^ 40 * 2 ^ 40),
    params := if at_ 24 4 = 0xFFFFFFFF then 0 else BitVec.ofNat 64 (o.address base (at_ 24 4) + at_ 28 4),
    note := note, clkreq := req, cbase := BitVec.ofNat 64 (base / 8), cbound := BitVec.ofNat 64 ((base + o.size) / 8) }

/-- Do a launch record's symbol indices name symbols? -/
def Mbz.imageSyms (o : Mbz) (b : List Byte) (off : Nat) : Bool :=
  let has (f n : Nat) : Bool := decide (leAt b (off + f) n < o.syms.length)
  let ny := leAt b (off + 21) 1
  let nr := leAt b (off + 22) 1
  ([8, 12, 16, 24].all fun f => leAt b (off + f) 4 = 0xFFFFFFFF || has f 4) &&
  ((List.range ny).all fun i => has (64 + 8 * i) 8) &&
  (List.range (leAt b (off + 23) 1)).all fun i => has (64 + 8 * ny + 8 * nr + 8 * i) 5

/-! ## Entry 0 of the trap tables (R79) -/

/-- Writes the binding, or vacancy, into entry 0 of every trap table that a launch record names, be the record one that breaks R155.
A table marked trap whose COUNT is 0 has no entry 0 in the object and gets none: the spec does not say how the loader would write it
(DESIGN CHOICE, assumption 87). -/
def Mbz.bindTraps (o : Mbz) (b : List Byte) (action : Nat) (bytes : List Byte) : List Byte :=
  (o.inRegion.filter (·.kind = 4)).foldl (fun m x =>
    ((yardTables b x.foff (x.foff + x.fsize) x.fsize).getD []).foldl (fun m t =>
      let d := t.2
      let named := o.launches.any fun l => (BitVec.ofNat 8 (leAt b (l + 20) 1) : BitVec 8) = d.extractLsb' 0 8
      let at_ := x.addr + (t.1 - x.foff)
      if !named || !d.getLsbD 8 || d.extractLsb' 16 7 = (0 : BitVec 7) then m
      else patch (patch (patch m (at_ + 16) 8 (if action = 0 then 0 else 2)) (at_ + 24) 8 (if action = 0 then 0 else 0xFFFF))
        (at_ + 32) 8 action) m) bytes

/-! ## Writes that stand everywhere before a status is reported (R83, R137) -/

/-- Writes bytes of a doubleword at its home quarter, where its line's partials are merged first (R279), and makes the write visible at every
quarter; a durable write reaches both copies that are in service. -/
def State.writeEverywhere (s0 : State) (loc : Nat) (mask : BitVec 8) (val : Word) (bad : Bool) : State :=
  let s := s0.mergeLine (lineOf loc)
  let id := s.next
  let s1 := s.tickNext.perform noWriter id (home loc) loc mask val none none false false bad
  let s2 := (List.range s.nq).foldl (fun t q => if q = home loc then t
    else t.setMemQ q (Memory.setDword (t.memQ q) loc mask val)) s1
  match s2.writeAt id with
  | none => s2
  | some w =>
    let s3 := s2.setWrite id { w with vis := 0xF, durP := true, durM := true }
    if !isDurable loc then s3
    else s3.updOrd fun o =>
      let o1 := if s.copyWorks loc false then
        { o with prim := Memory.setDword o.prim loc mask val, badPrim := markCopy o.badPrim w mask } else o
      if s.copyWorks loc true then
        { o1 with mirr := Memory.setDword o.mirr loc mask val, badMirr := markCopy o.badMirr w mask } else o1
/-- The same for a write that is not poisoned. -/
def State.writeAll (s : State) (loc : Nat) (mask : BitVec 8) (val : Word) : State := s.writeEverywhere loc mask val false

/-- Writes bytes at rising physical addresses. -/
def State.writeBytes (s : State) (a : Nat) : List Byte → State
  | [] => s
  | b :: bs =>
    let i := a % 8
    State.writeBytes (s.writeAll (dwordOf a) (BitVec.ofNat 8 (2 ^ i)) (b.zeroExtend 64 <<< (8 * i))) (a + 1) bs

/-- The same under a key slot (R339). -/
def State.writeKeyed (s : State) (slot a : Nat) (l : List Byte) : State :=
  let t := ((List.range (l.length + a % 64)).filter fun i => i % 64 = 0).foldl (fun t i => t.encrypt slot (a / 64 * 64 + i)) s
  t.writeBytes a l

/-- The outcome of a load whose walk cannot end yet (R295, R296, R334); it is no status of R84. -/
def loadWaits : Nat := 255
/-- Physical address and key slot of a byte through the function's own page tables, as the loader finds it (R83 step 5): a page need only be
mapped, whatever its R and W (R73). The tables are read in the view of the master front end's quarter: the spec does not say whose view it is
(DESIGN CHOICE, assumption 86). Nor does it say which root `the function's page tables` has: the model takes UROOT (DESIGN CHOICE, assumption
111). Status 9 answers every walk that fails, also one for a malformed entry, the grant, the key or DUR (reasons 3 to 6 of R337): R83 and R84
speak only of a page that is not mapped (DESIGN CHOICE, assumption 123). -/
def State.loaderAddr (s : State) (c : VfCfg) (va : Nat) : Except Nat (Nat × Nat) :=
  if 2 ^ 48 ≤ va then .error 9
  else match s.walkFrom s.master.front c va none 4 0 (c.uroot.getD 0) with
    | .ok (w0, _, level) => .ok (ptePage w0 + va % pageSize level, pteKey w0)
    | .error r => .error (if r = walkWaits then loadWaits else 9)

/-- Writes a data section's bytes, or answers why not: status 9 where a page is not mapped. -/
def State.writeVirtual (s : State) (c : VfCfg) (va : Nat) : List Byte → Except Nat State
  | [] => .ok s
  | b :: bs => match s.loaderAddr c va with
    | .error st => .error st
    | .ok (a, slot) => State.writeVirtual (s.writeKeyed slot a [b]) c (va + 1) bs

/-! ## The loader (R83) -/

/-- The sections that step 5 writes, with their numbers: data sections, and zero sections with them, whose pages must then be mapped too; the
rule names only the former (DESIGN CHOICE, assumption 112). -/
def Mbz.dataSects (o : Mbz) : List (Nat × Sect) :=
  ((List.range o.sects.length).zip o.sects).filter fun e => e.2.kind = 2 || e.2.kind = 3

/-- A region is in use again: of the gangs that remember it as freed by force, those keep that which still have code from before there (R344). -/
def State.reuseRegion (s : State) (vf lo hi : Nat) : State :=
  { s with gangs := Table.mapVals (fun _ g => if vfOf g.vfq ≠ vf then g
      else { g with freed := g.freed.filter fun r => decide (hi ≤ r.1) || decide (r.2 ≤ lo) || s.hasCode g r.1 r.2 }) s.gangs }

/-- LOAD of an object's bytes under a number: the state with the object loaded, or the load status of the first refusal, which
leaves everything as it was (R83, R84); or `loadWaits`. Where the spec is silent on a binding, the model chooses (DESIGN CHOICE, assumption 85): an
emulation object's `entry=` that names no block of the object stands for its region's first byte, and the `entry=` and `import=` names
of a binding are not compared with the emulation object's own. Where the emulation object's own records give different names, its first
record's hold for every binding (DESIGN CHOICE, assumption 131). -/
def State.loadObject (s : State) (vf obj : Nat) (b : List Byte) : Except Nat State := do
  let o ← parseMbz b
  if !(o.launches.all fun l => o.imageSyms b l) then .error 2
  s.checkFeatures vf o
  let c ← (match (s.vf vf).cfg with
    | some c => .ok c
    | none => .error 5)
  let base ← (match s.chooseRegion vf c o.size with
    | some a => .ok a
    | none => .error 5)
  let bytes ← o.relocateAll base c.abase (o.regionBytes b)
  let data ← o.dataSects.mapM fun e => (o.dataBytes b base c.abase e.1 e.2).map fun d => (e.2.addr, d)
  let s1 ← data.foldlM (fun (t : State) e => t.writeVirtual c e.1 e.2) s
  let images := o.launches.map fun l => o.image b base c.abase l
  let emu := s.emulatorOf vf o
  let absent := o.bindings.any fun e => !s.featureBit e.bit
  let action := match emu with
    | some x => if absent then 2 ^ 60 + (x.entry - c.abase) / 8 * 2 ^ 32 else 0
    | none => 0
  let s2 := s1.writeKeyed c.arenaKey base (o.bindTraps b action bytes)
  -- `icinv` over the region at package scope.
  let s3 := { s2 with cores := Table.mapVals (fun _ (k : Core) =>
    { k with icache := k.icache.filter fun e => e.1 < base || base + o.size ≤ e.1 }) s2.cores, free := s2.free + 1 }
  let own := o.emuls.filter (·.own)
  let rec0 := own.head?
  let new : Obj := {
    name := o.name, base := base, size := o.size, records := images, reqmask := BitVec.ofNat 64 (leAt o.reqmask 0 8),
    binds := o.bindings.map fun e => (e.bit, if e.imports.isSome then emu.bind (·.imports) else none),
    covers := own.map (·.bit), entry := (rec0.bind fun e => o.named base e.entry).getD base,
    imports := rec0.bind fun e => e.imports.bind (o.named base), pending := false
    loadId := ((s.vf vf).objs.get? obj).elim 0 (·.loadId) }
  pure ((s3.reuseRegion vf base (base + o.size)).updVf vf fun v => { v with objs := Table.put v.objs obj new })

end Sys2Proof.Machine
end

