-- ==== Sys2Proof/Machine/Regs.lean ====
section
/-! DEFINITION. The registers that each instruction reads and writes, for the stalls of R106 and R231. A register is
numbered: x r as r, v r as 32 + r, k r as 64 + r, c r as 72 + r; x0 and k0 are constant and have no number. -/
namespace Sys2Proof.Machine

def regX (r : BitVec 5) : List Nat := if r = 0 then [] else [r.toNat]
def regV (r : BitVec 5) : List Nat := [32 + r.toNat]
def regK (r : BitVec 3) : List Nat := if r = 0 then [] else [64 + r.toNat]
def regC (r : BitVec 5) : List Nat := [72 + r.toNat % 4]

/-- Registers that the instruction reads. -/
def regReads : Instr → List Nat
  | .yardWe f => regX f.d ++ regX f.a ++ regX f.b ++ regX f.c
  | .yardWf f => regX f.d ++ regX f.a
  | .yardCmt f => regX f.a
  | .yardRd f => regX f.a
  | .yardPin f => regX f.a
  | .yardUnpin f => regX f.a
  | .yardGen f => regX f.a
  | .halt _ => []
  | .yield _ => []
  | .start f => regX f.a ++ regX f.b ++ regX f.c
  | .startTry f => regX f.a ++ regX f.b ++ regX f.c
  | .stop f => regX f.a
  | .hlive _ => []
  | .sendr f => regX f.a ++ (if f.preg = 1 then regX f.b else [])
  | .sendrV f => regV f.a ++ (if f.preg = 1 then regX f.b else [])
  | .mtake _ => []
  | .mpeek _ => []
  | .mclr _ => []
  | .clkRd f => regX f.a
  | .clkReq f => regX f.a
  | .clkAck f => regX f.a
  | .pwrRd f => regX f.a
  | .srd _ => []
  | .swr f => regX f.a
  | .eret _ => []
  | .eccInj f => regX f.a ++ regX f.b
  | .trap _ => []
  | .icinv f => regX f.a ++ regX f.b
  | .tlbinv f => regX f.a ++ regX f.b
  | .add f => regX f.a ++ regX f.b
  | .sub f => regX f.a ++ regX f.b
  | .mul f => regX f.a ++ regX f.b
  | .mulh f => regX f.a ++ regX f.b
  | .div f => regX f.a ++ regX f.b
  | .rem f => regX f.a ++ regX f.b
  | .and f => regX f.a ++ regX f.b
  | .or f => regX f.a ++ regX f.b
  | .xor f => regX f.a ++ regX f.b
  | .andn f => regX f.a ++ regX f.b
  | .shl f => regX f.a ++ regX f.b
  | .shr f => regX f.a ++ regX f.b
  | .sra f => regX f.a ++ regX f.b
  | .rol f => regX f.a ++ regX f.b
  | .min f => regX f.a ++ regX f.b
  | .max f => regX f.a ++ regX f.b
  | .abs f => regX f.a
  | .neg f => regX f.a
  | .clz f => regX f.a
  | .ctz f => regX f.a
  | .popc f => regX f.a
  | .bfx f => regX f.a ++ regX f.b
  | .bfi f => regX f.a ++ regX f.b ++ regX f.c
  | .lea f => regX f.a ++ regX f.b ++ regX f.c
  | .mov f => regX f.a
  | .cmp f => regX f.a ++ regX f.b
  | .csel f => regX f.a ++ regX f.b ++ regC f.c
  | .setc f => regC f.c
  | .decz f => regX f.a
  | .addi f => regX f.a
  | .andi f => regX f.a
  | .ori f => regX f.a
  | .xori f => regX f.a
  | .li _ => []
  | .lih f => regX f.a
  | .cmpi f => regX f.a
  | .shli f => regX f.a
  | .shri f => regX f.a
  | .srai f => regX f.a
  | .fadd f => regX f.a ++ regX f.b
  | .fsub f => regX f.a ++ regX f.b
  | .fmul f => regX f.a ++ regX f.b
  | .fdiv f => regX f.a ++ regX f.b
  | .fsqrt f => regX f.a
  | .fma f => regX f.a ++ regX f.b ++ regX f.c
  | .fmin f => regX f.a ++ regX f.b
  | .fmax f => regX f.a ++ regX f.b
  | .fabs f => regX f.a
  | .fneg f => regX f.a
  | .fcmp f => regX f.a ++ regX f.b
  | .fclass f => regX f.a
  | .fcvt f => regX f.a
  | .ftoi f => regX f.a
  | .itof f => regX f.a
  | .vadd f => regV f.a ++ regV f.b ++ regV f.d ++ regK f.k
  | .vsub f => regV f.a ++ regV f.b ++ regV f.d ++ regK f.k
  | .vmul f => regV f.a ++ regV f.b ++ regV f.d ++ regK f.k
  | .vmulh f => regV f.a ++ regV f.b ++ regV f.d ++ regK f.k
  | .vfma f => regV f.a ++ regV f.b ++ regV f.c ++ regV f.d ++ regK f.k
  | .vmin f => regV f.a ++ regV f.b ++ regV f.d ++ regK f.k
  | .vmax f => regV f.a ++ regV f.b ++ regV f.d ++ regK f.k
  | .vabs f => regV f.a ++ regV f.d ++ regK f.k
  | .vneg f => regV f.a ++ regV f.d ++ regK f.k
  | .vand f => regV f.a ++ regV f.b ++ regV f.d ++ regK f.k
  | .vor f => regV f.a ++ regV f.b ++ regV f.d ++ regK f.k
  | .vxor f => regV f.a ++ regV f.b ++ regV f.d ++ regK f.k
  | .vandn f => regV f.a ++ regV f.b ++ regV f.d ++ regK f.k
  | .vshl f => regV f.a ++ regV f.b ++ regV f.d ++ regK f.k
  | .vshr f => regV f.a ++ regV f.b ++ regV f.d ++ regK f.k
  | .vsra f => regV f.a ++ regV f.b ++ regV f.d ++ regK f.k
  | .vcmp f => regV f.a ++ regV f.b ++ regK (low3 f.d) ++ regK f.k
  | .vsel f => regV f.a ++ regV f.b ++ regK (low3 f.c) ++ regV f.d ++ regK f.k
  | .vcvt f => regV f.a ++ regV f.d ++ regK f.k
  | .vdiv f => regV f.a ++ regV f.b ++ regV f.d ++ regK f.k
  | .vsqrt f => regV f.a ++ regV f.d ++ regK f.k
  | .vperm f => regV f.a ++ regV f.b ++ regV f.c ++ regV f.d ++ regK f.k
  | .vlut16 f => regV f.a ++ regV f.b ++ (if typeWidth f.ty.toNat = 16 then regV f.c else []) ++ regV f.d ++ regK f.k
  | .vbcast f => regX f.a ++ regV f.d ++ regK f.k
  | .vins f => regX f.a ++ regX f.b ++ regV f.d ++ regK f.k
  | .vext f => regV f.a ++ regX f.b
  | .vzip f => regV f.a ++ regV f.b ++ regV f.d ++ regK f.k
  | .vunzip f => regV f.a ++ regV f.b ++ regV f.d ++ regK f.k
  | .vdot4 f => regV f.a ++ regV f.b ++ regV f.c ++ regV f.d ++ regK f.k
  | .vdot2 f => regV f.a ++ regV f.b ++ regV f.c ++ regV f.d ++ regK f.k
  | .vredAdd f => regV f.a ++ regX f.c ++ regX f.d ++ regK f.k
  | .vredMax f => regV f.a ++ regX f.c ++ regX f.d ++ regK f.k
  | .vredMin f => regV f.a ++ regX f.c ++ regX f.d ++ regK f.k
  | .kand f => regK (low3 f.a) ++ regK (low3 f.b)
  | .kor f => regK (low3 f.a) ++ regK (low3 f.b)
  | .kxor f => regK (low3 f.a) ++ regK (low3 f.b)
  | .knot f => regK (low3 f.a)
  | .kmov f => regK (low3 f.a)
  | .kpop f => regK (low3 f.a)
  | .kset f => regX f.a
  | .krd f => regK (low3 f.a)
  | .seqBeg _ => []
  | .seqLoop f => regX f.a ++ regX f.b
  | .seqEnd _ => []
  | .seqWait _ => []
  | .ld f => regX f.a
  | .ldu f => regX f.a
  | .ldAcq f => regX f.a
  | .vld f => regX f.a ++ regV f.d ++ regK f.k
  | .vldRaw f => regX f.a ++ regV f.d ++ regK f.k
  | .st f => regX f.a ++ regX f.b
  | .stRel f => regX f.a ++ regX f.b
  | .vst f => regX f.a ++ regV f.b ++ regK f.k
  | .ldF f => regX f.a
  | .ldFe f => regX f.a
  | .stEf f => regX f.a ++ regX f.b
  | .stF f => regX f.a ++ regX f.b
  | .tagSet f => regX f.a
  | .tagClr f => regX f.a
  | .pref f => regX f.a
  | .flush f => regX f.a
  | .inv f => regX f.a
  | .amoAdd f => regX f.a ++ regX f.b
  | .amoAnd f => regX f.a ++ regX f.b
  | .amoOr f => regX f.a ++ regX f.b
  | .amoXor f => regX f.a ++ regX f.b
  | .amoMin f => regX f.a ++ regX f.b
  | .amoMax f => regX f.a ++ regX f.b
  | .amoMinu f => regX f.a ++ regX f.b
  | .amoMaxu f => regX f.a ++ regX f.b
  | .amoSwap f => regX f.a ++ regX f.b
  | .amoCas f => regX f.a ++ regX f.b ++ regX f.c
  | .redAdd f => regX f.a ++ regX f.b
  | .redAnd f => regX f.a ++ regX f.b
  | .redOr f => regX f.a ++ regX f.b
  | .redXor f => regX f.a ++ regX f.b
  | .redMin f => regX f.a ++ regX f.b
  | .redMax f => regX f.a ++ regX f.b
  | .redMinu f => regX f.a ++ regX f.b
  | .redMaxu f => regX f.a ++ regX f.b
  | .fence _ => []
  | .fenceAcq _ => []
  | .fenceRel _ => []
  | .wait _ => []
  | .waita f => regX f.a ++ regX f.b
  | .semP _ => []
  | .semV f => regX f.b
  | .semRd _ => []
  | .bar _ => []
  | .copy f => regX f.a
  | .copy2 f => regX f.a
  | .get f => regX f.a
  | .put f => regX f.a
  | .puta f => regX f.a
  | .wsig f => regX f.a
  | .digest f => regX f.a
  | .ccntRd _ => []
  | .ccntWait f => regX f.b
  | .collStart f => regX f.a
  | .collWait f => regX f.a
  | .buoy f => regX f.a ++ regX f.b
  | .buoySeal f => regX f.a ++ regX f.b
  | .lhSt f => regX f.a
  | .tzero _ => []
  | .tmma f => regX f.d ++ regX f.a ++ regX f.b ++ regX f.c
  | .gmma f => regX f.d ++ regX f.a ++ regX f.b ++ regX f.c
  | .tdrain f => regX f.a ++ regX f.c
  | .tdrainColl f => regX f.a ++ regX f.b ++ regX f.c
  | .zset f => regX f.a
  | .zclr _ => []
  | .cvtT f => regX f.d ++ regX f.a ++ regX f.b
  | .amaxRd f => regX f.a
  | .amaxClr _ => []
  | .cbkLd f => regX f.a ++ regX f.b
  | .cbkRd f => regX f.a
  | .gmCfg f => regX f.a
  | .gmStep f => regX f.a
  | .gmMask f => regX f.a
  | .gmForce _ => []
  | .gmReset _ => []
  | .gmSt f => regX f.a
  | .swrCodeBounds f => regX f.a
  | .unassignedEncoding _ => []
  | .seqRepetition _ => []
  | .barrierEpisodeComplete _ => []
  | .collectiveComplete _ => []
  | .gmmaJoin _ _ => []
  | .tileOpRetire _ => []
  | .cvtRetire _ => []
  | .blockEnd _ => []
  | .contextRetirement _ => []
  | .coreHalted _ => []
  | .sleepWake _ => []
  | .messageAccept _ _ => []
  | .pinRevocation _ _ => []
  | .yardBackgroundInvalidate _ _ => []
  | .perform _ _ => []
  | .propagate _ _ => []
  | .apply _ _ => []
  | .read _ _ _ => []
  | .atomic _ _ => []
  | .reduce _ _ => []
  | .merge _ => []
  | .engineStep _ _ => []
  | .flag _ => []
  | .durable _ _ => []
  | .lineMigration _ => []
  | .durableWriteback _ => []
  | .pageWalk _ _ _ => []
  | .faultRecordWrite _ _ => []
  | .referralResponse _ _ => []
  | .checkerMismatch _ => []
  | .checksumMismatch _ => []
  | .poisonConsumed _ => []
  | .containment _ _ => []
  | .selfTestComplete _ => []
  | .coreRestart _ => []
  | .sweep _ _ => []
  | .eccReencode _ => []
  | .packageReset => []
  | .dieReset _ => []
  | .dieReturn _ => []
  | .masterHandover => []
  | .lighthouseOutOfService _ => []
  | .lighthouseReturn _ => []
  | .lighthouseResyncEnd _ => []
  | .capSelectChange _ => []
  | .arbiterEvaluate => []
  | .deferredEvaluation => []
  | .clockTransitionEnd => []
  | .energyCharge => []
  | .periodRefill _ => []
  | .launch _ => []
  | .load _ => []
  | .unload _ => []
  | .stopCommand _ => []
  | .query _ => []
  | .gangReady _ => []
  | .gangPlace _ => []
  | .gangRelease _ => []
  | .gangSwitchDecide _ => []
  | .sliceExpiry _ => []
  | .switchStop _ => []
  | .saveComplete _ => []
  | .restoreRelease _ => []
  | .gangComplete _ => []
  | .ident _ _ => []
  | .attest _ _ => []
  | .bind _ _ => []
  | .paddock _ _ => []
  | .vfcfg _ _ => []
  | .vfreset _ _ => []
  | .shedScrub _ => []
  | .migrate _ _ => []
  | .tables _ _ => []
  | .fwstage _ _ => []
  | .fwact _ _ => []
  | .errlog _ => []
  | .layup _ _ => []
  | .layupRestore _ _ => []
  | .unknownOpc _ _ => []
  | .droppedPacket _ => []

/-- Registers that the instruction writes. -/
def regWrites : Instr → List Nat
  | .yardWe _ => []
  | .yardWf _ => []
  | .yardCmt f => regX f.d
  | .yardRd f => regX f.d
  | .yardPin f => regX f.d
  | .yardUnpin _ => []
  | .yardGen f => regX f.d
  | .halt _ => []
  | .yield _ => []
  | .start f => regX f.d
  | .startTry f => regX f.d
  | .stop _ => []
  | .hlive f => regX f.d
  | .sendr _ => []
  | .sendrV _ => []
  | .mtake f => regX f.d ++ regX f.c
  | .mpeek f => regX f.d ++ regX f.c
  | .mclr _ => []
  | .clkRd f => regX f.d
  | .clkReq f => regX f.d
  | .clkAck f => regX f.d
  | .pwrRd f => regX f.d
  | .srd f => regX f.d
  | .swr _ => []
  | .eret _ => []
  | .eccInj _ => []
  | .trap _ => []
  | .icinv _ => []
  | .tlbinv _ => []
  | .add f => regX f.d
  | .sub f => regX f.d
  | .mul f => regX f.d
  | .mulh f => regX f.d
  | .div f => regX f.d
  | .rem f => regX f.d
  | .and f => regX f.d
  | .or f => regX f.d
  | .xor f => regX f.d
  | .andn f => regX f.d
  | .shl f => regX f.d
  | .shr f => regX f.d
  | .sra f => regX f.d
  | .rol f => regX f.d
  | .min f => regX f.d
  | .max f => regX f.d
  | .abs f => regX f.d
  | .neg f => regX f.d
  | .clz f => regX f.d
  | .ctz f => regX f.d
  | .popc f => regX f.d
  | .bfx f => regX f.d
  | .bfi f => regX f.d
  | .lea f => regX f.d
  | .mov f => regX f.d
  | .cmp f => regC f.d
  | .csel f => regX f.d
  | .setc f => regX f.d
  | .decz f => regX f.d ++ regC f.c
  | .addi f => regX f.d
  | .andi f => regX f.d
  | .ori f => regX f.d
  | .xori f => regX f.d
  | .li f => regX f.d
  | .lih f => regX f.d
  | .cmpi f => regC f.d
  | .shli f => regX f.d
  | .shri f => regX f.d
  | .srai f => regX f.d
  | .fadd f => regX f.d
  | .fsub f => regX f.d
  | .fmul f => regX f.d
  | .fdiv f => regX f.d
  | .fsqrt f => regX f.d
  | .fma f => regX f.d
  | .fmin f => regX f.d
  | .fmax f => regX f.d
  | .fabs f => regX f.d
  | .fneg f => regX f.d
  | .fcmp f => regC f.d
  | .fclass f => regX f.d
  | .fcvt f => regX f.d
  | .ftoi f => regX f.d
  | .itof f => regX f.d
  | .vadd f => regV f.d
  | .vsub f => regV f.d
  | .vmul f => regV f.d
  | .vmulh f => regV f.d
  | .vfma f => regV f.d
  | .vmin f => regV f.d
  | .vmax f => regV f.d
  | .vabs f => regV f.d
  | .vneg f => regV f.d
  | .vand f => regV f.d
  | .vor f => regV f.d
  | .vxor f => regV f.d
  | .vandn f => regV f.d
  | .vshl f => regV f.d
  | .vshr f => regV f.d
  | .vsra f => regV f.d
  | .vcmp f => regK (low3 f.d)
  | .vsel f => regV f.d
  | .vcvt f => regV f.d
  | .vdiv f => regV f.d
  | .vsqrt f => regV f.d
  | .vperm f => regV f.d
  | .vlut16 f => regV f.d
  | .vbcast f => regV f.d
  | .vins f => regV f.d
  | .vext f => regX f.d
  | .vzip f => regV f.d
  | .vunzip f => regV f.d
  | .vdot4 f => regV f.d
  | .vdot2 f => regV f.d
  | .vredAdd f => regX f.d
  | .vredMax f => regX f.d
  | .vredMin f => regX f.d
  | .kand f => regK (low3 f.d)
  | .kor f => regK (low3 f.d)
  | .kxor f => regK (low3 f.d)
  | .knot f => regK (low3 f.d)
  | .kmov f => regK (low3 f.d)
  | .kpop f => regX f.d
  | .kset f => regK (low3 f.d)
  | .krd f => regX f.d
  | .seqBeg _ => []
  | .seqLoop _ => []
  | .seqEnd _ => []
  | .seqWait _ => []
  | .ld f => regX f.d
  | .ldu f => regX f.d
  | .ldAcq f => regX f.d
  | .vld f => regV f.d
  | .vldRaw f => regV f.d
  | .st _ => []
  | .stRel _ => []
  | .vst _ => []
  | .ldF f => regX f.d
  | .ldFe f => regX f.d
  | .stEf _ => []
  | .stF _ => []
  | .tagSet _ => []
  | .tagClr _ => []
  | .pref _ => []
  | .flush _ => []
  | .inv _ => []
  | .amoAdd f => regX f.d
  | .amoAnd f => regX f.d
  | .amoOr f => regX f.d
  | .amoXor f => regX f.d
  | .amoMin f => regX f.d
  | .amoMax f => regX f.d
  | .amoMinu f => regX f.d
  | .amoMaxu f => regX f.d
  | .amoSwap f => regX f.d
  | .amoCas f => regX f.d
  | .redAdd _ => []
  | .redAnd _ => []
  | .redOr _ => []
  | .redXor _ => []
  | .redMin _ => []
  | .redMax _ => []
  | .redMinu _ => []
  | .redMaxu _ => []
  | .fence _ => []
  | .fenceAcq _ => []
  | .fenceRel _ => []
  | .wait _ => []
  | .waita f => regX f.d
  | .semP f => regX f.d
  | .semV f => regX f.d
  | .semRd f => regX f.d
  | .bar f => regX f.d
  | .copy _ => []
  | .copy2 _ => []
  | .get _ => []
  | .put _ => []
  | .puta _ => []
  | .wsig _ => []
  | .digest _ => []
  | .ccntRd f => regX f.d
  | .ccntWait _ => []
  | .collStart f => regX f.d
  | .collWait f => regX f.d
  | .buoy _ => []
  | .buoySeal f => regX f.d
  | .lhSt f => regX f.d
  | .tzero _ => []
  | .tmma _ => []
  | .gmma _ => []
  | .tdrain _ => []
  | .tdrainColl _ => []
  | .zset _ => []
  | .zclr _ => []
  | .cvtT _ => []
  | .amaxRd f => regX f.d
  | .amaxClr f => regX f.d
  | .cbkLd _ => []
  | .cbkRd f => regX f.d
  | .gmCfg _ => []
  | .gmStep f => regX f.d
  | .gmMask f => ((List.range 4).flatMap fun i => regV (f.d + BitVec.ofNat 5 i))
  | .gmForce f => regX f.d
  | .gmReset _ => []
  | .gmSt f => regX f.d
  | .swrCodeBounds _ => []
  | .unassignedEncoding _ => []
  | .seqRepetition _ => []
  | .barrierEpisodeComplete _ => []
  | .collectiveComplete _ => []
  | .gmmaJoin _ _ => []
  | .tileOpRetire _ => []
  | .cvtRetire _ => []
  | .blockEnd _ => []
  | .contextRetirement _ => []
  | .coreHalted _ => []
  | .sleepWake _ => []
  | .messageAccept _ _ => []
  | .pinRevocation _ _ => []
  | .yardBackgroundInvalidate _ _ => []
  | .perform _ _ => []
  | .propagate _ _ => []
  | .apply _ _ => []
  | .read _ _ _ => []
  | .atomic _ _ => []
  | .reduce _ _ => []
  | .merge _ => []
  | .engineStep _ _ => []
  | .flag _ => []
  | .durable _ _ => []
  | .lineMigration _ => []
  | .durableWriteback _ => []
  | .pageWalk _ _ _ => []
  | .faultRecordWrite _ _ => []
  | .referralResponse _ _ => []
  | .checkerMismatch _ => []
  | .checksumMismatch _ => []
  | .poisonConsumed _ => []
  | .containment _ _ => []
  | .selfTestComplete _ => []
  | .coreRestart _ => []
  | .sweep _ _ => []
  | .eccReencode _ => []
  | .packageReset => []
  | .dieReset _ => []
  | .dieReturn _ => []
  | .masterHandover => []
  | .lighthouseOutOfService _ => []
  | .lighthouseReturn _ => []
  | .lighthouseResyncEnd _ => []
  | .capSelectChange _ => []
  | .arbiterEvaluate => []
  | .deferredEvaluation => []
  | .clockTransitionEnd => []
  | .energyCharge => []
  | .periodRefill _ => []
  | .launch _ => []
  | .load _ => []
  | .unload _ => []
  | .stopCommand _ => []
  | .query _ => []
  | .gangReady _ => []
  | .gangPlace _ => []
  | .gangRelease _ => []
  | .gangSwitchDecide _ => []
  | .sliceExpiry _ => []
  | .switchStop _ => []
  | .saveComplete _ => []
  | .restoreRelease _ => []
  | .gangComplete _ => []
  | .ident _ _ => []
  | .attest _ _ => []
  | .bind _ _ => []
  | .paddock _ _ => []
  | .vfcfg _ _ => []
  | .vfreset _ _ => []
  | .shedScrub _ => []
  | .migrate _ _ => []
  | .tables _ _ => []
  | .fwstage _ _ => []
  | .fwact _ _ => []
  | .errlog _ => []
  | .layup _ _ => []
  | .layupRestore _ _ => []
  | .unknownOpc _ _ => []
  | .droppedPacket _ => []

/-- Which of D, A, B and C name vector registers, for the steps of R230. -/
def vectorFields : Instr → Bool × Bool × Bool × Bool
  | .vadd _ => (true, true, true, false)
  | .vsub _ => (true, true, true, false)
  | .vmul _ => (true, true, true, false)
  | .vmulh _ => (true, true, true, false)
  | .vfma _ => (true, true, true, true)
  | .vmin _ => (true, true, true, false)
  | .vmax _ => (true, true, true, false)
  | .vabs _ => (true, true, false, false)
  | .vneg _ => (true, true, false, false)
  | .vand _ => (true, true, true, false)
  | .vor _ => (true, true, true, false)
  | .vxor _ => (true, true, true, false)
  | .vandn _ => (true, true, true, false)
  | .vshl _ => (true, true, true, false)
  | .vshr _ => (true, true, true, false)
  | .vsra _ => (true, true, true, false)
  | .vcmp _ => (false, true, true, false)
  | .vsel _ => (true, true, true, false)
  | .vcvt _ => (true, true, false, false)
  | .vdiv _ => (true, true, true, false)
  | .vsqrt _ => (true, true, false, false)
  | .vperm _ => (true, true, true, true)
  | .vlut16 f => (true, true, true, decide (typeWidth f.ty.toNat = 16))
  | .vbcast _ => (true, false, false, false)
  | .vins _ => (true, false, false, false)
  | .vext _ => (false, true, false, false)
  | .vzip _ => (true, true, true, false)
  | .vunzip _ => (true, true, true, false)
  | .vdot4 _ => (true, true, true, true)
  | .vdot2 _ => (true, true, true, true)
  | .vredAdd _ => (false, true, false, false)
  | .vredMax _ => (false, true, false, false)
  | .vredMin _ => (false, true, false, false)
  | _ => (false, false, false, false)

/-- Does an instruction use the vector unit: one of majors 0x30 to 0x32, each of which names a vector register (R111)? The mask
instructions of major 0x33 issue without it: R219 lists them with the vector instructions, R229 sets them apart (DESIGN CHOICE,
assumption 127). -/
def Instr.vectorUnit (i : Instr) : Bool := vectorFields i ≠ (false, false, false, false)

end Sys2Proof.Machine
end

