-- ==== Sys2Proof/Machine/Vector.lean ====
section
/-! DEFINITION. The vector instructions: majors 0x30 to 0x33 (R214 to R227). None accesses memory or sleeps. Each has an
effect of its own, which a repetition of the sequencer runs again with stepped fields (R230). -/
namespace Sys2Proof.Machine

/-! ## Shared effects -/

/-- While its owner records, an instruction of majors 0x30 to 0x32 is also appended to the queue, and the 17th raises the
sequencer trap (R229). -/
def recorded (i : Instr) (eff : State → Eff) (s : State) : Eff :=
  let q := (s.core s.myCore).seq
  if q.owner = some s.cur && q.recording && decide (q.suspended = 0) then
    if q.queue.length = 16 then .trap 22 (encode i) 0
    else match eff s with
      | .done t => .done (t.updCore s.myCore fun c =>
          { c with seq := { c.seq with queue := c.seq.queue ++ [{ instr := i, pc := s.me.pc }] } })
      | e => e
  else eff s

/-- The mask value and the lanes that are active (R27). -/
def State.lanes (s : State) (f : RR) (l : Nat) : List Nat := activeLanes (s.rk f.k) f.kn l

/-- Every active lane of v_D takes the bits that `g` gives, placed by `put`; the flags are ORed (R214). -/
def vmap (f : RR) (l : Nat) (g : State → Nat → Nat × BitVec 5) (put : Quad → Nat → Nat → Quad) (s : State) : Eff :=
  let r := (s.lanes f l).foldl (fun (acc : Quad × BitVec 5) i =>
    let t := g s i
    (put acc.1 i t.1, acc.2 ||| t.2)) (s.rv f.d, 0)
  .done ((s.wv f.d r.1).orFlags r.2)

/-- A lane move that raises no flag. F6 lanes have bits [7:6] = 0 (R180). -/
def vmove (f : RR) (l : Nat) (g : State → Nat → Nat) : State → Eff :=
  let w := typeWidth f.ty.toNat
  vmap f l (fun s i => (if f.ty = 14 then g s i % 64 else g s i, 0)) (fun v i x => putLane v w i x)

def RR.sA (f : RR) (s : State) (i : Nat) : Nat := sourceLane (s.rv f.a) f.moda f.ty.toNat i
def RR.sB (f : RR) (s : State) (i : Nat) : Nat := sourceLane (s.rv f.b) f.modb f.ty.toNat i
def RR.sC (f : RR) (s : State) (i : Nat) : Nat := lane (s.rv f.c) (typeWidth f.ty.toNat) i

/-- V_LANEWISE of R216: integer lanes by `gi`, float lanes by `gf`. -/
def lanewise (f : RR) (gi : Nat → Nat → Nat → Int × BitVec 5) (gf : Nat → Nat → Nat → Nat × BitVec 5) : State → Eff :=
  vmap f (lanesOf (typeWidth f.ty.toNat)) (fun s i =>
    let a := RR.sA f s i
    let b := RR.sB f s i
    let c := RR.sC f s i
    if typeFloat f.ty.toNat then gf a b c
    else
      let r := gi a b c
      let t := clampLane f.ty.toNat f.narrow (f.sat = 1) r.1
      (t.1, r.2 ||| t.2)) (fun v i x => placeLane v f.narrow f.ty.toNat i x)

/-- LANE_EXACT of an integer operation. -/
def laneInt (op : IntOp) (f : RR) (a b _c : Nat) : Int × BitVec 5 :=
  intExact op (intSigned f.ty.toNat) (typeWidth f.ty.toNat) a b b
/-- a * b + c of R216. -/
def laneFma (f : RR) (a b c : Nat) : Int × BitVec 5 :=
  let v := toInt (intSigned f.ty.toNat) (typeWidth f.ty.toNat)
  (v a * v b + v c, 0)
/-- LANE_EXACT and ROUND_TO of a float operation. -/
def laneFloat (op : FloatOp) (f : RR) (a b c : Nat) : Nat × BitVec 5 :=
  let fm := fmtOf f.ty.toNat
  let v := floatExact op f.rnd.toNat (fm.value a) (fm.value b) (fm.value c)
  let t := roundLane f.ty.toNat f.narrow f.rnd.toNat (f.sat = 1) v.1
  (t.1, v.2 ||| t.2)
/-- An encoding that a float lane delivers: as it is, or rounded once into the narrow format (R188, R209). -/
def laneEnc (f : RR) (p : Nat) : Nat × BitVec 5 :=
  if modNfmt f.narrow = 0 then (floatTrim f.ty.toNat p, 0)
  else roundLane f.ty.toNat f.narrow 0 (f.sat = 1) ((fmtOf f.ty.toNat).value p)

/-- An integer-only instruction of major 0x30. -/
def lanewiseInt (op : IntOp) (f : RR) : State → Eff := lanewise f (laneInt op f) (fun a _ _ => laneEnc f a)

/-- The condition set of two lanes (R217). -/
def laneCond (f : RR) (s : State) (i : Nat) : BitVec 4 :=
  let a := RR.sA f s i
  let b := RR.sB f s i
  if typeFloat f.ty.toNat then cmpFloat (fmtOf f.ty.toNat) a b else cmpInt (typeWidth f.ty.toNat) a b

/-- `vcmp` (R217). -/
def vcmpBits (f : RR) (s : State) : BitVec 16 :=
  let l := lanesOf (typeWidth f.ty.toNat)
  BitVec.ofNat 16 (bitsOf l fun i =>
    if active (s.rk f.k) f.kn i then testCond (laneCond f s i) f.rnd.toNat (f.sat = 1)
    else (s.rk (low3 f.d)).getLsbD i)

/-- `vcvt` (R218). -/
def vcvtEff (f : RR) : State → Eff :=
  let w := typeWidth f.ty.toNat
  let ws := typeWidth f.c.toNat
  let l := lanesOf (max w ws)
  vmap f l (fun s i => convert f.c.toNat f.ty.toNat f.rnd.toNat (f.sat = 1) typeWidth
      (bits (s.rv f.a) (ws * (i + l * modGrp f.moda)) ws))
    (fun v i x => putBits v (w * (i + l * modGrp f.narrow)) w x)

/-- Byte idx[4:0] of the table of `vperm`, or 0 (R221). -/
def permByte (a c : Quad) (idx : Nat) : Nat :=
  if 128 ≤ idx then 0 else if idx % 32 < 16 then lane a 8 (idx % 32) else lane c 8 (idx % 32 - 16)

/-- The entry of `vlut16` for lane i (R222). -/
def lutEntry (f : RR) (s : State) (i : Nat) : Nat :=
  let w := typeWidth f.ty.toNat
  let e := bits (s.rv f.b) (4 * (i + lanesOf w * modGrp f.modb)) 4
  if w = 8 then lane (s.rv f.a) 8 e else if e < 8 then lane (s.rv f.a) 16 e else lane (s.rv f.c) 16 (e - 8)

/-- A lane written to a scalar register: signed types extend their sign, every other type zeros (R223). -/
def laneOut (ty x : Nat) : Word :=
  if typeFloat ty then BitVec.ofNat 64 (floatTrim ty x) else extend (intSigned ty) (typeWidth ty) x

/-- Lane number of `vins` and `vext`: x_B mod L (R223). -/
def laneIndex (f : RR) (s : State) : Nat := (s.rx f.b).toNat % lanesOf (typeWidth f.ty.toNat)

/-- One lane of a dot product of m narrow elements (R225). -/
def dotLane (m : Nat) (f : RR) (s : State) (i : Nat) : Nat × BitVec 5 :=
  let ty := f.ty.toNat
  let w := typeWidth ty
  let n := w / m
  let ea (j : Nat) := bits (s.rv f.a) (n * (m * i + j)) n
  let eb (j : Nat) := bits (s.rv f.b) (n * (m * i + j)) n
  let c := lane (s.rv f.c) w i
  if typeFloat ty then
    let fa := fmtOf (nfmtFloat (modNfmt f.moda))
    let fb := fmtOf (nfmtFloat (modNfmt f.modb))
    let v := sumTerms ((List.range m).map (fun j => mulTerm (fa.value (ea j)) (fb.value (eb j)) false)
      ++ [.val ((fmtOf ty).value c)]) (f.rnd = 3)
    let t := roundF (fmtOf ty) f.rnd.toNat (f.sat = 1) v.1
    (t.1, v.2 ||| t.2)
  else
    let x (md : BitVec 6) (e : Nat) : Int := toInt (modNfmt md % 2 = 1) n e
    let r := (List.range m).foldl (fun z j => z + x f.moda (ea j) * x f.modb (eb j)) (toInt (intSigned ty) w c)
    intResult (intSigned ty) w (f.sat = 1) r
def dotEff (m : Nat) (f : RR) : State → Eff :=
  vmap f (lanesOf (typeWidth f.ty.toNat)) (dotLane m f) (fun v i x => putLane v (typeWidth f.ty.toNat) i x)

/-- `vred.add` over the active lanes (R226). -/
def redAddLanes (f : RR) (s : State) (ls : List Nat) : Nat × BitVec 5 :=
  let ty := f.ty.toNat
  let w := typeWidth ty
  let r := (s.rx f.c).toNat % 2 ^ w
  if typeFloat ty then
    let v := sumTerms (.val ((fmtOf ty).value r) :: ls.map (fun i => .val ((fmtOf ty).value (RR.sA f s i)))) (f.rnd = 3)
    let t := roundF (fmtOf ty) f.rnd.toNat (f.sat = 1) v.1
    (t.1, v.2 ||| t.2)
  else intResult (intSigned ty) w (f.sat = 1)
    (ls.foldl (fun z i => z + toInt (intSigned ty) w (RR.sA f s i)) (toInt (intSigned ty) w r))

/-- `vred.max` (true) and `vred.min` over the active lanes (R226). -/
def redMinmaxLanes (mx : Bool) (f : RR) (s : State) (ls : List Nat) : Nat :=
  let ty := f.ty.toNat
  let w := typeWidth ty
  ls.foldl (fun r i =>
    let x := RR.sA f s i
    if typeFloat ty then fminmax (fmtOf ty) mx r x
    else if mx = decide (toInt (intSigned ty) w r < toInt (intSigned ty) w x) then x else r)
    ((s.rx f.c).toNat % 2 ^ w)

/-- A reduction into x_D; with no active lane it has no effect (R27, R226). -/
def redEff (f : RR) (g : State → List Nat → Nat × BitVec 5) (s : State) : Eff :=
  let ls := s.lanes f (lanesOf (typeWidth f.ty.toNat))
  if ls.isEmpty then .done s
  else
    let r := g s ls
    .done ((s.wx f.d (laneOut f.ty.toNat r.1)).orFlags r.2)

/-- A mask result (R227). -/
def wkEff (d : BitVec 5) (m : BitVec 16) (s : State) : Eff := .done (s.wk (low3 d) m)

/-- The effect of `vadd` (R216). -/
def effVadd (f : RR) (s : State) : Eff := lanewise f (laneInt .add f) (laneFloat .add f) s
/-- `vadd` (R216). -/
def execVadd (f : RR) (s : State) : Out := .next (s.issue (.vadd f) (recorded (.vadd f) (effVadd f)))

/-- The effect of `vsub` (R216). -/
def effVsub (f : RR) (s : State) : Eff := lanewise f (laneInt .sub f) (laneFloat .sub f) s
/-- `vsub` (R216). -/
def execVsub (f : RR) (s : State) : Out := .next (s.issue (.vsub f) (recorded (.vsub f) (effVsub f)))

/-- The effect of `vmul` (R216). -/
def effVmul (f : RR) (s : State) : Eff := lanewise f (laneInt .mul f) (laneFloat .mul f) s
/-- `vmul` (R216). -/
def execVmul (f : RR) (s : State) : Out := .next (s.issue (.vmul f) (recorded (.vmul f) (effVmul f)))

/-- The effect of `vmulh` (R216). -/
def effVmulh (f : RR) (s : State) : Eff := lanewiseInt .mulh f s
/-- `vmulh` (R216). -/
def execVmulh (f : RR) (s : State) : Out := .next (s.issue (.vmulh f) (recorded (.vmulh f) (effVmulh f)))

/-- The effect of `vfma` (R216). -/
def effVfma (f : RR) (s : State) : Eff := lanewise f (laneFma f) (laneFloat .fma f) s
/-- `vfma` (R216). -/
def execVfma (f : RR) (s : State) : Out := .next (s.issue (.vfma f) (recorded (.vfma f) (effVfma f)))

/-- The effect of `vmin` (R216). -/
def effVmin (f : RR) (s : State) : Eff := lanewise f (laneInt .min f) (fun a b _ => laneEnc f (fminmax (fmtOf f.ty.toNat) false a b)) s
/-- `vmin` (R216). -/
def execVmin (f : RR) (s : State) : Out := .next (s.issue (.vmin f) (recorded (.vmin f) (effVmin f)))

/-- The effect of `vmax` (R216). -/
def effVmax (f : RR) (s : State) : Eff := lanewise f (laneInt .max f) (fun a b _ => laneEnc f (fminmax (fmtOf f.ty.toNat) true a b)) s
/-- `vmax` (R216). -/
def execVmax (f : RR) (s : State) : Out := .next (s.issue (.vmax f) (recorded (.vmax f) (effVmax f)))

/-- The effect of `vabs` (R216). -/
def effVabs (f : RR) (s : State) : Eff := lanewise f (laneInt .abs f) (fun a _ _ => laneEnc f (fabsBits (fmtOf f.ty.toNat) a)) s
/-- `vabs` (R216). -/
def execVabs (f : RR) (s : State) : Out := .next (s.issue (.vabs f) (recorded (.vabs f) (effVabs f)))

/-- The effect of `vneg` (R216). -/
def effVneg (f : RR) (s : State) : Eff := lanewise f (laneInt .neg f) (fun a _ _ => laneEnc f (fnegBits (fmtOf f.ty.toNat) a)) s
/-- `vneg` (R216). -/
def execVneg (f : RR) (s : State) : Out := .next (s.issue (.vneg f) (recorded (.vneg f) (effVneg f)))

/-- The effect of `vand` (R216). -/
def effVand (f : RR) (s : State) : Eff := lanewiseInt .and f s
/-- `vand` (R216). -/
def execVand (f : RR) (s : State) : Out := .next (s.issue (.vand f) (recorded (.vand f) (effVand f)))

/-- The effect of `vor` (R216). -/
def effVor (f : RR) (s : State) : Eff := lanewiseInt .or f s
/-- `vor` (R216). -/
def execVor (f : RR) (s : State) : Out := .next (s.issue (.vor f) (recorded (.vor f) (effVor f)))

/-- The effect of `vxor` (R216). -/
def effVxor (f : RR) (s : State) : Eff := lanewiseInt .xor f s
/-- `vxor` (R216). -/
def execVxor (f : RR) (s : State) : Out := .next (s.issue (.vxor f) (recorded (.vxor f) (effVxor f)))

/-- The effect of `vandn` (R216). -/
def effVandn (f : RR) (s : State) : Eff := lanewiseInt .andn f s
/-- `vandn` (R216). -/
def execVandn (f : RR) (s : State) : Out := .next (s.issue (.vandn f) (recorded (.vandn f) (effVandn f)))

/-- The effect of `vshl` (R216). -/
def effVshl (f : RR) (s : State) : Eff := lanewiseInt .shl f s
/-- `vshl` (R216). -/
def execVshl (f : RR) (s : State) : Out := .next (s.issue (.vshl f) (recorded (.vshl f) (effVshl f)))

/-- The effect of `vshr` (R216). -/
def effVshr (f : RR) (s : State) : Eff := lanewiseInt .shr f s
/-- `vshr` (R216). -/
def execVshr (f : RR) (s : State) : Out := .next (s.issue (.vshr f) (recorded (.vshr f) (effVshr f)))

/-- The effect of `vsra` (R216). -/
def effVsra (f : RR) (s : State) : Eff := lanewiseInt .sra f s
/-- `vsra` (R216). -/
def execVsra (f : RR) (s : State) : Out := .next (s.issue (.vsra f) (recorded (.vsra f) (effVsra f)))

/-- The effect of `vcmp` (R217). -/
def effVcmp (f : RR) (s : State) : Eff :=
  if (s.lanes f (lanesOf (typeWidth f.ty.toNat))).isEmpty then .done s else wkEff f.d (vcmpBits f s) s
/-- `vcmp` (R217). -/
def execVcmp (f : RR) (s : State) : Out := .next (s.issue (.vcmp f) (recorded (.vcmp f) (effVcmp f)))

/-- The effect of `vsel` (R217): no bit of a value changes; of an F6 value those are bits [5:0], and the byte is written with bits [7:6] = 0
as R180 has it (DEDUCED, assumption 101). -/
def effVsel (f : RR) (s : State) : Eff :=
  vmove f (lanesOf (typeWidth f.ty.toNat)) (fun s i => if (s.rk (low3 f.c)).getLsbD i then RR.sA f s i else RR.sB f s i) s
/-- `vsel` (R217). -/
def execVsel (f : RR) (s : State) : Out := .next (s.issue (.vsel f) (recorded (.vsel f) (effVsel f)))

/-- The effect of `vcvt` (R218). -/
def effVcvt (f : RR) (s : State) : Eff := vcvtEff f s
/-- `vcvt` (R218). -/
def execVcvt (f : RR) (s : State) : Out := .next (s.issue (.vcvt f) (recorded (.vcvt f) (effVcvt f)))

/-- The effect of `vdiv` (R216). -/
def effVdiv (f : RR) (s : State) : Eff := lanewise f (laneInt .div f) (laneFloat .div f) s
/-- `vdiv` (R216). -/
def execVdiv (f : RR) (s : State) : Out := .next (s.issue (.vdiv f) (recorded (.vdiv f) (effVdiv f)))

/-- The effect of `vsqrt` (R216). -/
def effVsqrt (f : RR) (s : State) : Eff := lanewise f (fun a _ _ => ((a : Int), 0)) (laneFloat .sqrt f) s
/-- `vsqrt` (R216). -/
def execVsqrt (f : RR) (s : State) : Out := .next (s.issue (.vsqrt f) (recorded (.vsqrt f) (effVsqrt f)))

/-- The effect of `vperm` (R221). -/
def effVperm (f : RR) (s : State) : Eff := vmove f 16 (fun s j => permByte (s.rv f.a) (s.rv f.c) (lane (s.rv f.b) 8 j)) s
/-- `vperm` (R221). -/
def execVperm (f : RR) (s : State) : Out := .next (s.issue (.vperm f) (recorded (.vperm f) (effVperm f)))

/-- The effect of `vlut16` (R222). -/
def effVlut16 (f : RR) (s : State) : Eff := vmove f (lanesOf (typeWidth f.ty.toNat)) (lutEntry f) s
/-- `vlut16` (R222). -/
def execVlut16 (f : RR) (s : State) : Out := .next (s.issue (.vlut16 f) (recorded (.vlut16 f) (effVlut16 f)))

/-- The effect of `vbcast` (R223). -/
def effVbcast (f : RR) (s : State) : Eff :=
  vmove f (lanesOf (typeWidth f.ty.toNat)) (fun s _ => (s.rx f.a).toNat % 2 ^ typeWidth f.ty.toNat) s
/-- `vbcast` (R223). -/
def execVbcast (f : RR) (s : State) : Out := .next (s.issue (.vbcast f) (recorded (.vbcast f) (effVbcast f)))

/-- The effect of `vins` (R223). -/
def effVins (f : RR) (s : State) : Eff :=
  let w := typeWidth f.ty.toNat
  let j := laneIndex f s
  let x := (s.rx f.a).toNat % 2 ^ w
  if active (s.rk f.k) f.kn j then .done (s.wv f.d (putLane (s.rv f.d) w j (if f.ty = 14 then x % 64 else x)))
  else .done s
/-- `vins` (R223). -/
def execVins (f : RR) (s : State) : Out := .next (s.issue (.vins f) (recorded (.vins f) (effVins f)))

/-- The effect of `vext` (R223). -/
def effVext (f : RR) (s : State) : Eff :=
  .done (s.wx f.d (laneOut f.ty.toNat (lane (s.rv f.a) (typeWidth f.ty.toNat) (laneIndex f s))))
/-- `vext` (R223). -/
def execVext (f : RR) (s : State) : Out := .next (s.issue (.vext f) (recorded (.vext f) (effVext f)))

/-- The effect of `vzip` (R223). -/
def effVzip (f : RR) (s : State) : Eff :=
  let w := typeWidth f.ty.toNat
  vmove f (lanesOf w) (fun s i =>
    lane (if i % 2 = 0 then s.rv f.a else s.rv f.b) w (i / 2 + f.rnd.toNat * (lanesOf w / 2))) s
/-- `vzip` (R223). -/
def execVzip (f : RR) (s : State) : Out := .next (s.issue (.vzip f) (recorded (.vzip f) (effVzip f)))

/-- The effect of `vunzip` (R223). -/
def effVunzip (f : RR) (s : State) : Eff :=
  let w := typeWidth f.ty.toNat
  let l := lanesOf w
  vmove f l (fun s i =>
    let e := 2 * i + f.rnd.toNat
    if e < l then lane (s.rv f.a) w e else lane (s.rv f.b) w (e - l)) s
/-- `vunzip` (R223). -/
def execVunzip (f : RR) (s : State) : Out := .next (s.issue (.vunzip f) (recorded (.vunzip f) (effVunzip f)))

/-- The effect of `vdot4` (R225). -/
def effVdot4 (f : RR) (s : State) : Eff := dotEff 4 f s
/-- `vdot4` (R225). -/
def execVdot4 (f : RR) (s : State) : Out := .next (s.issue (.vdot4 f) (recorded (.vdot4 f) (effVdot4 f)))

/-- The effect of `vdot2` (R225). -/
def effVdot2 (f : RR) (s : State) : Eff := dotEff 2 f s
/-- `vdot2` (R225). -/
def execVdot2 (f : RR) (s : State) : Out := .next (s.issue (.vdot2 f) (recorded (.vdot2 f) (effVdot2 f)))

/-- The effect of `vred.add` (R226). -/
def effVredAdd (f : RR) (s : State) : Eff := redEff f (redAddLanes f) s
/-- `vred.add` (R226). -/
def execVredAdd (f : RR) (s : State) : Out := .next (s.issue (.vredAdd f) (recorded (.vredAdd f) (effVredAdd f)))

/-- The effect of `vred.max` (R226). -/
def effVredMax (f : RR) (s : State) : Eff := redEff f (fun s ls => (redMinmaxLanes true f s ls, 0)) s
/-- `vred.max` (R226). -/
def execVredMax (f : RR) (s : State) : Out := .next (s.issue (.vredMax f) (recorded (.vredMax f) (effVredMax f)))

/-- The effect of `vred.min` (R226). -/
def effVredMin (f : RR) (s : State) : Eff := redEff f (fun s ls => (redMinmaxLanes false f s ls, 0)) s
/-- `vred.min` (R226). -/
def execVredMin (f : RR) (s : State) : Out := .next (s.issue (.vredMin f) (recorded (.vredMin f) (effVredMin f)))

/-- The effect of `kand` (R227). -/
def effKand (f : RR) (s : State) : Eff := wkEff f.d (s.rk (low3 f.a) &&& s.rk (low3 f.b)) s
/-- `kand` (R227). -/
def execKand (f : RR) (s : State) : Out := .next (s.issue (.kand f) (effKand f))

/-- The effect of `kor` (R227). -/
def effKor (f : RR) (s : State) : Eff := wkEff f.d (s.rk (low3 f.a) ||| s.rk (low3 f.b)) s
/-- `kor` (R227). -/
def execKor (f : RR) (s : State) : Out := .next (s.issue (.kor f) (effKor f))

/-- The effect of `kxor` (R227). -/
def effKxor (f : RR) (s : State) : Eff := wkEff f.d (s.rk (low3 f.a) ^^^ s.rk (low3 f.b)) s
/-- `kxor` (R227). -/
def execKxor (f : RR) (s : State) : Out := .next (s.issue (.kxor f) (effKxor f))

/-- The effect of `knot` (R227). -/
def effKnot (f : RR) (s : State) : Eff := wkEff f.d (~~~ s.rk (low3 f.a)) s
/-- `knot` (R227). -/
def execKnot (f : RR) (s : State) : Out := .next (s.issue (.knot f) (effKnot f))

/-- The effect of `kmov` (R227). -/
def effKmov (f : RR) (s : State) : Eff := wkEff f.d (s.rk (low3 f.a)) s
/-- `kmov` (R227). -/
def execKmov (f : RR) (s : State) : Out := .next (s.issue (.kmov f) (effKmov f))

/-- The effect of `kpop` (R227). -/
def effKpop (f : RR) (s : State) : Eff := .done (s.wx f.d (BitVec.ofNat 64 (popCount 16 (s.rk (low3 f.a)).toNat)))
/-- `kpop` (R227). -/
def execKpop (f : RR) (s : State) : Out := .next (s.issue (.kpop f) (effKpop f))

/-- The effect of `kset` (R227). -/
def effKset (f : RR) (s : State) : Eff := wkEff f.d ((s.rx f.a).setWidth 16) s
/-- `kset` (R227). -/
def execKset (f : RR) (s : State) : Out := .next (s.issue (.kset f) (effKset f))

/-- The effect of `krd` (R227). -/
def effKrd (f : RR) (s : State) : Eff := .done (s.wx f.d ((s.rk (low3 f.a)).zeroExtend 64))
/-- `krd` (R227). -/
def execKrd (f : RR) (s : State) : Out := .next (s.issue (.krd f) (effKrd f))

/-- The effect of a queued instruction (R230); no other instruction is ever queued. -/
def vectorEff (i : Instr) (s : State) : Eff :=
  match i with
  | .vadd f => effVadd f s
  | .vsub f => effVsub f s
  | .vmul f => effVmul f s
  | .vmulh f => effVmulh f s
  | .vfma f => effVfma f s
  | .vmin f => effVmin f s
  | .vmax f => effVmax f s
  | .vabs f => effVabs f s
  | .vneg f => effVneg f s
  | .vand f => effVand f s
  | .vor f => effVor f s
  | .vxor f => effVxor f s
  | .vandn f => effVandn f s
  | .vshl f => effVshl f s
  | .vshr f => effVshr f s
  | .vsra f => effVsra f s
  | .vcmp f => effVcmp f s
  | .vsel f => effVsel f s
  | .vcvt f => effVcvt f s
  | .vdiv f => effVdiv f s
  | .vsqrt f => effVsqrt f s
  | .vperm f => effVperm f s
  | .vlut16 f => effVlut16 f s
  | .vbcast f => effVbcast f s
  | .vins f => effVins f s
  | .vext f => effVext f s
  | .vzip f => effVzip f s
  | .vunzip f => effVunzip f s
  | .vdot4 f => effVdot4 f s
  | .vdot2 f => effVdot2 f s
  | .vredAdd f => effVredAdd f s
  | .vredMax f => effVredMax f s
  | .vredMin f => effVredMin f s
  | _ => .done s

end Sys2Proof.Machine
end

