-- ==== Sys2Proof/Machine/Sequence.lean ====
section
/-! DEFINITION. The vector sequencer: major 0x34 and SEQ_REPETITION (R111, R228 to R233). A repetition issues and retires in
one event, so "still to issue" and "not yet retired" are one count, `Sequencer.left`. -/
namespace Sys2Proof.Machine

def State.mySeq (s : State) : Sequencer := (s.core s.myCore).seq
def State.setSeq (s : State) (core : Nat) (q : Sequencer) : State := s.updCore core fun c => { c with seq := q }
def State.ownsSeq (s : State) : Bool := s.mySeq.owner = some s.cur

/-- Does an instruction sleep for the sequencer of the same core, without owning it? -/
def waitsForSeq (s : State) (k : Nat) (i : Instr) : Bool :=
  coreOfCtx k = s.myCore && s.mySeq.owner ≠ some k && match i with
    | .seqBeg _ => true
    | _ => false

/-- The effect of `seq.beg` (R229, R233). -/
def effSeqBeg (f : RR) (s : State) : Eff :=
  let q := s.mySeq
  let ok := match q.owner with
    | none => s.myTurn (waitsForSeq s)
    | some k => k = s.cur && q.left = 0
  if s.ownsSeq && decide (q.suspended ≠ 0) then .trap 22 0 0
  else holdUnless ok (.seqBeg f) s <|
    .done (s.setSeq s.myCore { Sequencer.reset with owner := some s.cur, recording := true })
/-- `seq.beg` (R229). -/
def execSeqBeg (f : RR) (s : State) : Out := .next (s.issue (.seqBeg f) (effSeqBeg f))

/-- The effect of `seq.loop` (R230). It ends the recording and with it the suspension of R229: a `seq.beg` in the same handler finds no
recording that is suspended (DEDUCED, assumption 116). Where the count and the step both offend, the count is the offending value (DESIGN
CHOICE, assumption 137). -/
def effSeqLoop (f : RR) (s : State) : Eff :=
  let q := s.mySeq
  let n := s.rx f.a
  let step := s.rx f.b
  if !s.ownsSeq then .trap 22 0 0
  else if 65535 < n.toNat then .trap 22 n 0
  else if step &&& ~~~(0x1F1F1F1F : Word) ≠ 0 then .trap 22 step 0
  else holdUnless (decide (q.left = 0)) (.seqLoop f) s <|
    .done (s.setSeq s.myCore { q with recording := false, suspended := 0, reps := n.toNat, rep := 1, pos := 0, steps := step })
/-- `seq.loop` (R230). -/
def execSeqLoop (f : RR) (s : State) : Out := .next (s.issue (.seqLoop f) (effSeqLoop f))

/-- The effect of `seq.end` (R232). -/
def effSeqEnd (f : RR) (s : State) : Eff :=
  if !s.ownsSeq then .done s
  else holdUnless (decide (s.mySeq.left = 0)) (.seqEnd f) s (.done (s.setSeq s.myCore .reset))
/-- `seq.end` (R232). -/
def execSeqEnd (f : RR) (s : State) : Out := .next (s.issue (.seqEnd f) (effSeqEnd f))

/-- The effect of `seq.wait` (R232). -/
def effSeqWait (f : RR) (s : State) : Eff :=
  if !s.ownsSeq then .done s else holdUnless (decide (s.mySeq.left = 0)) (.seqWait f) s (.done s)
/-- `seq.wait` (R232). -/
def execSeqWait (f : RR) (s : State) : Out := .next (s.issue (.seqWait f) (effSeqWait f))

/-! ## Repetitions (R230, R231) -/

/-- The fields of an instruction in repetition r under the steps SD, SA, SB and SC. -/
def stepFields (v : Bool × Bool × Bool × Bool) (steps : Word) (r : Nat) (f : RR) : RR :=
  let go (on : Bool) (x : BitVec 5) (lo : Nat) : BitVec 5 :=
    if on then x + BitVec.ofNat 5 (r * (steps.extractLsb' lo 5).toNat) else x
  { f with d := go v.1 f.d 0, a := go v.2.1 f.a 8, b := go v.2.2.1 f.b 16, c := go v.2.2.2 f.c 24 }

/-- A queued instruction as repetition r runs it. -/
def stepped (steps : Word) (r : Nat) (i : Instr) : Instr :=
  match i with
  | .vadd f => .vadd (stepFields (vectorFields i) steps r f)
  | .vsub f => .vsub (stepFields (vectorFields i) steps r f)
  | .vmul f => .vmul (stepFields (vectorFields i) steps r f)
  | .vmulh f => .vmulh (stepFields (vectorFields i) steps r f)
  | .vfma f => .vfma (stepFields (vectorFields i) steps r f)
  | .vmin f => .vmin (stepFields (vectorFields i) steps r f)
  | .vmax f => .vmax (stepFields (vectorFields i) steps r f)
  | .vabs f => .vabs (stepFields (vectorFields i) steps r f)
  | .vneg f => .vneg (stepFields (vectorFields i) steps r f)
  | .vand f => .vand (stepFields (vectorFields i) steps r f)
  | .vor f => .vor (stepFields (vectorFields i) steps r f)
  | .vxor f => .vxor (stepFields (vectorFields i) steps r f)
  | .vandn f => .vandn (stepFields (vectorFields i) steps r f)
  | .vshl f => .vshl (stepFields (vectorFields i) steps r f)
  | .vshr f => .vshr (stepFields (vectorFields i) steps r f)
  | .vsra f => .vsra (stepFields (vectorFields i) steps r f)
  | .vcmp f => .vcmp (stepFields (vectorFields i) steps r f)
  | .vsel f => .vsel (stepFields (vectorFields i) steps r f)
  | .vcvt f => .vcvt (stepFields (vectorFields i) steps r f)
  | .vdiv f => .vdiv (stepFields (vectorFields i) steps r f)
  | .vsqrt f => .vsqrt (stepFields (vectorFields i) steps r f)
  | .vperm f => .vperm (stepFields (vectorFields i) steps r f)
  | .vlut16 f => .vlut16 (stepFields (vectorFields i) steps r f)
  | .vbcast f => .vbcast (stepFields (vectorFields i) steps r f)
  | .vins f => .vins (stepFields (vectorFields i) steps r f)
  | .vext f => .vext (stepFields (vectorFields i) steps r f)
  | .vzip f => .vzip (stepFields (vectorFields i) steps r f)
  | .vunzip f => .vunzip (stepFields (vectorFields i) steps r f)
  | .vdot4 f => .vdot4 (stepFields (vectorFields i) steps r f)
  | .vdot2 f => .vdot2 (stepFields (vectorFields i) steps r f)
  | .vredAdd f => .vredAdd (stepFields (vectorFields i) steps r f)
  | .vredMax f => .vredMax (stepFields (vectorFields i) steps r f)
  | .vredMin f => .vredMin (stepFields (vectorFields i) steps r f)
  | j => j

/-- Repetitions of one queued instruction still to issue, from position `pos` of repetition `rep`: the numbers of those
repetitions. -/
def Sequencer.pending (q : Sequencer) : List Instr :=
  (List.range (q.reps + 1 - q.rep)).flatMap fun n =>
    let r := q.rep + n
    ((q.queue.drop (if n = 0 then q.pos else 0)).map fun e => stepped q.steps r e.instr)

/-- Register conflicts of the owner's own instruction with repetitions still to issue (R231). -/
def Sequencer.conflicts (q : Sequencer) (i : Instr) : Bool :=
  decide (q.left ≠ 0) && q.pending.any fun j =>
    (regWrites i).any (fun r => (regReads j).contains r || (regWrites j).contains r) ||
    (regReads i).any (regWrites j).contains

/-- Registers that pending operations of a context will still write (R106). -/
def destRegs : Dest → List Nat
  | .x d _ _ _ => regX d
  | .vraw d _ => regV d
  | .vdec d _ _ _ _ _ _ _ _ => regV d
def OpKind.dest : OpKind → List Nat
  | .read dst _ _ _ => destRegs dst
  | .amo _ _ _ _ _ _ (some d) _ _ _ => regX d
  | _ => []
def Ctx.awaited (c : Ctx) : List Nat := c.ops.flatMap fun o => o.kind.dest
/-- No register that an instruction reads or writes is still to be written by an earlier operation. -/
def Ctx.operandsReady (c : Ctx) (i : Instr) : Bool :=
  (regReads i ++ regWrites i).all fun r => !c.awaited.contains r
/-- Registers of a core's context that a divider is still computing (R211, R219). -/
def Core.computing (c : Core) (n : Nat) : List Nat :=
  ((c.divider.toList ++ c.vecDivider.toList).filter (·.1 = n)).flatMap (·.2)
/-- Are the operands of context k's instruction available (R106, R211): none awaits an earlier operation, and none that it reads is still
being computed? -/
def State.operandsReady (s : State) (k : Nat) (i : Instr) : Bool :=
  (s.ctx k).operandsReady i && (regReads i).all fun r => !((s.core (coreOfCtx k)).computing (ctxNo k)).contains r

/-- The owner's next repetition runs in the owner's context, without the checks of R54 and without retiring at its program
counter. A checker mismatch is met as at any retirement (R359): the repetition does not commit and issues again, and a second
mismatch on it contains the core. Where the owner's own instruction is between its two issues, the second mismatch is that
instruction's, and the repetition retires (R365). After its last repetition an owner that has left its blocks owns the sequencer no longer
(R232). -/
def State.runRepetition (s : State) (core k : Nat) (i : Instr) (q : Sequencer) : State :=
  let s0 := { s with cur := k }
  let next : Sequencer := if q.pos + 1 < q.queue.length then { q with pos := q.pos + 1, replay := false }
    else { q with pos := 0, rep := q.rep + 1, replay := false }
  if s0.me.mismatch = 0 || s0.me.replay then match vectorEff i s0 with
    | .done t =>
      let t1 := t.setSeq core next
      match (t1.ctx k).mode with
      | .exiting _ _ => t1.endSeq k
      | _ => t1
    | _ => s0
  else if q.replay then s0.containEvent core 1
  else (s0.updMe fun c => { c with mismatch := c.mismatch - 1 }).setSeq core { q with replay := true }

end Sys2Proof.Machine
end

