-- ==== Sys2Proof/Machine/Recovery.lean ====
section
/-! DEFINITION. Durable copies, buoys, seals and the restart of a core: major 0x7C and the recovery events (R385 to R403). -/
namespace Sys2Proof.Machine

/-! ## The copies (R288, R298, R385 to R389) -/

/-- DURABLE (R288). -/
def execDurable (write copy : Nat) (s : State) : Out := .next (s.durable write (copy ≠ 0))

/-- DURABLE_WRITEBACK (R386): the line's writes go to both copies, in their coherence order, and the line is clean. -/
def execDurableWriteback (line : Nat) (s : State) : Out :=
  let s1 := s.durableLine (lineOf line)
  let q := home line
  .next (match (s1.l2Q q).get? (lineOf line) with
    | some l => if l.state = .d then s1.setL2 q ((s1.l2Q q).put (lineOf line) { l with state := .s }) else s1
    | none => s1)

/-- The log's entry of a lighthouse layer: 3 out of service, 4 returned (R368). -/
def State.logLayer (s : State) (kind quarter : Nat) : State := s.logError kind 0 (quarter % 4) 3 0 0 0xFFFF

/-- The durable doublewords of which one copy has an error and the other stands in a quarter's layer: with that layer out of service, or where
it takes the bad copy's bytes, no copy of them is good (R388, R389). -/
def State.onlyIn (s : State) (quarter : Nat) : List Nat :=
  (s.ord.badMirr.filter fun a => physQtr a = quarter % 4) ++ s.ord.badPrim.filter fun a => physQtr a = partner (quarter % 4)
/-- LIGHTHOUSE_OUT_OF_SERVICE (R389): a doubleword whose other copy has an error is lost (R388). -/
def execLighthouseOutOfService (quarter : Nat) (s : State) : Out :=
  let q := s.quarterAt quarter
  let t := (s.loseDurable (s.onlyIn quarter)).setQuarter quarter { q with inService := false, resync := false }
  .next (if q.inService || q.resync then t.logLayer 3 quarter else t)

/-- LIGHTHOUSE_RETURN (R389): the resync begins. -/
def execLighthouseReturn (quarter : Nat) (s : State) : Out :=
  let q := s.quarterAt quarter
  .next (if q.inService || q.resync then s else (s.setQuarter quarter { q with resync := true }).logLayer 4 quarter)

/-- The cells of one quarter's primaries in one copy replaced by those of the other. -/
def copyCells (q : Nat) (src dst : List Host.Cell) : List Host.Cell :=
  (src.filter fun c => physQtr c.1 = q).foldl (fun m c => Memory.set m c.1 c.2) (dst.filter fun c => physQtr c.1 ≠ q)

/-- LIGHTHOUSE_RESYNC_END (R389): both kinds of copy that the layer holds take the other copy's bytes with their errors, its copy of the
scheduler journal takes the partner's records (R153), and the layer counts again. -/
def execLighthouseResyncEnd (quarter : Nat) (s : State) : Out :=
  let q := s.quarterAt quarter
  let p := partner quarter
  if !q.resync then .next s
  else
    let o := s.ord
    let o1 : Order := { o with
      prim := copyCells quarter o.mirr o.prim
      mirr := copyCells p o.prim o.mirr
      badPrim := (o.badMirr.filter fun a => physQtr a = quarter).foldl natInsert (o.badPrim.filter fun a => physQtr a ≠ quarter)
      badMirr := (o.badPrim.filter fun a => physQtr a = p).foldl natInsert (o.badMirr.filter fun a => physQtr a ≠ p)
      writes := Table.mapVals (fun _ w =>
        if !isDurable w.loc then w
        else if home w.loc = quarter then { w with durP := w.durM }
        else if home w.loc = p then { w with durM := w.durP } else w) o.writes }
    let other := s.quarterAt p
    .next ((({ s with ord := o1 } : State).loseDurable (s.onlyIn quarter)).setQuarter quarter { q with
      inService := true, resync := false, journal := if other.inService then other.journal else q.journal })

/-! ## `buoy` (R392, R394) -/

/-- GANG of a seal record (R391). -/
def Gang.sealName (g : Gang) : Word := (g.seq ++ BitVec.ofNat 16 g.vfq : BitVec 48).zeroExtend 64

/-- The 128 doublewords of a buoy record (R392). -/
def buoyRecord (c : Ctx) (epoch loc : Word) (ctx lcore : Nat) : List Word :=
  let who := ctx + lcore * 2 ^ 8 + (match c.notice with
    | some n => 2 ^ 24 + n.toNat * 2 ^ 25
    | none => 0)
  let cs : BitVec 16 := c.c[3] ++ c.c[2] ++ c.c[1] ++ c.c[0]
  let csf : Word := (c.tyard ++ (0 : BitVec 3) ++ c.fstat ++ cs : BitVec 32).zeroExtend 64
  let ks0 : Word := c.k[4] ++ c.k[3] ++ c.k[2] ++ c.k[1]
  let ks1 : Word := (c.k[7] ++ c.k[6] ++ c.k[5] : BitVec 48).zeroExtend 64
  [epoch, loc, BitVec.ofNat 64 who, csf, c.y0, c.y1, ks0, ks1]
    ++ (List.range 32).map (fun i => c.rx (BitVec.ofNat 5 i))
    ++ (List.range 32).flatMap (fun i =>
      let v := c.rv (BitVec.ofNat 5 i)
      [v.extractLsb' 0 64, v.extractLsb' 64 64])
    ++ c.buoy.toList ++ List.replicate 20 0

/-- The effect of `buoy` (R394). -/
def effBuoy (f : RR) (s : State) : Eff :=
  let xa := s.rx f.a
  let xb := s.rx f.b
  let c := s.me
  if pcIndex c.pc = hdrLen c.hdr then .trap 1 (encode (.buoy f)) 0
  else if xb.extractLsb' 2 6 ≠ (0 : BitVec 6) || xb.extractLsb' 8 56 = (0 : BitVec 56) then .trap 1 xb 0
  else if xa.toNat % 1024 ≠ 0 then .trap 1 xa 0
  else holdUnless (c.ld = 0 && c.st = 0 && c.cp = 0 && c.tl = 0 && !(s.ownsSeq && decide (s.mySeq.left ≠ 0))) (.buoy f) s <|
    withHit s xa true fun h =>
      if !pteDur h.w0 then .trap 1 xa 0
      else
        let loc := mkPc (pcIndex c.pc + 1) (pcBlock c.pc)
        let slot : Fin 4 := (xb.extractLsb' 0 2 : BitVec 2).toFin
        let s1 := h.st.updMe fun d => { d with buoy := d.buoy.set slot loc }
        let ws := buoyRecord s1.me (xb >>> 8) loc (ctxNo s.cur) ((s.gang s.myGang).lcore s.myCore)
        let s2 := (List.range 128).foldl (fun (t : State) n =>
          t.pushOp (pteKey h.w0) (pageHint 0 h.w0) (.write (h.loc + 8 * n) 0xFF (ws.getD n 0) none none [])) s1
        .done (s2.updMe fun d => { d with st := d.st + 128 })
/-- `buoy` (R394). -/
def execBuoy (f : RR) (s : State) : Out := .next (s.issue (.buoy f) (effBuoy f))

/-! ## `buoy.seal` (R390, R391, R396) -/

/-- The first field of a seal image that breaks R391. -/
def imageFault (ws : List Word) : Option Word :=
  let e := ws.getD 0 0
  let b := ws.getD 1 0
  let l := ws.getD 2 0
  if e = 0 || 2 ^ 56 ≤ e.toNat then some e
  else if b.toNat % 1024 ≠ 0 then some b
  else if l.toNat % 1024 ≠ 0 || l.toNat < 1024 || 0x4000000 < l.toNat then some l
  else none

/-- The effect of `buoy.seal` (R396): the checks; then the context sleeps until its release set is durable, and SLEEP_WAKE
takes the later steps. Writes of its gang that its quarter had in view and that a die reset has lost are still in the set: the context has
seen them (R292), and those of the covered range its epoch holds only once a replay has written them again (R411; DEDUCED, assumption 21). -/
def effBuoySeal (f : RR) (s : State) : Eff :=
  let xa := s.rx f.a
  let xb := s.rx f.b
  if xa.toNat % 4096 ≠ 0 then .trap 1 xa 0
  else withHit s xa true fun h =>
    if !pteDur h.w0 then .trap 1 xa 0
    else if xb.toNat % 8 ≠ 0 then .trap 1 xb 0
    else Sync.bind h.st (h.st.syncLoad s.cur xb 8) fun ws t =>
      match imageFault ws with
      | some v => .trap 1 v 0
      | none => .sleep (.seal f (t.releaseSet s.cur ++ t.lostSeen s.myGang s.myQtr) ws) t
/-- `buoy.seal` (R396). -/
def execBuoySeal (f : RR) (s : State) : Out := .next (s.issue (.buoySeal f) (effBuoySeal f))

/-- SEAL (R288, R298): the record stands in both copies at once, last in the coherence order of its home, and is visible at the
sealing quarter. Partials of its line are merged first (R279), and an error that a copy had there is gone (R388). -/
def State.sealRecord (s : State) (k slot loc : Nat) (ws : List Word) : State :=
  (List.range 8).foldl (fun (t : State) n =>
    let id := t.next
    let l := loc + 8 * n
    let q := qtrOfCtx k
    let t0 := t.tickNext.perform k id (home l) l 0xFF (ws.getD n 0) none none false false false
    let t1 := t0.setMemQ q ((t0.memQ q).setDword l 0xFF (ws.getD n 0))
    let t2 := t1.updOrd fun o => { o with
      prim := if s.copyWorks l false then Memory.setDword o.prim l 0xFF (ws.getD n 0) else o.prim
      mirr := if s.copyWorks l true then Memory.setDword o.mirr l 0xFF (ws.getD n 0) else o.mirr
      badPrim := if s.copyWorks l false then o.badPrim.filter (· ≠ l) else o.badPrim
      badMirr := if s.copyWorks l true then o.badMirr.filter (· ≠ l) else o.badMirr }
    match t2.writeAt id with
    | some w => t2.setWrite id { w with vis := w.vis ||| qbit q, durP := true, durM := true }
    | none => t2) ((s.mergeLine (lineOf loc)).encrypt slot loc)

/-- Steps 2 to 4 of R396 in the executing context. -/
def State.sealNow (s : State) (f : RR) (image : List Word) : Eff :=
  let xa := s.rx f.a
  withHit s xa true fun h =>
    let g := h.st.gang s.myGang
    let e := image.getD 0 0
    let ws := (image.take 3) ++ [g.sealName] ++ image.drop 4
    .done ((((h.st.sealRecord s.cur (pteKey h.w0) (h.loc + 64 * (e.toNat % 2)) ws).updGang s.myGang fun v =>
      { v with anchor := xa, lastEpoch := e }).journal 5 s.myGang xa.toNat).wx f.d e)

/-! ## `lh.st` (R397) -/

/-- Durable lines of a home quarter with a write that both copies have not taken. -/
def State.dirtyDurable (s : State) (q : Nat) : Nat :=
  ((s.ord.writes.filter fun e => isDurable e.2.loc && home e.2.loc = q && !s.durableAt e.2).map
    fun e => lineOf e.2.loc).eraseDups.length

/-- The effect of `lh.st` (R397). -/
def effLhSt (f : RR) (s : State) : Eff :=
  let xa := s.rx f.a
  let q := s.myQtr
  let p := partner q
  let g := s.gang s.myGang
  if 2 < xa.toNat then .trap 1 xa 0
  else .done (s.wx f.d (match xa.toNat with
    | 0 => BitVec.ofNat 64 (
        (if (s.quarterAt q).inService then 1 else 0) + (if (s.quarterAt p).inService then 2 else 0) +
        (if (s.quarterAt q).resync || (s.quarterAt p).resync then 4 else 0) + (if (s.quarterAt p).up then 8 else 0) +
        p * 2 ^ 8 + (min (s.dirtyDurable q) (2 ^ 32 - 1)) * 2 ^ 16)
    | 1 => g.anchor
    | _ => g.lastEpoch))
/-- `lh.st` (R397). -/
def execLhSt (f : RR) (s : State) : Out := .next (s.issue (.lhSt f) (effLhSt f))

/-! ## Choosing an epoch (R398) -/

/-- What n doublewords come to: their values, a failure, or a read that has to wait (R336, R296). -/
inductive Durable
  | ok (ws : List Word)
  | fails
  | waits
deriving DecidableEq, Repr

/-- The location and leaf of a byte that Bruris reads for a recovery: a walk that no core makes, so that no error of a table entry is
consumed (DESIGN CHOICE, assumption 109). -/
def State.recoveryLeaf (s : State) (core vf : Nat) (sup : Bool) (va : Word) : Except Nat (Nat × Word) :=
  match (s.vf vf).cfg with
  | none => .error 1
  | some c =>
    if 2 ^ 48 ≤ va.toNat then .error 7
    else match s.walkFrom (qtrOfCore core) c va.toNat none 4 0 ((if sup then c.sroot else c.uroot).getD 0) with
      | .error r => .error r
      | .ok (w0, _, level) => if pteR w0 then .ok (ptePage w0 + va.toNat % pageSize level, w0) else .error 2

/-- May a seal that covers a range of virtual addresses hold a location (R391): does a page of the range, as the tables stand, lie there? One
whose walk has to wait may. -/
def State.sealCovers (s : State) (core vf : Nat) (sup : Bool) (image : List Word) (loc : Nat) : Bool :=
  let lo := (image.getD 1 0).toNat
  let hi := lo + (image.getD 2 0).toNat
  (List.range ((hi + 2 ^ 16 - 1) / 2 ^ 16 - lo / 2 ^ 16)).any fun n =>
    let a := max lo ((lo / 2 ^ 16 + n) * 2 ^ 16)
    match s.recoveryLeaf core vf sup (BitVec.ofNat 64 a) with
    | .ok (p, _) => decide (dwordOf p ≤ loc) && decide (loc < p + (min hi ((a / 2 ^ 16 + 1) * 2 ^ 16) - a))
    | .error r => r = walkWaits
/-- Is the release of a seal complete: its set at `.rec`, the gang's lost writes of the covered range in it being written again (R396,
R411)? -/
def State.sealReleased (s : State) (k g : Nat) (ids : List Nat) (image : List Word) : Bool :=
  s.setComplete k 6 ids && ids.all fun i => match s.ord.lost.get? i with
    | some l => l.gang ≠ g || s.replaced l || !s.sealCovers (coreOfCtx k) (vfOf (s.gang g).vfq) (s.ctx k).sup image l.loc
    | none => true

/-- What a durable read of a doubleword delivers through a key slot: what a good copy holds, decrypted (R339, R388); none where both copies
have an error. -/
def State.durablePlain (s : State) (slot loc : Nat) : Option Word :=
  (s.durableWord loc).map fun w => match s.ord.keyed.get? (lineOf loc) with
    | none => w
    | some k => if k = s.keyOfSlot slot then w else scrambled loc k (s.keyOfSlot slot)

/-- n doublewords of a function at a virtual address, by durable reads (R388, R398). It fails where one fails translation, is not durable
(R396), or is poisoned. -/
def State.durableRead (s : State) (core vf : Nat) (sup : Bool) (va : Word) : Nat → Durable
  | 0 => .ok []
  | n + 1 =>
    match s.recoveryLeaf core vf sup va with
    | .error r => if r = walkWaits then .waits else .fails
    | .ok (at_, w0) =>
      let loc := dwordOf at_
      if !isDurable loc then .fails
      else if !s.redsSettled (home loc) loc then .waits
      else match s.durablePlain (pteKey w0) loc with
        | none => .fails
        | some w => match State.durableRead s core vf sup (va + 8) n with
          | .ok ws => .ok (w :: ws)
          | r => r

/-- Does the body that a seal record covers, bytes BASE to BASE + LEN - 1, have its digest (R398)? In a record that the program wrote itself,
BASE and LEN may be any (R390). -/
def State.sealPasses (s : State) (core vf : Nat) (sup : Bool) (ws : List Word) : Durable :=
  let base := ws.getD 1 0
  let len := (ws.getD 2 0).toNat
  let skip := base.toNat % 8
  match s.durableRead core vf sup (base &&& ~~~(7 : Word)) (if len = 0 then 0 else (skip + len + 7) / 8) with
  | .ok body => if Sha3.digest (((body.flatMap wordBytes).drop skip).take len) = ws.drop 4 then .ok ws else .fails
  | r => r

/-- A candidate: the seal record of a slot, if it names the gang and passes. -/
def State.candidate (s : State) (core : Nat) (g : Gang) (va : Word) : Durable :=
  match s.durableRead core (vfOf g.vfq) g.sup va 8 with
  | .ok ws => if ws.getD 0 0 ≠ 0 && ws.getD 3 0 = g.sealName then s.sealPasses core (vfOf g.vfq) g.sup ws else .fails
  | r => r

/-- The candidates of a gang's anchor. -/
def State.candidates (s : State) (core : Nat) (g : Gang) : List Durable :=
  if g.anchor = 0 then [] else [s.candidate core g g.anchor, s.candidate core g (g.anchor + 64)]

/-- CHOOSE_EPOCH (R398): the passing record of the gang with the highest EPOCH. -/
def State.chooseEpoch (s : State) (core : Nat) (g : Gang) : Option (List Word) :=
  (s.candidates core g).foldl (fun best r => match r with
    | .ok ws => match best with
      | none => some ws
      | some b => if (b.getD 0 0).toNat < (ws.getD 0 0).toNat then some ws else best
    | _ => best) none

/-- The buoy record of a context in the covered half: the lowest address wins (R401). -/
def State.findRecord (s : State) (core vf : Nat) (sup : Bool) (epoch : Word) (ctx lcore : Nat) (va : Word) : Nat → Option (List Word)
  | 0 => none
  | n + 1 =>
    match s.durableRead core vf sup va 128 with
    | .ok ws =>
      if ws.getD 0 0 = epoch && (ws.getD 2 0).toNat % 16 = ctx && (ws.getD 2 0).toNat / 2 ^ 8 % 2 ^ 16 = lcore then some ws
      else State.findRecord s core vf sup epoch ctx lcore (va + 1024) n
    | _ => State.findRecord s core vf sup epoch ctx lcore (va + 1024) n

/-- The errors that durable reads meet, as a durable read or a sweep of each doubleword does: a correctable one is corrected, and a primary
copy with an error that the mirror still has is written back (R365, R366, R388). -/
def State.mendPrimaries (s : State) : State :=
  (s.ord.badPrim.filter fun a => (s.quarterAt (partner (home a))).inService && !s.ord.badMirr.contains a).foldl
    (fun t a => (t.logAt 1 a).repairPrimary a) ((s.ord.soft.filter isDurable).foldl State.correct s)

/-! ## Entering a block from outside the program (R156, R344, R401) -/

/-- Context k enters a location at a release tick. A location outside the code bounds, in a region freed by force, or whose
header fails the check, traps with TPC the location and BEND = 0. -/
def State.enterAt (s : State) (k : Nat) (loc : Word) : State :=
  let blk := pcBlock loc
  let idx := pcIndex loc
  let s0 := s.updCtx k fun c => { c with pc := loc, mode := .ready }
  if !(s.ctx k).inCode blk then s0.takeTrap k 5 false (BitVec.ofNat 64 blk) 0
  else if (s.gang ((s.gangOfCore (coreOfCtx k)).getD 0)).gone blk then s0.takeTrap k 6 false loc 0
  else
    let (h, s1) := s0.fetch (coreOfCtx k) blk
    if !headerOk h then s1.takeTrap k 1 false (BitVec.ofNat 64 blk) 0
    else if hdrLen h < idx then s1.takeTrap k 1 false loc 0
    else s1.updCtx k fun c => { c.entered with hdr := h }

/-- First block of a role in a launch image, 0xFFFFFFFF for none (R126, R155). -/
def Image.first (im : Image) (role : Nat) : BitVec 32 :=
  match role with
  | 0 => im.firstT
  | 1 => im.firstC
  | _ => im.firstA

/-- The control context of a core with the entry registers of R126, not yet in a block. -/
def entryCtx (im : Image) (rank gangdim : BitVec 32) (sup : Bool) : Ctx :=
  let c0 := { Ctx.reset with mode := .halted, tyard := im.trapyard, cbase := im.cbase, cbound := im.cbound, sup := sup }
  let c1 := im.regs.foldl (fun (c : Ctx) e => c.wx (BitVec.ofNat 5 e.1) e.2) c0
  ((c1.wx 3 (gangdim.zeroExtend 64)).wx 2 (rank.zeroExtend 64)).wx 1 im.params

/-- A control context starts at its role's first block, or in HALTED where the image names none (R126). -/
def State.startControl (s : State) (core : Nat) (g : Gang) : State :=
  let sh := s.shed (shedOfCore core)
  let s1 := s.setCtx (11 * core) (entryCtx g.image sh.rank sh.gangdim g.sup)
  let first := g.image.first (roleOf core)
  if first = 0xFFFFFFFF then s1
  else s1.enterAt (11 * core) (mkPc 0 (s.arenaBase (11 * core) + 8 * first.toNat))

/-! ## State-import blocks (R347) -/

/-- A commit that an import block's contexts left queued goes with them. -/
def State.dropImport (s : State) (core : Nat) : State :=
  s.updGang ((s.gangOfCore core).getD 0) fun g => g.withdraw fun m => coreOfCtx m.ctx = core && !m.aside
/-- A core whose contexts are held aside enters an import block directly, in a fresh control context with the state of R115: `TYARD`, `CBASE`
and `CBOUND` come from the control context held aside, and x1 is the address of the feature's saved state in the save area, which the spec
does not place (assumption 46). The block's own fetches obey the bounds of the code arena (DESIGN CHOICE, assumption 107). -/
def State.enterImport (s0 : State) (blk core : Nat) : State :=
  let k := 11 * core
  let gn := (s0.gangOfCore core).getD 0
  let s := s0.dropImport core
  let sh := s.shed (shedOfCore core)
  let held := (s.core core).aside.headD .reset
  let arena : Nat × Nat := match (s.vf (s.vfOfCore core)).cfg with
    | some c => (c.abase / 8, (c.abase + c.asize) / 8)
    | none => (0, 0)
  let c0 : Ctx := { Ctx.reset with
    mode := .ready, pc := mkPc 0 blk, tyard := held.tyard, cbase := held.cbase, cbound := held.cbound, sup := held.sup
    inBase := BitVec.ofNat 64 arena.1, inBound := BitVec.ofNat 64 arena.2 }
  let c1 := ((c0.wx 3 (sh.gangdim.zeroExtend 64)).wx 2 (sh.rank.zeroExtend 64)).wx 1 (BitVec.ofNat 64 (Config.freeChoice s.free))
  let s1 := (ctxsOfCore core).foldl (fun t j => t.setCtx j (Ctx.start j)) { s with free := s.free + 1 }
  let s2 := s1.setCtx k c1
  if (s.gang gn).gone blk then s2.takeTrap k 6 false (mkPc 0 blk) 0
  else
    let (h, s3) := s2.fetch core blk
    if !headerOk h then s3.takeTrap k 1 false (BitVec.ofNat 64 blk) 0 else s3.updCtx k fun c => { c with hdr := h }
/-- The import blocks of a core run one after another, its saved contexts, their queued commits and its sequencer held aside until the last
has ended (R105). On a core that was saved while one ran, they follow it. -/
def State.startImports (s : State) (core : Nat) (blks : List Nat) : State :=
  match blks with
  | [] => s
  | b :: t =>
    if !(s.core core).aside.isEmpty then s.updCore core fun c => { c with imports := c.imports ++ blks }
    else ((s.updGang ((s.gangOfCore core).getD 0) fun g => g.setAside core).updCore core fun c =>
      { c with aside := (ctxsOfCore core).map s.ctx, asideSeq := c.seq, seq := .reset, imports := t }).enterImport b core
/-- An import block has ended: the next one is entered, or the contexts held aside resume in their saved states. -/
def State.endImport (s : State) (core : Nat) : State :=
  match (s.core core).imports with
  | b :: t => (s.updCore core fun c => { c with imports := t }).enterImport b core
  | [] =>
    let t := (ctxsOfCore core).zip (s.core core).aside |>.foldl (fun t e => t.setCtx e.1 e.2) s
    ((t.dropImport core).updGang ((s.gangOfCore core).getD 0) fun g => g.endAside core).updCore core fun v =>
      { v with aside := [], seq := v.asideSeq, asideSeq := .reset }

/-! ## The restart of a core (R401) -/

/-- The registers of a buoy record (R392, R401). -/
def restoredCtx (im : Image) (sup : Bool) (ws : List Word) : Ctx :=
  let who := ws.getD 2 0
  let csf := ws.getD 3 0
  let kv (i : Nat) : BitVec 16 := if i = 0 then 0xFFFF else (ws.getD (6 + (i - 1) / 4) 0).extractLsb' (16 * ((i - 1) % 4)) 16
  { Ctx.reset with
    x := Vector.ofFn fun (i : Fin 32) => if i.val = 0 then 0 else ws.getD (8 + i.val) 0
    v := Vector.ofFn fun (i : Fin 32) => (ws.getD (41 + 2 * i.val) 0 ++ ws.getD (40 + 2 * i.val) 0 : Quad)
    k := Vector.ofFn fun (i : Fin 8) => kv i.val
    c := Vector.ofFn fun (i : Fin 4) => csf.extractLsb' (4 * i.val) 4
    fstat := csf.extractLsb' 16 5
    tyard := csf.extractLsb' 24 8
    y0 := ws.getD 4 0
    y1 := ws.getD 5 0
    buoy := Vector.ofFn fun (i : Fin 4) => ws.getD (104 + i.val) 0
    notice := if who.getLsbD 24 then some (who.extractLsb' 25 5) else none
    cbase := im.cbase
    cbound := im.cbound
    sup := sup }

/-- How many collectives of a group the surviving members of a role have begun, where one that is done was begun (R401): the members of the
core's own gang for group 0, and of every gang for a fabric group. -/
def State.collsBegun (s : State) (gn core group : Nat) : Nat :=
  let role := roleOf core
  let live := (s.cores.filter fun e => e.1 ≠ core && roleOf e.1 = role && e.2.contained.isNone && match s.gangOfCore e.1 with
    | some g => decide (group ≠ 0) || g = gn
    | none => false).map (·.2)
  let saved := if group = 0 then [] else
    s.gangs.flatMap fun e => e.2.saved.flatMap fun p => (p.cores.drop role).take 1 |>.filter (·.contained.isNone)
  let done := (s.ord.colls.filter fun e => e.2.group = group && e.2.role = role && e.2.done.isSome &&
    (decide (group ≠ 0) || e.2.gang = gn)).map fun e => e.2.index + 1
  ((live ++ saved).map (Table.getD ·.colls group 0) ++ done).foldl max 0
/-- The groups in which a collective was begun. -/
def State.collGroups (s : State) : List Nat := (0 :: s.ord.colls.map fun e => e.2.group).eraseDups
/-- A member that restarts is in no collective any more: those that the others have begun complete without it (R401). -/
def State.leaveColls (s : State) (member : Nat) : State :=
  s.updOrd fun o => { o with colls := Table.mapVals (fun _ c => { c with joined := c.joined.del member }) o.colls }

/-- CORE_RESTART (R401): a core whose restart was answered, and whose self-test is passed or not asked for, resets, restores its
contexts from the chosen epoch, rejoins its gang and is released. The core of a die reset restarts only where its gang was restored since
(R364). -/
def execCoreRestart (core : Nat) (s : State) : Out :=
  match s.gangOfCore core with
  | none => .next s
  | some gn =>
    let g := s.gang gn
    let c := s.core core
    let me := g.lcore core
    if c.contained.isNone || c.restart ≠ 2 || !s.gangRuns gn || !(s.quarterAt (qtrOfCore core)).up ||
        (c.contained = some 4 && decide (g.releaseTick ≤ c.containedAt.toNat)) ||
        (s.shed (shedOfCore core)).withdrawn || (s.candidates core g).contains .waits then .next s
    else
      let peers := (g.cores.filter (· ≠ core)).map s.core |>.filter (·.contained.isNone)
      let arrivals := peers.foldl (fun m p => max m p.arrivals) g.episode
      let begun := s.collGroups.foldl (fun (t : Table Nat) n => Table.put t n (s.collsBegun gn core n)) []
      let fresh : Core := { Core.reset with cc := c.cc, ccSet := c.ccSet, arrivals := arrivals, colls := begun }
      -- Messages still on their way to the sealed mailboxes count as accepted (R362).
      let s0 := (c.port.foldl (fun t m => t.sentAccepted g m) (s.l1Flush core)).mendPrimaries.leaveColls (memberKey gn me)
      let s1 := s0.setCore core fresh
      let epoch := s1.chooseEpoch core g
      let recs := (List.range 11).map fun n => (n, match epoch with
        | none => none
        | some e => s1.findRecord core (vfOf g.vfq) g.sup (e.getD 0 0) n me (e.getD 1 0) ((e.getD 2 0).toNat / 1024))
      let s2 := s1.updGang gn fun v => { v with
        lost := v.lost.filter (· ≠ me)
        skip := if g.episode < arrivals then Table.put v.skip me arrivals else v.skip
        openEvents := if (v.lost.filter (· ≠ me)).isEmpty then 0 else v.openEvents }
      let s3 := (ctxsOfCore core).foldl (fun t k => t.setCtx k { Ctx.start k with tyard := g.image.trapyard }) s2
      let s4 := recs.foldl (fun t r => match r.2 with
        | some ws => (t.setCtx (11 * core + r.1) (restoredCtx g.image g.sup ws)).enterAt (11 * core + r.1) (ws.getD 1 0)
        | none => if r.1 = 0 then t.startControl core g else t) s3
      .next (s4.eachCtx g.cores fun d => { d with event := d.event &&& 0b10111 })

end Sys2Proof.Machine
end

