-- ==== Sys2Proof/Machine/Schedule.lean ====
section
/-! DEFINITION. Gangs from READY to COMPLETE: placement, launch, switch, save, restore (R125 to R127, R136 to R156, R168, R344,
R347). -/
namespace Sys2Proof.Machine

/-! ## Order within a queue (R133, R136) -/

/-- Has a command of a queue been accepted and completed? Of two commands with one SEQ, the later is meant: SEQ values up to 2^31 before
the expected one stand for the commands that the queue has accepted (assumption 61). -/
def State.cmdDone (s : State) (vfq : Nat) (seq : BitVec 32) : Bool :=
  let q := s.queue vfq
  let back := (q.expected - 1 - seq).toNat
  decide (back < 2 ^ 31) && decide (back < q.accepted) && !(q.cmds.any (·.seq = seq))

/-- May a command start (R136)? -/
def State.mayStart (s : State) (vfq : Nat) (c : Cmd) : Bool :=
  let earlier := (s.queue vfq).cmds.takeWhile (·.seq ≠ c.seq)
  earlier.all (·.started) && (!c.flags.getLsbD 0 || earlier.isEmpty) &&
  (!c.flags.getLsbD 1 || s.cmdDone (4 * vfOf vfq + c.depq.toNat % 4) c.depseq)

/-- Marks a command as started (R136). -/
def State.markStarted (s : State) (vfq : Nat) (seq : BitVec 32) : State :=
  (s.updQueue vfq fun q => { q with cmds := q.cmds.map fun c => if c.seq = seq then { c with started := true } else c }).journal 1
    vfq seq.toNat

/-- Is an UNLOAD with FORCE = 0 of an object accepted and not complete (R344)? -/
def State.unloadPending (s : State) (vf obj : Nat) : Bool :=
  (List.range 4).any fun i => (s.queue (4 * vf + i)).cmds.any fun c => c.kind = .unload obj false

/-- The image of a LAUNCH, or the status that refuses it (R133, R155). A PARAMS of 0 leaves the record's (R126). -/
def State.launchImage (s : State) (vf obj recIdx : Nat) (params : Word) : Except Nat Image :=
  match Table.get? (s.vf vf).objs obj with
  | none => .error 2
  | some o =>
    if o.pending then .error 2
    else match o.records[recIdx]? with
      | none => .error 11
      | some none => .error 11
      | some (some im) =>
        if (match (s.vf vf).paddock with
          | some p => decide (p.w < im.gw) || decide (p.h < im.gh)
          | none => true) then .error 3
        else .ok (if params = 0 then im else { im with params := params })

/-- GANG_READY (R139): every earlier command of the queue has started, the dependences are met and the object's load has ended. A
load that failed, or a record that does not fit, completes the LAUNCH, whose gang is then FAILED: R139 has no move for it (DESIGN CHOICE,
assumption 110). -/
def execGangReady (gang : Nat) (s : State) : Out :=
  let g := s.gang gang
  let q := s.queue g.vfq
  match q.cmds.find? (fun c => c.seq = g.seq) with
  | none => .next s
  | some c =>
    let obj := Table.get? (s.vf (vfOf g.vfq)).objs g.obj
    let waitedFor (o : Obj) : Bool := g.waits = some o.loadId
    let pending := match obj with
      | some o => o.pending && waitedFor o
      | none => false
    if g.state ≠ .waiting || q.exhausted || pending || !s.master.ready || !s.mayStart g.vfq c then .next s
    else if g.waits.isNone then
      .next ((s.updGang gang fun v => { v with state := .ready, runnable := s.next }).tickNext)
    else
      -- The load that it waited for failed where the number is free, or another load's (R133).
      let im := if (obj.map waitedFor).getD false then s.launchImage (vfOf g.vfq) g.obj g.recIdx g.params else .error 2
      match im with
      | .error st => .next (((s.markStarted g.vfq g.seq).updGang gang fun v => { v with state := .failed }).completeCmd g.vfq g.seq st 0)
      | .ok im => .next ((s.updGang gang fun v =>
          { v with state := .ready, runnable := s.next, image := im, clkreq := im.clkreq, waits := none }).tickNext)

/-! ## Placement (R141, R149) -/

/-- May a gang be placed on a shed: no gang on it, or one of `leaving`, in service, scrubbed, and on a die that is up (R141, R341,
R363, R364)? -/
def State.shedFree (s : State) (leaving : List Nat) (d : Nat) : Bool :=
  let h := s.shed d
  !h.withdrawn && !h.scrub && (s.quarterAt (qtrOfShed d)).up && match h.gang with
    | none => true
    | some g => leaving.contains g

/-- The first position of a w by h rectangle in a paddock: rows top to bottom, columns left to right (R141). -/
def State.position (s : State) (p : Rect) (leaving : List Nat) (w h : Nat) : Option (Nat × Nat) :=
  if p.w < w || p.h < h then none
  else ((List.range (p.h - h + 1)).flatMap fun j => (List.range (p.w - w + 1)).map fun i => (p.x + i, p.y + j)).find? fun c =>
    (List.range (w * h)).all fun n => s.shedFree leaving (shedAt (c.1 + n % w) (c.2 + n / w))

/-- Bytes of a gang's save area and of a paddock's spill area (R149). -/
def saveArea (w h : Nat) : Nat := 64 + 2359296 * (w * h)
def spillArea (p : Rect) : Nat := 327680 * (p.w * p.h)
/-- Gangs that hold a save area. -/
def GangState.holdsArea : GangState → Bool
  | .launching | .resident | .switching | .saved | .restoring => true
  | _ => false
/-- The save areas that a function's gangs hold, as first byte and last byte + 1. -/
def State.areas (s : State) (vf : Nat) : List (Nat × Nat) :=
  s.gangs.filterMap fun e => if vfOf e.2.vfq = vf && e.2.state.holdsArea then
    e.2.area.map fun a => (a, a + saveArea e.2.image.gw e.2.image.gh) else none
/-- The first place of a number of bytes in the pool, after the spill area and clear of the areas that are held: where in the rest of the
pool the master allocates an area is the model's choice (assumption 36). -/
def State.poolPlace (s : State) (vf : Nat) (p : Rect) (bytes : Nat) : Option Nat :=
  match (s.vf vf).cfg with
  | none => none
  | some c =>
    let held := s.areas vf
    ((c.spBase + spillArea p) :: held.map (·.2)).foldl (fun best a =>
      if decide (c.spBase + spillArea p ≤ a) && decide (a + bytes ≤ c.spBase + c.spSize) &&
          (held.all fun h => decide (a + bytes ≤ h.1) || decide (h.2 ≤ a)) then
        match best with
        | some b => some (min a b)
        | none => some a
      else best) none
/-- Has the pool room for a READY gang's save area? -/
def State.poolRoom (s : State) (vf : Nat) (p : Rect) (g : Gang) : Bool :=
  (s.poolPlace vf p (saveArea g.image.gw g.image.gh)).isSome

/-- Inserts a gang in the order of R141: class, then when it became runnable. -/
def State.insertGang (s : State) (e : Nat × Gang) : List (Nat × Gang) → List (Nat × Gang)
  | [] => [e]
  | x :: t =>
    let key (y : Gang) : Nat := (s.queue y.vfq).cls.toNat * 2 ^ 64 + y.runnable
    if key e.2 < key x.2 then e :: x :: t else x :: State.insertGang s e t

/-- The object that a gang was launched from, while it is loaded. -/
def State.objOf (s : State) (g : Gang) : Option Obj :=
  (Table.get? (s.vf (vfOf g.vfq)).objs g.obj).filter fun o => o.loadId = g.load
/-- Features that a saved gang had in hardware and this device lacks. -/
def State.missing (s : State) (g : Gang) : List Nat := (List.range 64).filter fun n => g.featLive.getLsbD n && !s.featureBit n
/-- The import block of each of them, by the bindings of the gang's object; none where one of them has no import block (R347). -/
def State.importBlocks (s : State) (g : Gang) : Option (List (Nat × Nat)) :=
  let binds := (s.objOf g).elim [] (·.binds)
  (s.missing g).mapM fun n => ((binds.find? fun b => b.1 = n).bind (·.2)).map fun blk => (n, blk)
/-- May a gang be placed: it is READY, or it is SAVED and this device has its features or their import blocks (R139, R347)? -/
def State.placeable (s : State) (g : Gang) : Bool := g.state = .ready || (g.state = .saved && (s.importBlocks g).isSome)
/-- The runnable gangs of a function, in order (R141, R172). -/
def State.runnable (s : State) (vf : Nat) : List (Nat × Gang) :=
  (s.gangs.filter fun e => vfOf e.2.vfq = vf && s.placeable e.2 && !(s.queue e.2.vfq).exhausted).foldr s.insertGang []

/-- Where a gang fits, if the gangs of `leaving` are gone. -/
def State.fits (s : State) (vf : Nat) (leaving : List Nat) (g : Gang) : Option (Nat × Nat) :=
  match (s.vf vf).paddock with
  | none => none
  | some p => if g.state = .ready && !s.poolRoom vf p g then none else s.position p leaving g.image.gw g.image.gh

/-- Assigns room to a gang; one that is launched starts with it, and gets a save area (R136, R149). -/
def State.place (s : State) (n : Nat) (g : Gang) (x y : Nat) : State :=
  let st : GangState := if g.state = .saved then .restoring else .launching
  let area := if g.state = .saved then g.area else (s.vf (vfOf g.vfq)).paddock.bind fun p =>
    s.poolPlace (vfOf g.vfq) p (saveArea g.image.gw g.image.gh)
  let g1 : Gang := { g with x0 := x, y0 := y, started := if g.state = .saved then g.started else s.next, state := st, area := area }
  let s1 := g1.sheds.foldl (fun t d => t.updShed d fun h => { h with gang := some n }) ((s.setGang n g1).tickNext)
  let s2 := if g.state = .saved then s1 else s1.markStarted g.vfq g.seq
  (s2.journal 3 n (shedAt x y)).askEvaluate

/-! ## A paddock that changes (R151) -/

/-- Sheds of one paddock that another does not hold. -/
def shedsOut (old new : Option Rect) : List Nat :=
  match old with
  | none => []
  | some p => p.sheds.filter fun d => match new with
    | some r => !r.has (shedX d) (shedY d)
    | none => true

/-- A resize takes effect once no gang of the function stands on a shed that leaves; until then such gangs are switched out, at one
timestamp. The sheds that leave wait for their scrub, and a shed that another function gave up comes in only after its own (R341). It waits
for a master (R154). -/
def State.settlePaddock (s : State) (vf : Nat) : State :=
  match (s.vf vf).resize with
  | none => s
  | some new =>
    if !s.master.ready then s else
    let out := shedsOut (s.vf vf).paddock new
    let come := shedsOut new (s.vf vf).paddock
    let on := s.gangs.filter fun e => e.2.sheds.any fun d => out.contains d && s.gangOfShed d = some e.1
    if !on.isEmpty then
      let stay := on.filter fun e => e.2.switchAt.isNone && e.2.state = .resident
      if stay.isEmpty then s else s.decideSwitches (stay.map (·.1)) false
    else if come.any fun d => (s.shed d).scrub then s
    else out.foldl (fun t d => t.updShed d fun h => { h with scrub := true }) (s.updVf vf fun v => { v with paddock := new, resize := none })

/-- Is a function between the stop of its gangs at a migration's source and their restore at its destination (R346)? -/
def State.moving (s : State) (vf : Nat) : Bool :=
  if (s.keeper.incoming.get? vf).isSome then decide (Table.getD s.keeper.migrating vf 0 < 3)
  else decide (2 ≤ Table.getD s.keeper.migrating vf 0)

/-- GANG_PLACE (R141): the first runnable gang of the paddock that fits gets its room, unless a resize is still to take effect or the
function is being moved away (R346). With no master, nothing is decided (R154), and a lay-up places nothing from its step 2 to its end (R405). -/
def execGangPlace (vf : Nat) (s0 : State) : Out :=
  if !s0.master.ready || s0.keeper.layAt.isSome then .next s0
  else
  let s := s0.settlePaddock vf
  .next (if (s.vf vf).resize.isSome || s.moving vf then s
    else match (s.runnable vf).findSome? fun e => (s.fits vf [] e.2).map fun p => (e, p) with
    | some (e, p) => s.place e.1 e.2 p.1 p.2
    | none => s)

/-! ## The launch (R125, R126, R156) -/

/-- A preloaded table in the arena, read through its key slot (R90, R331, R339). -/
def State.preload (s : State) (slot abase : Nat) (off : Word) : BitVec 8 × YardTable :=
  let a := abase + 8 * (off.toNat % 2 ^ 40)
  let rd (n : Nat) : Word := s.plain slot (home a) (a + 8 * n)
  let d := rd 0
  let count := (d.extractLsb' 16 7).toNat
  let isBad (n : Nat) : Bool := s.poisoned (home a) (dwordOf (a + 8 * n))
  let gen : YardGen := {
    fallback := rd 1, rel := none
    entries := (List.range count).foldl (fun t i => Table.put t i (rd (2 + 3 * i), rd (3 + 3 * i), rd (4 + 3 * i))) []
    bad := ((List.range count).filter fun i => isBad (2 + 3 * i) || isBad (3 + 3 * i) || isBad (4 + 3 * i)) ++
      (if isBad 1 then [64] else []) }
  (d.extractLsb' 0 8, { YardTable.reset with cur := gen, staging := gen, trapt := d.getLsbD 8 })

/-- A scratchpad that reads 0 with its tags empty; what was known of its doublewords is forgotten (R125, R341). -/
def State.clearPad (s : State) (d : Nat) : State :=
  let lo := padLoc d 0
  let hi := padLoc d Config.padBytes
  let inPad (a : Nat) : Bool := decide (lo ≤ a) && decide (a < hi)
  let s1 := (List.range 4).foldl (fun t q => t.setMemQ q (Memory.clear (t.memQ q) lo hi)) s
  (s1.updShed d fun h => { h with full := [], tagSet := [] }).updOrd fun o =>
    { o with writes := o.writes.filter fun e => !inPad e.2.loc, poison := o.poison.filter fun e => !inPad e.1,
             soft := o.soft.filter fun a => !inPad a }

/-- A core as a launch leaves it: its caches stay, but for the yard cache, which is the gang's. -/
def Core.launched (c : Core) : Core := { Core.reset with icache := c.icache, tlb := c.tlb, l1 := c.l1 }

/-- Steps 2 and 4 of R125 for one shed. -/
def State.launchShed (s : State) (n : Nat) (g : Gang) (d : Nat) : State :=
  let s1 := s.clearPad d
  let dim : BitVec 32 := BitVec.ofNat 32 (g.image.gw * 2 ^ 16 + g.image.gh)
  let s2 := s1.updShed d fun h => { Shed.reset with gang := some n, rank := BitVec.ofNat 32 (g.rankOf d), gangdim := dim,
                                                    tlb := h.tlb, withdrawn := h.withdrawn, scrub := h.scrub }
  let s3 := [3 * d, 3 * d + 1, 3 * d + 2].foldl (fun t c => t.updCore c Core.launched) s2
  ((List.range 33).map (33 * d + ·)).foldl (fun t k => t.setCtx k { Ctx.start k with tyard := g.image.trapyard }) s3

/-- Prefetch brings ranges of the arena into the instruction caches (R156). -/
def State.prefetch (s : State) (core abase : Nat) (ranges : List Word) : State :=
  ranges.foldl (fun t r => (List.range ((r.extractLsb' 40 24).toNat)).foldl (fun u i =>
    (u.fetch core (abase + 8 * ((r.extractLsb' 0 40).toNat + i))).2) t) s

/-- Are the dies of a gang's sheds up? A gang that is assigned and not released waits for a die that returns (R154, R364; assumption 35). -/
def State.diesUp (s : State) (g : Gang) : Bool := g.qtrs.all fun q => (s.quarterAt q).up

/-- GANG_RELEASE (R125): steps 2 to 5 of a launch whose evaluation has been made. -/
def execGangRelease (gang : Nat) (s : State) : Out :=
  let g0 := s.gang gang
  if g0.state ≠ .launching || s.power.evaluate || !s.diesUp g0 then .next s
  else
    let (abase, slot) := match (s.vf (vfOf g0.vfq)).cfg with
      | some c => (c.abase, c.arenaKey)
      | none => (0, 0)
    let g : Gang := { Gang.reset with
      vfq := g0.vfq, seq := g0.seq, state := .resident, obj := g0.obj, recIdx := g0.recIdx, params := g0.params,
      image := g0.image, x0 := g0.x0, y0 := g0.y0, runnable := g0.runnable, started := g0.started, releaseTick := s.now,
      clkreq := g0.image.clkreq, sup := g0.sup, freed := g0.freed, area := g0.area, load := g0.load,
      yards := g0.image.yards.foldl (fun t off => let e := s.preload slot abase off; Table.put t e.1.toNat e.2) [] }
    let s1 := g.sheds.foldl (fun t d => t.launchShed gang g d) (s.setGang gang g)
    let s2 := g.cores.foldl (fun t c => t.prefetch c abase g.image.prefetch) s1
    let s3 := g.sheds.foldl (fun t d => t.firstGrant d) s2
    .next (g.cores.foldl (fun t c => t.startControl c g) s3)

/-! ## Switches (R142, R144, R145) -/

/-- Is a gang on its way out? -/
def Gang.leaving (g : Gang) : Bool := g.state = .switching || g.switchAt.isSome
def State.leavers (s : State) (vf : Nat) : List Nat := (s.gangs.filter fun e => vfOf e.2.vfq = vf && e.2.leaving).map (·.1)

/-- Inserts a resident gang in the order in which gangs are switched out: lowest class first, then latest started. -/
def State.insertVictim (s : State) (e : Nat × Gang) : List (Nat × Gang) → List (Nat × Gang)
  | [] => [e]
  | x :: t =>
    let c (y : Gang) : Nat := (s.queue y.vfq).cls.toNat
    if c x.2 < c e.2 || (c x.2 = c e.2 && x.2.started < e.2.started) then e :: x :: t else x :: State.insertVictim s e t

/-- The fewest gangs of an order whose leaving gives a gang room, with the sheds that it then gets: of the shortest part of the order that
gives it room, those that stand on these sheds. -/
def State.victims (s : State) (vf : Nat) (g : Gang) (leaving : List Nat) : List (Nat × Gang) → Option (List Nat × List Nat)
  | [] => none
  | e :: t =>
    let l := e.1 :: leaving
    match s.fits vf l g with
    | some p =>
      let room := ({ g with x0 := p.1, y0 := p.2 } : Gang).sheds
      some (l.filter fun n => room.any fun d => s.gangOfShed d = some n, room)
    | none => State.victims s vf g l t

/-- A state in which a runnable gang stands on the sheds that it is to get, so that no later one gets them. -/
def State.reserve (s : State) (n : Nat) (room : List Nat) : State :=
  room.foldl (fun t d => t.updShed d fun h => { h with gang := some n }) s

/-- Gangs that the master switches out for the runnable gangs that do not fit, each in its turn (R141, R142): one that has room, or gets it
from gangs that leave already, asks for nobody. -/
def State.preempting (s : State) (vf : Nat) (gone : List Nat) : List (Nat × Gang) → List Nat
  | [] => []
  | u :: t =>
    match s.fits vf gone u.2 with
    | some p => State.preempting (s.reserve u.1 ({ u.2 with x0 := p.1, y0 := p.2 } : Gang).sheds) vf gone t
    | none =>
      let lower := (s.gangs.filter fun e => vfOf e.2.vfq = vf && e.2.state = .resident && !e.2.leaving && !gone.contains e.1 &&
        decide ((s.queue u.2.vfq).cls.toNat < (s.queue e.2.vfq).cls.toNat)).foldr s.insertVictim []
      match s.victims vf u.2 gone lower with
      | none => State.preempting s vf gone t
      | some (out, room) =>
        let new := out.filter fun n => !gone.contains n
        new ++ State.preempting (s.reserve u.1 room) vf (new ++ gone) t
def State.preempted (s : State) (vf : Nat) : List Nat := s.preempting vf (s.leavers vf) (s.runnable vf)

/-- GANG_SWITCH_DECIDE (R142, R144): gangs that must make room for gangs of a higher class leave, at one timestamp. A gang that is released
after the stop of a migration was asked for leaves too (R346). -/
def execGangSwitchDecide (gang : Nat) (s : State) : Out :=
  let g := s.gang gang
  let out := s.preempted (vfOf g.vfq)
  .next (if !s.master.ready then s
    else if out.contains gang then s.decideSwitches out false
    else if s.moving (vfOf g.vfq) && g.state = .resident && !g.leaving then s.decideSwitch gang false
    else s)

/-- Has a resident gang used the slice quantum (R142)? -/
def State.sliceUsed (s : State) (g : Gang) : Bool :=
  let quantum := match (s.vf (vfOf g.vfq)).cfg with
    | some c => 1000 * c.slice
    | none => 2000000
  g.state = .resident && !g.leaving && decide (g.releaseTick + quantum ≤ s.now)
/-- The gangs that leave where a gang has used its quantum (R142): with others of its class that have too where it takes several, it makes
room for the longest-waiting gang of its class that then fits, where only gangs of its class wait; none where it gives no room. -/
def State.sliceLeavers (s : State) (gang : Nat) : List Nat :=
  let g := s.gang gang
  let vf := vfOf g.vfq
  let cls := (s.queue g.vfq).cls
  let gone := s.leavers vf
  let waiting := (s.runnable vf).filter fun e => (s.fits vf gone e.2).isNone
  if !s.sliceUsed g || !waiting.all (fun e => (s.queue e.2.vfq).cls = cls) then []
  else
    let due := (gang, g) :: (s.gangs.filter fun e =>
      e.1 ≠ gang && vfOf e.2.vfq = vf && (s.queue e.2.vfq).cls = cls && s.sliceUsed e.2).foldr s.insertVictim []
    match waiting.findSome? fun e => s.victims vf e.2 gone due with
    | some (out, _) => out.filter fun n => !gone.contains n
    | none => []
/-- SLICE_EXPIRY (R142): they leave, this gang among them, at one timestamp. -/
def execSliceExpiry (gang : Nat) (s : State) : Out :=
  let out := s.sliceLeavers gang
  .next (if s.master.ready && out.contains gang then s.decideSwitches out false else s)

/-- A core's tile slice and conversion engine as a switch stops them: a running operation is parked on its record (R245, R255), and what was
parked on a fault walks again at resume. -/
def State.parkUnits (s : State) (core : Nat) : State :=
  let s1 := match s.tileHead core with
    | some o => if o.started && o.abort.isNone then s.setRowprog core 2 o else s
    | none => s
  let s2 := match (s1.core core).cvt.head? with
    | some o => if o.parked.isSome || decide (0 < o.done) then s1.setCvt core 2 o else s1
    | none => s1
  s2.updCore core fun v => { v with
    tiles := v.tiles.map fun o => { o with parked := none }
    cvt := v.cvt.map fun o => { o with parked := none } }
/-- At resume they continue, with STATE 1 (R245, R255). -/
def State.resumeUnits (s : State) (core : Nat) : State :=
  let parkedIn (w : Word) : Bool := w.extractLsb' 62 2 = (2 : BitVec 2)
  let s1 := match s.tileHead core with
    | some o => if parkedIn (s.core core).rowprog then s.setRowprog core 1 o else s
    | none => s
  match (s1.core core).cvt.head? with
  | some o => if parkedIn (s1.core core).cvtRec then s1.setCvt core 1 o else s1
  | none => s1

/-- What a gang's engine operations and contributions were parked on is given up: they are tried again at resume (R357). -/
def State.unparkGang (s : State) (gang : Nat) : State :=
  let cores := (s.gang gang).cores
  (s.orphan gang false).updOrd fun o => { o with
    engines := Table.mapVals (fun _ e => if cores.contains e.core then { e with parked := [] } else e) o.engines
    colls := Table.mapVals (fun _ c => { c with joined := Table.mapVals (fun k j =>
      if memberGang k = gang then { j with parked := none } else j) c.joined }) o.colls }
/-- SWITCH_STOP (R145): at T every context of the gang stops. A gang that is discarded fails there (R131, R342). -/
def execSwitchStop (gang : Nat) (s : State) : Out :=
  let g := s.gang gang
  match g.switchAt with
  | none => .next s
  | some t =>
    if s.now < t then .next s
    else if g.discard then .next (s.failGang gang 4)
    else
      let s1 := (s.unparkGang gang).updGang gang fun v => { v with state := .switching, switchAt := none }
      let s2 := g.ctxs.foldl (fun t k => t.updCtx k fun c => match c.mode with
        | .asleep (.fault _) => { c with mode := .ready }
        | _ => c) s1
      .next (g.cores.foldl (fun t c => t.parkUnits c) s2)

/-! ## Save and restore (R145 to R150, R168, R347) -/

/-- Numbers of contexts and cores within a gang, and back: what is saved names no position. -/
def Gang.relCtx (g : Gang) (k : Nat) : Nat := 11 * g.lcore (coreOfCtx k) + ctxNo k
def Gang.absCtx (g : Gang) (n : Nat) : Nat := 11 * g.coreOf (n / 11) + n % 11

/-- Stored bytes of a scratchpad on another shed; saved ones stand as on shed 0. -/
def Chunk.onShed (d : Nat) (c : Chunk) : Chunk :=
  if isPad c.loc then { c with loc := padLoc d ((c.loc - padBase) % Config.padBytes) } else c
/-- A context with its context numbers changed. What loads may have read ahead is no saved state (R148). -/
def Ctx.renumber (c : Ctx) (k : Nat → Nat) : Ctx := { c with hold := c.hold.map k, ahead := none }
/-- A core with its context and core numbers changed, and with its shed. -/
def Core.renumber (c : Core) (d : Nat) (k h : Nat → Nat) : Core :=
  let seq (q : Sequencer) : Sequencer := { q with owner := q.owner.map k }
  { c with tiles := c.tiles.map fun o => { o with ctx := k o.ctx, leader := h o.leader, carry := o.carry.map (Chunk.onShed d) }
           cvt := c.cvt.map fun o => { o with ctx := k o.ctx, carry := o.carry.map (Chunk.onShed d) }
           seq := seq c.seq, asideSeq := seq c.asideSeq, aside := c.aside.map fun a => a.renumber k }
def YardGen.renumber (y : YardGen) (h : Nat → Nat) : YardGen := { y with rel := y.rel.map fun r => { r with core := h r.core } }
def YardTable.renumber (y : YardTable) (k h : Nat → Nat) : YardTable :=
  { y with commits := y.commits.map fun m => { m with ctx := k m.ctx }, stale := [], cur := y.cur.renumber h,
           retained := y.retained.map fun r => (r.1, r.2.renumber h) }

/-- Renames the locations of one scratchpad in the records of performed writes; they are in view of every quarter. -/
def Order.movePad (o : Order) (d e : Nat) : Order :=
  { o with writes := Table.mapVals (fun _ w =>
      if isPad w.loc && padShed w.loc = d then
        { w with loc := padLoc e (w.loc - padLoc d 0), vis := 0xF, inbox := 0, co := some (w.co.getD 0) } else w) o.writes }

/-- What is saved of a shed. -/
def State.saveShed (s : State) (g : Gang) (d : Nat) : SavedShed :=
  let lo := padLoc d 0
  let hi := padLoc d Config.padBytes
  { shed := s.shed d
    cores := [3 * d, 3 * d + 1, 3 * d + 2].map fun c => (s.core c).renumber 0 g.relCtx g.lcore
    ctxs := (List.range 33).map fun i => (s.ctx (33 * d + i)).renumber g.relCtx
    pad := ((s.memQ (qtrOfShed d)).filter fun c => lo ≤ c.1 && c.1 < hi).map fun c => (c.1 - lo, c.2)
    poison := (((s.ord.poison.filter fun e => lo ≤ e.1 && e.1 < hi).map (·.1)) ++
      (s.ord.writes.filterMap fun e => if e.2.poison && lo ≤ e.2.loc && e.2.loc < hi then some e.2.loc else none)).eraseDups.filterMap
        fun a => if s.poisoned (home a) a then some (a - lo) else none }

/-- Bit n: the gang's object required feature n and this device served it in hardware (R347). -/
def State.liveFeatures (s : State) (g : Gang) : Word :=
  match s.objOf g with
  | some o => o.reqmask &&& s.feat0.zeroExtend 64
  | none => 0

/-- The save header is written through the pool's key: LAYOUT at offset 0 and FEATLIVE at offset 8 (R148, R149, R347). -/
def State.writeHeader (s : State) (g : Gang) (live : Word) : State :=
  match g.area, (s.vf (vfOf g.vfq)).cfg with
  | some a, some c => ((s.encrypt c.spKey a).writeAll a 0x03 (BitVec.ofNat 64 g.layout)).writeAll (a + 8) 0xFF live
  | _, _ => s

/-- SAVE_COMPLETE (R148): the accesses that had issued are performed, first-level caches are written back, the gang's state is in its save
area, and its sheds are free. The scratchpads that it leaves keep their bytes and tags, which a launch, a restore or a scrub replaces
(R125, R273, R341). -/
def execSaveComplete (gang : Nat) (s0 : State) : Out :=
  let g := s0.gang gang
  if g.state ≠ .switching || g.switchAt.isSome || !(g.ctxs.all fun k => (s0.ctx k).ops.isEmpty) then .next s0
  else
    -- The scratchpads are read as they are saved (R365).
    let read := g.sheds.foldl (fun t d => t.correctRange (padLoc d 0) (padLoc d Config.padBytes)) s0
    let s := (g.cores.foldl (fun t c => t.l1Flush c) read).unparkGang gang
    let mine (e : Nat × EngOp) : Bool := g.cores.contains e.2.core
    let engines := Table.mapVals (fun _ e => { e with core := g.lcore e.core, ctx := g.relCtx e.ctx }) (s.ord.engines.filter mine)
    let saved := g.sheds.map (s.saveShed g)
    let s1 := s.updOrd fun o =>
      let o1 := (g.sheds.zip (List.range g.sheds.length)).foldl (fun (o : Order) e => o.movePad e.1 (savedPadShed gang e.2)) o
      { o1.disown gang g.ctxs with engines := o1.engines.filter fun e => !mine e }
    let live := s.liveFeatures g
    let s3 := (s1.writeHeader g live).vacate gang
    let g1 : Gang := { g with
      state := .saved, switchAt := none, discard := false, saved := saved, engines := engines, runnable := s.next,
      featLive := live, yards := Table.mapVals (fun _ y => y.renumber g.relCtx g.lcore) g.yards }
    .next ((s3.setGang gang g1).tickNext.askEvaluate)

/-- Puts a saved shed back on a shed. A grammar engine's mask cache is not saved and comes back empty (R258). The tick that `clk.rd` 2 reads
where no grant change comes with the restore stays that of the launch or of the last change (R175; DESIGN CHOICE, assumption 29). -/
def State.restoreShed (s : State) (n : Nat) (g : Gang) (d rank : Nat) (p : SavedShed) : State :=
  let old := s.shed d
  let s1 := (s.clearPad d).setShed d { p.shed with
    gang := some n, tlb := old.tlb, withdrawn := old.withdrawn, scrub := old.scrub
    clkGrant := p.shed.clkGrant &&& ~~~(0x80000000 : Word) }
  let s2 := (p.cores.zip [0, 1, 2]).foldl (fun t e =>
    let here := t.core (3 * d + e.2)
    t.setCore (3 * d + e.2) { e.1.renumber d g.absCtx g.coreOf with
      ptr := 10, icache := here.icache, tlb := here.tlb, l1 := [], yardCache := []
      grammar := e.1.grammar.map fun g => { g with cache := [] } }) s1
  let s3 := (p.ctxs.zip (List.range 33)).foldl (fun t e => t.setCtx (33 * d + e.2) (e.1.renumber g.absCtx)) s2
  let s4 := (List.range 4).foldl (fun t q =>
    t.setMemQ q (p.pad.foldl (fun m c => Memory.set m (padLoc d c.1) c.2) (t.memQ q))) s3
  let s5 := (s4.updOrd fun o => o.movePad (savedPadShed n rank) d).tickNext
  s5.updOrd fun o => { o with poison := p.poison.foldl (fun l a => Table.put l (padLoc d a) s4.next) o.poison }

/-- The import blocks that a core runs before its saved contexts resume: for feature 2 only where its grammar engine was configured. -/
def State.importsOf (s : State) (core : Nat) (blks : List (Nat × Nat)) : List Nat :=
  (blks.filter fun b => b.1 ≠ 2 || (roleOf core = 1 && (s.core core).grammar.isSome)).map (·.2)

/-- A restored context whose location lies in a region freed by force takes the code-gone trap; what it sleeps at is given up (R344). -/
def State.codeGone (s : State) (g : Gang) (k : Nat) (held : Bool := false) : State :=
  let c := s.ctx k
  let stays := match c.mode with
    | .ready | .asleep _ | .blockEnd => true
    | .exiting r _ => decide (r.toNat ≤ 1)
    | _ => false
  if stays && (s.core (coreOfCtx k)).contained.isNone && g.gone (pcBlock c.pc) then (s.unsleep k held).takeTrap k 6 false c.pc 0 else s
/-- The same for the contexts that a core holds aside, and its sequencer with them (R347). -/
def State.codeGoneAside (s : State) (g : Gang) (core : Nat) : State :=
  let v := s.core core
  if v.aside.isEmpty then s
  else
    let mine := ctxsOfCore core
    let put (t : State) (l : List Ctx) : State := (mine.zip l).foldl (fun t e => t.setCtx e.1 e.2) t
    let t := mine.foldl (fun t k => t.codeGone g k true)
      ((put s v.aside).updCore core fun c => { c with aside := [], seq := v.asideSeq, asideSeq := .reset })
    -- A trap that cannot be dispatched has contained the core (R351).
    if (t.core core).contained.isSome then t
    else (put t (mine.map s.ctx)).updCore core fun c => { c with aside := mine.map t.ctx, seq := v.seq, asideSeq := c.seq }

/-- The event bits of a context whose gang is restored (R172): bit 4 is set where E is at its level then, and has cleared where a period has
begun since that it was set in. -/
def Queue.bit4 (q : Queue) (c : Ctx) : BitVec 5 :=
  if q.atLevel && c.mode.live then c.event ||| 0b10000 else if q.warned then c.event else c.event &&& 0b01111
/-- RESTORE_RELEASE (R150): the gang is put back and released at one tick. A gang whose device lacks a feature it had, with no import block
for it, is not placed at all (R347, `State.placeable`). -/
def execRestoreRelease (gang : Nat) (s : State) : Out :=
  let g := s.gang gang
  if g.state ≠ .restoring || s.power.evaluate || !s.diesUp g then .next s
  else
    let blks := (s.importBlocks g).getD []
    let ranked := g.sheds.zip (List.range g.sheds.length)
    let s1 := (ranked.zip g.saved).foldl (fun t e => t.restoreShed gang g e.1.1 e.1.2 e.2) s
    let g1 : Gang := { g with
      state := .resident, saved := [], engines := [], releaseTick := s.now
      yards := Table.mapVals (fun _ y => y.renumber g.absCtx g.coreOf) g.yards }
    let s2 := g.cores.foldl (fun t c => t.resumeUnits c) (s1.setGang gang g1)
    let far (e : EngOp) : Nat := (farShed { s2 with cur := e.ctx } e.func e.desc).getD (shedOfCore e.core)
    let back := Table.mapVals (fun _ e =>
      let e1 : EngOp := { e with core := g.coreOf e.core, ctx := g.absCtx e.ctx }
      { e1 with far := far e1 }) g.engines
    let s3 := s2.updOrd fun o => { o with engines := back.foldl (fun t e => Table.put t e.1 e.2) o.engines }
    let s4 := g.sheds.foldl (fun t d => if grantView (t.shed d).clkGrant = t.grantCodes d then t else t.landGrant g1 d) s3
    let s5 := s4.eachCtx g.cores fun c => { c with event := (s.queue g.vfq).bit4 c }
    let s6 := g.cores.foldl (fun t c => t.codeGoneAside g1 c) (g.ctxs.foldl (fun t k => t.codeGone g1 k) s5)
    .next (g.cores.foldl (fun t c => t.startImports c (t.importsOf c blks)) s6)

/-! ## Completion (R127, R137) -/

/-- Is a gang at its end: every control context HALTED, every helper IDLE, every message accepted, every counter 0? -/
def State.gangDone (s : State) (g : Gang) : Bool :=
  (g.ctxs.all fun k =>
    let c := s.ctx k
    c.mode = (if ctxNo k = 0 then .halted else .idle) && c.ld = 0 && c.st = 0 && c.cp = 0 && c.tl = 0) &&
  g.cores.all fun c => (s.core c).port.isEmpty

/-- GANG_COMPLETE (R127, R139). A gang that a STOP has failed does not complete before it is discarded (R131). -/
def execGangComplete (gang : Nat) (s : State) : Out :=
  let g := s.gang gang
  if g.state ≠ .resident || g.discard || !s.gangDone g || !s.master.ready || !s.gangPerformed gang g then .next s
  else
    let s1 := ((s.vacate gang).orphan gang true).updGang gang fun v => { v with state := .complete, switchAt := none, area := none }
    let s2 := (s1.completeCmd g.vfq g.seq 0 (BitVec.ofNat 64 g.lostCount)).askEvaluate
    .next (if g.sup then s2.supervisorGone (vfOf g.vfq) else s2)

end Sys2Proof.Machine
end

