-- ==== Sys2Proof/Machine/Commands.lean ====
section
/-! DEFINITION. Command queues: acceptance, LAUNCH, LOAD, UNLOAD, STOP, QUERY and their completion records (R128 to R137, R344,
R415). -/
namespace Sys2Proof.Machine

/-! ## Records (R134) -/

/-- Sends one completion record to a queue's source. -/
def State.sendRecord (s : State) (n : Nat) (seq : BitVec 32) (vfq : BitVec 16) (tag : Word) (status : Nat) (info : Word) : State :=
  s.updQueue n fun q => { q with sent := { seq := seq, status := BitVec.ofNat 16 status, vfq := vfq, tag := tag,
                                           time := s.gtime, info := info, names := none } :: q.sent }

end Sys2Proof.Machine

namespace Sys2Proof

/-- The queue a packet names (R130). -/
def Packet.queue (p : Packet) : Nat := (p.vfq.extractLsb' 0 12).toNat
/-- The header check of R130; `body` says whether the body has the form of R131. -/
def Packet.wellFormed (p : Packet) (body : Bool) : Bool :=
  p.flags.extractLsb' 2 6 = (0 : BitVec 6) && p.vfq.extractLsb' 12 4 = (0 : BitVec 4) && p.depq.extractLsb' 2 6 = (0 : BitVec 6) &&
  p.rsv1 = 0 && p.rsv2 = 0 && p.len.toNat = p.body.length && body
/-- A little-endian field of the body. -/
def Packet.field (p : Packet) (off n : Nat) : Nat := Machine.leAt p.body off n

end Sys2Proof

namespace Sys2Proof.Machine

/-- The record of a command message: SEQ, VFQ and TAG as in the message (R134). -/
def State.answer (s : State) (p : Packet) (status : Nat) (info : Word) : State :=
  s.sendRecord p.queue p.seq p.vfq p.tag status info
/-- A command that is accepted and completes in the same step. -/
def State.completeNow (s : State) (p : Packet) (status : Nat) (info : Word) : State :=
  (s.answer p status info).journal 4 p.queue p.seq.toNat

/-- What the front end does with a command message: it is accepted, or dealt with here (R129, R130, R132). -/
inductive Receipt
  | accepted (s : State)
  | ended (s : State)

/-- A record that stands for a completed command, not for a refusal. -/
def Completion.completes (c : Completion) : Bool := c.status ≠ 1 && c.status ≠ 9 && c.status ≠ 10

/-- A command is accepted: its queue expects the next SEQ, and the journal has a record (R132, R153). -/
def State.accept (s : State) (p : Packet) : State :=
  let q := s.queue p.queue
  (s.setQueue p.queue { q with expected := q.expected + 1, accepted := q.accepted + 1 }).journal 0 p.queue p.seq.toNat

/-- The front end's checks: a command of another source is dropped and counted; a malformed one gets status 1; a duplicate gets its
record again; another SEQ gets status 9, and a full queue 10. A paused parser acknowledges nothing (R405), nor
does one without a master (R154): the transport delivers the message again. -/
def State.receive (s : State) (p : Packet) (body : Bool) : Receipt :=
  let n := p.queue
  let q := s.queue n
  if s.keeper.paused || !s.master.ready then .ended s
  else if q.source ≠ some p.src then .ended (s.setQueue n { q with dropped := q.dropped + 1 })
  else if !p.wellFormed body then .ended (s.answer p 1 0)
  else if p.seq ≠ q.expected then
    if (q.expected - p.seq).toNat ≤ 256 then
      .ended (match q.sent.find? fun r => r.seq = p.seq && r.completes with
        | some r => s.setQueue n { q with sent := r :: q.sent }
        | none => s)
    else .ended (s.answer p 9 0)
  else if 256 ≤ q.cmds.length then .ended (s.answer p 10 0)
  else .accepted (s.accept p)

/-- Puts an accepted command at the end of its queue. -/
def State.enqueue (s : State) (p : Packet) (kind : CmdKind) (started : Bool) : State :=
  let c : Cmd := { seq := p.seq, flags := p.flags, depseq := p.depseq, depq := p.depq, tag := p.tag, kind := kind, started := started }
  s.updQueue p.queue fun q => { q with cmds := q.cmds ++ [c] }

/-- A command that completes by itself: a LAUNCH completes with its gang (R137). -/
def CmdKind.ownRecord (k : CmdKind) : Bool :=
  match k with
  | .launch _ => false
  | _ => true
/-- The commands of a queue that complete by themselves complete with a status; the object number of a LOAD among them is free again (R131,
R152, R342). INFO is 0 wherever R134 names no content for it, as in the record of a LOAD that never ran (DESIGN CHOICE, assumption 133). -/
def State.endCommands (s : State) (vfq status : Nat) : State :=
  let mine := (s.queue vfq).cmds.filter (·.kind.ownRecord)
  let loads := mine.filterMap fun c => match c.kind with
    | .load obj _ => some obj
    | _ => none
  (mine.foldl (fun t c => t.completeCmd vfq c.seq status 0) s).updVf (vfOf vfq) fun v =>
    { v with objs := v.objs.filter fun e => !(e.2.pending && loads.contains e.1) }

/-! ## UNLOAD (R344) -/

/-- Saved contexts, those held aside among them, whose location, `TPC` or buoy lies in a region. -/
def State.savedIn (s : State) (o : Obj) : Nat :=
  ((s.gangs.filter fun e => e.2.state = .saved).flatMap fun e => e.2.savedCtxs).countP fun c => c.pointsInto o.base (o.base + o.size)
/-- Is a gang's LAUNCH one of an object: of the load that the object came with, whatever a number named before or names later? -/
def Gang.isOf (g : Gang) (vf : Nat) (o : Obj) : Bool := vfOf g.vfq = vf && g.load = o.loadId
/-- The reference count of a loaded region. -/
def State.refCount (s : State) (vf : Nat) (o : Obj) : Nat :=
  s.gangs.countP (fun e => e.2.isOf vf o && e.2.state ≠ .complete && e.2.state ≠ .failed) + s.savedIn o

/-- Frees a region; by force, the gangs of the function that are not at their end remember it, but for those that wait for the load of their
code. -/
def State.freeObj (s : State) (vf obj : Nat) (o : Obj) (force : Bool) : State :=
  let s1 := s.updVf vf fun v => { v with objs := v.objs.del obj }
  let mark (g : Gang) : Gang :=
    if vfOf g.vfq = vf && g.state ≠ .complete && g.state ≠ .failed && g.waits.isNone then { g with freed := (o.base, o.base + o.size) :: g.freed }
    else g
  if force then { s1 with gangs := Table.mapVals (fun _ g => mark g) s1.gangs } else s1

/-- A started UNLOAD goes on: it completes once the count is zero, or, by force, once no gang of the object stands on a shed. -/
def State.tryUnload (s : State) (vfq : Nat) (seq : BitVec 32) (obj : Nat) (force : Bool) : State :=
  let vf := vfOf vfq
  match Table.get? (s.vf vf).objs obj with
  | none => s.completeCmd vfq seq 2 0
  | some o =>
    if !force then
      if s.refCount vf o = 0 then (s.freeObj vf obj o false).completeCmd vfq seq 0 0 else s
    else
      let here := s.gangs.filter fun e => e.2.isOf vf o &&
        (e.2.state = .resident || e.2.state = .switching || e.2.state = .launching || e.2.state = .restoring)
      let on := here.filter fun e => e.2.state = .resident && e.2.switchAt.isNone
      if here.isEmpty then (s.freeObj vf obj o true).completeCmd vfq seq 0 0
      else if on.isEmpty then s
      else s.decideSwitches (on.map (·.1)) false

/-! ## The queue's own progress (R131, R136) -/

/-- A STOP completes once every command before it has. -/
def State.settleStop (s : State) (vfq : Nat) : State :=
  match (s.queue vfq).cmds.head? with
  | some c => if c.kind = .stop then s.completeCmd vfq c.seq 0 0 else s
  | none => s

/-- A LOAD or UNLOAD starts (R83, R344). A LOAD whose walk cannot end yet starts in a later turn. -/
def State.startCommand (s : State) (vfq : Nat) (c : Cmd) : State :=
  let s1 := s.markStarted vfq c.seq
  match c.kind with
  | .load obj image =>
    match s1.loadObject (vfOf vfq) obj image with
    | .ok t => t.completeCmd vfq c.seq 0 0
    | .error st =>
      if st = loadWaits then s
      else (s1.updVf (vfOf vfq) fun v => { v with objs := v.objs.del obj }).completeNaming vfq c.seq 0 (BitVec.ofNat 64 st)
        (if st = 3 then (parseMbz image).toOption.bind s1.unmet else none)
  | .unload obj force =>
    match Table.get? (s1.vf (vfOf vfq)).objs obj with
    | some o => if o.pending then s1.completeCmd vfq c.seq 2 0 else s1.tryUnload vfq c.seq obj force
    | none => s1.completeCmd vfq c.seq 2 0
  | _ => s

/-- A queue's turn: records that its gangs owe are sent, a STOP at its head completes, a started UNLOAD goes on, or the oldest LOAD or UNLOAD
that may start does. Without a master nothing moves (R154). -/
def State.commandTurn (s : State) (vfq : Nat) : State :=
  if !s.master.ready then s else
  let s1 := (s.payQueue vfq).settleStop vfq
  let s2 := (s1.queue vfq).cmds.foldl (fun t c => match c.kind with
    | .unload obj force => if c.started then t.tryUnload vfq c.seq obj force else t
    | _ => t) s1
  match (s2.queue vfq).cmds.find? (fun c => !c.started) with
  | none => s2
  | some c => match c.kind with
    | .load _ _ => if s2.mayStart vfq c then s2.startCommand vfq c else s2
    | .unload _ _ => if s2.mayStart vfq c then s2.startCommand vfq c else s2
    | _ => s2

/-! ## The commands (R131) -/

/-- Has a function a supervisor gang already, launched and not at its end (R331)? -/
def State.hasSupervisor (s : State) (vf : Nat) : Bool :=
  s.gangs.any fun e => e.2.sup && vfOf e.2.vfq = vf && e.2.state ≠ .complete && e.2.state ≠ .failed

/-- LAUNCH (R131, R133): a new gang, WAITING; or the status of a refusal. An object still pending in a LOAD is waited for. -/
def execLaunch (p : Packet) (s : State) : Out :=
  match s.receive p (p.body.length = 16) with
  | .ended t => .next t
  | .accepted t =>
    let vf := vfOf p.queue
    let obj := p.field 0 4
    let recIdx := p.field 4 4
    let params := BitVec.ofNat 64 (p.field 8 8)
    let pending := match Table.get? (t.vf vf).objs obj with
      | some o => o.pending
      | none => false
    let im := if t.unloadPending vf obj then .error 2 else if pending then .ok Image.reset else t.launchImage vf obj recIdx params
    match im with
    | .error st => .next (t.completeNow p st 0)
    | .ok im =>
      let sup := match (t.vf vf).cfg with
        | some c => c.supQueue = some (p.queue % 4)
        | none => false
      let load := (Table.get? (t.vf vf).objs obj).elim 0 (·.loadId)
      let g : Gang := { Gang.reset with vfq := p.queue, seq := p.seq, obj := obj, recIdx := recIdx, params := params, image := im,
                                        clkreq := im.clkreq, sup := sup && !t.hasSupervisor vf, load := load,
                                        waits := if pending then some load else none }
      .next (((t.setGang t.next g).updVf vf fun v => { v with clean := false }).tickNext.enqueue p (.launch t.next) false)

/-- A LOAD takes its object number and stands in its queue (R83). -/
def State.withLoad (s : State) (p : Packet) : State :=
  let hold : Obj := { name := [], base := 0, size := 0, records := [], reqmask := 0, binds := [], covers := [], entry := 0,
                      imports := none, pending := true, loadId := s.next }
  (s.tickNext.updVf (vfOf p.queue) fun v => { v with objs := Table.put v.objs (p.field 0 4) hold, clean := false }).enqueue p
    (.load (p.field 0 4) (p.body.drop 8)) false

/-- LOAD (R83, R131): the object number is taken at acceptance; the load runs once its turn has come. -/
def execLoad (p : Packet) (s : State) : Out :=
  match s.receive p (decide (8 ≤ p.body.length) && p.field 4 4 = 0) with
  | .ended t => .next t
  | .accepted t =>
    let obj := p.field 0 4
    .next (if obj = 0 || (Table.get? (t.vf (vfOf p.queue)).objs obj).isSome then t.completeNow p 0 10
      else (t.withLoad p).commandTurn p.queue)

/-- UNLOAD (R344). -/
def execUnload (p : Packet) (s : State) : Out :=
  match s.receive p (p.body.length = 8 && decide (p.field 4 4 ≤ 1)) with
  | .ended t => .next t
  | .accepted t => .next ((t.enqueue p (.unload (p.field 0 4) (p.field 4 4 = 1)) false).commandTurn p.queue)

/-- STOP (R131): every gang of the queue fails, a resident one at a timestamp, with every command accepted before it; the STOP completes
once they have. -/
def execStopCommand (p : Packet) (s : State) : Out :=
  match s.receive p p.body.isEmpty with
  | .ended t => .next t
  | .accepted t =>
    let n := p.queue
    let t2 := t.endCommands n 4
    let mine := t2.gangs.filter fun e => e.2.vfq = n && e.2.state ≠ .complete && e.2.state ≠ .failed
    let runs (e : Nat × Gang) : Bool := Gang.runs e.2 t2.now
    let t3 := (mine.filter fun e => !runs e).foldl (fun u e => u.failGang e.1 4)
      (t2.decideSwitches ((mine.filter runs).map (·.1)) true)
    .next ((t3.enqueue p .stop true).settleStop n)

/-- The state code that QUERY reports (R415). -/
def State.queryCode (s : State) (c : Cmd) : Nat :=
  match c.kind with
  | .launch g => match (s.gang g).state with
    | .waiting => 1 | .ready => 2 | .launching => 3 | .resident => 4 | .switching => 5 | .saved => 6 | .restoring => 7
    | .complete => 8 | .failed => 9
  | _ => if c.started then 10 else 1

/-- QUERY (R131, R415). It is answered at its acceptance, and its DPREV and DSEQ are ignored: R131 has it complete at once, R136 lets only
STOP go out of turn (DESIGN CHOICE, assumption 129). -/
def execQuery (p : Packet) (s : State) : Out :=
  match s.receive p p.body.isEmpty with
  | .ended t => .next t
  | .accepted t =>
    let q := t.queue p.queue
    let code := match q.cmds.head? with
      | some c => t.queryCode c
      | none => 0
    .next (t.completeNow p 0 (BitVec.ofNat 64 (code + 2 ^ 8 * q.cmds.length)))

/-- UNKNOWN_OPC (R131): refused with status 1, whatever else the message holds. -/
def execUnknownOpc (p : Packet) (opc : Byte) (s : State) : Out :=
  let n := p.queue
  let q := s.queue n
  .next (if s.keeper.paused || (1 ≤ opc.toNat && opc.toNat ≤ 5) then s
    else if q.source ≠ some p.src then s.setQueue n { q with dropped := q.dropped + 1 }
    else s.answer p 1 0)

/-- DROPPED_PACKET (R128): a packet that needs an option not supported counts in its port's drop counter. Port number 4 q + i is port i
of quarter q. -/
def execDroppedPacket (port : Nat) (s : State) : Out :=
  let q := s.quarterAt (port / 4)
  let i : Fin 4 := ⟨port % 4, Nat.mod_lt _ (by decide)⟩
  .next (s.setQuarter (port / 4) { q with drops := q.drops.set i (q.drops[i] + 1) })

end Sys2Proof.Machine
end

