-- ==== Sys2Proof/Machine/KeeperCpu.lean ====
section
/-! DEFINITION. The keeper's RV32IMC processor and its 256 KiB of memory (R14, R369). The spec names the processor and leaves its
instruction set to RISC-V's own manual: the encodings and meanings here are those of RV32I, M and C (PRESUMED, assumption 117). -/
namespace Sys2Proof.Machine

/-! ## Fields and words -/

/-- Bytes of the tightly coupled memory (R14). -/
def tcmBytes : Nat := 262144
/-- n bits of a word from a place. -/
def rvBits (w lo n : Nat) : Nat := w / 2 ^ lo % 2 ^ n
/-- An n-bit number as a signed one, modulo 2^32. -/
def rvSext (n v : Nat) : BitVec 32 := (BitVec.ofNat n v).signExtend 32
/-- The words of the I, R, S, B, U and J forms. An immediate is taken modulo its width. -/
def rvI (imm rs1 f3 rd op : Nat) : Nat := imm % 2 ^ 12 * 2 ^ 20 + rs1 * 2 ^ 15 + f3 * 2 ^ 12 + rd * 2 ^ 7 + op
def rvR (f7 rs2 rs1 f3 rd op : Nat) : Nat := f7 * 2 ^ 25 + rs2 * 2 ^ 20 + rs1 * 2 ^ 15 + f3 * 2 ^ 12 + rd * 2 ^ 7 + op
def rvS (imm rs2 rs1 f3 op : Nat) : Nat :=
  rvBits imm 5 7 * 2 ^ 25 + rs2 * 2 ^ 20 + rs1 * 2 ^ 15 + f3 * 2 ^ 12 + rvBits imm 0 5 * 2 ^ 7 + op
def rvB (imm rs2 rs1 f3 : Nat) : Nat :=
  rvBits imm 12 1 * 2 ^ 31 + rvBits imm 5 6 * 2 ^ 25 + rs2 * 2 ^ 20 + rs1 * 2 ^ 15 + f3 * 2 ^ 12 + rvBits imm 1 4 * 2 ^ 8 +
    rvBits imm 11 1 * 2 ^ 7 + 0x63
def rvJ (imm rd : Nat) : Nat :=
  rvBits imm 20 1 * 2 ^ 31 + rvBits imm 1 10 * 2 ^ 21 + rvBits imm 11 1 * 2 ^ 20 + rvBits imm 12 8 * 2 ^ 12 + rd * 2 ^ 7 + 0x6F

/-! ## Compressed instructions -/

/-- Quadrant 0 of the C extension, as the word of the instruction that it stands for. -/
def rvQuad0 (h : Nat) : Option Nat :=
  let rd := 8 + rvBits h 2 3
  let rs := 8 + rvBits h 7 3
  let wide := rvBits h 7 4 * 64 + rvBits h 11 2 * 16 + rvBits h 5 1 * 8 + rvBits h 6 1 * 4
  let off := rvBits h 5 1 * 64 + rvBits h 10 3 * 8 + rvBits h 6 1 * 4
  match rvBits h 13 3 with
  | 0 => if wide = 0 then none else some (rvI wide 2 0 rd 0x13)
  | 2 => some (rvI off rs 2 rd 0x03)
  | 6 => some (rvS off rd rs 2 0x23)
  | _ => none
/-- Quadrant 1. -/
def rvQuad1 (h : Nat) : Option Nat :=
  let rd := rvBits h 7 5
  let rs := 8 + rvBits h 7 3
  let rs2 := 8 + rvBits h 2 3
  let imm6 := (rvSext 6 (rvBits h 12 1 * 32 + rvBits h 2 5)).toNat
  let jump := (rvSext 12 (rvBits h 12 1 * 2048 + rvBits h 8 1 * 1024 + rvBits h 9 2 * 256 + rvBits h 6 1 * 128 + rvBits h 7 1 * 64 +
    rvBits h 2 1 * 32 + rvBits h 11 1 * 16 + rvBits h 3 3 * 2)).toNat
  let branch := (rvSext 9 (rvBits h 12 1 * 256 + rvBits h 5 2 * 64 + rvBits h 2 1 * 32 + rvBits h 10 2 * 8 + rvBits h 3 2 * 2)).toNat
  let sp16 := rvBits h 12 1 * 512 + rvBits h 3 2 * 128 + rvBits h 5 1 * 64 + rvBits h 2 1 * 32 + rvBits h 6 1 * 16
  match rvBits h 13 3 with
  | 0 => some (rvI imm6 rd 0 rd 0x13)
  | 1 => some (rvJ jump 1)
  | 2 => some (rvI imm6 0 0 rd 0x13)
  | 3 =>
    if rvBits h 12 1 = 0 && rvBits h 2 5 = 0 then none
    else if rd = 2 then some (rvI (rvSext 10 sp16).toNat 2 0 2 0x13)
    else some (imm6 % 2 ^ 20 * 2 ^ 12 + rd * 2 ^ 7 + 0x37)
  | 4 =>
    match rvBits h 10 2 with
    | 0 => if rvBits h 12 1 = 1 then none else some (rvI (rvBits h 2 5) rs 5 rs 0x13)
    | 1 => if rvBits h 12 1 = 1 then none else some (rvI (1024 + rvBits h 2 5) rs 5 rs 0x13)
    | 2 => some (rvI imm6 rs 7 rs 0x13)
    | _ =>
      if rvBits h 12 1 = 1 then none
      else match rvBits h 5 2 with
        | 0 => some (rvR 32 rs2 rs 0 rs 0x33)
        | 1 => some (rvR 0 rs2 rs 4 rs 0x33)
        | 2 => some (rvR 0 rs2 rs 6 rs 0x33)
        | _ => some (rvR 0 rs2 rs 7 rs 0x33)
  | 5 => some (rvJ jump 0)
  | 6 => some (rvB branch 0 rs 0)
  | _ => some (rvB branch 0 rs 1)
/-- Quadrant 2. -/
def rvQuad2 (h : Nat) : Option Nat :=
  let rd := rvBits h 7 5
  let rs2 := rvBits h 2 5
  let load := rvBits h 2 2 * 64 + rvBits h 12 1 * 32 + rvBits h 4 3 * 4
  let store := rvBits h 7 2 * 64 + rvBits h 9 4 * 4
  match rvBits h 13 3 with
  | 0 => if rvBits h 12 1 = 1 then none else some (rvI rs2 rd 1 rd 0x13)
  | 2 => if rd = 0 then none else some (rvI load 2 2 rd 0x03)
  | 4 =>
    if rvBits h 12 1 = 0 then
      if rs2 ≠ 0 then some (rvR 0 rs2 0 0 rd 0x33) else if rd = 0 then none else some (rvI 0 rd 0 0 0x67)
    else if rs2 ≠ 0 then some (rvR 0 rs2 rd 0 rd 0x33)
    else if rd = 0 then none else some (rvI 0 rd 0 1 0x67)
  | 6 => some (rvS store rs2 2 2 0x23)
  | _ => none

/-! ## Registers and memory -/

/-- A register; x0 reads 0. -/
def KeeperCpu.rd (c : KeeperCpu) (n : Nat) : BitVec 32 := if n % 32 = 0 then 0 else c.x[n % 32]'(Nat.mod_lt _ (by decide))
/-- Writes a register; x0 discards. -/
def KeeperCpu.wr (c : KeeperCpu) (n : Nat) (v : BitVec 32) : KeeperCpu :=
  if n % 32 = 0 then c else { c with x := c.x.set (n % 32) v (Nat.mod_lt _ (by decide)) }
/-- n bytes of the memory; none where one lies outside it. -/
def KeeperCpu.load (c : KeeperCpu) (a n : Nat) : Option Nat :=
  if tcmBytes < a + n then none
  else some ((List.range n).foldr (fun i m => (Memory.get c.tcm (a + i)).toNat + 256 * m) 0)
/-- Stores the n low bytes of a value; none where one lies outside the memory. -/
def KeeperCpu.store (c : KeeperCpu) (a n : Nat) (v : BitVec 32) : Option KeeperCpu :=
  if tcmBytes < a + n then none
  else some { c with tcm := (List.range n).foldl (fun m i => Memory.set m (a + i) (v.extractLsb' (8 * i) 8)) c.tcm }

/-! ## Meanings -/

/-- OP and OP-IMM without the M extension; `alt` is bit 30, as SUB and the arithmetic shift have it. -/
def rvAlu (f3 : Nat) (alt : Bool) (a b : BitVec 32) : BitVec 32 :=
  match f3 with
  | 0 => if alt then a - b else a + b
  | 1 => a <<< (b.toNat % 32)
  | 2 => if a.slt b then 1 else 0
  | 3 => if a.ult b then 1 else 0
  | 4 => a ^^^ b
  | 5 => if alt then a.sshiftRight (b.toNat % 32) else a >>> (b.toNat % 32)
  | 6 => a ||| b
  | _ => a &&& b
/-- The M extension. -/
def rvMul (f3 : Nat) (a b : BitVec 32) : BitVec 32 :=
  match f3 with
  | 0 => a * b
  | 1 => BitVec.ofInt 32 (a.toInt * b.toInt / 2 ^ 32)
  | 2 => BitVec.ofInt 32 (a.toInt * (b.toNat : Int) / 2 ^ 32)
  | 3 => BitVec.ofNat 32 (a.toNat * b.toNat / 2 ^ 32)
  | 4 => if b = 0 then -1 else a.sdiv b
  | 5 => if b = 0 then -1 else a / b
  | 6 => if b = 0 then a else a.srem b
  | _ => if b = 0 then a else a % b
/-- Is a branch taken? None for no branch. -/
def rvTaken (f3 : Nat) (a b : BitVec 32) : Option Bool :=
  match f3 with
  | 0 => some (a = b)
  | 1 => some (a ≠ b)
  | 4 => some (a.slt b)
  | 5 => some (!a.slt b)
  | 6 => some (a.ult b)
  | 7 => some (!a.ult b)
  | _ => none

/-- One instruction word of `len` bytes. None where the processor stands still: at a word that is no instruction of RV32IM, at ECALL and
EBREAK, and at an access outside its memory, behind which the spec puts nothing (DESIGN CHOICE, assumption 118). -/
def KeeperCpu.word (c : KeeperCpu) (w len : Nat) : Option KeeperCpu :=
  let rd := rvBits w 7 5
  let f3 := rvBits w 12 3
  let f7 := rvBits w 25 7
  let a := c.rd (rvBits w 15 5)
  let b := c.rd (rvBits w 20 5)
  let immI := rvSext 12 (rvBits w 20 12)
  let immS := rvSext 12 (rvBits w 25 7 * 32 + rvBits w 7 5)
  let immB := rvSext 13 (rvBits w 31 1 * 4096 + rvBits w 7 1 * 2048 + rvBits w 25 6 * 32 + rvBits w 8 4 * 2)
  let immJ := rvSext 21 (rvBits w 31 1 * 2 ^ 20 + rvBits w 12 8 * 4096 + rvBits w 20 1 * 2048 + rvBits w 21 10 * 2)
  let immU : BitVec 32 := BitVec.ofNat 32 (rvBits w 12 20 * 4096)
  let next := c.pc + BitVec.ofNat 32 len
  let write (v : BitVec 32) : Option KeeperCpu := some { c.wr rd v with pc := next }
  match rvBits w 0 7 with
  | 0x37 => write immU
  | 0x17 => write (c.pc + immU)
  | 0x6F => some { c.wr rd next with pc := c.pc + immJ }
  | 0x67 => if f3 ≠ 0 then none else some { c.wr rd next with pc := (a + immI) &&& 0xFFFFFFFE }
  | 0x63 => (rvTaken f3 a b).map fun t => { c with pc := if t then c.pc + immB else next }
  | 0x03 =>
    let at_ := (a + immI).toNat
    let sext (n : Nat) (v : Nat) : KeeperCpu := { c.wr rd (rvSext n v) with pc := next }
    let zext (v : Nat) : KeeperCpu := { c.wr rd (BitVec.ofNat 32 v) with pc := next }
    match f3 with
    | 0 => (c.load at_ 1).map (sext 8)
    | 1 => (c.load at_ 2).map (sext 16)
    | 2 => (c.load at_ 4).map zext
    | 4 => (c.load at_ 1).map zext
    | 5 => (c.load at_ 2).map zext
    | _ => none
  | 0x23 => if 2 < f3 then none else (c.store (a + immS).toNat (2 ^ f3) b).map fun d => { d with pc := next }
  | 0x13 =>
    if f3 = 1 && f7 ≠ 0 || f3 = 5 && f7 ≠ 0 && f7 ≠ 32 then none else write (rvAlu f3 (f3 = 5 && f7 = 32) a immI)
  | 0x33 =>
    if f7 = 1 then write (rvMul f3 a b)
    else if f7 = 0 || (f7 = 32 && (f3 = 0 || f3 = 5)) then write (rvAlu f3 (f7 = 32) a b)
    else none
  | 0x0F => if f3 = 0 then some { c with pc := next } else none
  | _ => none

/-- The processor's next instruction, of two bytes or of four. -/
def KeeperCpu.next (c : KeeperCpu) : Option KeeperCpu := do
  let h ← c.load c.pc.toNat 2
  if h % 4 = 3 then c.word (← c.load c.pc.toNat 4) 4
  else
    let w ← (match h % 4 with
      | 0 => rvQuad0 h
      | 1 => rvQuad1 h
      | _ => rvQuad2 h)
    c.word w 2

/-- The processor as a firmware image's code starts it: the code from the memory's first byte on, every register and the pc 0
(DESIGN CHOICE, assumption 118). -/
def KeeperCpu.boot (code : List Byte) : KeeperCpu :=
  { x := Vector.replicate 32 0, pc := 0, tcm := Memory.fill [] 0 (code.take tcmBytes) }

/-! ## Turns of the keeper (R369) -/

/-- The keeper's processor runs one instruction, unless the keeper is lost. -/
def State.keeperTurn (s : State) : State :=
  if s.keeper.lost then s
  else match s.keeper.cpu.next with
    | none => s
    | some c => { s with keeper := { s.keeper with cpu := c } }
/-- The keeper is lost. -/
def State.loseKeeper (s : State) : State := { s with keeper := { s.keeper with lost := true } }
/-- The keeper is back, or takes up the management commands that wait: they come first of all turns, in their order. One that still has to wait
comes to wait again. -/
def State.keeperBack (s : State) : State :=
  { s with keeper := { s.keeper with lost := false, waiting := [] }, turns := s.keeper.waiting.map Turn.managed ++ s.turns }

end Sys2Proof.Machine
end

