-- ==== Sys2Proof/Machine/Moves.lean ====
section
/-! DEFINITION. The moves of the order machine (R278, R279, R288 to R296) as events of the table, and the consumption of poison
(R360). An event whose condition does not hold changes nothing. -/
namespace Sys2Proof.Machine

/-! ## The end of an operation -/

/-- Removes an operation from a context. -/
def State.dropOp (s : State) (k id : Nat) : State :=
  s.updCtx k fun c => { c with ops := c.ops.filter (·.id ≠ id) }
/-- st falls when the last operation of a group is gone (R300). -/
def State.finishStore (s : State) (k : Nat) (o : Op) : State :=
  let t := s.dropOp k o.id
  if (t.ctx k).ops.any (·.grp == o.grp) then t else t.updCtx k Ctx.decSt

/-! ## PERFORM, PROPAGATE and APPLY (R288) -/

/-- The effect of a buffered operation that leaves the write buffer, but for its counter. -/
def State.performOp (s : State) (k : Nat) (o : Op) : State :=
  let q := qtrOfCtx k
  let gang := (s.gangOfCore (coreOfCtx k)).getD 0
  match o.kind with
  | .write loc mask val tag _ _ =>
    ((s.encrypt o.key loc).perform k o.id q loc mask val tag (s.relOf k o) false false false).lineWrite (coreOfCtx k) loc o.hint
  | .tag loc full => s.tagWrite loc (some full) none
  | .yardEntry t i v m a => s.updGang gang fun g =>
      let y := g.yard t
      g.setYard t { y with staging := { y.staging with entries := Table.put y.staging.entries i.toNat (v, m, a)
                                                       bad := y.staging.bad.filter (· ≠ i.toNat) } }
  | .yardFallback t a => s.updGang gang fun g =>
      let y := g.yard t
      g.setYard t { y with staging := { y.staging with fallback := a, bad := y.staging.bad.filter (· ≠ 64) } }
  | .line inval loc scope =>
    let s1 := s.lineClean (coreOfCtx k) loc scope inval
    if isDurable loc && decide (3 ≤ scope.toNat) then s1.durableLine loc else s1
  -- An injected error has its place among the writes of the doubleword (R372); an uncorrectable one is found and logged (R360, R366).
  | .inject poison loc =>
    if !poison then (s.updOrd fun w => { w with soft := natInsert w.soft loc }).tickNext
    else ((s.updOrd fun w =>
      if isDurable loc then { w with poison := w.poison.put loc s.next, badPrim := natInsert w.badPrim loc,
                                     badMirr := natInsert w.badMirr loc }
      else { w with poison := w.poison.put loc s.next }).logAt 1 loc).tickNext
  | _ => s

/-- Has every write of a doubleword by a quarter's contexts its place in coherence order? -/
def State.placed (s : State) (q loc : Nat) : Bool :=
  s.ord.writes.all fun e => !(e.2.loc == loc && e.2.org == q && e.2.co.isNone)
/-- May a buffered operation be performed, as far as reductions go (R279, R296)? An injected error is performed at the doubleword, after the
stores before it (R365, R372). -/
def State.performable (s : State) (k : Nat) (o : Op) : Bool :=
  let q := qtrOfCtx k
  match o.kind with
  | .write loc _ _ _ _ _ => s.redsSettled q loc
  | .line _ loc _ => (List.range 8).all fun i => !s.hasPartial (lineOf loc + 8 * i)
  | .inject _ loc => s.redsSettled q loc && s.placed q loc
  | .tag _ _ => true
  | .yardEntry _ _ _ _ _ => true
  | .yardFallback _ _ => true
  | _ => false

/-- PERFORM (R288). -/
def execPerform (ctx op : Nat) (s : State) : Out :=
  match (s.ctx ctx).findOp op with
  | none => .next s
  | some o =>
    if s.mayMove ctx o && s.performable ctx o then .next ((s.performOp ctx o).finishStore ctx o) else .next s

/-- PROPAGATE (R288). -/
def execPropagate (write quarter : Nat) (s : State) : Out :=
  if !s.mayPropagate write quarter then .next s
  else match s.writeAt write with
    | none => .next s
    | some w => .next (s.setWrite write { w with inbox := w.inbox ||| qbit quarter })

/-- An atomic whose write has become visible at its own quarter completes: the register takes the old value (R288, R310). -/
def State.completeAmo (s : State) (id quarter : Nat) : State :=
  match s.ctxs.find? fun e => qtrOfCtx e.1 = quarter && e.2.ops.any (·.id == id) with
  | none => s
  | some (k, c) =>
    match c.findOp id with
    | some o => match o.kind with
      | .amo _ _ off size _ _ (some d) _ _ (some old) =>
        (s.dropOp k id).updCtx k fun v => (v.wx d (extend false (8 * size) (subValue old off size))).decLd
      | _ => s
    | none => s

/-- APPLY (R288). -/
def execApply (write quarter : Nat) (s : State) : Out :=
  if s.mayApply write quarter then .next ((s.applyWrite write quarter).completeAmo write quarter) else .next s

/-! ## READ (R288) -/

/-- Bytes of part `i` of a read that its result takes. -/
def neededBytes (d : Dest) (i : Nat) (locs : List Nat) : BitVec 8 :=
  match d with
  | .x _ off size _ => byteMask off size
  | .vraw _ m => if m.extractLsb' 0 8 = (0 : BitVec 8) || i = 1 then m.extractLsb' 8 8 else m.extractLsb' 0 8
  | .vdec _ _ _ _ _ _ _ _ _ => if locs.isEmpty then 0 else 0xFF

/-- The stored code of element i of the eight at a byte of a doubleword (R191, R194). -/
def elemCode (fmt doff i : Nat) (w : Word) : Nat :=
  if fmt = 9 then w.toNat / 2 ^ (8 * doff + 4 * i) % 16 else w.toNat / 2 ^ (8 * (doff + i)) % 256
/-- The raw scale at a byte of the scale's doublewords. -/
def scaleCode (sc soff : Nat) (lo hi : Word) : Nat :=
  (lo.toNat + 2 ^ 64 * hi.toNat) / 2 ^ (8 * soff) % 2 ^ (8 * (if sc = 1 then 2 else 1))

/-- The register write of a finished read (R304, R305). -/
def Ctx.deliver (c : Ctx) (d : Dest) (vs : List Word) : Ctx :=
  match d with
  | .x r off size sext => c.wx r (extend sext (8 * size) (subValue (vs.getD 0 0) off size))
  | .vraw r m =>
    let lo := if m.extractLsb' 0 8 = (0 : BitVec 8) then 0 else vs.getD 0 0
    let hi := if m.extractLsb' 0 8 = (0 : BitVec 8) then vs.getD 0 0 else vs.getD 1 0
    c.wv r ((List.range 16).foldl (fun v i =>
      if m.getLsbD i then putLane v 8 i (lane (hi ++ lo : Quad) 8 i) else v) (c.rv r))
  | .vdec r m fmt sc _ doff soff slot _ =>
    let scale := scaleCode sc soff (vs.getD 1 0) (vs.getD 2 0)
    c.wv r ((List.range 8).foldl (fun v i =>
      if m.getLsbD i then putLane v 16 i (decodeElem fmt slot sc (elemCode fmt doff i (vs.getD 0 0)) scale) else v) (c.rv r))

/-- One part of a pending read, where its READ may be taken: its doubleword. -/
def State.readable (s : State) (k : Nat) (o : Op) (part : Nat) : Option Nat :=
  match o.kind with
  | .read dst locs got acq =>
    match locs[part]? with
    | none => none
    | some loc =>
      if (got.get? part).isNone && s.mayMove k { o with kind := .read dst [loc] [] acq } && s.redsSettled (qtrOfCtx k) loc
      then some loc else none
  | _ => none

/-- The hint and the key slot that a part of a read uses: a scale has those of its own page (R305, R333). -/
def Dest.how (d : Dest) (part : Nat) (own : BitVec 2 × Nat) : BitVec 2 × Nat :=
  match d with
  | .vdec _ _ _ _ _ _ _ _ via => if part = 0 then own else via.getD (part - 1) own
  | _ => own

/-- What READ takes of a doubleword, and the state that has observed it (R288, R293): what M_q holds under what the context forwards; or
what M_q held when a `waita` before it read (R314). -/
def State.takeRead (s : State) (k : Nat) (o : Op) (slot loc : Nat) : Word × State :=
  match s.readsAhead k o loc with
  | some a => (forwardOver (s.ctx k).ops o.id loc (Memory.dword a.mem loc),
      ({ s with free := s.free + 1 }).updCtx k fun c => c.see o.id false (s.observedBy (fun id _ => a.vis.contains id) loc))
  | none =>
    let look (c : Ctx) : Ctx := { c with ahead := c.ahead.map fun a => { a with read := natInsert a.read loc } }
    (s.readVal k o.id slot loc, (if (s.ctx k).ahead.isSome then { s with free := s.free + 1 } else s).updCtx k fun c =>
      (look c).see o.id o.kind.acquires (s.observed (qtrOfCtx k) loc))

/-- READ (R288): not of a doubleword whose poison it would consume. -/
def execRead (ctx op part : Nat) (s : State) : Out :=
  match (s.ctx ctx).findOp op with
  | none => .next s
  | some o => match o.kind, s.readable ctx o part with
    | .read dst locs got acq, some loc =>
      if s.readPoisoned ctx op loc (neededBytes dst part locs) then .next s
      else
        let how := dst.how part (o.hint, o.key)
        let r := s.takeRead ctx o how.2 loc
        let got1 := got.put part r.1
        let s1 := (r.2.lineRead (coreOfCtx ctx) loc how.1).correct loc
        if got1.length = locs.length then
          .next ((s1.dropOp ctx op).updCtx ctx fun c => (c.deliver dst (got1.map (·.2))).decLd)
        else .next (s1.updCtx ctx fun c => { c with ops := c.ops.map fun p =>
          if p.id = op then { p with kind := .read dst locs got1 acq } else p })
    | _, _ => .next s

/-! ## ATOMIC, REDUCE and MERGE (R278, R279, R288, R310 to R312) -/

/-- May an atomic's ATOMIC be taken, apart from poison? -/
def State.atomicReady (s : State) (k : Nat) (o : Op) (loc : Nat) : Bool :=
  let h := home loc
  s.mayMove k o && s.allVis h (s.vis (qtrOfCtx k)) && s.redsSettled h loc

/-- ATOMIC (R288). -/
def execAtomic (ctx op : Nat) (s : State) : Out :=
  match (s.ctx ctx).findOp op with
  | none => .next s
  | some o => match o.kind with
    | .amo fn loc off size b c ret scope set none =>
      if !s.atomicReady ctx o loc || s.poisoned (home loc) loc then .next s
      else
        let h := home loc
        let old := s.plain o.key h loc
        let new := amoNew fn (8 * size) (subValue old off size) (b.toNat % 2 ^ (8 * size)) (c.toNat % 2 ^ (8 * size))
        -- A `red.*` is never an acquire (R312).
        let s1 := if ret.isSome then s.updCtx ctx fun v => v.see op true (s.observed h loc) else s
        let s2 := (((s1.encrypt o.key loc).perform ctx op h loc (byteMask off size) (putValue old off size new) none (s.relOf ctx o)
          true false false).lineWrite (coreOfCtx ctx) loc o.hint).correct loc
        if ret.isNone then
          .next ((match s2.writeAt op with
            | some w => s2.setWrite op { w with redn := true }
            | none => s2).finishStore ctx o)
        else
          let s3 := s2.updCtx ctx fun v => { v with ops := v.ops.map fun p =>
            if p.id = op then { p with kind := .amo fn loc off size b c ret scope set (some old) } else p }
          .next (if h = qtrOfCtx ctx then s3.completeAmo op h else s3)
    | _ => .next s

/-- MERGE (R288). -/
def execMerge (line : Nat) (s : State) : Out :=
  .next (if (List.range 4).any fun q => ((s.partialsQ q).get? (lineOf line)).isSome then s.mergeLine (lineOf line) else s)

/-- REDUCE (R278, R288): a partial of another operation or size is merged first. -/
def execReduce (ctx op : Nat) (s : State) : Out :=
  match (s.ctx ctx).findOp op with
  | none => .next s
  | some o => match o.kind with
    | .red fn loc off size b =>
      if !s.mayMove ctx o then .next s
      else
        let q := qtrOfCtx ctx
        let line := lineOf loc
        let s1 := match (s.partialsQ q).get? line with
          | some p => if p.fn = fn && p.size = size then s.encrypt o.key loc else (s.mergeLine line).encrypt o.key loc
          | none => s.encrypt o.key loc
        let p := ((s1.partialsQ q).get? line).getD
          { fn := fn, size := size, dws := (List.range 8).map fun i => (line + 8 * i, identityWord fn size), reds := [] }
        let w := p.dws.getD loc (identityWord fn size)
        let new := amoNew fn (8 * size) (subValue w off size) (b.toNat % 2 ^ (8 * size)) 0
        let s2 := s1.setPartials q ((s1.partialsQ q).put line { p with
          dws := p.dws.put loc (putValue w off size new), reds := p.reds.put loc (natInsert (p.reds.getD loc []) ctx) })
        .next ((s2.lineReduce q line (shedOfCtx ctx)).finishStore ctx o)
    | _ => .next s

/-! ## Poison and migration -/

/-- POISON_CONSUMED (R360): a pending read or atomic of the context that could be taken now would consume poison, so the core
is contained with cause 3 before anything is written. -/
def execPoisonConsumed (ctx : Nat) (s : State) : Out :=
  let consumes := (s.ctx ctx).ops.any fun o => match o.kind with
    | .read dst locs _ _ => (List.range locs.length).any fun i => match s.readable ctx o i with
        | some loc => s.readPoisoned ctx o.id loc (neededBytes dst i locs)
        | none => false
    | .amo _ loc _ _ _ _ _ _ _ none => s.atomicReady ctx o loc && s.poisoned (home loc) loc
    | _ => false
  .next (if consumes && (s.core (coreOfCtx ctx)).contained.isNone then s.containEvent (coreOfCtx ctx) 3 else s)

/-- Puts a line into another slice of its quarter, where that is full in another line's place; the home slice keeps an F entry. -/
def State.moveLine (s : State) (q line d : Nat) : State :=
  (s.roomL2 q d).updL2 q line fun e => { e with slice := if d = homeSlice q line then none else some d, asks := [], moved := some s.now }

/-- LINE_MIGRATION (R277): the line moves to the slice of the shed that made most of its requests, unless it has moved in the last 4,096
network cycles. The fetch for the move merges the line's partials first (R279). -/
def execLineMigration (line : Nat) (s : State) : Out :=
  let l := lineOf line
  let q := home l
  match (s.l2Q q).get? l with
  | none => .next s
  | some e => match (if s.movable q e then e.mover q l else none) with
    | none => .next s
    | some d => .next ((s.mergeLine l).moveLine q l d)

end Sys2Proof.Machine
end

