-- ==== Sys2Proof/Machine/Keeper.lean ====
section
/-! DEFINITION. The keeper's management commands (R331, R338 to R342, R346, R367 to R371, R404 to R406). Bodies are given as data. A
signature is checked over the bytes that were signed (assumption 40). -/
namespace Sys2Proof

/-- The queue and the function that a management command names (R130, R367). -/
def Mgmt.queue (m : Mgmt) : Nat := (m.vfq.extractLsb' 0 12).toNat
def Mgmt.vf (m : Mgmt) : Nat := m.queue / 4
/-- The header check of R130: no reserved bit, and LEN bytes of body after the 32 of the header. -/
def Mgmt.headerOk (m : Mgmt) : Bool :=
  m.flags.extractLsb' 2 6 = (0 : BitVec 6) && m.vfq.extractLsb' 12 4 = (0 : BitVec 4) && m.depq.extractLsb' 2 6 = (0 : BitVec 6) &&
  m.rsv1 = 0 && m.rsv2 = 0 && m.len.toNat + 32 = m.signed.length

/-- Are the values of a peer entry among those that R340 gives: a kind, the bits of PERM that it has, a function, a queue, entry numbers, no
reserved bit? A body with another value is malformed (R8, R367; assumption 34). -/
def Peer.entryOk (p : Peer) : Bool :=
  decide (p.kind ≤ 2) && p.perm.extractLsb' 2 6 = (0 : BitVec 6) && (p.kind ≠ 2 || p.perm = 0) && decide (p.vf ≤ 1023) &&
  decide (p.queue ≤ 3) && p.rsv = 0 && decide (p.members.length ≤ 16) && p.members.all fun n => decide (n ≤ 255)

end Sys2Proof

namespace Sys2Proof.Machine

/-! ## Replies (R367, R368) -/

/-- One reply. A status that is not 0 carries no body. -/
def State.reply (s : State) (m : Mgmt) (status : Nat) (info : Word) (body : List Byte) : State :=
  let r : Completion := { seq := m.seq, status := BitVec.ofNat 16 status, vfq := m.vfq, tag := m.tag, time := s.gtime, info := info,
                           names := none }
  { s with keeper := { s.keeper with replies := { record := r, body := if status = 0 then body else [] } :: s.keeper.replies } }

/-- A command waits with the keeper (R154, R369, R372; assumption 57). -/
def State.awaitManaged (s : State) (i : Managed) : State := { s with keeper := { s.keeper with waiting := s.keeper.waiting ++ [i] } }
/-- A command from the management source is checked, and then carried out: a message from elsewhere never reaches the keeper; a
malformed header gets status 1, a signature that does not verify 12. While the keeper is lost, the command waits for its return (R369). -/
def State.manage (s : State) (i : Managed) (m : Mgmt) (act : State → State) : State :=
  if m.src ≠ s.keeper.source then s
  else if s.keeper.lost then s.awaitManaged i
  else if !m.headerOk then s.reply m 1 0 []
  else if !Config.mldsaVerify 0 (Config.sha3x512 m.signed) m.sig then s.reply m 12 0 []
  else act s

/-- Little-endian bytes of a number. -/
def leBytes (n v : Nat) : List Byte := (List.range n).map fun i => BitVec.ofNat 8 (v / 256 ^ i)

/-! ## IDENT, ATTEST, ERRLOG (R368, R371) -/

/-- The identity record, with the variant's own fields in place. -/
def State.identityRecord (s : State) : List Byte :=
  (s.keeper.identity.take 8) ++ leBytes 1 s.nq ++ leBytes 7 0 ++ leBytes 8 s.feat0.toNat ++ leBytes 56 0 ++
    (s.keeper.identity.drop 80).take 48
/-- The manufacturing record, whose shed map holds 0xFF for an absent quarter (R15, R368). -/
def State.manufacturingRecord (s : State) : List Byte :=
  s.keeper.manufacturing.mapIdx fun i b => if decide (32 ≤ i) && decide (i < 64) && decide (s.nq ≤ (i - 32) / 8) then 0xFF else b
/-- A byte of a body that the spec defines as 0 or 1; another value is malformed (R8, R367). -/
def bodyFlag (b : Byte) : Bool := b.extractLsb' 1 7 = (0 : BitVec 7)
/-- IDENT: with body byte 0 = 1, the manufacturing record follows. -/
def execIdent (m : Mgmt) (sel : Byte) (s : State) : Out :=
  .next (s.manage (.ident m sel) m fun t =>
    if !bodyFlag sel then t.reply m 1 0 []
    else t.reply m 0 0 (t.identityRecord ++ if sel = 1 then t.manufacturingRecord else []))

/-- Bytes 0 to 239 of the attestation report. -/
def State.attestBody (s : State) (nonce : List Byte) : List Byte :=
  s.identityRecord ++ nonce ++ Config.sha3x512 s.keeper.active.manifest ++ leBytes 4 s.keeper.corrected ++
    leBytes 4 s.keeper.uncorrectable ++ leBytes 4 s.keeper.containments ++ leBytes 4 0
/-- ATTEST. -/
def execAttest (m : Mgmt) (nonce : List Byte) (s : State) : Out :=
  .next (s.manage (.attest m nonce) m fun t =>
    if nonce.length ≠ 32 then t.reply m 1 0 []
    else t.reply m 0 0 (t.attestBody nonce ++ Config.mldsaSign (Config.sha3x512 (t.attestBody nonce))))

/-- An entry of the error log as ERRLOG returns it. -/
def LogEntry.bytes (e : LogEntry) : List Byte :=
  leBytes 8 e.time.toNat ++ leBytes 1 e.kind ++ leBytes 1 e.cause ++ leBytes 1 e.qtr ++ leBytes 1 e.tier ++ leBytes 4 e.place ++
    leBytes 8 e.addr.toNat ++ leBytes 2 e.vfq.toNat ++ leBytes 6 0
/-- ERRLOG. -/
def execErrlog (m : Mgmt) (s : State) : Out :=
  .next (s.manage (.errlog m) m fun t =>
    let k := t.keeper
    let body := leBytes 4 k.log.length ++ leBytes 4 k.lostEntries ++ leBytes 8 0 ++ k.log.flatMap LogEntry.bytes
    let u := t.reply m 0 0 body
    { u with keeper := { u.keeper with log := [], lostEntries := 0 } })

/-! ## BIND and PADDOCK (R129, R143, R151, R367) -/

/-- Does a queue hold a gang that is not COMPLETE or FAILED? -/
def State.busyQueue (s : State) (vfq : Nat) : Bool :=
  s.gangs.any fun e => e.2.vfq = vfq && e.2.state ≠ .complete && e.2.state ≠ .failed
/-- BIND: the class does not change while the queue holds a gang (R143). -/
def execBind (m : Mgmt) (b : BindBody) (s : State) : Out :=
  .next (s.manage (.bind m b) m fun t =>
    match b.source, b.cls with
    | some src, some cls =>
      let q := t.queue m.queue
      if t.busyQueue m.queue && q.cls ≠ cls then t.reply m 13 0 []
      else (t.setQueue m.queue { q with source := some src, cls := cls, bulk := b.bulk.getD false }).reply m 0 0 []
    | _, _ => t.reply m 1 0 [])

/-- Do two rectangles share a shed? -/
def rectsMeet (a b : Rect) : Bool :=
  decide (a.x < b.x + b.w) && decide (b.x < a.x + a.w) && decide (a.y < b.y + b.h) && decide (b.y < a.y + a.h)
/-- The paddocks that a function has or will have. -/
def Vf.rects (v : Vf) : List Rect := v.paddock.toList ++ (match v.resize with
  | some (some r) => [r]
  | _ => [])
/-- Has a function's pool room for its paddock (R149)? -/
def poolFits (c : VfCfg) (p : Rect) : Bool := decide (spillArea p + saveArea p.w p.h ≤ c.spSize)

/-- PADDOCK: refused where it meets another function's paddock, or leaves the pool too small, and for a function that no VFCFG has configured
(R140, R149, R331). -/
def execPaddock (m : Mgmt) (r : Option Rect) (s : State) : Out :=
  .next (s.manage (.paddock m r) m fun t =>
    let set (u : State) : State :=
      let u1 := u.updVf m.vf fun v => { v with resize := some r }
      (u1.settlePaddock m.vf).reply m 0 0 []
    match r with
    | none => if (t.vf m.vf).cfg.isNone then t.reply m 13 0 [] else set t
    | some p =>
      if p.w = 0 || p.h = 0 || 16 < p.x + p.w || t.rowsN < p.y + p.h then t.reply m 1 0 []
      else if t.vfs.any fun e => e.1 ≠ m.vf && e.2.rects.any (rectsMeet p) then t.reply m 13 0 []
      else match (t.vf m.vf).cfg with
        | none => t.reply m 13 0 []
        | some c => if poolFits c p then set t else t.reply m 13 0 [])

/-! ## VFCFG (R331, R338, R339) -/

def aligned64K (n : Nat) : Bool := n % 65536 = 0
/-- Does a range lie wholly in layers 0 to 2, or in the primary part of a layer 3 (R338)? -/
def State.rangeOk (s : State) (r : Range) : Bool :=
  aligned64K r.base && aligned64K r.len && r.len ≠ 0 && decide (r.base < 2 ^ 40) && decide (physQtr r.base < s.nq) &&
  (if r.dur then physLayer r.base = 3 && decide (physOff r.base + r.len ≤ Config.primaryBytes)
   else decide (physLayer r.base < 3) && decide (physOff r.base + r.len ≤ Config.layerBytes))
def rangesMeet (a n b k : Nat) : Bool := decide (a < b + k) && decide (b < a + n)
/-- The limits of the table of R331. -/
def State.cfgOk (s : State) (vf : Nat) (c : VfCfg) : Bool :=
  let others := (s.vfs.filter fun e => e.1 ≠ vf).filterMap fun e => e.2.cfg
  let root (r : Option Nat) : Bool := match r with
    | some a => a % 8192 = 0 && c.holds a 8192
    | none => false
  root c.uroot && root c.sroot && decide (c.grant.length ≤ 16) && c.grant.all s.rangeOk &&
  (c.grant.all fun r => others.all fun o => (o.grant.all fun x => !rangesMeet r.base r.len x.base x.len) &&
    !rangesMeet r.base r.len o.abase o.asize) &&
  (c.grant.all fun r => !rangesMeet r.base r.len c.abase c.asize) &&
  (others.all fun o => (o.grant.all fun x => !rangesMeet c.abase c.asize x.base x.len) &&
    !rangesMeet c.abase c.asize o.abase o.asize) &&
  (c.keys.all fun k => decide (1 ≤ k) && decide (k ≤ 127) && others.all fun o => !o.keys.contains k) &&
  c.keys.contains c.arenaKey && c.keys.contains c.spKey &&
  s.rangeOk { base := c.abase, len := c.asize, dur := false } && decide (c.asize ≤ 0x8000000) &&
  (c.peers.all fun p => decide (1 ≤ p.1) && decide (p.1 ≤ 255)) &&
  aligned64K c.spBase && c.holds c.spBase c.spSize && decide (physLayer c.spBase < 3) &&
  (match c.supQueue with
   | some q => decide (q < 4)
   | none => true) && decide (500 ≤ c.slice) && decide (c.slice ≤ 20000) &&
  (s.vf vf).rects.all (poolFits c)

/-- A key that a slot has not had: newer than the one that it holds and than those that lines are encrypted under. -/
def State.newKey (s : State) (slot : Nat) : Nat :=
  (((s.ord.keyed.filter fun e => e.2 % 128 = slot).map fun e => e.2 / 128).foldl max (s.ord.keyGen.getD slot 0)) + 1
/-- A write that a line takes with it when it leaves every cache unwritten: it arrives nowhere any more, at no quarter and in no copy. -/
def WriteRec.dropped (w : WriteRec) : WriteRec :=
  { w with vis := 0xF, inbox := 0, co := some (w.co.getD 0), durP := true, durM := true, poison := false }
/-- A key slot goes to a function. A new owner gets a new key: the lines of the slot leave every cache unwritten, with their partials and the
writes that are on their way, and what the old owner left in DRAM and its copies reads as values that no one chose, with no error (R339,
assumption 41). -/
def State.giveSlot (s : State) (vf slot : Nat) : State :=
  if s.keeper.keyOwner.get? slot = some vf then s
  else
    let left (a : Nat) : Bool := !isPad a && match s.ord.keyed.get? (lineOf a) with
      | some k => k % 128 = slot
      | none => false
    let s1 := { s with
      keeper := { s.keeper with keyOwner := Table.put s.keeper.keyOwner slot vf }
      cores := Table.mapVals (fun _ c => { c with l1 := c.l1.filter fun l => !left l.1 }) s.cores }
    let s2 := (List.range 4).foldl (fun t q => t.setL2 q ((t.l2Q q).filter fun l => !left l.1)) s1
    let atoms := s.ord.writes.filter fun e => e.2.atom && left e.2.loc
    let s3 := s2.updOrd fun o => { o with
      partials := o.partials.map fun t => t.filter fun e => !left e.1
      writes := Table.mapVals (fun _ w => if left w.loc then w.dropped else w) o.writes }
    -- An atomic of which nothing arrives any more is over.
    let s4 := atoms.foldl (fun t e => (List.range t.nq).foldl (fun u q => u.completeAmo e.1 q) t) s3
    s4.updOrd fun o => { o with
      keyGen := o.keyGen.put slot (s.newKey slot), poison := o.poison.filter fun e => !left e.1
      badPrim := o.badPrim.filter fun a => !left a, badMirr := o.badMirr.filter fun a => !left a
      soft := o.soft.filter fun a => !left a }

/-- VFCFG. A body with a reserved bit or an undefined value is malformed; a value outside the limits is refused. Both change nothing. -/
def execVfcfg (m : Mgmt) (c : VfCfg) (s : State) : Out :=
  .next (s.manage (.vfcfg m c) m fun t =>
    if !(c.peers.all fun p => p.2.entryOk) then t.reply m 1 0 []
    else if 1024 ≤ m.vf || !t.cfgOk m.vf c then t.reply m 13 0 []
    else
      ((c.keys.foldl (fun u k => u.giveSlot m.vf k) t).updVf m.vf fun v => { v with cfg := some c }).reply m 0 0 [])

/-! ## VFRESET and the scrub (R341, R342) -/

/-- What an abandoned operation has applied (R342): units, and for an atomic scatter the elements whose pieces all moved. -/
def appliedUnits (e : EngOp) : Nat :=
  let n := pieces e.desc
  if dAccum e.desc then
    ((e.moved.map (· / n)).eraseDups.filter fun r => (List.range n).all fun i => e.moved.contains (n * r + i)).length
  else e.moved.length
/-- A record of an abandoned operation (R342). -/
def abandonedRecord (g : Gang) (saved : Bool) (e : EngOp) : List Byte :=
  leBytes 8 e.addr.toNat ++ leBytes 4 (appliedUnits e) ++ leBytes 2 (if saved then e.core else g.lcore e.core) ++ leBytes 2 e.func
/-- Engine operations of a function: those of gangs on sheds, and those of saved gangs. -/
def State.engineRecords (s : State) (vf : Nat) : List (List Byte) :=
  (s.gangs.filter fun e => vfOf e.2.vfq = vf).flatMap fun e =>
    ((s.ord.engines.filter fun x => s.gangOfCore x.2.core = some e.1).map fun x => abandonedRecord e.2 false x.2) ++
    (e.2.engines.map fun x => abandonedRecord e.2 true x.2)

/-- Has an operation units still to come, or the flag of `wsig`? -/
def EngOp.remains (e : EngOp) : Bool := decide (e.moved.length < engUnits e) || e.func = 5
/-- The remaining units of every operation that targets a function are refused, of gangs on sheds at once and of saved gangs when they go on
(R340, R342). -/
def State.refuseInto (s : State) (vf : Nat) : State :=
  let targets := s.ord.engines.filter fun e => EngOp.remains e.2 && match s.farSide e.2 with
    | .peer p => p.pkg = Config.fabricAddress && p.vf = vf
    | _ => false
  let s1 := targets.foldl (fun t e => t.dropEngine e.1 e.2 26 e.2.addr 0) s
  let into (g : Gang) (e : EngOp) : Bool := EngOp.remains e && e.desc.peer ≠ 0 && match s.peer (vfOf g.vfq) e.desc.peer.toNat with
    | some p => p.pkg = Config.fabricAddress && p.vf = vf
    | none => false
  { s1 with gangs := Table.mapVals (fun _ g =>
      { g with engines := Table.mapVals (fun _ e => if into g e then { e with refused := true } else e) g.engines }) s1.gangs }

/-- Nothing more is held of a migration of a function. -/
def State.endMigration (s : State) (vf : Nat) : State :=
  { s with keeper := { s.keeper with migrating := Table.del s.keeper.migrating vf, outgoing := Table.del s.keeper.outgoing vf
                                     incoming := Table.del s.keeper.incoming vf } }

/-- VFRESET: every gang fails and every command completes with status 4; operations issued by the function are abandoned, and those that
target it are refused; its sheds wait for their scrub. The event stands at the timestamp of step 1 (assumption 62). -/
def State.resetFunction (s : State) (m : Mgmt) (release : Bool) : State :=
  let vf := m.vf
  let live := s.gangs.filter fun e => vfOf e.2.vfq = vf && e.2.state ≠ .complete && e.2.state ≠ .failed
  let recs := s.engineRecords vf
  let s1 := live.foldl (fun t e => t.failOne e.1 4) s
  let s2 := ((List.range 4).map (4 * vf + ·)).foldl (fun t n => t.endCommands n 4) s1
  let s3 := s2.refuseInto vf
  let sheds := match (s3.vf vf).paddock with
    | some p => p.sheds
    | none => []
  let s4 := sheds.foldl (fun t d => t.updShed d fun h => { h with scrub := true }) s3
  let s5 := s4.updVf vf fun v =>
    if release then { Vf.reset with ring := v.ring }
    else { v with clean := true, objs := v.objs.filter fun e => !e.2.pending }
  let s6 := s5.endMigration vf
  s6.reply m 0 0 (leBytes 4 recs.length ++ leBytes 4 live.length ++ leBytes 8 0 ++ (recs.take 1024).flatten)
/-- VFRESET. It waits for a master, which stops the gangs and completes the commands (R154). -/
def execVfreset (m : Mgmt) (release : Bool) (s : State) : Out :=
  .next (s.manage (.vfreset m release) m fun t => if t.master.ready then t.resetFunction m release else t.awaitManaged (.vfreset m release))

/-- SHED_SCRUB (R341): a shed that left a function, and that no gang holds, is scrubbed; what its first-level caches hold is written back
first. -/
def execShedScrub (shed : Nat) (s : State) : Out :=
  let d := s.shed shed
  if !d.scrub || d.gang.isSome then .next s
  else
    let mine := [3 * shed, 3 * shed + 1, 3 * shed + 2]
    let s0 := mine.foldl (fun t c => t.l1Flush c) s
    let s1 := (s0.clearPad shed).setShed shed { Shed.reset with withdrawn := d.withdrawn }
    .next (mine.foldl (fun t c => t.setCore c Core.reset) s1)

/-! ## Writes that are still on their way -/

/-- Puts a write into a list by the order in which they were performed. -/
def insertPerformed (e : Nat × WriteRec) : List (Nat × WriteRec) → List (Nat × WriteRec)
  | [] => [e]
  | x :: t => if e.2.stamp < x.2.stamp then e :: x :: t else x :: insertPerformed e t
/-- Writes in the order in which they were performed. -/
def performed (l : List (Nat × WriteRec)) : List (Nat × WriteRec) := l.foldr insertPerformed []
/-- PROPAGATE and APPLY of a write at a quarter where it is not visible yet (R288). -/
def State.deliver (s : State) (id q : Nat) : State :=
  match s.writeAt id with
  | none => s
  | some w => if w.vis.getLsbD q then s else (s.applyWrite id q).completeAmo id q
/-- Every write is brought to its home and then to the other quarters, in the order in which they were performed, so that each APPLY finds the
write's causal past there: a run of moves of R288. -/
def State.deliverAll (s : State) : State :=
  (performed s.ord.writes).foldl (fun t e => ((home e.2.loc) :: List.range s.nq).foldl (fun u q => u.deliver e.1 q) t) s

/-- The lines of which some quarter holds a partial. -/
def State.partialLines (s : State) : List Nat := ((List.range 4).flatMap fun q => (s.partialsQ q).map (·.1)).eraseDups

/-! ## MIGRATE (R346) -/

/-- A page is copied by reads of its lines, each of which merges its partials first (R279) and corrects the errors that it meets (R365). -/
def State.mergePages (s : State) (vf : Nat) : State :=
  match (s.vf vf).cfg with
  | none => s
  | some c => ((s.partialLines.filter fun l => c.holds l 1).foldl (fun t l => t.mergeLine l) s).correctAll fun a => !isPad a && c.holds a 1
/-- A phase of a function's migration begins here. -/
def State.atPhase (s : State) (vf n : Nat) : State :=
  { s with keeper := { s.keeper with migrating := Table.put s.keeper.migrating vf n } }
/-- Does a gang of the function stand on sheds? -/
def State.vfOnSheds (s : State) (vf : Nat) : Bool :=
  s.gangs.any fun e => vfOf e.2.vfq = vf &&
    (e.2.state = .resident || e.2.state = .switching || e.2.state = .launching || e.2.state = .restoring)
/-- Did a reset of its die leave a range of a grant poisoned (R299)? -/
def State.wipedRange (s : State) (r : Range) : Bool :=
  !r.dur && (s.ord.wiped[physQtr r.base % 4]'(Nat.mod_lt _ (by decide))).isSome
/-- A function's pages as the home quarters hold them, read through the key slots of their lines; a line that a former owner left reads as what
it decrypts to (R339). -/
def State.pages (s : State) (vf : Nat) : PageCopy :=
  match (s.vf vf).cfg with
  | none => { bytes := [], slots := [], bad := [] }
  | some c =>
    let mine (a : Nat) : Bool := !isPad a && c.holds a 1
    let left := s.ord.keyed.filter fun e => mine e.1 && s.foreign e.1
    let cells := (List.range s.nq).flatMap fun q =>
      (s.memQ q).filter fun x => mine x.1 && physQtr x.1 = q && !s.foreign (dwordOf x.1)
    let decrypted (m : Memory) (line key : Nat) : Memory := (List.range 8).foldl (fun m i =>
      Memory.setDword m (line + 8 * i) 0xFF (scrambled (line + 8 * i) key (s.keyOfSlot (key % 128)))) m
    let wiped := (c.grant.filter s.wipedRange).flatMap fun r => (List.range (r.len / 8)).map fun i => r.base + 8 * i
    let known := s.ord.poison.map (·.1) ++ s.ord.writes.filterMap fun e => if e.2.poison then some e.2.loc else none
    { bytes := left.foldl (fun m e => decrypted m e.1 e.2) cells
      slots := (s.ord.keyed.filter fun e => mine e.1).map fun e => (e.1, e.2 % 128)
      bad := (known ++ wiped).eraseDups.filter fun a => mine a && s.poisoned (home a) a }
/-- Is a peer entry left in this package that names the function here (R340, R346)? -/
def State.stillNamed (s : State) (vf : Nat) : Bool :=
  s.vfs.any fun e => e.1 ≠ vf && match e.2.cfg with
    | some c => c.peers.any fun p => p.2.kind = 1 && p.2.pkg = Config.fabricAddress && p.2.vf = vf
    | none => false
/-- Ticks that a source goes on forwarding at least: 100 ms (R346). -/
def forwardTicks : Nat := 100000000

/-- May the source take a phase: in order, from phase 3 on with every gang switched out, and the last once every peer entry has been moved
and the time of forwarding is over (R346)? -/
def State.mayMigrate (s : State) (vf phase : Nat) : Bool :=
  phase = Table.getD s.keeper.migrating vf 0 + 1 && (decide (phase < 3) || !s.vfOnSheds vf) &&
  (phase ≠ 4 || (!s.stillNamed vf && match s.keeper.outgoing.get? vf with
    | some o => decide (o.cutOver + forwardTicks ≤ s.now)
    | none => true))
/-- The source's part of a phase (R346): pages are copied in phase 1, and those written after their copy again in phase 3, with every write that
was on its way then, when every save area is copied too; remote writes are recorded from phase 2 on; phase 4 scrubs the sheds and frees the
function with its queues, whose records were sent. -/
def State.migrateOut (s : State) (vf phase : Nat) : State :=
  let keep (t : State) (o : Outgoing) : State := { t with keeper := { t.keeper with outgoing := Table.put t.keeper.outgoing vf o } }
  let o := Table.getD s.keeper.outgoing vf { copied := { bytes := [], slots := [], bad := [] }, writes := [], cutOver := 0 }
  match phase with
  | 1 =>
    let t := s.mergePages vf
    keep (t.atPhase vf 1) { copied := t.pages vf, writes := [], cutOver := 0 }
  | 2 => (s.atPhase vf 2).decideSwitches ((s.gangs.filter fun e => vfOf e.2.vfq = vf).map (·.1)) false
  | 3 =>
    let t := s.deliverAll.mergePages vf
    keep (t.atPhase vf 3) { o with copied := t.pages vf, cutOver := s.now }
  | _ =>
    let sheds := match (s.vf vf).paddock with
      | some p => p.sheds
      | none => []
    let paid := (s.gangs.filter fun e => vfOf e.2.vfq = vf).foldl (fun u e => u.payGang e.1) s
    let t := sheds.foldl (fun u d => u.updShed d fun h => { h with scrub := true }) paid
    let u := ((List.range 4).map (4 * vf + ·)).foldl (fun u n => u.updQueue n fun q => { Queue.reset with sent := q.sent }) t
    ({ u with gangs := u.gangs.filter fun e => vfOf e.2.vfq ≠ vf, vfs := u.vfs.del vf } : State).endMigration vf

/-- A forwarded write is applied at the destination: to the page, through its key slot and with its poison, or, with its tag, to the scratchpad
of the gang whose image the source applied it to. What the pages and save areas brought already is not applied again: the gang may have
consumed it, or written over it, before it was saved. -/
def State.applyRemote (s : State) (first : Nat) (w : RemoteWrite) : State :=
  if w.early then s else
  match imageOf w.loc with
  | none => (s.encrypt w.slot w.loc).writeEverywhere w.loc 0xFF w.val w.poison
  | some (g, r) =>
    let n := first + g
    let off := w.loc - padLoc (padShed w.loc) 0
    let gg := s.gang n
    if gg.state = .saved || gg.state = .restoring then
      s.tickNext.imageWrite (savedWriter n) s.next (padLoc (savedPadShed n r) off) w.val w.tag none w.poison
    else match gg.sheds[r]? with
      | some d => s.tickNext.perform (savedWriter n) s.next (qtrOfShed d) (padLoc d off) 0xFF w.val w.tag none false false w.poison
      | none => s
/-- The pages that have come are in memory, those of the function's own grant: every byte of the grant, under the key slots that its lines had,
and with the poison that came. What was known of the bytes before is gone. -/
def State.takePages (s : State) (vf : Nat) (p : PageCopy) : State :=
  match (s.vf vf).cfg with
  | none => s
  | some c =>
    let o := s.ord
    let seen (q : Nat) : List Nat := ((p.bytes ++ s.memQ q).map fun x => dwordOf x.1) ++ p.bad ++ o.poison.map (·.1) ++ o.badPrim ++ o.badMirr
    let change (r : Range) : List Nat :=
      if s.wipedRange r then (List.range (r.len / 8)).map fun i => r.base + 8 * i
      else (seen (physQtr r.base)).eraseDups.filter fun a => decide (r.base ≤ a) && decide (a < r.base + r.len)
    let t := (c.grant.flatMap change).foldl (fun (t : State) a =>
      t.writeEverywhere a 0xFF (Memory.dword p.bytes a) (p.bad.contains a)) s
    let others := t.ord.keyed.filter fun e => !c.holds e.1 1
    let keys := (p.slots.filter fun e => c.holds e.1 1).foldl (fun (k : Table Nat) e => k.put e.1 (t.keyOfSlot e.2)) others
    t.updOrd fun o => { o with keyed := keys }
/-- The forwarded writes that have come and are not applied yet are applied, in sequence order. -/
def State.takeWrites (s : State) (vf : Nat) (i : Incoming) : State :=
  let t := (i.writes.drop i.applied).foldl (fun u w => u.applyRemote i.first w) s
  { t with keeper := { t.keeper with incoming := Table.put t.keeper.incoming vf { i with applied := i.writes.length } } }
/-- May the destination take a phase: in order; phase 3 again for the writes that are forwarded later. -/
def State.mayReceive (s : State) (vf phase : Nat) : Bool :=
  let now := Table.getD s.keeper.migrating vf 0
  (s.vf vf).cfg.isSome && (phase = now + 1 || (phase = 3 && now = 3))
/-- Has a saved gang of the function a feature in its save area that this device lacks and that no import block serves (R347)? -/
def State.lacksImport (s : State) (vf : Nat) : Bool :=
  s.gangs.any fun e => vfOf e.2.vfq = vf && e.2.state = .saved && (s.importBlocks e.2).isNone
/-- The destination's part of a phase (R346): it receives pages, then save areas, with the cut-over the pages as they were copied last, applies
the forwarded writes in sequence order, and from phase 3 on its gangs are restored like any saved gang. -/
def State.migrateIn (s : State) (vf phase : Nat) (i : Incoming) : State :=
  match phase with
  | 1 => (s.takePages vf i.pages).atPhase vf 1
  | 2 =>
    let t := (s.takePages vf i.pages).atPhase vf 2
    let mine := i.areas.filter fun e => e.2.state = .saved && vfOf e.2.vfq = vf
    let here (g : Gang) : Gang := { g with load := (Table.get? (t.vf vf).objs g.obj).elim 0 (·.loadId) }
    let u := mine.foldl (fun (u : State) e => u.setGang (t.next + e.1) (here e.2)) t
    { u with next := t.next + mine.foldl (fun n e => max n e.1) 0 + 1
             keeper := { u.keeper with incoming := Table.put u.keeper.incoming vf { i with first := t.next } } }
  | 3 => ((if Table.getD s.keeper.migrating vf 0 < 3 then s.takePages vf i.pages else s).takeWrites vf i).atPhase vf 3
  | _ => (s.takeWrites vf i).endMigration vf

/-- MIGRATE: a phase of a migration, at its source or, where the function's pages come in, at its destination. A phase out of order is refused;
a save area that this device cannot restore is reported with status 15 and nothing is restored (R346, R347). -/
def execMigrate (m : Mgmt) (phase : Nat) (s : State) : Out :=
  .next (s.manage (.migrate m phase) m fun t =>
    if phase = 0 || 4 < phase then t.reply m 1 0 []
    else match t.keeper.incoming.get? m.vf with
    | none =>
      if !t.mayMigrate m.vf phase then t.reply m 13 0 []
      -- The switch of phase 2 waits for a master (R154).
      else if phase = 2 && !t.master.ready then t.awaitManaged (.migrate m phase)
      else (t.migrateOut m.vf phase).reply m 0 0 []
    | some i =>
      if !t.mayReceive m.vf phase then t.reply m 13 0 []
      else if phase = 3 && t.lacksImport m.vf then t.reply m 15 0 []
      else (t.migrateIn m.vf phase i).reply m 0 0 [])

/-! ## TABLES (R159, R162, R169, R170) -/

def codeOk (n : Nat) : Bool := decide (4 ≤ n) && decide (n ≤ 16)
/-- Thermal design power in milliwatts (R1). -/
def State.tdp (s : State) : Nat := if s.four then 1800000 else 950000
def budgetOk (b : Budget) : Bool := b.p % 250000 = 0 && decide (250000 ≤ b.p) && decide (b.p ≤ 100000000) && decide (b.vfq < 4096)

/-- The arbiter's tables with the parts that a body gives. -/
def Power.with (p : Power) (t : TablesBody) : Power :=
  { p with rows := t.rows.getD p.rows
           qtrs := t.qtrs.getD p.qtrs
           statics := t.statics.getD p.statics
           coeffs := t.coeffs.getD p.coeffs
           capA := (t.caps.map (·.1)).getD p.capA
           capB := (t.caps.map (·.2.1)).getD p.capB
           capC := (t.caps.map (·.2.2)).getD p.capC }

/-- The checks of a table load: the floors, the codes and sizes, the package floor and the caps, the periods. -/
def State.tablesOk (s : State) (p : Power) (t : TablesBody) : Bool :=
  let floor := packageFloor s p
  decide (p.rows.length ≤ 32) && decide (p.qtrs.length ≤ 32) &&
  (p.rows.all fun e => codeOk e.m && codeOk e.v) && (p.qtrs.all fun e => codeOk e.n && codeOk e.y) &&
  (p.rows.any fun e => e.m = 4 && e.v = 4) && (p.qtrs.any fun e => e.n = 4 && e.y = 4) &&
  ([p.capA, p.capB, p.capC].all fun c => decide (floor ≤ c) && decide (c ≤ s.tdp)) && t.budgets.all budgetOk

/-- The entry of a new table with the codes of an entry of the old one; a point that the new table does not hold stays in use, after its
entries, until an evaluation changes it (R165, assumption 63). -/
def sameRow (old new : Power) (i : Nat) : Nat :=
  let e := rowPoint old i
  ((new.rows ++ new.keptRows).findIdx? fun x => x.m = e.m && x.v = e.v).getD (floorRow new)
def sameQtr (old new : Power) (i : Nat) : Nat :=
  let e := qtrPoint old i
  ((new.qtrs ++ new.keptQtrs).findIdx? fun x => x.n = e.n && x.y = e.y).getD (floorQtr new)
/-- New tables with the points in use that they do not hold. -/
def Power.keep (new old : Power) : Power :=
  let rows := (old.rowEntry.map fun e => rowPoint old e.2) ++ old.rowMove.map fun e => rowPoint old e.2.2
  let qtrs := (old.qtrEntry.map fun e => qtrPoint old e.2) ++ old.qtrMove.map fun e => qtrPoint old e.2.2
  { new with keptRows := (rows.filter fun e => !new.rows.any fun x => x.m = e.m && x.v = e.v).eraseDups
             keptQtrs := (qtrs.filter fun e => !new.qtrs.any fun x => x.n = e.n && x.y = e.y).eraseDups }

/-- Loads tables that pass, with the budgets, and asks for an evaluation. A budget that changes within a period leaves what the queue has been
told in it: the warning and the exhaustion of the period stand until its end (DESIGN CHOICE, assumption 114). -/
def State.loadTables (s : State) (t : TablesBody) : State :=
  let p := (s.power.with t).keep s.power
  let p1 := { p with rowEntry := Table.mapVals (fun _ i => sameRow s.power p i) p.rowEntry
                     qtrEntry := Table.mapVals (fun _ i => sameQtr s.power p i) p.qtrEntry
                     rowMove := Table.mapVals (fun _ m => (m.1, sameRow s.power p m.2)) p.rowMove
                     qtrMove := Table.mapVals (fun _ m => (m.1, sameQtr s.power p m.2)) p.qtrMove }
  let s1 := t.budgets.foldl (fun (u : State) b => u.updQueue b.vfq fun q =>
    { q with budget := b.b, period := b.p, periodStart := u.now / b.p * b.p }) { s with power := p1 }
  s1.askEvaluate

/-- TABLES: a refused load leaves the tables in use unchanged. -/
def execTables (m : Mgmt) (b : TablesBody) (s : State) : Out :=
  .next (s.manage (.tables m b) m fun t => if t.tablesOk (t.power.with b) b then (t.loadTables b).reply m 0 0 [] else t.reply m 13 0 [])

/-! ## Firmware (R152, R370) -/

/-- FWSTAGE. -/
def execFwstage (m : Mgmt) (f : FwImage) (s : State) : Out :=
  .next (s.manage (.fwstage m f) m fun t => ({ t with keeper := { t.keeper with staged := some f } }).reply m 0 0 [])

/-- Queues that hold a SAVED gang whose LAYOUT an image does not read, lowest first. -/
def State.unreadable (s : State) (f : FwImage) : List Nat :=
  let bad := s.gangs.filter fun e => e.2.state = .saved && !f.layouts.contains e.2.layout
  if bad.isEmpty then [] else (List.range 4096).filter fun n => bad.any fun e => e.2.vfq = n

/-- Everything of a queue that is not complete fails with status 6 (R152); a supervisor gang among it is gone with it (R363). -/
def State.failLayout (s : State) (vfq : Nat) : State :=
  let mine := s.gangs.filter fun e => e.2.vfq = vfq
  let s1 := mine.foldl (fun t e => t.failOne e.1 6) s
  let s2 := s1.endCommands vfq 6
  if mine.any fun e => e.2.sup then s2.supervisorGone (vfOf vfq) else s2

/-- Is a containment open, or its restart to come, in a gang that is not at its end (R363, R407)? -/
def State.containing (s : State) : Bool :=
  s.gangs.any fun e => decide (0 < e.2.openEvents) && e.2.state ≠ .complete && e.2.state ≠ .failed
/-- FWACT: the signature, the epoch, the save layouts; then the staged image runs, and the keeper's processor its code. A containment that is
being handled completes under the running image first (R372), and queues that a forced activation fails wait for a master (R154). -/
def execFwact (m : Mgmt) (force : Byte) (s : State) : Out :=
  .next (s.manage (.fwact m force) m fun t =>
    if !bodyFlag force then t.reply m 1 0 []
    else match t.keeper.staged with
    | none => t.reply m 13 0 []
    | some f =>
      let bad := t.unreadable f
      if !Config.mldsaVerify 1 (Config.sha3x512 (f.manifest ++ f.code ++ f.rest)) f.sig || f.epoch < t.keeper.minEpoch then t.reply m 13 0 []
      else if !bad.isEmpty && force = 0 then t.reply m 14 (BitVec.ofNat 64 (bad.headD 0)) []
      else if t.containing || (!bad.isEmpty && !t.master.ready) then t.awaitManaged (.fwact m force)
      else
        let t1 := bad.foldl (fun u n => u.failLayout n) t
        ({ t1 with keeper := { t1.keeper with active := f, staged := none, cpu := .boot f.code } }).reply m 0 0 [])

/-! ## LAYUP (R404 to R406) -/

def gib : Nat := 2 ^ 30
def layGen (b : LayupBody) : Bool := b.tflags.getLsbD 0
def layLh (b : LayupBody) : Bool := b.tflags.getLsbD 1
def layRestore (b : LayupBody) : Bool := b.tflags.getLsbD 2
def layupOk (b : LayupBody) : Bool :=
  b.rsv = 0 && b.tflags.extractLsb' 3 13 = (0 : BitVec 13) && b.tbase.toNat % gib = 0 && (layGen b || layLh b)

/-- Is a gang on its sheds? -/
def State.anyOnSheds (s : State) : Bool :=
  s.gangs.any fun e => e.2.state = .resident || e.2.state = .switching || e.2.state = .launching || e.2.state = .restoring

/-- Step 2: every resident gang is switched out at one timestamp. -/
def State.switchAll (s : State) : State :=
  s.decideSwitches ((s.gangs.filter fun e => e.2.state = .resident && e.2.switchAt.isNone).map (·.1)) false

/-- Step 3: every write that is on its way arrives, every partial is merged and every cache written back; each write is in view of every
quarter and in its copies. -/
def State.writeBack (s0 : State) : State :=
  let s := s0.deliverAll
  let s1 := (s.partialLines.foldl (fun t l => t.mergeLine l) s).deliverAll
  let s2 := (s1.ord.writes.map (·.1)).foldl (fun t i => (t.durable i false).durable i true) s1
  { s2 with cores := Table.mapVals (fun _ c => { c with l1 := [] }) s2.cores, ord := { s2.ord with l2 := Vector.replicate 4 [] } }

/-- Where the target holds a byte of general memory, and of a lighthouse primary (R405). -/
def genOffset (a : Nat) : Nat := (3 * physQtr a + physLayer a) * (48 * gib) + physOff a
def lhOffset (nq a : Nat) : Nat := 144 * gib * nq + 24 * gib * physQtr a + physOff a
/-- Cells of general memory as the home quarters hold them. -/
def State.genCells (s : State) : List Host.Cell :=
  (List.range s.nq).flatMap fun q => (s.memQ q).filter fun c => !isPad c.1 && physQtr c.1 = q && physLayer c.1 < 3

/-- The header: serial number, `GTIME`, quarter count, TFLAGS and the wrapped keys of the slots, one after another (assumption 64). -/
def State.layHeader (s : State) (b : LayupBody) : List Byte :=
  s.keeper.identity.take 8 ++ leBytes 8 (s.keeper.layAt.getD s.now) ++ leBytes 1 s.nq ++ leBytes 2 b.tflags.toNat ++
    (List.range 128).flatMap fun k => leBytes 40 (Config.keyWrap (s.keyOfSlot k)).toNat

/-- The lighthouse primaries as they are read: a doubleword that the mirror serves comes from there (R388, R389). One that no copy gives goes as
the primary holds it. -/
def State.lhCells (s : State) : List Host.Cell :=
  (((s.ord.prim ++ s.ord.mirr).map fun c => dwordOf c.1).eraseDups).foldl (fun m a =>
    Memory.setDword m a 0xFF ((s.durableWord a).getD (Memory.dword s.ord.prim a))) []
/-- Steps 3 to 5. Errors of primaries that the mirror still has are found by these reads and written back (R366, R388). -/
def State.stream (s : State) (m : Mgmt) (b : LayupBody) : State :=
  let s1 := if layLh b then s.writeBack.mendPrimaries else s.writeBack
  let q := s1.nq
  let size := (if layGen b then 144 * gib * q else 0) + (if layLh b then 24 * gib * q else 0)
  let base := b.tbase.toNat
  let put (l : List Host.Cell) (a : Nat) (x : Byte) : List Host.Cell := Memory.set l a x
  let l0 : List Host.Cell := []
  let l1 := if layGen b then s1.genCells.foldl (fun l c => put l (base + genOffset c.1) c.2) l0 else l0
  let l2 := if layLh b then s1.lhCells.foldl (fun l c => put l (base + lhOffset q c.1) c.2) l1 else l1
  let kept := s1.ord.keyed.filter fun e => if physLayer e.1 < 3 then layGen b else layLh b
  let resume (t : State) : State := { t with keeper := { t.keeper with paused := false, layAt := none, layKeyed := kept } }
  match b.refusesAt with
  | some n =>
    if n < size + 16384 then (resume s1).reply m 13 (BitVec.ofNat 64 n) []
    else (resume { s1 with keeper := { s1.keeper with layup := Memory.fill l2 (base + 168 * gib * q) (s1.layHeader b) } }).reply m 0
      (BitVec.ofNat 64 (size + 16384)) []
  | none => (resume { s1 with keeper := { s1.keeper with layup := Memory.fill l2 (base + 168 * gib * q) (s1.layHeader b) } }).reply m 0
      (BitVec.ofNat 64 (size + 16384)) []

/-- LAYUP with RESTORE = 0 (R405): it pauses parsing; once no containment is being handled (R407) and a master is there to decide it (R154), it
switches every gang out; once none is on its sheds, the same event streams. -/
def execLayup (m : Mgmt) (b : LayupBody) (s : State) : Out :=
  .next (s.manage (.layup m b) m fun t =>
    if !layupOk b || layRestore b then t.reply m 1 0 []
    else if t.keeper.layAt.isNone && (t.containing || !t.master.ready) then { t with keeper := { t.keeper with paused := true } }
    else if t.anyOnSheds then
      let u : State := { t with keeper := { t.keeper with paused := true, layAt := some (t.keeper.layAt.getD t.now) } }
      if t.master.ready then u.switchAll else u
    else t.stream m b)

/-- The location that a byte of the target's layout goes back to, where the flags ask for it. -/
def layupLoc (nq : Nat) (b : LayupBody) (off : Nat) : Option Nat :=
  let o := off - b.tbase.toNat
  if off < b.tbase.toNat then none
  else if o < 144 * gib * nq then
    if layGen b then
      let n := o / (48 * gib)
      some (n / 3 * 2 ^ 38 + n % 3 * 2 ^ 36 + o % (48 * gib))
    else none
  else if o < 168 * gib * nq then
    let r := o - 144 * gib * nq
    if layLh b then some (r / (24 * gib) * 2 ^ 38 + 3 * 2 ^ 36 + r % (24 * gib)) else none
  else none

/-- The lines of a quarter's layers 0 to 2. -/
def genLines (q : Nat) : List Nat :=
  (List.range 3).flatMap fun l => (List.range (Config.layerBytes / 64)).map fun i => q * 2 ^ 38 + l * 2 ^ 36 + 64 * i
/-- The code of the lines that a restore writes: that of their quarter's current entry (R173). -/
def State.restoredCodes (s : State) (b : LayupBody) : List Nat :=
  if !layGen b then s.ord.ecc
  else (List.range s.nq).flatMap fun q => if (qtrPoint s.power (s.qtrEntryOf q)).ecc then genLines q else []
/-- The key that a slot of a lay-up's header unwraps to, by its number in the slot's row of keys: one that the slot has had or that a line is
encrypted under, where its wrapped form is that of the header, and else a new one (DESIGN CHOICE, assumption 102). -/
def State.unwrapped (s : State) (b : LayupBody) (slot : Nat) : Nat :=
  let known := List.range (s.ord.keyGen.getD slot 0 + 1) ++ (b.keyed.filter fun e => e.2 % 128 = slot).map fun e => e.2 / 128
  (known.find? fun g => b.slots[slot]? = some (Config.keyWrap (128 * g + slot))).getD (max (s.newKey slot) (known.foldl max 0 + 1))

/-- Every byte of the layers that a restore writes, as the target gives it, with its encryption; the key slots are those of the header. -/
def State.restoreCells (s : State) (b : LayupBody) : State :=
  let mine (a : Nat) : Bool := !isPad a && (if physLayer a < 3 then layGen b else layLh b && decide (physOff a < Config.primaryBytes))
  let cells := b.cells.filterMap fun c => (layupLoc s.nq b c.1).map fun a => (a, c.2)
  let s1 := (List.range 4).foldl (fun t q =>
    t.setMemQ q (cells.foldl (fun mm c => Memory.set mm c.1 c.2) ((t.memQ q).filter fun c => !mine c.1))) s
  let lh := cells.filter fun c => physLayer c.1 = 3
  s1.updOrd fun o => { o with
    writes := o.writes.filter fun e => !mine e.2.loc
    poison := o.poison.filter fun e => !mine e.1
    soft := o.soft.filter fun a => !mine a
    -- What was reduced before the restore is no part of what is restored (R279).
    partials := o.partials.map fun t => t.filter fun e => !mine e.1
    ecc := s.restoredCodes b
    keyed := (b.keyed.filter fun e => mine e.1).foldl (fun k e => Table.put k (lineOf e.1) e.2) (o.keyed.filter fun e => !mine e.1)
    keyGen := (List.range 128).foldl (fun k slot => Table.put k slot (s.unwrapped b slot)) o.keyGen
    wiped := if layGen b then Vector.replicate 4 none else o.wiped
    prim := if layLh b then lh.foldl (fun mm c => Memory.set mm c.1 c.2) [] else o.prim
    mirr := if layLh b then lh.foldl (fun mm c => Memory.set mm c.1 c.2) [] else o.mirr
    badPrim := if layLh b then [] else o.badPrim
    badMirr := if layLh b then [] else o.badMirr }

/-- LAYUP with RESTORE = 1 (R406): only on a package whose functions are all reset and hold no gang, and from this device's own lay-up. -/
def execLayupRestore (m : Mgmt) (b : LayupBody) (s : State) : Out :=
  .next (s.manage (.layupRestore m b) m fun t =>
    if !layupOk b || !layRestore b then t.reply m 1 0 []
    else if (t.vfs.any fun e => !e.2.clean) || (t.gangs.any fun e => e.2.state ≠ .complete && e.2.state ≠ .failed) ||
        b.serial.toNat ≠ leAt t.keeper.identity 0 8 then t.reply m 13 0 []
    else (t.restoreCells b).reply m 0 0 [])

/-! ## Commands that have waited (R154, R369, R372) -/

/-- A command that has waited is carried out. -/
def State.runManaged (s : State) (c : Managed) : Out :=
  match c with
  | .ident m sel => execIdent m sel s
  | .attest m nonce => execAttest m nonce s
  | .bind m b => execBind m b s
  | .paddock m r => execPaddock m r s
  | .vfcfg m c => execVfcfg m c s
  | .vfreset m release => execVfreset m release s
  | .migrate m phase => execMigrate m phase s
  | .tables m t => execTables m t s
  | .fwstage m f => execFwstage m f s
  | .fwact m force => execFwact m force s
  | .errlog m => execErrlog m s
  | .layup m b => execLayup m b s
  | .layupRestore m b => execLayupRestore m b s

end Sys2Proof.Machine
end

