-- ==== Sys2Proof/Machine/Resets.lean ====
section
/-! DEFINITION. Package reset, die reset and return, and the handover of the master (R153, R154, R160, R299, R364, R387). -/
namespace Sys2Proof.Machine

/-! ## Package reset (R48, R153, R160, R162, R169) -/

/-- The default caps of the variant (R162). -/
def State.defaultPower (s : State) : Power :=
  if s.four then Power.reset else { Power.reset with capA := 800000, capB := 640000, capC := 480000 }

/-- The front end of the lowest-numbered quarter whose self-test passes is master (R153; which pass is assumption 43). -/
def State.firstFront (s : State) : Nat :=
  ((List.range s.nq).find? fun q => (s.quarterAt q).up && Config.selfTest (s.free + q)).getD 0

/-- PACKAGE_RESET: the state of reset, with the firmware image's own tables, and the keeper's processor at the start of the image's code. What
the device is (its variant, identity, firmware and fuses), what its balls carry, and the bytes of its memories with the codes and keys that
they were written under (R173, R339) stay (assumption 65). -/
def execPackageReset (s : State) : Out :=
  let s1 : State := { s with free := s.free + s.nq }
  let fresh : State := { State.reset with
    four := s.four, next := s.next, free := s1.free, turns := s.turns, turnNo := s.turnNo
    keeper := { Keeper.reset with
      cpu := .boot s.keeper.active.code
      source := s.keeper.source, active := s.keeper.active, minEpoch := s.keeper.minEpoch, identity := s.keeper.identity
      manufacturing := s.keeper.manufacturing, keyOwner := s.keeper.keyOwner }
    master := { Master.reset with front := s.firstFront }
    power := { s.defaultPower.with s.keeper.active.tables with capsel := s.power.capsel }
    ord := { Order.reset with mem := s.ord.mem, prim := s.ord.prim, mirr := s.ord.mirr, badPrim := s.ord.badPrim
                              poison := (s.ord.badPrim.filter s.ord.badMirr.contains).foldl (fun t a => t.put a 0) []
                              badMirr := s.ord.badMirr, ecc := s.ord.ecc, keyed := s.ord.keyed, keyGen := s.ord.keyGen } }
  .next fresh

/-! ## Die reset (R299, R364, R387) -/

/-- Cores of a quarter. -/
def coresOfQtr (q : Nat) : List Nat := (qtrSheds q).flatMap fun d => [3 * d, 3 * d + 1, 3 * d + 2]

/-- Has the copy that a durable location is read from taken a write: the primary, or, where that layer is out of service, the mirror (R299,
R389)? -/
def State.servedBy (s : State) (w : WriteRec) : Bool :=
  if (s.quarterAt (home w.loc)).inService then w.durP else w.durM
/-- Writes that a reset of quarter q loses: those of its contexts that are not yet in view at their home (R299), and of those that are, the
durable ones of its own home that the copy which is read has not taken (R299, R387; DEDUCED, assumption 21). -/
def State.lostWrite (s : State) (q : Nat) (w : WriteRec) : Bool :=
  w.org = q && (!w.vis.getLsbD (home w.loc) || (home w.loc = q && isDurable w.loc && !s.servedBy w))
/-- The gang that a writer belongs to. -/
def State.gangOfWriter (s : State) (who : Nat) : Option Nat :=
  if savedWriter 0 ≤ who then some (who - savedWriter 0) else s.gangOfCore (coreOfCtx who)
/-- What is kept of a lost write: the place of a durable one, and the quarters where it was in view (R387, R411). -/
def State.noteLost (s : State) (t : Table LostWrite) (e : Nat × WriteRec) : Table LostWrite :=
  match s.gangOfWriter e.2.who with
  | some g =>
    if isDurable e.2.loc then t.put e.1 { loc := e.2.loc, mask := e.2.mask, co := e.2.co.getD s.next, gang := g, vis := e.2.vis } else t
  | none => t

/-- A durable location of the reset quarter reads as its primary copy, or, where that layer is out of service, its mirror (R299, R389). -/
def State.durableReread (s : State) (q : Nat) : State :=
  let src := if (s.quarterAt q).inService then s.ord.prim else s.ord.mirr
  let cells := src.filter fun c => physQtr c.1 = q
  (List.range 4).foldl (fun t p => t.setMemQ p (cells.foldl (fun m c => Memory.set m c.1 c.2)
    ((t.memQ p).filter fun c => !(isDurable c.1 && home c.1 = q)))) s
/-- The bytes of a write that was lost on its way to its home are, at the quarters where it was visible, those of the last write that is left
there, and else its home's (assumption 21). -/
def State.undo (s : State) (w : WriteRec) : State :=
  (List.range 4).foldl (fun (t : State) p =>
    if !w.vis.getLsbD p then t
    else
      let v : Word := (List.range 8).foldl (fun v b => match s.holder p w.loc b with
        | some h => putValue v b 1 (subValue h.val b 1)
        | none => v) (s.readQ (home w.loc) w.loc)
      t.setMemQ p (Memory.setDword (t.memQ p) w.loc w.mask v)) s
/-- A write as it stands after a reset of quarter q: nothing is in that quarter's inbox, and one of a durable location there, which reads as its
copy does, is in view everywhere (R299). -/
def WriteRec.afterReset (w : WriteRec) (q : Nat) : WriteRec :=
  if isDurable w.loc && home w.loc = q then { w with vis := 0xF, inbox := 0 } else { w with inbox := w.inbox &&& ~~~ qbit q }

/-- The order machine's part of a die reset (R299, R387): kept durable writes of other quarters go straight to the copies first, whatever
partials their doublewords have, those that had not reached their home taking their places in coherence order now, as they were performed. The copies hold what they held else. -/
def State.resetOrder (s : State) (q : Nat) : State :=
  let kept := performed (s.ord.writes.filter fun e => isDurable e.2.loc && home e.2.loc = q && e.2.org ≠ q)
  let s1 := kept.foldl (fun (t : State) e =>
    let t1 := if e.2.vis.getLsbD q then t
      else (t.setWrite e.1 { e.2 with vis := e.2.vis ||| qbit q, co := some t.next }).tickNext
    (t1.copyTakes e.1 false).copyTakes e.1 true) s
  let gone := s1.ord.writes.filter fun e => s1.lostWrite q e.2
  let left := s1.ord.writes.filter fun e => !s1.lostWrite q e.2
  let s2 := s1.updOrd fun o => { o with
    writes := Table.mapVals (fun _ w => w.afterReset q) left
    lost := gone.foldl s1.noteLost o.lost }
  -- An atomic whose write is in view of its quarter now completes (R288).
  let s2a := (left.filter fun e => e.2.atom && isDurable e.2.loc && home e.2.loc = q).foldl (fun t e =>
    (List.range t.nq).foldl (fun u p => u.completeAmo e.1 p) t) s2
  let s3 := (gone.foldl (fun t e => t.undo e.2) s2a).updOrd fun o => { o with
    engines := o.engines.filter fun e => qtrOfCore e.2.core ≠ q
    partials := o.partials.set (q % 4) [] (Nat.mod_lt _ (by decide))
    l2 := o.l2.set (q % 4) [] (Nat.mod_lt _ (by decide))
    wiped := o.wiped.set (q % 4) (some s2.next) (Nat.mod_lt _ (by decide)) }
  s3.tickNext.durableReread q

/-- Takes the die down: its contexts' work is discarded, and its cores, whether a gang is on them or not, are contained with cause 4 at one
event (R364). A gang wholly on the die fails; the cores that one with members elsewhere loses count as one containment, and each has its
record. A gang that is assigned to sheds there and to others, and not released, waits for the die's return (R154; assumption 35). -/
def State.takeDown (s : State) (q : Nat) : State :=
  s.containAll ((coresOfQtr q).filter fun c => (s.core c).contained.isNone) 4 fun g => g.sheds.all fun d => qtrOfShed d = q

/-- Pending instructions are discarded (R299). -/
def Ctx.discardPending (c : Ctx) : Ctx := { c with ops := [], fences := [], seen := [] }
/-- DIE_RESET (R299, R364): a second reset of a die that has not returned contains no core. -/
def execDieReset (quarter : Nat) (s : State) : Out :=
  if s.nq ≤ quarter then .next s
  else
    let ks := (coresOfQtr quarter).flatMap ctxsOfCore
    let s1 := ks.foldl (fun t k => if (t.ctxs.get? k).isNone then t
      else t.updCtx k Ctx.discardPending) s
    let s2 := s1.resetOrder quarter
    let s3 := if (s2.quarterAt quarter).up then s2.takeDown quarter else s2
    let s4 := s3.setQuarter quarter { s3.quarterAt quarter with up := false }
    .next (if s4.master.front = quarter then { s4 with master := { s4.master with ready := false } } else s4)

/-- DIE_RETURN (R364): the reset has ended and the self-test has passed. -/
def execDieReturn (quarter : Nat) (s : State) : Out :=
  let t := { s with free := s.free + 1 }
  .next (if (s.quarterAt quarter).up || !Config.selfTest s.free then t
    else t.setQuarter quarter { t.quarterAt quarter with up := true })

/-- A queue's last completion record is sent again. -/
def Queue.sendAgain (q : Queue) : Queue :=
  match q.sent.head? with
  | some r => { q with sent := r :: q.sent }
  | none => q

/-- Switches that share a timestamp that has not passed are decided again, at one new one (R144, R154). -/
def State.redecide (s : State) (gs : List (Nat × Gang)) : State :=
  let t := s.now + 1000 + Config.freeChoice s.free % 1001
  gs.foldl (fun u e => (u.updGang e.1 fun v => { v with switchAt := none, state := .resident }).leaveAt e.1 t e.2.discard)
    { s with free := s.free + 1 }

/-- MASTER_HANDOVER (R154): after the reset of the master's die, which its return does not undo, the lowest surviving quarter's front end
becomes master and reads the journal from the surviving copy; switches whose timestamp has not passed are decided again, those that an
exhausted budget has asked for are decided now (R172), and each queue's last record is sent again. A launch that is assigned and not released goes on. -/
def execMasterHandover (s : State) : Out :=
  if s.master.ready then .next s
  else
    let up (q : Nat) : Bool := (s.quarterAt q).up
    match ((List.range s.nq).filter fun q => q ≠ s.master.front && up q) ++ [s.master.front] |>.find? up with
    | none => .next s
    | some q =>
      let s0 := [q, partner q].foldl (fun t p => t.setQuarter p { t.quarterAt p with journal := s.readJournal })
        { s with master := { front := q, ready := true } }
      let again := s0.gangs.filter fun e => match e.2.switchAt with
        | some t => decide (s.now < t)
        | none => false
      let ts := (again.filterMap fun e => e.2.switchAt).eraseDups
      let s1 := ts.foldl (fun u t => u.redecide (again.filter fun e => e.2.switchAt = some t)) s0
      let s2 := (s1.queues.map (·.1)).foldl (fun u n => u.dueSwitch n) s1
      .next { s2 with queues := Table.mapVals (fun _ q => q.sendAgain) s2.queues }

end Sys2Proof.Machine
end

