-- ==== Sys2Proof/Machine/Scalar.lean ====
section
/-! DEFINITION. The scalar instructions: majors 0x10 to 0x1B and 0x20 (R197 to R212). None touches memory or sleeps. -/
namespace Sys2Proof.Machine

/-! ## Shared effects -/

/-- R198: the operation of TYPE's width and signedness on x_A and x_B, with its flags. -/
def intEff (op : IntOp) (f : RR) (s : State) : Eff :=
  let r := intOp op f.ty.toNat (f.sat = 1) (s.rx f.a) (s.rx f.b)
  .done ((s.wx f.d r.1).orFlags r.2)

/-- An effect that writes one scalar register and raises no flag. -/
def wxEff (d : BitVec 5) (w : Word) (s : State) : Eff := .done (s.wx d w)

/-- An effect that writes one condition set. -/
def wcEff (d : BitVec 5) (c : BitVec 4) (s : State) : Eff := .done (s.wc (low2 d) c)

/-- R206, R208: a rounded float result in the low bits of x_D, the rest 0. -/
def floatEff (op : FloatOp) (f : RR) (s : State) : Eff :=
  let fm := fmtOf f.ty.toNat
  let r := floatOp op fm fm f.rnd.toNat (f.sat = 1) (s.rx f.a).toNat (s.rx f.b).toNat (s.rx f.c).toNat
  .done ((s.wx f.d (BitVec.ofNat 64 r.1)).orFlags r.2)

/-- R209: an encoding result that raises no flag. -/
def encEff (g : Fmt → Nat → Nat → Nat) (f : RR) (s : State) : Eff :=
  let fm := fmtOf f.ty.toNat
  .done (s.wx f.d (BitVec.ofNat 64 (fm.trim (g fm (s.rx f.a).toNat (s.rx f.b).toNat))))

/-- R210: a conversion from the source type in C to TYPE. -/
def cvtEff (f : RR) (s : State) : Eff :=
  let r := convert f.c.toNat f.ty.toNat f.rnd.toNat (f.sat = 1) typeWidth (s.rx f.a).toNat
  let v := if 8 ≤ f.ty.toNat then BitVec.ofNat 64 r.1
           else extend (intSigned f.ty.toNat) (typeWidth f.ty.toNat) r.1
  .done ((s.wx f.d v).orFlags r.2)

/-- The countdown of `decz` (R204). -/
def deczEff (f : RR) (s : State) : Eff :=
  let x := s.rx f.a
  .done ((s.wc (low2 f.c) (cmpInt 64 x.toNat 1)).wx f.d (if x = 0 then 0 else x - 1))

def sext32 (i : BitVec 32) : Word := i.signExtend 64
def zext32 (i : BitVec 32) : Word := i.zeroExtend 64

/-! ## Major 0x10 -/

/-- `add` (R198). -/
def execAdd (f : RR) (s : State) : Out := .next (s.issue (.add f) (intEff .add f))
/-- `sub` (R198). -/
def execSub (f : RR) (s : State) : Out := .next (s.issue (.sub f) (intEff .sub f))
/-- `mul` (R198). -/
def execMul (f : RR) (s : State) : Out := .next (s.issue (.mul f) (intEff .mul f))
/-- `mulh` (R198). -/
def execMulh (f : RR) (s : State) : Out := .next (s.issue (.mulh f) (intEff .mulh f))
/-- `div` (R199). -/
def execDiv (f : RR) (s : State) : Out := .next (s.issue (.div f) (intEff .div f))
/-- `rem` (R199). -/
def execRem (f : RR) (s : State) : Out := .next (s.issue (.rem f) (intEff .rem f))
/-- `and` (R198). -/
def execAnd (f : RR) (s : State) : Out := .next (s.issue (.and f) (intEff .and f))
/-- `or` (R198). -/
def execOr (f : RR) (s : State) : Out := .next (s.issue (.or f) (intEff .or f))
/-- `xor` (R198). -/
def execXor (f : RR) (s : State) : Out := .next (s.issue (.xor f) (intEff .xor f))
/-- `andn` (R198). -/
def execAndn (f : RR) (s : State) : Out := .next (s.issue (.andn f) (intEff .andn f))
/-- `shl` (R198). -/
def execShl (f : RR) (s : State) : Out := .next (s.issue (.shl f) (intEff .shl f))
/-- `shr` (R198). -/
def execShr (f : RR) (s : State) : Out := .next (s.issue (.shr f) (intEff .shr f))
/-- `sra` (R198). -/
def execSra (f : RR) (s : State) : Out := .next (s.issue (.sra f) (intEff .sra f))
/-- `rol` (R198). -/
def execRol (f : RR) (s : State) : Out := .next (s.issue (.rol f) (intEff .rol f))
/-- `min` (R198). -/
def execMin (f : RR) (s : State) : Out := .next (s.issue (.min f) (intEff .min f))
/-- `max` (R198). -/
def execMax (f : RR) (s : State) : Out := .next (s.issue (.max f) (intEff .max f))
/-- `abs` (R198). -/
def execAbs (f : RR) (s : State) : Out := .next (s.issue (.abs f) (intEff .abs f))
/-- `neg` (R198). -/
def execNeg (f : RR) (s : State) : Out := .next (s.issue (.neg f) (intEff .neg f))
/-- `clz` (R198). -/
def execClz (f : RR) (s : State) : Out := .next (s.issue (.clz f) (intEff .clz f))
/-- `ctz` (R198). -/
def execCtz (f : RR) (s : State) : Out := .next (s.issue (.ctz f) (intEff .ctz f))
/-- `popc` (R198). -/
def execPopc (f : RR) (s : State) : Out := .next (s.issue (.popc f) (intEff .popc f))
/-- `bfx` (R200). -/
def execBfx (f : RR) (s : State) : Out := .next (s.issue (.bfx f) (fun s => wxEff f.d (bfxOp (f.ty = 6) (s.rx f.a) (s.rx f.b)) s))
/-- `bfi` (R200). -/
def execBfi (f : RR) (s : State) : Out := .next (s.issue (.bfi f) (fun s => wxEff f.d (bfiOp (s.rx f.a) (s.rx f.b) (s.rx f.c)) s))
/-- `lea` (R201). -/
def execLea (f : RR) (s : State) : Out := .next (s.issue (.lea f) (fun s =>
  wxEff f.d (s.rx f.a + s.rx f.b * BitVec.ofNat 64 (typeWidth f.ty.toNat / 8) + s.rx f.c) s))
/-- `mov` (R201). -/
def execMov (f : RR) (s : State) : Out := .next (s.issue (.mov f) (fun s =>
  wxEff f.d (extend (intSigned f.ty.toNat) (typeWidth f.ty.toNat) (s.rx f.a).toNat) s))

/-! ## Major 0x11 -/

/-- `cmp` (R204). -/
def execCmp (f : RR) (s : State) : Out := .next (s.issue (.cmp f) (fun s =>
  wcEff f.d (cmpInt (typeWidth f.ty.toNat) (s.rx f.a).toNat (s.rx f.b).toNat) s))
/-- `csel` (R204). -/
def execCsel (f : RR) (s : State) : Out := .next (s.issue (.csel f) (fun s =>
  wxEff f.d (if testCond (s.rc (low2 f.c)) f.rnd.toNat (f.sat = 1) then s.rx f.a else s.rx f.b) s))
/-- `setc` (R204). -/
def execSetc (f : RR) (s : State) : Out := .next (s.issue (.setc f) (fun s =>
  wxEff f.d (if testCond (s.rc (low2 f.c)) f.rnd.toNat (f.sat = 1) then 1 else 0) s))
/-- `decz` (R204). -/
def execDecz (f : RR) (s : State) : Out := .next (s.issue (.decz f) (deczEff f))

/-! ## Immediate forms (R205) -/

/-- `addi` (R205). -/
def execAddi (f : RI) (s : State) : Out := .next (s.issue (.addi f) (fun s => wxEff f.d (s.rx f.a + sext32 f.imm) s))
/-- `andi` (R205). -/
def execAndi (f : RI) (s : State) : Out := .next (s.issue (.andi f) (fun s => wxEff f.d (s.rx f.a &&& zext32 f.imm) s))
/-- `ori` (R205). -/
def execOri (f : RI) (s : State) : Out := .next (s.issue (.ori f) (fun s => wxEff f.d (s.rx f.a ||| zext32 f.imm) s))
/-- `xori` (R205). -/
def execXori (f : RI) (s : State) : Out := .next (s.issue (.xori f) (fun s => wxEff f.d (s.rx f.a ^^^ zext32 f.imm) s))
/-- `li` (R205). -/
def execLi (f : RI) (s : State) : Out := .next (s.issue (.li f) (fun s => wxEff f.d (sext32 f.imm) s))
/-- `lih` (R205). -/
def execLih (f : RI) (s : State) : Out := .next (s.issue (.lih f) (fun s => wxEff f.d (f.imm ++ (s.rx f.a).extractLsb' 0 32) s))
/-- `shli` (R205). -/
def execShli (f : RI) (s : State) : Out := .next (s.issue (.shli f) (fun s => wxEff f.d (s.rx f.a <<< f.imm.toNat) s))
/-- `shri` (R205). -/
def execShri (f : RI) (s : State) : Out := .next (s.issue (.shri f) (fun s => wxEff f.d (s.rx f.a >>> f.imm.toNat) s))
/-- `srai` (R205). -/
def execSrai (f : RI) (s : State) : Out := .next (s.issue (.srai f) (fun s => wxEff f.d ((s.rx f.a).sshiftRight f.imm.toNat) s))
/-- `cmpi` (R205). -/
def execCmpi (f : RI) (s : State) : Out := .next (s.issue (.cmpi f) (fun s => wcEff f.d (cmpInt 64 (s.rx f.a).toNat (sext32 f.imm).toNat) s))

/-! ## Major 0x20 -/

/-- `fadd` (R208). -/
def execFadd (f : RR) (s : State) : Out := .next (s.issue (.fadd f) (floatEff .add f))
/-- `fsub` (R208). -/
def execFsub (f : RR) (s : State) : Out := .next (s.issue (.fsub f) (floatEff .sub f))
/-- `fmul` (R208). -/
def execFmul (f : RR) (s : State) : Out := .next (s.issue (.fmul f) (floatEff .mul f))
/-- `fdiv` (R208). -/
def execFdiv (f : RR) (s : State) : Out := .next (s.issue (.fdiv f) (floatEff .div f))
/-- `fsqrt` (R208). -/
def execFsqrt (f : RR) (s : State) : Out := .next (s.issue (.fsqrt f) (floatEff .sqrt f))
/-- `fma` (R208). -/
def execFma (f : RR) (s : State) : Out := .next (s.issue (.fma f) (floatEff .fma f))
/-- `fmin` (R209). -/
def execFmin (f : RR) (s : State) : Out := .next (s.issue (.fmin f) (encEff (fun fm p q => fminmax fm false p q) f))
/-- `fmax` (R209). -/
def execFmax (f : RR) (s : State) : Out := .next (s.issue (.fmax f) (encEff (fun fm p q => fminmax fm true p q) f))
/-- `fabs` (R209). -/
def execFabs (f : RR) (s : State) : Out := .next (s.issue (.fabs f) (encEff (fun fm p _ => fabsBits fm p) f))
/-- `fneg` (R209). -/
def execFneg (f : RR) (s : State) : Out := .next (s.issue (.fneg f) (encEff (fun fm p _ => fnegBits fm p) f))
/-- `fcmp` (R209). -/
def execFcmp (f : RR) (s : State) : Out := .next (s.issue (.fcmp f) (fun s =>
  wcEff f.d (cmpFloat (fmtOf f.ty.toNat) (s.rx f.a).toNat (s.rx f.b).toNat) s))
/-- `fclass` (R209). -/
def execFclass (f : RR) (s : State) : Out := .next (s.issue (.fclass f) (fun s =>
  wxEff f.d (BitVec.ofNat 64 (2 ^ fclassOf (fmtOf f.ty.toNat) (s.rx f.a).toNat)) s))
/-- `fcvt` (R210). -/
def execFcvt (f : RR) (s : State) : Out := .next (s.issue (.fcvt f) (cvtEff f))
/-- `ftoi` (R210). -/
def execFtoi (f : RR) (s : State) : Out := .next (s.issue (.ftoi f) (cvtEff f))
/-- `itof` (R210). -/
def execItof (f : RR) (s : State) : Out := .next (s.issue (.itof f) (cvtEff f))

end Sys2Proof.Machine
end

