-- ==== Sys2Proof/Machine/GrammarEngine.lean ====
section
/-! DEFINITION. The grammar-mask engine: major 0x83 (R258 to R263). -/
namespace Sys2Proof.Machine

def State.setGrammar (s : State) (g : Grammar) : State := s.updCore s.myCore fun c => { c with grammar := some g }
/-- Event bit 2 of the issuing context (R43, R262). -/
def State.setEvent2 (s : State) (v : Bool) : State :=
  s.updMe fun c => { c with event := if v then c.event ||| 0b00100 else c.event &&& 0b11011 }

/-- With no configuration, every instruction but `gm.cfg` raises the grammar-range trap with TVAL 0 (R258). -/
def withGrammar (s : State) (k : Grammar → Eff) : Eff :=
  match (s.core s.myCore).grammar with
  | none => .trap 20 0 0
  | some g => k g

def chunks (vocab : Nat) : Nat := (vocab + 511) / 512

/-! ## `gm.cfg` (R259) -/

/-- The engine that a descriptor of eight doublewords configures. -/
def grammarOf (ws : List Word) : Grammar :=
  let w (i : Nat) := ws.getD i 0
  { nstate := ((w 0).extractLsb' 0 8).toNat, start := ((w 0).extractLsb' 8 8).toNat, nclass := ((w 0).extractLsb' 16 16).toNat,
    vocab := ((w 0).extractLsb' 32 32).toNat, clstab := w 1, trtab := w 2, masktab := w 3, accept := w 4,
    state := ((w 0).extractLsb' 8 8).toNat, depth := 0, stack := Vector.replicate 8 0, cache := [] }

/-- The checks of R259 on what was read. -/
def grammarOk (g : Grammar) (ws : List Word) : Bool :=
  decide (1 ≤ g.nstate) && decide (g.nstate ≤ 64) && decide (g.start < g.nstate) && decide (1 ≤ g.nclass) &&
  decide (g.nclass ≤ 256) && decide (1 ≤ g.vocab) && decide (g.vocab ≤ 32768) && g.trtab.toNat % 2 = 0 &&
  g.masktab.toNat % 8 = 0 && g.accept.toNat / 2 ^ g.nstate = 0 && decide (g.nstate * chunks g.vocab * 64 ≤ 262144) &&
  ws.getD 5 0 = 0 && ws.getD 6 0 = 0 && ws.getD 7 0 = 0

/-- The effect of `gm.cfg` (R259). -/
def effGmCfg (f : RR) (s : State) : Eff :=
  let xa := s.rx f.a
  if xa.toNat % 8 ≠ 0 then .trap 20 xa 0
  else Sync.bind s (s.syncLoad s.cur xa 8) fun ws t =>
    let g := grammarOf ws
    if grammarOk g ws then .done ((t.setGrammar g).setEvent2 false) else .trap 20 xa 0
/-- `gm.cfg` (R259). -/
def execGmCfg (f : RR) (s : State) : Out := .next (s.issue (.gmCfg f) (effGmCfg f))

/-! ## `gm.step` (R261) -/

/-- The status word of R261. -/
def stepStatus (g : Grammar) (rej und : Bool) : Word :=
  BitVec.ofNat 64 ((if und then 2 ^ 14 else 0) + (if rej then 2 ^ 13 else 0) +
    (if g.accept.getLsbD g.state then 2 ^ 12 else 0) + g.depth * 2 ^ 8 + g.state)

/-- What a transition entry does to the engine: the new engine with REJ and UNDER, or none where the stack overflows. -/
def takeEntry (g : Grammar) (op ret next : Nat) : Option (Grammar × Bool × Bool) :=
  match op with
  | 0 => some ({ g with state := next }, false, false)
  | 1 => if 8 ≤ g.depth then none
         else some ({ g with stack := g.stack.setIfInBounds g.depth (BitVec.ofNat 6 ret), depth := g.depth + 1,
                             state := next }, false, false)
  | 2 => if g.depth = 0 then some (g, false, true)
         else some ({ g with depth := g.depth - 1, state := (g.stack[g.depth - 1]?.getD 0).toNat,
                             stack := g.stack.setIfInBounds (g.depth - 1) 0 }, false, false)
  | _ => some (g, true, false)

/-- The effect of `gm.step` (R261). -/
def effGmStep (f : RR) (s : State) : Eff :=
  withGrammar s fun g =>
    let t := s.rx f.a
    if g.vocab ≤ t.toNat then .trap 20 t 0
    else Sync.bind s (s.syncByte s.cur (g.clstab + t)) fun cs s1 =>
      let c := (cs.headD 0).toNat
      if g.nclass ≤ c then .trap 20 t 0
      else Sync.bind s
          (s1.syncHalf s.cur (g.trtab + BitVec.ofNat 64 (2 * (g.state * g.nclass + c)))) fun es s2 =>
        let e := es.headD 0
        let op := (e.extractLsb' 14 2).toNat
        let ret := (e.extractLsb' 8 6).toNat
        let next := (e.extractLsb' 0 6).toNat
        if e.extractLsb' 6 2 ≠ (0 : BitVec 2) || (op ≤ 1 && g.nstate ≤ next) || (op = 1 && g.nstate ≤ ret) then .trap 20 e 0
        else match takeEntry g op ret next with
          | none => .trap 21 t 0
          | some (g1, rej, und) => .done (((s2.setGrammar g1).setEvent2 false).wx f.d (stepStatus g1 rej und))
/-- `gm.step` (R261). -/
def execGmStep (f : RR) (s : State) : Out := .next (s.issue (.gmStep f) (effGmStep f))

/-! ## Masks (R262) -/

/-- A chunk of 512 bits from eight doublewords. -/
def chunkOf (ws : List Word) : BitVec 512 :=
  (List.range 8).foldr (fun i (c : BitVec 512) => (c <<< 64) ||| (ws.getD i 0).zeroExtend 512) 0
/-- Bits for tokens at or above VOCAB read 0. -/
def chunkMask (vocab q : Nat) : BitVec 512 :=
  if 512 * (q + 1) ≤ vocab then BitVec.allOnes 512 else BitVec.ofNat 512 (2 ^ (vocab - 512 * q) - 1)

/-- Chunk q of the current state, from the mask cache or read into it (R262). -/
def State.loadChunk (s : State) (g : Grammar) (q : Nat) : Sync × Grammar × BitVec 512 :=
  let key := g.state * chunks g.vocab + q
  match Table.get? g.cache key with
  | some c => (.ok [] s, g, c &&& chunkMask g.vocab q)
  | none =>
    match s.syncLoad s.cur (g.masktab + BitVec.ofNat 64 (64 * key)) 8 with
    | .ok ws t => (.ok [] t, { g with cache := Table.put g.cache key (chunkOf ws) }, chunkOf ws &&& chunkMask g.vocab q)
    | r => (r, g, 0)

/-- Chunks q, q+1, .. of the current state. -/
def State.loadChunks (s : State) (g : Grammar) (q : Nat) : Nat → Sync × Grammar × List (BitVec 512)
  | 0 => (.ok [] s, g, [])
  | n + 1 =>
    match s.loadChunk g q with
    | (.ok _ t, g1, c) =>
      let r := State.loadChunks t g1 (q + 1) n
      (r.1, r.2.1, c :: r.2.2)
    | (r, g1, _) => (r, g1, [])

/-- The effect of `gm.mask` (R262). -/
def effGmMask (f : RR) (s : State) : Eff :=
  withGrammar s fun g =>
    let q := s.rx f.a
    if chunks g.vocab ≤ q.toNat then .trap 20 q 0
    else
      let r := s.loadChunk g q.toNat
      Sync.bind s r.1 fun _ t =>
        .done ((List.range 4).foldl (fun u m => u.wv (f.d + BitVec.ofNat 5 m) (r.2.2.extractLsb' (128 * m) 128))
          (t.setGrammar r.2.1))
/-- `gm.mask` (R262). -/
def execGmMask (f : RR) (s : State) : Out := .next (s.issue (.gmMask f) (effGmMask f))

/-- Number of one bits of the chunks and the first token allowed. -/
def countTokens (cs : List (BitVec 512)) : Nat × Nat :=
  let toks := (List.range cs.length).flatMap fun q =>
    ((List.range 512).filter fun b => (cs.getD q 0).getLsbD b).map (512 * q + ·)
  (toks.length, toks.headD 0)

/-- The effect of `gm.force` (R262). -/
def effGmForce (f : RR) (s : State) : Eff :=
  withGrammar s fun g =>
    let r := s.loadChunks g 0 (chunks g.vocab)
    Sync.bind s r.1 fun _ t =>
      let (n, tok) := countTokens r.2.2
      .done (((t.setGrammar r.2.1).setEvent2 (n = 1)).wx f.d
        (BitVec.ofNat 64 (n * 2 ^ 16 + (if n = 1 then tok else 0xFFFF))))
/-- `gm.force` (R262). -/
def execGmForce (f : RR) (s : State) : Out := .next (s.issue (.gmForce f) (effGmForce f))

/-! ## `gm.reset` and `gm.st` (R260, R263) -/

/-- The effect of `gm.reset` (R260). -/
def effGmReset (f : RR) (s : State) : Eff :=
  let _ := f
  withGrammar s fun g =>
    .done ((s.setGrammar { g with state := g.start, depth := 0, stack := Vector.replicate 8 0 }).setEvent2 false)
/-- `gm.reset` (R260). -/
def execGmReset (f : RR) (s : State) : Out := .next (s.issue (.gmReset f) (effGmReset f))

/-- The engine's state word (R263). -/
def grammarWord (g : Grammar) : Word :=
  BitVec.ofNat 64 ((List.range 8).foldl (fun z i => z + (g.stack[i]?.getD 0).toNat * 2 ^ (16 + 6 * i)) 0 +
    (if g.accept.getLsbD g.state then 2 ^ 12 else 0) + g.depth * 2 ^ 8 + g.state)
/-- The engine that a state word gives, where R263 allows it. -/
def grammarSet (g : Grammar) (w : Word) : Option Grammar :=
  let st := (w.extractLsb' 0 6).toNat
  let d := (w.extractLsb' 8 4).toNat
  let entry (i : Nat) : BitVec 6 := w.extractLsb' (16 + 6 * i) 6
  if g.nstate ≤ st || 8 < d || w.extractLsb' 13 3 ≠ (0 : BitVec 3) || w.extractLsb' 6 2 ≠ (0 : BitVec 2) ||
      ((List.range 8).any fun i => d ≤ i && entry i ≠ 0) then none
  else some { g with state := st, depth := d, stack := Vector.ofFn fun (i : Fin 8) => entry i.val }

/-- The effect of `gm.st` (R263). -/
def effGmSt (f : RR) (s : State) : Eff :=
  withGrammar s fun g =>
    if f.a = 0 then .done (s.wx f.d (grammarWord g))
    else match grammarSet g (s.rx f.a) with
      | none => .trap 20 (s.rx f.a) 0
      | some g1 => .done ((s.wx f.d (grammarWord g)).setGrammar g1)
/-- `gm.st` (R263). -/
def execGmSt (f : RR) (s : State) : Out := .next (s.issue (.gmSt f) (effGmSt f))

end Sys2Proof.Machine
end

