-- ==== Sys2Proof/Machine/Control.lean ====
section
/-! DEFINITION. Yard tables, contexts and mailboxes: majors 0x01 to 0x04 (R85 to R124). -/
namespace Sys2Proof.Machine

/-! ## Pins and generations (R88, R97 to R101) -/

/-- Context k drops every pin (R93, R101, R104). -/
def State.dropPins (s : State) (k : Nat) : State :=
  let gang := (s.gangOfCore (coreOfCtx k)).getD 0
  let tables := (s.ctx k).pins.map (·.table)
  tables.foldl (fun t n => t.dropRetained gang n) (s.updCtx k fun c => { c with pins := [] })

/-- Step 2 of R98: no pin on a retained generation, and no copy of the previous commit still to be dropped. -/
def State.commitReady (s : State) (g : Gang) (t : BitVec 8) (y : YardTable) : Bool :=
  y.stale.isEmpty && match y.retained with
    | none => true
    | some (rg, _) => !s.pinned g t rg

/-- Steps 3 and 4 of R98 for the first commit of a table; the next one then stands at step 2. -/
def State.commitNow (s : State) (gang : Nat) (t : BitVec 8) (m : Commit) : State :=
  let g := s.gang gang
  let y := g.yard t
  let core := coreOfCtx m.ctx
  let near := g.cores.filter fun c => inScope m.scope core c
  let far := g.cores.filter fun c => !inScope m.scope core c &&
    (s.core c).yardCache.any fun z => z.table = t && z.asCurrent
  let y1 : YardTable := { y with
    retained := if s.pinned g t y.gen then some (y.gen, y.cur) else none
    cur := { y.staging with rel := some { set := m.set, scope := m.scope, core := core } }
    gen := y.gen + 1
    commits := (y.takeFirst g.residentTicks).commits
    stale := far }
  near.foldl (fun u c => u.updCore c fun v => { v with yardCache := v.yardCache.filter fun z => !(z.table = t && z.asCurrent) })
    (s.updGang gang fun v => v.setYard t y1)

/-! ## Selectors (R103) -/

def selTable (w : Word) : BitVec 8 := w.extractLsb' 8 8
def selIndex (w : Word) : BitVec 6 := w.extractLsb' 0 6
def selScope (w : Word) : BitVec 3 := w.extractLsb' 16 3
def selStg (w : Word) : Bool := w.getLsbD 20
def selWsel (w : Word) : Nat := (w.extractLsb' 22 2).toNat
/-- No bit outside TABLE and a mask of the other fields that the instruction uses. -/
def selOk (w more : Word) : Bool := w &&& ~~~(0xFF00 ||| more) = 0

/-! ## Major 0x01 (R104) -/

/-- The effect of `yard.we` (R97, R104). -/
def effYardWe (f : RR) (s : State) : Eff :=
  let sel := s.rx f.d
  if !selOk sel 0x3F then .trap 11 sel 0
  else counted (.yardWe f) s (·.st) <|
    .done ((s.pushOp 0 0 (.yardEntry (selTable sel) (selIndex sel) (s.rx f.a) (s.rx f.b) (s.rx f.c))).updMe Ctx.incSt)
/-- `yard.we` (R104). -/
def execYardWe (f : RR) (s : State) : Out := .next (s.issue (.yardWe f) (effYardWe f))

/-- The effect of `yard.wf` (R97, R104). -/
def effYardWf (f : RR) (s : State) : Eff :=
  let sel := s.rx f.d
  if !selOk sel 0 then .trap 11 sel 0
  else counted (.yardWf f) s (·.st) <|
    .done ((s.pushOp 0 0 (.yardFallback (selTable sel) (s.rx f.a))).updMe Ctx.incSt)
/-- `yard.wf` (R104). -/
def execYardWf (f : RR) (s : State) : Out := .next (s.issue (.yardWf f) (effYardWf f))

/-- The effect of `yard.cmt` (R98): the context sleeps at step 1 until its release set is complete at the scope. The later
steps are taken by SLEEP_WAKE. -/
def effYardCmt (f : RR) (s : State) : Eff :=
  let sel := s.rx f.a
  if !selOk sel 0x70000 || (selScope sel).toNat = 0 || 4 < (selScope sel).toNat then .trap 11 sel 0
  else .sleep (.commitRelease f (s.releaseSet s.cur)) s
/-- `yard.cmt` (R104). -/
def execYardCmt (f : RR) (s : State) : Out := .next (s.issue (.yardCmt f) (effYardCmt f))

/-- VALUE, MASK or ACTION of an entry, or the fallback, of a generation. -/
def YardGen.word (g : YardGen) (index wsel : Nat) : Word :=
  let e := g.entries.getD index (0, 0, 0)
  match wsel with
  | 0 => e.1
  | 1 => e.2.1
  | 2 => e.2.2
  | _ => g.fallback
/-- Is a pending operation a yard write? -/
def OpKind.yard : OpKind → Bool
  | .yardEntry _ _ _ _ _ => true
  | .yardFallback _ _ => true
  | _ => false
/-- The effect of `yard.rd` (R104): the context is STALLED until its own yard writes are performed. -/
def effYardRd (f : RR) (s : State) : Eff :=
  let sel := s.rx f.a
  if !selOk sel (if selWsel sel = 3 then 0xD00000 else 0xD0003F) then .trap 11 sel 0
  else stallUnless (!s.me.ops.any fun o => OpKind.yard o.kind) s <|
    let y := (s.gang s.myGang).yard (selTable sel)
    let g := if selStg sel then y.staging else y.cur
    -- A yard-store read consumes poison (R360).
    if g.bad.contains (if selWsel sel = 3 then 64 else (selIndex sel).toNat) then .contained (s.containEvent s.myCore 3)
    else .done (s.wx f.d (g.word (selIndex sel).toNat (selWsel sel)))
/-- `yard.rd` (R104). -/
def execYardRd (f : RR) (s : State) : Out := .next (s.issue (.yardRd f) (effYardRd f))

/-- The effect of `yard.pin` (R101, R104). -/
def effYardPin (f : RR) (s : State) : Eff :=
  let sel := s.rx f.a
  let t := selTable sel
  if !selOk sel 0 then .trap 11 sel 0
  else
    let others := s.me.pins.filter (·.table ≠ t)
    if 4 ≤ others.countP (!·.revoked) then .trap 11 sel 0
    else
      let gen := ((s.gang s.myGang).yard t).gen
      .done (((s.updMe fun c => { c with pins := { table := t, gen := gen, revoked := false } :: others }).dropRetained
        s.myGang t).wx f.d (gen.zeroExtend 64))
/-- `yard.pin` (R104). -/
def execYardPin (f : RR) (s : State) : Out := .next (s.issue (.yardPin f) (effYardPin f))

/-- The effect of `yard.unpin` (R101, R104). -/
def effYardUnpin (f : RR) (s : State) : Eff :=
  let sel := s.rx f.a
  let t := selTable sel
  if !selOk sel 0 then .trap 11 sel 0
  else .done ((s.updMe fun c => { c with pins := c.pins.filter (·.table ≠ t) }).dropRetained s.myGang t)
/-- `yard.unpin` (R104). -/
def execYardUnpin (f : RR) (s : State) : Out := .next (s.issue (.yardUnpin f) (effYardUnpin f))

/-- The effect of `yard.gen` (R104). -/
def effYardGen (f : RR) (s : State) : Eff :=
  let sel := s.rx f.a
  if !selOk sel 0 then .trap 11 sel 0
  else
    let y := (s.gang s.myGang).yard (selTable sel)
    .done (s.wx f.d (BitVec.ofNat 64 (y.gen.toNat + (if y.retained.isSome then 2 ^ 16 else 0) +
      (if y.first.isSome then 2 ^ 17 else 0))))
/-- `yard.gen` (R104). -/
def execYardGen (f : RR) (s : State) : Out := .next (s.issue (.yardGen f) (effYardGen f))

/-- The effect of `halt` (R85, R104): the block ends at once, and the context waits for its counters. -/
def effHalt (_f : RR) (s : State) : Eff := .leave (s.exitCtx s.cur 1 none)
/-- `halt` (R104). -/
def execHalt (f : RR) (s : State) : Out := .next (s.issue (.halt f) (effHalt f))

/-- The effect of `yield` (R104). As instruction LEN it has no next instruction in its block: the hold then lasts over the
block end, to instruction 0 of the next block (DESIGN CHOICE, assumption 100). -/
def effYield (_f : RR) (s : State) : Eff := .done (s.updMe fun c => { c with hold := s.readyOthers s.cur })
/-- `yield` (R104). -/
def execYield (f : RR) (s : State) : Out := .next (s.issue (.yield f) (effYield f))

/-! ## Major 0x02 (R112 to R118) -/

/-- HELP, NIDX, NV of a start descriptor (R113). -/
def descHelp (w : Word) : Nat := (w.extractLsb' 0 4).toNat
def descNotice (w : Word) : Option (BitVec 5) := if w.getLsbD 9 then some (w.extractLsb' 4 5) else none
def descOkStart (w : Word) : Bool :=
  decide (descHelp w ≤ 10) && w.extractLsb' 10 54 = (0 : BitVec 54) && (w.getLsbD 9 || w.extractLsb' 4 5 = (0 : BitVec 5))

/-- A helper as R115 starts it. R115 does not list its event bits: every helper starts with none set (DESIGN CHOICE, assumption 128). -/
def startedHelper (control : Ctx) (rank gangdim : BitVec 32) (arg : Word) (notice : Option (BitVec 5)) (blk : Nat)
    (hdr : Word) : Ctx :=
  let c := Ctx.entered { Ctx.reset with
    mode := .ready
    pc := mkPc 0 blk
    hdr := hdr
    notice := notice
    tyard := control.tyard
    cbase := control.cbase
    cbound := control.cbound
    sup := control.sup }
  ((c.wx 3 (gangdim.zeroExtend 64)).wx 2 (rank.zeroExtend 64)).wx 1 arg

/-- The helper that a start takes: the one it names, or the lowest IDLE one (R113). -/
def State.helperFor (s : State) (help : Nat) : Option Nat :=
  if help = 0 then (List.range 10).findSome? fun i =>
    if (s.ctx (11 * s.myCore + i + 1)).mode = .idle then some (i + 1) else none
  else if (s.ctx (11 * s.myCore + help)).mode = .idle then some help else none

/-- The messages that context k sent before it starts again, and that wait on, are not counted in its new st (R115, R116). -/
def State.uncount (s : State) (k : Nat) : State :=
  let core := coreOfCtx k
  let g := s.gang ((s.gangOfCore core).getD 0)
  let me := g.lcore core
  let mark (m : Message) : Message := if m.srcCore = me && m.srcCtx = ctxNo k then { m with counted := false } else m
  g.cores.foldl (fun t c => t.updCore c fun v => { v with port := v.port.map mark }) s

/-- START of R114. -/
def startEff (i : Instr) (tries : Bool) (f : RR) (s : State) : Eff :=
  let desc := s.rx f.a
  let blk := s.rx f.b
  if ctxNo s.cur ≠ 0 then .trap 1 (encode i) 0
  else if !descOkStart desc then .trap 7 desc 0
  else if blk.toNat % 8 ≠ 0 then .trap 1 blk 0
  else if !s.me.inCode blk.toNat then .trap 5 blk 0
  else
    let (h, s1) := s.fetch s.myCore blk.toNat
    if !headerOk h then .trapRead s1 1 blk 0
    else match s1.helperFor (descHelp desc) with
      | none => if tries then .done (s1.wx f.d 0) else .sleep (.again i) s1
      | some n =>
        let sh := s1.shed s1.myShed
        .done (((s1.uncount (11 * s1.myCore + n)).setCtx (11 * s1.myCore + n)
          (startedHelper s1.me sh.rank sh.gangdim (s1.rx f.c) (descNotice desc) blk.toNat h)).wx f.d (BitVec.ofNat 64 n))

/-- The effect of `start` (R114). -/
def effStart (f : RR) (s : State) : Eff := startEff (.start f) false f s
/-- `start` (R114). -/
def execStart (f : RR) (s : State) : Out := .next (s.issue (.start f) (effStart f))
/-- The effect of `start.try` (R114). -/
def effStartTry (f : RR) (s : State) : Eff := startEff (.startTry f) true f s
/-- `start.try` (R114). -/
def execStartTry (f : RR) (s : State) : Out := .next (s.issue (.startTry f) (effStartTry f))

/-- A context that is stopped at its next instruction boundary (R116): what it sleeps at is abandoned, the wait of `halt` too (R108; DEDUCED,
assumption 13). An EXIT action whose key has been sampled applies whole, with its own reason and notice (R86, R93). -/
def State.stopCtx (s : State) (k : Nat) (reason : BitVec 3) : State :=
  match (s.ctx k).mode with
  | .ready => s.exitCtx k reason none
  | .blockEnd => s.exitCtx k reason none
  | .asleep _ => (s.unsleep k).exitCtx k reason none
  | .exiting 1 _ => s.exitCtx k reason none
  | _ => s

/-- Is a helper RETIRING or IDLE, so that `stop` has nothing left to do? -/
def Mode.gone : Mode → Bool
  | .idle => true
  | .retiring => true
  | _ => false
/-- The effect of `stop` (R116). -/
def effStop (f : RR) (s : State) : Eff :=
  let xa := s.rx f.a
  if ctxNo s.cur ≠ 0 then .trap 1 (encode (.stop f)) 0
  else if xa = 0 || 10 < xa.toNat then .trap 7 xa 0
  else
    let h := 11 * s.myCore + xa.toNat
    if (s.ctx h).mode.gone then .done s else .sleep (.again (.stop f)) (s.stopCtx h 2)
/-- `stop` (R116). -/
def execStop (f : RR) (s : State) : Out := .next (s.issue (.stop f) (effStop f))

/-- The effect of `hlive` (R118). -/
def effHlive (f : RR) (s : State) : Eff :=
  let retiring := bitsOf 10 fun i => (s.ctx (11 * s.myCore + i + 1)).mode = .retiring
  .done (s.wx f.d (BitVec.ofNat 64 (1 + 2 * s.liveMask s.myCore + 2 ^ 17 * retiring)))
/-- `hlive` (R118). -/
def execHlive (f : RR) (s : State) : Out := .next (s.issue (.hlive f) (effHlive f))

/-! ## Major 0x03 (R120 to R122) -/

/-- The narrowest scope that contains two cores (R122). -/
def meetScope (a b : Nat) : BitVec 3 :=
  if a = b then 1 else if shedOfCore a = shedOfCore b then 2 else if qtrOfCore a = qtrOfCore b then 3 else 4

/-- The place that an X-format word names, with its value for TVAL (R38). -/
def xPlace (f : XF) (s : State) : Option Place × Word :=
  if f.preg = 1 then (placeOf (s.rx f.b), s.rx f.b)
  else
    let p : Place := { dx := f.dx.toInt, dy := f.dy.toInt, role := f.role.toNat }
    (some p, p.word)

/-- `sendr` and `sendr.v`: the message is on its way to its core, counted in st until it is accepted. -/
def sendEff (i : Instr) (f : XF) (data : Quad) (s : State) : Eff :=
  let p := xPlace f s
  match p.1.bind s.gangTarget with
  | none => .trap 4 p.2 0
  | some target => counted i s (·.st) <|
    let g := s.gang s.myGang
    let m : Message := {
      mbox := f.midx, data := data, srcCore := g.lcore s.myCore, srcCtx := ctxNo s.cur, order := 0, after := [],
      arrived := false, kind := 0, set := s.releaseSet s.cur, counted := true }
    .done ((s.updMe Ctx.incSt).post target m)

/-- The effect of `sendr` (R120). -/
def effSendr (f : XF) (s : State) : Eff := sendEff (.sendr f) f ((s.rx f.a).zeroExtend 128) s
/-- `sendr` (R120). -/
def execSendr (f : XF) (s : State) : Out := .next (s.issue (.sendr f) (effSendr f))
/-- The effect of `sendr.v` (R120). -/
def effSendrV (f : XF) (s : State) : Eff := sendEff (.sendrV f) f (s.rv f.a) s
/-- `sendr.v` (R120). -/
def execSendrV (f : XF) (s : State) : Out := .next (s.issue (.sendrV f) (effSendrV f))

/-! ## Major 0x04 (R119, R123, R124) -/

def State.mailbox (s : State) (core : Nat) (n : BitVec 5) : Mailbox := (s.core core).mbox[n.toNat]
def State.setMailbox (s : State) (core : Nat) (n : BitVec 5) (m : Mailbox) : State :=
  s.updCore core fun c => { c with mbox := c.mbox.set n.toNat m }

/-- Does an instruction sleep on the same mailbox, in `mpeek` or, with `takes`, in `mtake`? -/
def sameMailbox (s : State) (n : BitVec 5) (takes : Bool) (k : Nat) (i : Instr) : Bool :=
  coreOfCtx k = s.myCore && match i with
    | .mpeek g => !takes && g.a = n
    | .mtake g => takes && g.a = n
    | _ => false

/-- A read of a mailbox that holds a message. Where D and C name one register, the spec does not say which half it keeps: a
free choice (assumption 46). -/
def takeRegs (f : RR) (m : Mailbox) (s : State) : State :=
  let lo := m.data.extractLsb' 0 64
  let hi := m.data.extractLsb' 64 64
  if f.c = f.d then { s.wx f.d (if Config.freeChoice s.free % 2 = 0 then lo else hi) with free := s.free + 1 }
  else (s.wx f.c hi).wx f.d lo

/-- A read of a mailbox is the acquire of what the acceptance of its message released (R122, R293). -/
def State.acquireBox (s : State) (m : Mailbox) : State := (s.updMe fun c => c.see s.next true m.set).tickNext

/-- The effect of `mtake` (R123): every sleeping `mpeek` reads before it, and of the sleeping `mtake` the earliest (R124). -/
def effMtake (f : RR) (s : State) : Eff :=
  let m := s.mailbox s.myCore f.a
  let peeking := s.sleepers.any fun e => e.1 != s.cur && sameMailbox s f.a false e.1 e.2.1
  holdUnless (m.present && !peeking && s.myTurn (sameMailbox s f.a true)) (.mtake f) s <|
    .done (takeRegs f m ((s.setMailbox s.myCore f.a { m with present := false, err := false }).acquireBox m))
/-- `mtake` (R123). -/
def execMtake (f : RR) (s : State) : Out := .next (s.issue (.mtake f) (effMtake f))

/-- The effect of `mpeek` (R123). -/
def effMpeek (f : RR) (s : State) : Eff :=
  let m := s.mailbox s.myCore f.a
  holdUnless m.present (.mpeek f) s (.done (takeRegs f m (s.acquireBox m)))
/-- `mpeek` (R123). -/
def execMpeek (f : RR) (s : State) : Out := .next (s.issue (.mpeek f) (effMpeek f))

/-- The effect of `mclr` (R123). -/
def effMclr (f : RR) (s : State) : Eff :=
  .done (s.setMailbox s.myCore f.a { s.mailbox s.myCore f.a with present := false, err := false })
/-- `mclr` (R123). -/
def execMclr (f : RR) (s : State) : Out := .next (s.issue (.mclr f) (effMclr f))

/-! ## Major 0x05 (R174, R175) -/

/-- The effect of `clk.rd` (R175). -/
def effClkRd (f : RR) (s : State) : Eff :=
  let xa := s.rx f.a
  let g := s.gang s.myGang
  if 3 < xa.toNat then .trap 23 xa 0
  else .done (s.wx f.d (match xa.toNat with
    | 0 => (s.shed s.myShed).clkGrant
    | 1 => g.clkreq.zeroExtend 64
    | 2 => BitVec.ofNat 64 (s.shed s.myShed).lastChange
    | _ => BitVec.ofNat 64 g.mayChange))
/-- `clk.rd` (R175). -/
def execClkRd (f : RR) (s : State) : Out := .next (s.issue (.clkRd f) (effClkRd f))

/-- The effect of `clk.req` (R175): the request is replaced and an evaluation follows. -/
def effClkReq (f : RR) (s : State) : Eff :=
  let xa := s.rx f.a
  if xa.extractLsb' 32 32 ≠ (0 : BitVec 32) || !reqOk (xa.setWidth 32) then .trap 23 xa 0
  else .done (((s.updGang s.myGang fun g => { g with clkreq := xa.setWidth 32 }).askEvaluate).wx f.d
    ((s.gang s.myGang).clkreq.zeroExtend 64))
/-- `clk.req` (R175). -/
def execClkReq (f : RR) (s : State) : Out := .next (s.issue (.clkReq f) (effClkReq f))

/-- The effect of `clk.ack` (R175). -/
def effClkAck (f : RR) (s : State) : Eff :=
  let xa := s.rx f.a
  if xa &&& ~~~(0x11 : Word) ≠ 0 then .trap 23 xa 0
  else .done ((s.updMe fun c => { c with event := c.event &&& ~~~(xa.setWidth 5) }).wx f.d ((s.eventBits s.cur).zeroExtend 64))
/-- `clk.ack` (R175). -/
def execClkAck (f : RR) (s : State) : Out := .next (s.issue (.clkAck f) (effClkAck f))

/-- The effect of `pwr.rd` (R175). -/
def effPwrRd (f : RR) (s : State) : Eff :=
  let xa := s.rx f.a
  let q := s.queue (s.gang s.myGang).vfq
  if 5 < xa.toNat then .trap 23 xa 0
  else .done (s.wx f.d (match xa.toNat with
    | 0 => if q.budget = 0 then BitVec.allOnes 64 else BitVec.ofNat 64 (q.budget - q.energy)
    | 1 => BitVec.ofNat 64 q.energy
    | 2 => BitVec.ofNat 64 q.period
    | 3 => BitVec.ofNat 64 (Queue.periodBegan q s.now)
    | 4 => BitVec.ofNat 64 s.est
    | _ => BitVec.ofNat 64 s.cap))
/-- `pwr.rd` (R175). -/
def execPwrRd (f : RR) (s : State) : Out := .next (s.issue (.pwrRd f) (effPwrRd f))

end Sys2Proof.Machine
end

