-- ==== Sys2Proof/Machine/Progress.lean ====
section
/-! DEFINITION. Block ends, retirements, messages and the events of yard tables (R85 to R101, R116 to R122). -/
namespace Sys2Proof.Machine

/-! ## The block end (R86, R91 to R95) -/

def Ctx.drained (c : Ctx) : Bool := c.ld = 0 && c.st = 0 && c.cp = 0 && c.tl = 0

/-- Does the choice of the next block use a register: as a source of the key, or in a GOR action (R42, R43, R93)? -/
def choiceUses (h act : Word) (r : BitVec 5) : Bool :=
  ((List.range 4).any fun i => decide (4 ≤ keySrc (hdrKey h i)) && decide (keySrc (hdrKey h i) = r.toNat + 3)) ||
  (actKind act = 3 && ((actP0 act).setWidth 5 = r || (actP1 act).setWidth 5 = r))
/-- Loads of the next block read ahead of a `waita` only where the block was chosen without its register (R289, R314). -/
def Ctx.crossBlock (c : Ctx) (next : Nat) (h act : Word) : Ctx :=
  match c.ahead with
  | some a => if choiceUses h act a.reg then c.closeAhead next else c
  | none => c

/-- BLOCK_END (R86, R91): after the W wait, the key is sampled as the registers stand (R44) and looked up in the generation
of R91, and the winning action is applied; its traps are those of a block end (R95). -/
def execBlockEnd (ctx : Nat) (s : State) : Out :=
  let c := s.ctx ctx
  let t := hdrTable c.hdr
  let pin := c.pins.find? (·.table = t)
  let revoked := hdrP c.hdr && match pin with
    | some p => p.revoked
    | none => false
  if c.mode ≠ .blockEnd || !s.coreRuns (coreOfCtx ctx) || (hdrW c.hdr && !c.drained) then .next s
  else if revoked then
    .next ((s.updCtx ctx fun v => { v with pins := v.pins.filter (·.table ≠ t) }).takeTrap ctx 12 true (t.zeroExtend 64) 0)
  else
    let (gen, copy, s1) := s.yardUse ctx t (hdrP c.hdr)
    let key := s.keyOf ctx gen c.hdr
    let act := copy.lookup key
    -- A yard-store read consumes poison (R360).
    if !copy.bad.isEmpty then .next (s1.containEvent (coreOfCtx ctx) 3)
    else match (s1.updCtx ctx fun v => v.crossBlock s1.next c.hdr act).applyAction ctx key act with
    | .ok u => .next u
    | .error (cause, v, u) => .next (u.takeTrap ctx cause true v 0)

/-! ## Retirement of a context (R93, R104, R116 to R118) -/

/-- Have the waits of an EXIT action, `halt` or `stop` ended? -/
def exitReady (c : Ctx) (reason : BitVec 3) : Bool :=
  if reason = 0 || reason = 1 then c.drained else c.ld = 0 && c.cp = 0 && c.tl = 0 && c.ops.isEmpty

/-- A retirement notice (R117). -/
def noticeData (value : Word) (helper : Nat) (reason : BitVec 3) : Quad :=
  (BitVec.ofNat 64 (helper + 16 * reason.toNat) ++ value : Quad)

/-- The core posts a notice to one of its own mailboxes (R117). -/
def State.postNotice (s : State) (k : Nat) (mbox : BitVec 5) (reason : BitVec 3) : State :=
  let core := coreOfCtx k
  let g := s.gang ((s.gangOfCore core).getD 0)
  s.post core { mbox := mbox, data := noticeData ((s.ctx k).rx 1) (ctxNo k) reason, srcCore := g.lcore core,
                srcCtx := ctxNo k, order := 0, after := [], arrived := false, kind := 1, set := s.releaseSet k, counted := false }

/-- CONTEXT_RETIREMENT (R117): the context's waits have ended; its sequencer ends first (R232), its pins are dropped, and its
notice is posted. -/
def execContextRetirement (ctx : Nat) (s : State) : Out :=
  let c := s.ctx ctx
  let core := coreOfCtx ctx
  let seq := (s.core core).seq
  let owns := decide (seq.owner = some ctx)
  match c.mode with
  | .exiting reason nv =>
    if !s.coreRuns core || !exitReady c reason || (owns && decide (seq.left ≠ 0)) then .next s
    else
      let s1 := if owns then s.setSeq core .reset else s
      let s2 := s1.dropPins ctx
      if ctxNo ctx = 0 && reason = 0 && !(s.core core).aside.isEmpty then .next (s2.endImport core)
      else if ctxNo ctx = 0 then
        let s3 := match nv with
          | some m => s2.postNotice ctx m reason
          | none => s2
        .next (s3.updCtx ctx fun v => { v with mode := .halting })
      else
        let target := match nv with
          | some m => some m
          | none => c.notice
        match target with
        | some m => .next ((s2.postNotice ctx m reason).updCtx ctx fun v => { v with mode := .retiring })
        | none => .next (s2.updCtx ctx fun v => { v with mode := .idle })
  | _ => .next s

/-- CORE_HALTED (R118): the control context halts once every helper of its core is IDLE. -/
def execCoreHalted (core : Nat) (s : State) : Out :=
  let idle := (List.range 10).all fun i => (s.ctx (11 * core + i + 1)).mode = .idle
  .next (if (s.ctx (11 * core)).mode = .halting && idle then s.updCtx (11 * core) fun v => { v with mode := .halted } else s)

/-! ## Messages (R119, R121, R122, R362) -/

/-- Does a message for the same mailbox come to the port before m (R121)? -/
def blockedBy (m : Message) (port : List Message) : Bool :=
  port.any fun e => e.mbox = m.mbox && m.after.contains e.order

/-- Acceptance of m fixes that it came to the port before the others for its mailbox: so did all that came before it, which have now come
(R121). -/
def acceptedFirst (m : Message) (port : List Message) : List Message :=
  let later := (port.filter (·.mbox = m.mbox)).map (·.order)
  port.map fun e =>
    let e1 := if m.after.contains e.order then { e with arrived := true } else e
    if later.contains e.order || later.any e.after.contains then { e1 with after := (e.after ++ m.after).eraseDups } else e1

/-- MESSAGE_ACCEPT (R121, R122). A contained core's messages are discarded and count as accepted (R362). A message of a core
that has been contained, and that becomes the mailbox's last, brings its error entry (R372). -/
def execMessageAccept (core n : Nat) (s : State) : Out :=
  match (s.core core).port[n]? with
  | none => .next s
  | some m =>
    let gn := (s.gangOfCore core).getD 0
    let g := s.gang gn
    let rest := s.updCore core fun c => { c with port := acceptedFirst m (c.port.eraseIdx n) }
    if !s.gangRuns gn then .next s
    else if (s.core core).contained.isSome then .next (rest.sentAccepted g m)
    else
      let box := s.mailbox core m.mbox
      let sender := 11 * g.coreOf m.srcCore + m.srcCtx
      if box.present || blockedBy m (s.core core).port || !s.setComplete sender (meetScope (g.coreOf m.srcCore) core) m.set then .next s
      else
        let last := if m.kind = 0 then some m.srcCore else box.lastSrc
        let now : Mailbox := { data := m.data, present := true, err := m.kind = 2, lastSrc := last, set := m.set }
        let s1 := (rest.setMailbox core m.mbox now).sentAccepted g m
        let src := s1.core (g.coreOf m.srcCore)
        let s2 := if m.kind = 0 && box.lastSrc ≠ some m.srcCore then match src.contained with
            | some cause => s1.post core {
                mbox := m.mbox, data := containRecord src.containedAt cause m.srcCore, srcCore := m.srcCore, srcCtx := 0,
                order := 0, after := [], arrived := false, kind := 2, set := [], counted := false }
            | none => s1
          else s1
        .next (if m.kind = 1 && m.srcCtx ≠ 0 then s2.updCtx (11 * core + m.srcCtx) fun v =>
            if v.mode = .retiring then { v with mode := .idle } else v
          else s2)

/-! ## Yard events (R98, R101) -/

/-- PIN_REVOCATION (R101): a commit that has waited 100 microseconds of residence revokes every pin on the retained
generation. The spec does not say when a retained generation whose last pin was revoked goes: here it stays, as `yard.gen` shows, until the
commit's own step 3 or the next pin or unpin of the table (DESIGN CHOICE, assumption 132). -/
def execPinRevocation (gang table : Nat) (s : State) : Out :=
  let g := s.gang gang
  let t := BitVec.ofNat 8 table
  let y := g.yard t
  match y.first, y.retained with
  | some m, some (rg, _) =>
    if !s.gangRuns gang || g.residentTicks - m.since < Config.revokeTicks then .next s
    else
      let revoke (c : Ctx) : Ctx := { c with pins := c.pins.map fun p => if p.table = t && p.gen = rg then { p with revoked := true } else p }
      .next (g.cores.foldl (fun u c => u.updCore c fun v => { v with aside := v.aside.map revoke })
        (g.ctxs.foldl (fun u k => u.updCtx k revoke) s))
  | _, _ => .next s

/-- YARD_BACKGROUND_INVALIDATE (R98): a core outside the commit's scope drops its copy of the previous generation. -/
def execYardBackgroundInvalidate (core table : Nat) (s : State) : Out :=
  match s.gangOfCore core with
  | none => .next s
  | some gn =>
    let t := BitVec.ofNat 8 table
    let y := (s.gang gn).yard t
    if !y.stale.contains core then .next s
    else .next ((s.updGang gn fun g => g.setYard t { y with stale := y.stale.filter (· ≠ core) }).updCore core fun c =>
      { c with yardCache := c.yardCache.filter fun z => !(z.table = t && z.asCurrent) })

end Sys2Proof.Machine
end

