-- ==== Sys2Proof/Machine/Synch.lean ====
section
/-! DEFINITION. Fences, waits, semaphores and the gang barrier: majors 0x70 to 0x76 (R301, R313 to R316). -/
namespace Sys2Proof.Machine

/-! ## Fences (R289, R292, R313) -/

/-- A fence retires at once; what it holds is in the conditions of the moves. -/
def fenceRun (kind : Nat) (f : MF) (s : State) : Eff :=
  .done ((s.updMe fun c => { c with fences := c.fences ++
    [{ id := s.next, kind := kind, scope := f.scope, set := if kind = 1 then [] else s.releaseSet s.cur }] }).tickNext)

/-- The effect of `fence` (R313). -/
def effFence (f : MF) (s : State) : Eff := fenceRun 0 f s
/-- `fence` (R313). -/
def execFence (f : MF) (s : State) : Out := .next (s.issue (.fence f) (effFence f))
/-- The effect of `fence.acq` (R313). -/
def effFenceAcq (f : MF) (s : State) : Eff := fenceRun 1 f s
/-- `fence.acq` (R313). -/
def execFenceAcq (f : MF) (s : State) : Out := .next (s.issue (.fenceAcq f) (effFenceAcq f))
/-- The effect of `fence.rel` (R313). -/
def effFenceRel (f : MF) (s : State) : Eff := fenceRun 2 f s
/-- `fence.rel` (R313). -/
def execFenceRel (f : MF) (s : State) : Out := .next (s.issue (.fenceRel f) (effFenceRel f))

/-! ## `wait` (R301) and `waita` (R314) -/

/-- Are the four counters at or below the limits of IMM32? -/
def waitMet (c : Ctx) (imm : BitVec 32) : Bool :=
  decide (c.ld ≤ imm.extractLsb' 0 8) && decide (c.st ≤ imm.extractLsb' 8 8) &&
  decide (c.cp ≤ imm.extractLsb' 16 8) && decide (c.tl ≤ imm.extractLsb' 24 8)
/-- The effect of `wait` (R301). -/
def effWait (f : RI) (s : State) : Eff := holdUnless (waitMet s.me f.imm) (.wait f) s (.done s)
/-- `wait` (R301). -/
def execWait (f : RI) (s : State) : Out := .next (s.issue (.wait f) (effWait f))

/-- The effect of `waita` (R314): a read that is taken when the doubleword differs from x_B. Every read that it makes opens a window for
the loads after it, which R289 does not order behind it. -/
def effWaita (f : MF) (s : State) : Eff :=
  let ea := MF.ea f s
  counted (.waita f) s (·.ld) <| aligned ea 8 <| withHit s ea false fun h =>
    let loc := h.loc
    let v := h.st.readVal s.cur s.next (pteKey h.w0) loc
    if !(s.mayMove s.cur (readAs s.next loc) && s.redsSettled s.myQtr loc) then .sleep (.again (.waita f)) s
    else if s.readPoisoned s.cur s.next loc 0xFF then .contained (h.st.containEvent s.myCore 3)
    else if v = s.rx f.b then .sleep (.again (.waita f)) ((s.correct loc).lookAhead f.d loc)
    else .done ((((h.st.correct loc).updMe fun c => c.see s.next false (s.observed s.myQtr loc)).wx f.d v).tickNext)
/-- `waita` (R314). -/
def execWaita (f : MF) (s : State) : Out := .next (s.issue (.waita f) (effWaita f))

/-! ## Semaphores (R315) -/

def semOf (f : RR) : Fin 8 := (low3 f.a).toFin
def State.sem (s : State) (d : Nat) (n : Fin 8) : BitVec 16 := (s.shed d).sem[n]
def State.setSem (s : State) (d : Nat) (n : Fin 8) (v : BitVec 16) (set : List Nat) : State :=
  s.updShed d fun h => { h with sem := h.sem.set n v, semSet := h.semSet.set n set }
/-- Does an instruction sleep on the same semaphore? -/
def sameSem (s : State) (n : Fin 8) (k : Nat) (i : Instr) : Bool :=
  shedOfCtx k = s.myShed && match i with
    | .semP f => semOf f = n
    | _ => false
/-- The effect of `sem.p` (R315): it takes one unit, the acquire of what its counts carry (R293). -/
def effSemP (f : RR) (s : State) : Eff :=
  let n := semOf f
  let v := s.sem s.myShed n
  holdUnless (v ≠ 0 && s.myTurn (sameSem s n)) (.semP f) s <|
    let set := (s.shed s.myShed).semSet[n]
    .done ((((s.setSem s.myShed n (v - 1) (if v = 1 then [] else set)).updMe (·.see s.next true set)).wx f.d
      (v.zeroExtend 64)).tickNext)
/-- `sem.p` (R315). -/
def execSemP (f : RR) (s : State) : Out := .next (s.issue (.semP f) (effSemP f))

/-- The effect of `sem.v` (R315): a release at `.shed`. -/
def effSemV (f : RR) (s : State) : Eff :=
  let n := semOf f
  let v := s.sem s.myShed n
  let b := s.rx f.b
  if b.toNat = 0 || 65535 < b.toNat || 65535 < v.toNat + b.toNat then .trap 24 b 0
  else
    let set := s.releaseSet s.cur
    holdUnless (s.setComplete s.cur 2 set) (.semV f) s <|
      .done ((s.setSem s.myShed n (v + b.setWidth 16) (((s.shed s.myShed).semSet[n] ++ set).eraseDups)).wx f.d
        (v.zeroExtend 64))
/-- `sem.v` (R315). -/
def execSemV (f : RR) (s : State) : Out := .next (s.issue (.semV f) (effSemV f))

/-- The effect of `sem.rd` (R315). -/
def effSemRd (f : RR) (s : State) : Eff := .done (s.wx f.d ((s.sem s.myShed (semOf f)).zeroExtend 64))
/-- `sem.rd` (R315). -/
def execSemRd (f : RR) (s : State) : Out := .next (s.issue (.semRd f) (effSemRd f))

/-! ## `bar` (R316) -/

/-- Status of episode n: bit 0 and the lowest-numbered member that it completes without, or 0 (R316, R401). -/
def lostStatus (g : Gang) (n : Nat) : Word :=
  match (g.skip.filter fun e => decide (n ≤ e.2)).foldl (fun l e => natInsert l e.1) g.lost with
  | [] => 0
  | c :: _ => BitVec.ofNat 64 (1 + 2 ^ 16 * c)

/-- The effect of `bar` (R316): the core's next arrival, with what it releases; the context sleeps until its episode
completes. One that did not commit at the end of its episode has made its arrival, and only retires (R110). -/
def effBar (f : RR) (s : State) : Eff :=
  match s.me.passed with
  | some m => .done ((s.updMe fun c => { c with passed := none }).wx f.d (lostStatus (s.gang s.myGang) m))
  | none =>
    let n := (s.core s.myCore).arrivals + 1
    let set := s.releaseSet s.cur
    .sleep (.bar f.d n) ((s.updCore s.myCore fun c => { c with arrivals := n }).updGang s.myGang fun g =>
      { g with arrived := Table.put g.arrived n (((Table.getD g.arrived n []) ++ set.map fun i => (s.cur, i)).eraseDups) })
/-- `bar` (R316). -/
def execBar (f : RR) (s : State) : Out := .next (s.issue (.bar f) (effBar f))

/-- BARRIER_EPISODE_COMPLETE (R316): every member that is not contained has made its arrival, and what the arrivals release
is complete at `.pkg`; the sleepers of the episode get its status. -/
def execBarrierEpisodeComplete (gang : Nat) (s : State) : Out :=
  let g := s.gang gang
  let n := g.episode + 1
  let ready := s.gangRuns gang &&
    (g.cores.all fun c => (s.core c).contained.isSome || g.lost.contains (g.lcore c) || decide (n ≤ (s.core c).arrivals)) &&
    (g.cores.any fun c => decide (n ≤ (s.core c).arrivals)) &&
    (Table.getD g.arrived n []).all fun e => s.complete e.1 4 e.2
  if !ready then .next s else
  let s1 := s.updGang gang fun v => { v with episode := n, arrived := v.arrived.del n }
  let set := (Table.getD g.arrived n []).map (·.2)
  .next ((g.ctxs.foldl (fun t k => match (t.ctx k).mode with
    | .asleep (.bar d m) =>
      if n < m then t
      else
        let c := t.ctx k
        let u := t.updCtx k fun c => c.see s.next true set
        if c.mismatch = 0 || s.repetitionReplays k then (u.updCtx k fun c => { c.wx d (lostStatus g m) with replay := false }).retire k
        -- The checker meets the retirement (R359): the `bar` issues again, and then only retires.
        else u.updCtx k fun c =>
          { c with mode := .ready, mismatch := c.mismatch - 1, replay := true, passed := some m }
    | _ => t) s1).tickNext)

end Sys2Proof.Machine
end

