-- ==== Sys2Proof/Machine/System.lean ====
section
/-! DEFINITION. System registers, the return from a trap, error injection and invalidation: majors 0x06 to 0x0B, and the words
that no row assigns (R49 to R51, R343, R345, R352 to R354, R365). -/
namespace Sys2Proof.Machine

/-! ## `srd` (R49, R354) -/

/-- A system register as the executing context reads it; none for a role-bound register on a core of another role (R50). -/
def State.readSreg (s : State) (n : Nat) : Option Word :=
  let c := s.me
  let core := s.core s.myCore
  match n with
  | 0x000 => some (c.tcause.zeroExtend 64)
  | 0x001 => some c.tval
  | 0x002 => some c.tpc
  | 0x003 => some (c.tyard.zeroExtend 64)
  | 0x004 => some (c.fstat.zeroExtend 64)
  | 0x005 => some (c.tinfo.zeroExtend 64)
  | 0x008 => some c.y0
  | 0x009 => some c.y1
  | 0x00C => some ((c.tl ++ c.cp ++ c.st ++ c.ld : BitVec 32).zeroExtend 64)
  | 0x010 => some c.cbase
  | 0x011 => some c.cbound
  | 0x020 => some (s.shed s.myShed).clkGrant
  | 0x030 => if s.myRole = 1 then some (core.amax.zeroExtend 64) else none
  | 0x040 => if s.myRole = 2 then some core.rowprog else none
  | 0x050 => some c.buoy[0]
  | 0x051 => some c.buoy[1]
  | 0x052 => some c.buoy[2]
  | 0x053 => some c.buoy[3]
  | 0x0F0 => some (s.feat0.zeroExtend 64)
  | 0x100 => some ((s.shed s.myShed).rank.zeroExtend 64)
  | 0x101 => some ((s.shed s.myShed).gangdim.zeroExtend 64)
  | 0x102 => some s.gtime
  | _ => if 0x0F1 ≤ n && n ≤ 0x0F7 then some 0 else none

/-- The effect of `srd` (R354). -/
def effSrd (f : SF) (s : State) : Eff :=
  match s.readSreg f.sreg.toNat with
  | some w => .done (s.wx f.d w)
  | none => .trap 1 (encode (.srd f)) 0
/-- `srd` (R354). -/
def execSrd (f : SF) (s : State) : Out := .next (s.issue (.srd f) (effSrd f))

/-! ## `swr` (R50, R354) -/

/-- The bits of `TCAUSE`, `TINFO`, and of `TPC` and `BUOY0` to `BUOY3`, that are not reserved (R45, R49, R348). -/
def tcauseMask : BitVec 16 := 0x80FF
def tinfoMask : BitVec 8 := 0x07
def locMask : Word := ~~~7

/-- A context with a writable register, other than the code bounds, replaced; reserved and excess bits are ignored and read
0 (R8). -/
def Ctx.writeSreg (c : Ctx) (n : Nat) (w : Word) : Ctx :=
  match n with
  | 0x000 => { c with tcause := w.setWidth 16 &&& tcauseMask }
  | 0x001 => { c with tval := w }
  | 0x002 => { c with tpc := w &&& locMask }
  | 0x003 => { c with tyard := w.setWidth 8 }
  | 0x004 => { c with fstat := w.setWidth 5 }
  | 0x005 => { c with tinfo := w.setWidth 8 &&& tinfoMask }
  | 0x008 => { c with y0 := w }
  | 0x009 => { c with y1 := w }
  | 0x050 => { c with buoy := c.buoy.set 0 (w &&& locMask) }
  | 0x051 => { c with buoy := c.buoy.set 1 (w &&& locMask) }
  | 0x052 => { c with buoy := c.buoy.set 2 (w &&& locMask) }
  | 0x053 => { c with buoy := c.buoy.set 3 (w &&& locMask) }
  | _ => c

/-- The effect of `swr` (R354). -/
def effSwr (f : SF) (s : State) : Eff := .done (s.updMe fun c => c.writeSreg f.sreg.toNat (s.rx f.a))
/-- `swr` (R354). -/
def execSwr (f : SF) (s : State) : Out := .next (s.issue (.swr f) (effSwr f))

/-- Do new code bounds keep the limits of R343? -/
def State.boundsOk (s : State) (cbase cbound : Word) : Bool :=
  match (s.vf s.myVf).cfg with
  | none => false
  | some c => decide (c.abase ≤ cbase.toNat * 8) && decide (cbound.toNat * 8 ≤ c.abase + c.asize) &&
      decide (cbase.toNat ≤ cbound.toNat)
/-- The effect of `swr` to `CBASE` or `CBOUND` (R50, R343). -/
def effSwrCodeBounds (f : SF) (s : State) : Eff :=
  let w := s.rx f.a
  let isBase := f.sreg = 0x010
  let base := if isBase then w else s.me.cbase
  let bound := if isBase then s.me.cbound else w
  if !s.me.sup then .trap 3 (encode (.swrCodeBounds f)) 0
  else if !s.boundsOk base bound then .trap 5 w 0
  else .done (s.updMe fun c => { c with cbase := base, cbound := bound })
/-- SWR_CODE_BOUNDS (R343). -/
def execSwrCodeBounds (f : SF) (s : State) : Out := .next (s.issue (.swrCodeBounds f) (effSwrCodeBounds f))

/-! ## `eret`, `trap` and unassigned words (R51, R352, R353) -/

/-- The effect of `eret` (R352). -/
def effEret (f : RR) (s : State) : Eff :=
  if pcIndex s.me.pc ≠ hdrLen s.me.hdr then .trap 1 (encode (.eret f)) 0
  else match s.trapReturn s.cur with
    | .ok t => .leave t
    | .error (cause, v, t) => .trapRead t cause v 0
/-- `eret` (R352). -/
def execEret (f : RR) (s : State) : Out := .next (s.issue (.eret f) (effEret f))

/-- The effect of `trap` (R353). -/
def effTrap (f : RI) (_s : State) : Eff := .trap 28 (f.imm.zeroExtend 64) 0
/-- `trap` (R353). -/
def execTrap (f : RI) (s : State) : Out := .next (s.issue (.trap f) (effTrap f))

/-- UNASSIGNED_ENCODING (R51): the illegal trap with the word. -/
def execUnassignedEncoding (w : Word) (s : State) : Out :=
  .next (s.issue (.unassignedEncoding w) (fun _ => .trap 1 w 0))

/-! ## `ecc.inj` (R365) -/

/-- The effect of `ecc.inj` (R365). -/
def effEccInj (f : RR) (s : State) : Eff :=
  let va := s.rx f.a
  let ctl := s.rx f.b
  let permit := match (s.vf s.myVf).cfg with
    | some c => c.inject
    | none => false
  if !permit then .trap 3 (encode (.eccInj f)) 0
  else if 3 < ctl.toNat then .trap 29 ctl 0
  else if 2 ≤ ctl.toNat then .done (s.updMe fun c => { c with mismatch := ctl.toNat - 1 })
  else counted (.eccInj f) s (·.st) <| aligned va 8 <| withHit s va true fun h =>
    .done ((h.st.pushOp (pteKey h.w0) 0 (.inject (ctl = 1) h.loc)).updMe Ctx.incSt)
/-- `ecc.inj` (R365). -/
def execEccInj (f : RR) (s : State) : Out := .next (s.issue (.eccInj f) (effEccInj f))

/-! ## `icinv` and `tlbinv` (R345) -/

/-- Does [base, base + size) overlap [a, a + n) modulo 2^64? n = 0 means everything. -/
def overlaps (base size a n : Nat) : Bool :=
  n = 0 || decide ((base + 2 ^ 64 - a) % 2 ^ 64 < n) || decide ((a + 2 ^ 64 - base) % 2 ^ 64 < size)

/-- The effect of `icinv` (R345): the instruction caches in scope drop the lines of the range, clipped to the arena window. -/
def effIcinv (f : MF) (s : State) : Eff :=
  let a := MF.ea f s
  let n := (s.rx f.b).toNat
  match (s.vf s.myVf).cfg with
  | none => .done s
  | some cfg =>
    let hit (addr : Nat) : Bool :=
      decide (cfg.abase ≤ addr) && decide (addr < cfg.abase + cfg.asize) && overlaps (lineOf addr) 64 a.toNat n
    .done { s with cores := Table.mapVals (fun core c =>
      if inScope f.scope s.myCore core then { c with icache := c.icache.filter fun e => !hit e.1 } else c) s.cores }
/-- `icinv` (R345). -/
def execIcinv (f : MF) (s : State) : Out := .next (s.issue (.icinv f) (effIcinv f))

/-- The effect of `tlbinv` (R345): the context sleeps until its release is complete at the scope. -/
def effTlbinv (f : MF) (s : State) : Eff :=
  if !s.me.sup then .trap 3 (encode (.tlbinv f)) 0 else .sleep (.tlbinv f (s.releaseSet s.cur)) s
/-- `tlbinv` (R345). -/
def execTlbinv (f : MF) (s : State) : Out := .next (s.issue (.tlbinv f) (effTlbinv f))

/-- The invalidation of `tlbinv` once its release is complete (R345). A walk of the quarter that no cache in scope waits for goes on for the
others, and a core in scope that joins it later gets nothing of it. -/
def State.invalidateTlb (s : State) (f : MF) : State :=
  let a := (MF.ea f s).toNat
  let n := (s.rx f.b).toNat
  let vf := s.myVf
  let keep (e : TlbEntry) : Bool := !(e.vf = vf && overlaps e.base e.size a n)
  let inShed (d : Nat) : Bool :=
    if f.scope.toNat ≤ 2 then d = s.myShed else if f.scope.toNat = 3 then qtrOfShed d = s.myQtr else true
  let cores := Table.mapVals (fun core (c : Core) =>
    if inScope f.scope s.myCore core then { c with tlb := c.tlb.filter keep } else c) s.cores
  let sheds := Table.mapVals (fun d (h : Shed) => if inShed d then { h with tlb := h.tlb.filter keep } else h) s.sheds
  let walks := s.ord.walks.map fun w =>
    if w.vf = vf && (w.core :: w.joins.map (·.1)).any (fun c => inShed (shedOfCore c)) && overlaps (w.va / 2 ^ 30 * 2 ^ 30) (2 ^ 30) a n then
      { w with discard := true }
    else if w.vf = vf && qtrOfCore w.core = s.myQtr && overlaps (w.va / 2 ^ 30 * 2 ^ 30) (2 ^ 30) a n then
      { w with barred := natInsert w.barred s.myShed }
    else w
  { s with cores := cores, sheds := sheds, ord := { s.ord with walks := walks } }

end Sys2Proof.Machine
end

