-- ==== Sys2Proof/Machine/Wake.lean ====
section
/-! DEFINITION. SLEEP_WAKE: a sleeping instruction is tried again, or its next stage is taken (R108). -/
namespace Sys2Proof.Machine

/-- The effect of an instruction at which a context may sleep or be STALLED. -/
def sleepingEff (i : Instr) (s : State) : Eff :=
  match i with
  | .yardWe f => effYardWe f s
  | .yardWf f => effYardWf f s
  | .yardCmt f => effYardCmt f s
  | .yardRd f => effYardRd f s
  | .yardPin f => effYardPin f s
  | .yardUnpin f => effYardUnpin f s
  | .yardGen f => effYardGen f s
  | .halt f => effHalt f s
  | .yield f => effYield f s
  | .start f => effStart f s
  | .startTry f => effStartTry f s
  | .stop f => effStop f s
  | .hlive f => effHlive f s
  | .sendr f => effSendr f s
  | .sendrV f => effSendrV f s
  | .mtake f => effMtake f s
  | .mpeek f => effMpeek f s
  | .mclr f => effMclr f s
  | .clkRd f => effClkRd f s
  | .clkReq f => effClkReq f s
  | .clkAck f => effClkAck f s
  | .pwrRd f => effPwrRd f s
  | .srd f => effSrd f s
  | .swr f => effSwr f s
  | .eret f => effEret f s
  | .eccInj f => effEccInj f s
  | .trap f => effTrap f s
  | .icinv f => effIcinv f s
  | .tlbinv f => effTlbinv f s
  | .seqBeg f => effSeqBeg f s
  | .seqLoop f => effSeqLoop f s
  | .seqEnd f => effSeqEnd f s
  | .seqWait f => effSeqWait f s
  | .ld f => effLd f s
  | .ldu f => effLdu f s
  | .ldAcq f => effLdAcq f s
  | .vld f => effVld f s
  | .vldRaw f => effVldRaw f s
  | .st f => effSt f s
  | .stRel f => effStRel f s
  | .vst f => effVst f s
  | .ldF f => effLdF f s
  | .ldFe f => effLdFe f s
  | .stEf f => effStEf f s
  | .stF f => effStF f s
  | .tagSet f => effTagSet f s
  | .tagClr f => effTagClr f s
  | .pref f => effPref f s
  | .flush f => effFlush f s
  | .inv f => effInv f s
  | .amoAdd f => effAmoAdd f s
  | .amoAnd f => effAmoAnd f s
  | .amoOr f => effAmoOr f s
  | .amoXor f => effAmoXor f s
  | .amoMin f => effAmoMin f s
  | .amoMax f => effAmoMax f s
  | .amoMinu f => effAmoMinu f s
  | .amoMaxu f => effAmoMaxu f s
  | .amoSwap f => effAmoSwap f s
  | .amoCas f => effAmoCas f s
  | .redAdd f => effRedAdd f s
  | .redAnd f => effRedAnd f s
  | .redOr f => effRedOr f s
  | .redXor f => effRedXor f s
  | .redMin f => effRedMin f s
  | .redMax f => effRedMax f s
  | .redMinu f => effRedMinu f s
  | .redMaxu f => effRedMaxu f s
  | .fence f => effFence f s
  | .fenceAcq f => effFenceAcq f s
  | .fenceRel f => effFenceRel f s
  | .wait f => effWait f s
  | .waita f => effWaita f s
  | .semP f => effSemP f s
  | .semV f => effSemV f s
  | .semRd f => effSemRd f s
  | .bar f => effBar f s
  | .copy f => effCopy f s
  | .copy2 f => effCopy2 f s
  | .get f => effGet f s
  | .put f => effPut f s
  | .puta f => effPuta f s
  | .wsig f => effWsig f s
  | .digest f => effDigest f s
  | .ccntRd f => effCcntRd f s
  | .ccntWait f => effCcntWait f s
  | .collStart f => effCollStart f s
  | .collWait f => effCollWait f s
  | .buoy f => effBuoy f s
  | .buoySeal f => effBuoySeal f s
  | .lhSt f => effLhSt f s
  | .tzero f => effTzero f s
  | .tmma f => effTmma f s
  | .gmma f => effGmma f s
  | .tdrain f => effTdrain f s
  | .tdrainColl f => effTdrainColl f s
  | .zset f => effZset f s
  | .zclr f => effZclr f s
  | .cvtT f => effCvtT f s
  | .amaxRd f => effAmaxRd f s
  | .amaxClr f => effAmaxClr f s
  | .cbkLd f => effCbkLd f s
  | .cbkRd f => effCbkRd f s
  | .gmCfg f => effGmCfg f s
  | .gmStep f => effGmStep f s
  | .gmMask f => effGmMask f s
  | .gmForce f => effGmForce f s
  | .gmReset f => effGmReset f s
  | .gmSt f => effGmSt f s
  | _ => .done s

/-- SLEEP_WAKE (R108): an instruction that waits for a condition goes on once it holds, without an issue slot; a staged one
takes its next stage. -/
def execSleepWake (ctx : Nat) (s : State) : Out :=
  let s0 := { s with cur := ctx }
  if !s.coreRuns (coreOfCtx ctx) then .next s
  else match (s.ctx ctx).mode with
  | .asleep (.again i) => match sleepingEff i s0 with
    | .sleep (.again _) t => .next { t with cur := s.cur }
    | .stall t => .next (s.withWalks t)
    | _ => .next (s0.run (sleepingEff i))
  | .asleep (.commitRelease f ids) =>
    let sel := s0.rx f.a
    let t := selTable sel
    if !s.setComplete ctx (selScope sel) ids then .next s
    else
      let m : Commit := { ctx := ctx, since := (s.gang s0.myGang).residentTicks, scope := selScope sel, d := f.d, set := ids, aside := false }
      .next ((s0.updGang s0.myGang fun g =>
        let y := g.yard t
        g.setYard t { y with commits := y.commits ++ [m] }).updCtx ctx fun c => { c with mode := .asleep (.commitQueued f) })
  | .asleep (.commitQueued f) =>
    let t := selTable (s0.rx f.a)
    let g := s.gang s0.myGang
    let y := g.yard t
    match y.first with
    | some m =>
      if m.ctx ≠ ctx || !s.commitReady g t y then .next s
      else .next (s0.run fun u => .done ((u.commitNow s0.myGang t m).wx f.d ((y.gen + 1).zeroExtend 64)))
    | none => .next s
  | .asleep (.tlbinv f ids) =>
    if s.setComplete ctx f.scope ids then .next (s0.run fun u => .done (u.invalidateTlb f)) else .next s
  | .asleep (.seal f ids image) =>
    if s.sealReleased ctx s0.myGang ids image then .next (s0.run fun u => u.sealNow f image) else .next s
  | _ => .next s

end Sys2Proof.Machine
end

