-- ==== Sys2Proof/Machine/Turn.lean ====
section
/-! DEFINITION. Whose turn it is: the schedule, the fetch and the choice of the context that issues (R40, R45, R54, R85, R106 to R111,
R343, R344). -/
namespace Sys2Proof.Machine

/-! ## The schedule (assumption 2) -/

/-- Is a constructor an instruction word's, and not a happening of the machine? -/
def Instr.isWord : Instr → Bool
  | .swrCodeBounds _ => true
  | .unassignedEncoding _ => true
  | i => (WellFormed.check i) ≠ some .event

/-- Does a happening come from outside the package: a command, a management command, a reset or a pin? The machine takes no such turn
of its own. -/
def fromOutside : Instr → Bool
  | .packageReset => true
  | .dieReset _ => true
  | .capSelectChange _ => true
  | .launch _ => true
  | .load _ => true
  | .unload _ => true
  | .stopCommand _ => true
  | .query _ => true
  | .ident _ _ => true
  | .attest _ _ => true
  | .bind _ _ => true
  | .paddock _ _ => true
  | .vfcfg _ _ => true
  | .vfreset _ _ => true
  | .migrate _ _ => true
  | .tables _ _ => true
  | .fwstage _ _ => true
  | .fwact _ _ => true
  | .errlog _ => true
  | .layup _ _ => true
  | .layupRestore _ _ => true
  | .unknownOpc _ _ => true
  | .droppedPacket _ => true
  | _ => false

/-- The turn that the hardware takes when none is listed: any that needs no one outside the package. -/
def freeTurn (n : Nat) : Turn :=
  let d (i : Nat) : Nat := Config.freeTurn (2 * n + i)
  match d 0 % 9 with
  | 0 => .issue (d 1)
  | 1 =>
    match Config.freeEvent (d 1) with
    | some i => if fromOutside i then .tick 0 else .event i
    | none => .tick 0
  | 2 => .tick (d 1)
  | 3 => .tile (d 1)
  | 4 => .convert (d 1)
  | 5 => .keeper
  | 6 => .keeperLost
  | 7 => .keeperBack
  | _ => .command (d 1)

/-- The next turn, taken from the schedule. -/
def State.takeTurn (s : State) : Turn × State :=
  match s.turns with
  | t :: rest => (t, { s with turns := rest })
  | [] => (freeTurn s.turnNo, { s with turnNo := s.turnNo + 1 })

/-! ## Fetch (R40, R45, R54, R343, R344) -/

/-- What the fetch of a context's next instruction comes to. -/
inductive Fetched
  | trap (cause : BitVec 8) (tval : Word)
  | outside (addr : Nat)
  | instr (i : Instr) (s : State)

/-- Byte address of the instruction that a location names. -/
def pcAddr (pc : Word) : Nat := pcBlock pc + 8 * (pcIndex pc + 1)

/-- The next instruction of context k: a location in a region freed by force, or outside the code bounds, traps. -/
def State.fetchNext (s : State) (k : Nat) : Fetched :=
  let c := s.ctx k
  let a := pcAddr c.pc
  if (s.gang ((s.gangOfCore (coreOfCtx k)).getD 0)).gone (pcBlock c.pc) then .trap 6 c.pc
  else if !c.inBlockCode a then .trap 5 (BitVec.ofNat 64 a)
  else if !s.exists_ a then .outside a
  else
    let (w, t) := s.fetch (coreOfCtx k) a
    match decode (wordBytes w) with
    | .ok (i, _) => .instr i t
    | .error _ => .outside a

/-! ## Who may issue (R106, R109, R111, R124, R231, R313) -/

/-- Would an instruction meet a message that a sleeper of the core takes first (R108, R124)? -/
def State.sleeperFirst (s : State) (core : Nat) (i : Instr) : Bool :=
  let on (n : BitVec 5) : Bool := (s.mailbox core n).present && s.sleepers.any fun e => coreOfCtx e.1 = core && match e.2.1 with
    | .mtake g => g.a = n
    | .mpeek g => g.a = n
    | _ => false
  match i with
  | .mtake f => on f.a
  | .mpeek f => on f.a
  | .mclr f => on f.a
  | _ => false

/-- What an instruction does to memory: nothing, reads alone, or else it writes, is an atomic or is an engine operation (R288, R289). -/
inductive Access
  | none
  | reads
  | writes
deriving DecidableEq, Repr
/-- The accesses of an instruction as the executing context would issue it: one without an active lane, with its guard not met or with no
element makes none. -/
def State.accessOf (s : State) (i : Instr) : Access :=
  let if_ (b : Bool) (a : Access) : Access := if b then a else .none
  match i with
  | .ld _ | .ldu _ | .ldAcq _ | .ldF _ | .waita _ | .cbkLd _ | .gmCfg _ | .gmStep _ | .gmMask _ | .gmForce _ | .buoySeal _ => .reads
  | .vld f => if_ (s.laneMask f ≠ 0) .reads
  | .vldRaw f => if_ (s.laneMask f ≠ 0) .reads
  | .tmma f => if_ (guardMet f s) .reads
  | .gmma f => if_ (guardMet f s) .reads
  | .tdrain f => if_ (guardMet f s) .writes
  | .vst f => if_ (s.laneMask f ≠ 0) .writes
  | .cvtT f => if_ ((s.rx f.d).extractLsb' 0 32 ≠ (0 : BitVec 32)) .writes
  | .st _ | .stRel _ | .ldFe _ | .stEf _ | .stF _ | .tagSet _ | .tagClr _ | .buoy _ => .writes
  | .amoAdd _ | .amoAnd _ | .amoOr _ | .amoXor _ | .amoMin _ | .amoMax _ | .amoMinu _ | .amoMaxu _ | .amoSwap _ | .amoCas _ => .writes
  | .redAdd _ | .redAnd _ | .redOr _ | .redXor _ | .redMin _ | .redMax _ | .redMinu _ | .redMaxu _ => .writes
  | .copy _ | .copy2 _ | .get _ | .put _ | .puta _ | .wsig _ | .digest _ | .collStart _ => .writes
  | _ => .none
/-- May ISSUE of an instruction be taken: no acquire and no fence before it holds the moves of its accesses (R288, R289, R295, R313)? -/
def State.mayIssue (s : State) (k : Nat) (i : Instr) : Bool :=
  match ({ s with cur := k } : State).accessOf i with
  | .none => true
  | .reads => s.mayMove k (lookAs s.next)
  | .writes => s.mayMove k (moveAs s.next)

/-- The divider that an instruction needs: the vector divider (true) or the scalar one (R213, R219). -/
def Instr.divides : Instr → Option Bool
  | .div _ | .rem _ | .fdiv _ | .fsqrt _ => some false
  | .vdiv _ | .vsqrt _ => some true
  | _ => none
/-- Is the divider that an instruction needs busy? -/
def Core.dividing (c : Core) (i : Instr) : Bool :=
  match Instr.divides i with
  | some true => c.vecDivider.isSome
  | some false => c.divider.isSome
  | none => false
/-- An instruction of the core's context n that issues takes its divider, which is not pipelined: until time has passed the divider is busy,
and what it computes is not there to be read (R211). -/
def Core.divide (c : Core) (n : Nat) (i : Instr) : Core :=
  match Instr.divides i with
  | some true => { c with vecDivider := some (n, regWrites i) }
  | some false => { c with divider := some (n, regWrites i) }
  | none => c

/-- The instruction that the sequencer of a core would repeat next, with its owner: a repetition is left, and its operands and divider are
ready (R230). -/
def State.nextRepetition (s : State) (core : Nat) : Option (Nat × Instr) :=
  let q := (s.core core).seq
  match q.owner, q.queue[q.pos]? with
  | some k, some e =>
    let i := stepped q.steps q.rep e.instr
    if q.left ≠ 0 && s.coreRuns core && s.operandsReady k i && !(s.core core).dividing i then some (k, i) else none
  | _, _ => none

/-- Where an instruction of context k, issued now, would find a unit busy, a read that it makes at issue not done or a walk to wait for
(R242, R317, R336): the state in which it is STALLED. -/
def State.stallOf (s : State) (k : Nat) (i : Instr) : Option State :=
  let t := { s with cur := k }
  if (t.issueTrap i).isSome then none
  else match sleepingEff i t with
    | .stall u => some u
    | _ => none
def State.stalls (s : State) (k : Nat) (i : Instr) : Bool := (s.stallOf k i).isSome

/-- The state in which the instruction that context k would run next is STALLED, or in which one that sleeps would be tried again in vain for
such a reason. -/
def State.waitsAt (s : State) (k : Nat) : Option State :=
  if !s.coreRuns (coreOfCtx k) then none
  else match (s.ctx k).mode with
  | .ready => match s.fetchNext k with
    | .instr i _ => if s.mayIssue k i && s.operandsReady k i then s.stallOf k i else none
    | _ => none
  | .asleep (.again i) => s.stallOf k i
  | _ => none
/-- The misses of a core's contexts that wait for a walk have joined it, or stand in their quarter's queue (R106, R336). -/
def State.queueMisses (s : State) (core : Nat) : State :=
  (ctxsOfCore core).foldl (fun t k => match t.waitsAt k with
    | some u => t.withWalks u
    | none => t) s

/-- READY of R106: awake, on a core that runs, and nothing that the next instruction needs is missing: the order rules let it issue, and its
operands, its unit and the vector unit are free, the last also where the sequencer has a repetition ready and its turn (R111, R213, R219,
R289). A division word that a check of R52 will trap waits for a busy divider too (DESIGN CHOICE, assumption 136). -/
def State.isReady (s : State) (k : Nat) : Bool :=
  let core := coreOfCtx k
  let c := s.ctx k
  c.mode = .ready && s.coreRuns core && match s.fetchNext k with
    | .instr i _ => s.mayIssue k i && s.operandsReady k i && !(s.core core).dividing i && !s.sleeperFirst core i &&
        !(decide ((s.core core).seq.owner = some k) && (s.core core).seq.conflicts i) &&
        !(Instr.vectorUnit i && (s.core core).vecLast = some false && (s.nextRepetition core).isSome) && !s.stalls k i
    | _ => true

/-- May a context issue: READY, and no context that it has yielded to is still owed its turn (R93, R104)? -/
def State.canIssue (s : State) (k : Nat) : Bool := (s.ctx k).hold.isEmpty && s.isReady k

/-- The first context after the pointer that may issue, in cyclic order (R109). -/
def State.pick (s : State) (core : Nat) : Option Nat :=
  ((List.range 11).map fun i => 11 * core + ((s.core core).ptr + 1 + i) % 11).find? s.canIssue

/-- What an issue turn of a core comes to before the instruction's meaning. -/
inductive Prepared
  | idle
  | trapped (s : State)
  | outside (addr : Nat)
  | run (i : Instr) (s : State)

/-- Counts an issue of a gang (R170). -/
def State.countIssue (s : State) (core : Nat) : State :=
  match s.gangOfCore core with
  | none => s
  | some g => s.updGang g fun v => { v with activity := v.activity.set 1 (v.activity[1] + 1) }

/-- The pointer moves to the context that issues, which becomes the executing one; the misses of those that are STALLED are queued. -/
def State.begin_ (s : State) (core k : Nat) : State :=
  ({ s.queueMisses core with cur := k }.updCore core fun c => { c with ptr := ctxNo k }).countIssue core

/-- The vector unit has been used by the sequencer or by a context (R111). -/
def State.useVector (s : State) (core : Nat) (bySeq : Bool) : State := s.updCore core fun c => { c with vecLast := some bySeq }

/-- Can later loads still read ahead over an instruction (R289, R314): a load or an operation on registers alone, that does not use the
register which the `waita` writes? -/
def Instr.inWindow (i : Instr) (a : Ahead) : Bool :=
  let major := ((encode i).extractLsb' 56 8).toNat
  let plain := match i with
    | .ld _ => true
    | .ldu _ => true
    | .vld _ => true
    | .vldRaw _ => true
    | _ => decide (0x10 ≤ major) && decide (major ≤ 0x34)
  plain && !(regReads i).contains a.reg.toNat
/-- The window of the context that issues an instruction ends where the instruction does not let loads pass it. -/
def State.narrowAhead (s : State) (k : Nat) (i : Instr) : State :=
  match (s.ctx k).ahead with
  | none => s
  | some a => if Instr.inWindow i a then s else s.updCtx k fun c => c.closeAhead s.next

/-- An instruction that passes the checks of R52 uses the vector unit or a divider of its core (R111, R213, R219); one that traps uses
none. -/
def State.useUnits (s : State) (core k : Nat) (i : Instr) : State :=
  if (s.issueTrap i).isSome then s
  else (if Instr.vectorUnit i then s.useVector core false else s).updCore core fun c => c.divide (ctxNo k) i

/-- The issue turn of a core. -/
def State.prepare (s : State) (core : Nat) : Prepared :=
  match s.pick core with
  | none => .idle
  | some k =>
    match (s.begin_ core k).fetchNext k with
    | .trap cause tval => .trapped ((s.begin_ core k).takeTrap k cause false tval 0)
    | .outside a => .outside a
    | .instr i t =>
      .run i ((t.useUnits core k i).narrowAhead k i)

/-- After a step, a context that has yielded is owed nothing more by those that have issued or are no longer READY (R93, R104). -/
def State.settleHolds (s : State) (issued : Option Nat) : State :=
  (s.ctxs.filter fun e => !e.2.hold.isEmpty).foldl (fun t e =>
    t.updCtx e.1 fun c => { c with hold := c.hold.filter fun j => issued ≠ some j && s.isReady j }) s

end Sys2Proof.Machine
end

