-- ==== Sys2Proof/Machine/Time.lean ====
section
/-! DEFINITION. The passage of global ticks (R9, R111, R169, R170, R213, R219). -/
namespace Sys2Proof.Machine

/-- Is one side of a core's vector unit ready, the sequencer (true) or its contexts? -/
def State.wantsVector (s : State) (core : Nat) (bySeq : Bool) : Bool :=
  if bySeq then (s.nextRepetition core).isSome
  else (ctxsOfCore core).any fun k => s.canIssue k && match s.fetchNext k with
    | .instr i _ => Instr.vectorUnit i
    | _ => false
/-- SEQ_REPETITION (R230): the next repetition issues, unless a context has a vector instruction ready and its turn at the
vector unit (R111). -/
def execSeqRepetition (core : Nat) (s : State) : Out :=
  match s.nextRepetition core with
  | none => .next s
  | some (k, i) => .next (if (s.core core).vecLast = some true && s.wantsVector core false then s
      else ((s.runRepetition core k i (s.core core).seq).useVector core true).updCore core fun c => c.divide (ctxNo k) i)

/-- A core after a tick: its dividers are free, and the side that has used its vector unit last counts no more, unless the other side waits
for its turn (R111, R213, R219). -/
def State.idleUnits (s : State) (core : Nat) (c : Core) : Core :=
  { c with divider := none, vecDivider := none
           vecLast := c.vecLast.bind fun last => if s.wantsVector core (!last) then some last else none }
/-- Does a gang in this state occupy its sheds for the energy count (R170)? -/
def GangState.occupies : GangState → Bool
  | .resident | .switching | .restoring => true
  | _ => false
/-- What a tick adds to a gang's counters (R101, R170). -/
def Gang.age (now : Nat) (g : Gang) : Gang :=
  let h := if g.state.occupies then { g with activity := g.activity.set 6 (g.activity[6] + g.image.gw * g.image.gh) } else g
  if Gang.runs g now then { h with residentTicks := h.residentTicks + 1 } else h
/-- One global tick is over, apart from what its number brings. -/
def State.elapse (s : State) : State :=
  { s with
    cores := Table.mapVals s.idleUnits s.cores
    now := s.now + 1
    gangs := Table.mapVals (fun _ g => Gang.age s.now g) s.gangs }
/-- The next global tick comes: at a multiple of 1000 the gangs' counters are charged (R170), and then the queues' periods that begin there
do so (R169). -/
def State.oneTick (s : State) : State :=
  let t := s.elapse
  (if t.now % 1000 = 0 then t.chargeEnergy else t).refillSince s.now
/-- Global ticks pass, one after another (R9). -/
def State.pass (s : State) : Nat → State
  | 0 => s
  | n + 1 => State.pass s.oneTick n

end Sys2Proof.Machine
end

