-- ==== Sys2Proof/Machine/Walks.lean ====
section
/-! DEFINITION. PAGE_WALK: walks in progress, the misses that wait for them, and their reads (R334 to R337). -/
namespace Sys2Proof.Machine

/-- What the read of both words of an entry does to a walk: none when it ends, with the leaf that it has found. -/
def Walk.next (w : Walk) (c : VfCfg) (w0 w1 : Word) : Option Walk × Option TlbEntry :=
  if !pteV w0 then (none, none)
  else if pteLeaf w0 then
    if w.discard then (none, none)
    else
      let size := pageSize w.level
      (none, some { vf := w.vf, sup := w.sup, base := w.va / size * size, size := size, w0 := w0, w1 := w1 })
  else if w.level = 3 || pointerReserved w0 w1 || !c.holds (pteNext w0) (tableSize (w.level + 1)) then (none, none)
  else (some { w with table := pteNext w0, level := w.level + 1, w0 := none }, none)
/-- The cores whose access a leaf lets through: a failing walk puts nothing into their caches (R335, R337), and neither does one that began
before the page was invalidated for their shed, whose miss then walks again (R345). -/
def Walk.fills (w : Walk) (c : VfCfg) (w0 : Word) : List Nat :=
  (((w.core, w.wr) :: w.joins).filter fun h => leafReason c w0 w.level (some h.2) = 0 && !w.barred.contains (shedOfCore h.1)).map (·.1)
/-- Place of the entry that a walk reads. -/
def Walk.entry (w : Walk) : Nat := w.table + 16 * levelIndex w.level w.va

/-- Is a walk of a quarter served: one of its first 64 in order of arrival? -/
def State.served (s : State) (q : Nat) (w : Walk) : Bool :=
  ((s.ord.walks.filter fun v => qtrOfCore v.core = q).take walkers).contains w
/-- Changes the walk of a page where it stands in the order of arrival, or ends it. -/
def State.updWalk (s : State) (q vf : Nat) (sup : Bool) (page : Nat) (f : Walk → Option Walk) : State :=
  s.updOrd fun o => { o with walks := o.walks.filterMap fun w => if Walk.same w q vf sup page then f w else some w }

/-- A quarter whose walkers are all at work for others. -/
def State.busyWalkers (s : State) (core : Nat) : State :=
  let w : Walk :=
    { core := core, wr := false, joins := [], vf := 1024, sup := false, va := 0, table := 0, level := 0, w0 := none, discard := false,
      barred := [] }
  s.updOrd fun o => { o with walks := List.replicate walkers w }
/-- The walk that an access of a core would come to on a page, were it to miss now and to find no walker free: an access of an instruction
that is next, or that sleeps and would be tried again. -/
def State.missed (s : State) (core vf : Nat) (sup : Bool) (page : Nat) : Option Walk :=
  ((ctxsOfCore core).filterMap fun k =>
    match (s.busyWalkers core).waitsAt k with
    | some t => t.ord.walks.find? fun w => Walk.same w (qtrOfCore core) vf sup page
    | none => none).head?

/-- A read of a walk (R334): poison contains the core whose miss it serves and ends the walk, and a correctable error is corrected (R360,
R365). -/
def State.walkRead (s : State) (w : Walk) (q page loc : Nat) (go : State → State) : State :=
  if s.poisoned q loc then (s.updWalk q w.vf w.sup page fun _ => none).containEvent w.core 3 else go (s.correct loc)

/-- PAGE_WALK (R336): the walker of a core's quarter that serves a function's walk of a page makes its next read, the first word of an entry
as an acquire (R334); where no walk is on the page, one begins for an access of the core that misses there. The function is another than the
core's where an engine operation's peer side misses (R340). -/
def execPageWalk (core : Nat) (page : WalkedPage) (sup : Bool) (s : State) : Out :=
  let q := qtrOfCore core
  let vf := page.vf
  let va := page.va
  match (s.vf vf).cfg with
  | none => .next s
  | some c =>
    match s.ord.walks.find? fun w => Walk.same w q vf sup va with
    | none => .next (match s.missed core vf sup va with
      | some w => s.updOrd fun o => { o with walks := o.walks ++ [w] }
      | none => s)
    | some w =>
      if !s.served q w || !s.entryReady q w.entry then .next s
      else match w.w0 with
      | none => .next (s.walkRead w q va w.entry fun t =>
          t.updWalk q vf sup va fun v => some { v with w0 := some (s.tableWord c q w.entry) })
      | some w0 => .next (s.walkRead w q va (w.entry + 8) fun t =>
          let r := w.next c w0 (s.tableWord c q (w.entry + 8))
          let t1 := t.updWalk q vf sup va fun _ => r.1
          match r.2 with
          | some e => (w.fills c w0).foldl (fun u h => u.tlbFill h e) t1
          | none => t1)

end Sys2Proof.Machine
end

