-- ==== Sys2Proof/Machine/Dispatch.lean ====
section
/-! DEFINITION. One arm per instruction. -/
namespace Sys2Proof.Machine

/-- The meaning of every row of the opcode table. -/
def exec (i : Instr) (s : State) : Host.Outcome State Fault Refusal :=
  match i with
  | .yardWe f => Sys2Proof.Machine.execYardWe f s
  | .yardWf f => Sys2Proof.Machine.execYardWf f s
  | .yardCmt f => Sys2Proof.Machine.execYardCmt f s
  | .yardRd f => Sys2Proof.Machine.execYardRd f s
  | .yardPin f => Sys2Proof.Machine.execYardPin f s
  | .yardUnpin f => Sys2Proof.Machine.execYardUnpin f s
  | .yardGen f => Sys2Proof.Machine.execYardGen f s
  | .halt f => Sys2Proof.Machine.execHalt f s
  | .yield f => Sys2Proof.Machine.execYield f s
  | .start f => Sys2Proof.Machine.execStart f s
  | .startTry f => Sys2Proof.Machine.execStartTry f s
  | .stop f => Sys2Proof.Machine.execStop f s
  | .hlive f => Sys2Proof.Machine.execHlive f s
  | .sendr f => Sys2Proof.Machine.execSendr f s
  | .sendrV f => Sys2Proof.Machine.execSendrV f s
  | .mtake f => Sys2Proof.Machine.execMtake f s
  | .mpeek f => Sys2Proof.Machine.execMpeek f s
  | .mclr f => Sys2Proof.Machine.execMclr f s
  | .clkRd f => Sys2Proof.Machine.execClkRd f s
  | .clkReq f => Sys2Proof.Machine.execClkReq f s
  | .clkAck f => Sys2Proof.Machine.execClkAck f s
  | .pwrRd f => Sys2Proof.Machine.execPwrRd f s
  | .srd f => Sys2Proof.Machine.execSrd f s
  | .swr f => Sys2Proof.Machine.execSwr f s
  | .eret f => Sys2Proof.Machine.execEret f s
  | .eccInj f => Sys2Proof.Machine.execEccInj f s
  | .trap f => Sys2Proof.Machine.execTrap f s
  | .icinv f => Sys2Proof.Machine.execIcinv f s
  | .tlbinv f => Sys2Proof.Machine.execTlbinv f s
  | .add f => Sys2Proof.Machine.execAdd f s
  | .sub f => Sys2Proof.Machine.execSub f s
  | .mul f => Sys2Proof.Machine.execMul f s
  | .mulh f => Sys2Proof.Machine.execMulh f s
  | .div f => Sys2Proof.Machine.execDiv f s
  | .rem f => Sys2Proof.Machine.execRem f s
  | .and f => Sys2Proof.Machine.execAnd f s
  | .or f => Sys2Proof.Machine.execOr f s
  | .xor f => Sys2Proof.Machine.execXor f s
  | .andn f => Sys2Proof.Machine.execAndn f s
  | .shl f => Sys2Proof.Machine.execShl f s
  | .shr f => Sys2Proof.Machine.execShr f s
  | .sra f => Sys2Proof.Machine.execSra f s
  | .rol f => Sys2Proof.Machine.execRol f s
  | .min f => Sys2Proof.Machine.execMin f s
  | .max f => Sys2Proof.Machine.execMax f s
  | .abs f => Sys2Proof.Machine.execAbs f s
  | .neg f => Sys2Proof.Machine.execNeg f s
  | .clz f => Sys2Proof.Machine.execClz f s
  | .ctz f => Sys2Proof.Machine.execCtz f s
  | .popc f => Sys2Proof.Machine.execPopc f s
  | .bfx f => Sys2Proof.Machine.execBfx f s
  | .bfi f => Sys2Proof.Machine.execBfi f s
  | .lea f => Sys2Proof.Machine.execLea f s
  | .mov f => Sys2Proof.Machine.execMov f s
  | .cmp f => Sys2Proof.Machine.execCmp f s
  | .csel f => Sys2Proof.Machine.execCsel f s
  | .setc f => Sys2Proof.Machine.execSetc f s
  | .decz f => Sys2Proof.Machine.execDecz f s
  | .addi f => Sys2Proof.Machine.execAddi f s
  | .andi f => Sys2Proof.Machine.execAndi f s
  | .ori f => Sys2Proof.Machine.execOri f s
  | .xori f => Sys2Proof.Machine.execXori f s
  | .li f => Sys2Proof.Machine.execLi f s
  | .lih f => Sys2Proof.Machine.execLih f s
  | .cmpi f => Sys2Proof.Machine.execCmpi f s
  | .shli f => Sys2Proof.Machine.execShli f s
  | .shri f => Sys2Proof.Machine.execShri f s
  | .srai f => Sys2Proof.Machine.execSrai f s
  | .fadd f => Sys2Proof.Machine.execFadd f s
  | .fsub f => Sys2Proof.Machine.execFsub f s
  | .fmul f => Sys2Proof.Machine.execFmul f s
  | .fdiv f => Sys2Proof.Machine.execFdiv f s
  | .fsqrt f => Sys2Proof.Machine.execFsqrt f s
  | .fma f => Sys2Proof.Machine.execFma f s
  | .fmin f => Sys2Proof.Machine.execFmin f s
  | .fmax f => Sys2Proof.Machine.execFmax f s
  | .fabs f => Sys2Proof.Machine.execFabs f s
  | .fneg f => Sys2Proof.Machine.execFneg f s
  | .fcmp f => Sys2Proof.Machine.execFcmp f s
  | .fclass f => Sys2Proof.Machine.execFclass f s
  | .fcvt f => Sys2Proof.Machine.execFcvt f s
  | .ftoi f => Sys2Proof.Machine.execFtoi f s
  | .itof f => Sys2Proof.Machine.execItof f s
  | .vadd f => Sys2Proof.Machine.execVadd f s
  | .vsub f => Sys2Proof.Machine.execVsub f s
  | .vmul f => Sys2Proof.Machine.execVmul f s
  | .vmulh f => Sys2Proof.Machine.execVmulh f s
  | .vfma f => Sys2Proof.Machine.execVfma f s
  | .vmin f => Sys2Proof.Machine.execVmin f s
  | .vmax f => Sys2Proof.Machine.execVmax f s
  | .vabs f => Sys2Proof.Machine.execVabs f s
  | .vneg f => Sys2Proof.Machine.execVneg f s
  | .vand f => Sys2Proof.Machine.execVand f s
  | .vor f => Sys2Proof.Machine.execVor f s
  | .vxor f => Sys2Proof.Machine.execVxor f s
  | .vandn f => Sys2Proof.Machine.execVandn f s
  | .vshl f => Sys2Proof.Machine.execVshl f s
  | .vshr f => Sys2Proof.Machine.execVshr f s
  | .vsra f => Sys2Proof.Machine.execVsra f s
  | .vcmp f => Sys2Proof.Machine.execVcmp f s
  | .vsel f => Sys2Proof.Machine.execVsel f s
  | .vcvt f => Sys2Proof.Machine.execVcvt f s
  | .vdiv f => Sys2Proof.Machine.execVdiv f s
  | .vsqrt f => Sys2Proof.Machine.execVsqrt f s
  | .vperm f => Sys2Proof.Machine.execVperm f s
  | .vlut16 f => Sys2Proof.Machine.execVlut16 f s
  | .vbcast f => Sys2Proof.Machine.execVbcast f s
  | .vins f => Sys2Proof.Machine.execVins f s
  | .vext f => Sys2Proof.Machine.execVext f s
  | .vzip f => Sys2Proof.Machine.execVzip f s
  | .vunzip f => Sys2Proof.Machine.execVunzip f s
  | .vdot4 f => Sys2Proof.Machine.execVdot4 f s
  | .vdot2 f => Sys2Proof.Machine.execVdot2 f s
  | .vredAdd f => Sys2Proof.Machine.execVredAdd f s
  | .vredMax f => Sys2Proof.Machine.execVredMax f s
  | .vredMin f => Sys2Proof.Machine.execVredMin f s
  | .kand f => Sys2Proof.Machine.execKand f s
  | .kor f => Sys2Proof.Machine.execKor f s
  | .kxor f => Sys2Proof.Machine.execKxor f s
  | .knot f => Sys2Proof.Machine.execKnot f s
  | .kmov f => Sys2Proof.Machine.execKmov f s
  | .kpop f => Sys2Proof.Machine.execKpop f s
  | .kset f => Sys2Proof.Machine.execKset f s
  | .krd f => Sys2Proof.Machine.execKrd f s
  | .seqBeg f => Sys2Proof.Machine.execSeqBeg f s
  | .seqLoop f => Sys2Proof.Machine.execSeqLoop f s
  | .seqEnd f => Sys2Proof.Machine.execSeqEnd f s
  | .seqWait f => Sys2Proof.Machine.execSeqWait f s
  | .ld f => Sys2Proof.Machine.execLd f s
  | .ldu f => Sys2Proof.Machine.execLdu f s
  | .ldAcq f => Sys2Proof.Machine.execLdAcq f s
  | .vld f => Sys2Proof.Machine.execVld f s
  | .vldRaw f => Sys2Proof.Machine.execVldRaw f s
  | .st f => Sys2Proof.Machine.execSt f s
  | .stRel f => Sys2Proof.Machine.execStRel f s
  | .vst f => Sys2Proof.Machine.execVst f s
  | .ldF f => Sys2Proof.Machine.execLdF f s
  | .ldFe f => Sys2Proof.Machine.execLdFe f s
  | .stEf f => Sys2Proof.Machine.execStEf f s
  | .stF f => Sys2Proof.Machine.execStF f s
  | .tagSet f => Sys2Proof.Machine.execTagSet f s
  | .tagClr f => Sys2Proof.Machine.execTagClr f s
  | .pref f => Sys2Proof.Machine.execPref f s
  | .flush f => Sys2Proof.Machine.execFlush f s
  | .inv f => Sys2Proof.Machine.execInv f s
  | .amoAdd f => Sys2Proof.Machine.execAmoAdd f s
  | .amoAnd f => Sys2Proof.Machine.execAmoAnd f s
  | .amoOr f => Sys2Proof.Machine.execAmoOr f s
  | .amoXor f => Sys2Proof.Machine.execAmoXor f s
  | .amoMin f => Sys2Proof.Machine.execAmoMin f s
  | .amoMax f => Sys2Proof.Machine.execAmoMax f s
  | .amoMinu f => Sys2Proof.Machine.execAmoMinu f s
  | .amoMaxu f => Sys2Proof.Machine.execAmoMaxu f s
  | .amoSwap f => Sys2Proof.Machine.execAmoSwap f s
  | .amoCas f => Sys2Proof.Machine.execAmoCas f s
  | .redAdd f => Sys2Proof.Machine.execRedAdd f s
  | .redAnd f => Sys2Proof.Machine.execRedAnd f s
  | .redOr f => Sys2Proof.Machine.execRedOr f s
  | .redXor f => Sys2Proof.Machine.execRedXor f s
  | .redMin f => Sys2Proof.Machine.execRedMin f s
  | .redMax f => Sys2Proof.Machine.execRedMax f s
  | .redMinu f => Sys2Proof.Machine.execRedMinu f s
  | .redMaxu f => Sys2Proof.Machine.execRedMaxu f s
  | .fence f => Sys2Proof.Machine.execFence f s
  | .fenceAcq f => Sys2Proof.Machine.execFenceAcq f s
  | .fenceRel f => Sys2Proof.Machine.execFenceRel f s
  | .wait f => Sys2Proof.Machine.execWait f s
  | .waita f => Sys2Proof.Machine.execWaita f s
  | .semP f => Sys2Proof.Machine.execSemP f s
  | .semV f => Sys2Proof.Machine.execSemV f s
  | .semRd f => Sys2Proof.Machine.execSemRd f s
  | .bar f => Sys2Proof.Machine.execBar f s
  | .copy f => Sys2Proof.Machine.execCopy f s
  | .copy2 f => Sys2Proof.Machine.execCopy2 f s
  | .get f => Sys2Proof.Machine.execGet f s
  | .put f => Sys2Proof.Machine.execPut f s
  | .puta f => Sys2Proof.Machine.execPuta f s
  | .wsig f => Sys2Proof.Machine.execWsig f s
  | .digest f => Sys2Proof.Machine.execDigest f s
  | .ccntRd f => Sys2Proof.Machine.execCcntRd f s
  | .ccntWait f => Sys2Proof.Machine.execCcntWait f s
  | .collStart f => Sys2Proof.Machine.execCollStart f s
  | .collWait f => Sys2Proof.Machine.execCollWait f s
  | .buoy f => Sys2Proof.Machine.execBuoy f s
  | .buoySeal f => Sys2Proof.Machine.execBuoySeal f s
  | .lhSt f => Sys2Proof.Machine.execLhSt f s
  | .tzero f => Sys2Proof.Machine.execTzero f s
  | .tmma f => Sys2Proof.Machine.execTmma f s
  | .gmma f => Sys2Proof.Machine.execGmma f s
  | .tdrain f => Sys2Proof.Machine.execTdrain f s
  | .tdrainColl f => Sys2Proof.Machine.execTdrainColl f s
  | .zset f => Sys2Proof.Machine.execZset f s
  | .zclr f => Sys2Proof.Machine.execZclr f s
  | .cvtT f => Sys2Proof.Machine.execCvtT f s
  | .amaxRd f => Sys2Proof.Machine.execAmaxRd f s
  | .amaxClr f => Sys2Proof.Machine.execAmaxClr f s
  | .cbkLd f => Sys2Proof.Machine.execCbkLd f s
  | .cbkRd f => Sys2Proof.Machine.execCbkRd f s
  | .gmCfg f => Sys2Proof.Machine.execGmCfg f s
  | .gmStep f => Sys2Proof.Machine.execGmStep f s
  | .gmMask f => Sys2Proof.Machine.execGmMask f s
  | .gmForce f => Sys2Proof.Machine.execGmForce f s
  | .gmReset f => Sys2Proof.Machine.execGmReset f s
  | .gmSt f => Sys2Proof.Machine.execGmSt f s
  | .swrCodeBounds f => Sys2Proof.Machine.execSwrCodeBounds f s
  | .unassignedEncoding w => Sys2Proof.Machine.execUnassignedEncoding w s
  | .seqRepetition core => Sys2Proof.Machine.execSeqRepetition core s
  | .barrierEpisodeComplete gang => Sys2Proof.Machine.execBarrierEpisodeComplete gang s
  | .collectiveComplete coll => Sys2Proof.Machine.execCollectiveComplete coll s
  | .gmmaJoin gang row => Sys2Proof.Machine.execGmmaJoin gang row s
  | .tileOpRetire core => Sys2Proof.Machine.execTileOpRetire core s
  | .cvtRetire core => Sys2Proof.Machine.execCvtRetire core s
  | .blockEnd ctx => Sys2Proof.Machine.execBlockEnd ctx s
  | .contextRetirement ctx => Sys2Proof.Machine.execContextRetirement ctx s
  | .coreHalted core => Sys2Proof.Machine.execCoreHalted core s
  | .sleepWake ctx => Sys2Proof.Machine.execSleepWake ctx s
  | .messageAccept core n => Sys2Proof.Machine.execMessageAccept core n s
  | .pinRevocation gang table => Sys2Proof.Machine.execPinRevocation gang table s
  | .yardBackgroundInvalidate core table => Sys2Proof.Machine.execYardBackgroundInvalidate core table s
  | .perform ctx op => Sys2Proof.Machine.execPerform ctx op s
  | .propagate write quarter => Sys2Proof.Machine.execPropagate write quarter s
  | .apply write quarter => Sys2Proof.Machine.execApply write quarter s
  | .read ctx op part => Sys2Proof.Machine.execRead ctx op part s
  | .atomic ctx op => Sys2Proof.Machine.execAtomic ctx op s
  | .reduce ctx op => Sys2Proof.Machine.execReduce ctx op s
  | .merge line => Sys2Proof.Machine.execMerge line s
  | .engineStep op unit => Sys2Proof.Machine.execEngineStep op unit s
  | .flag op => Sys2Proof.Machine.execFlag op s
  | .durable write copy => Sys2Proof.Machine.execDurable write copy s
  | .lineMigration line => Sys2Proof.Machine.execLineMigration line s
  | .durableWriteback line => Sys2Proof.Machine.execDurableWriteback line s
  | .pageWalk core page sup => Sys2Proof.Machine.execPageWalk core page sup s
  | .faultRecordWrite vf referral => Sys2Proof.Machine.execFaultRecordWrite vf referral s
  | .referralResponse vf slot => Sys2Proof.Machine.execReferralResponse vf slot s
  | .checkerMismatch ctx => Sys2Proof.Machine.execCheckerMismatch ctx s
  | .checksumMismatch core => Sys2Proof.Machine.execChecksumMismatch core s
  | .poisonConsumed ctx => Sys2Proof.Machine.execPoisonConsumed ctx s
  | .containment core cause => Sys2Proof.Machine.execContainment core cause s
  | .selfTestComplete core => Sys2Proof.Machine.execSelfTestComplete core s
  | .coreRestart core => Sys2Proof.Machine.execCoreRestart core s
  | .sweep loc hard => Sys2Proof.Machine.execSweep loc hard s
  | .eccReencode line => Sys2Proof.Machine.execEccReencode line s
  | .packageReset => Sys2Proof.Machine.execPackageReset s
  | .dieReset quarter => Sys2Proof.Machine.execDieReset quarter s
  | .dieReturn quarter => Sys2Proof.Machine.execDieReturn quarter s
  | .masterHandover => Sys2Proof.Machine.execMasterHandover s
  | .lighthouseOutOfService quarter => Sys2Proof.Machine.execLighthouseOutOfService quarter s
  | .lighthouseReturn quarter => Sys2Proof.Machine.execLighthouseReturn quarter s
  | .lighthouseResyncEnd quarter => Sys2Proof.Machine.execLighthouseResyncEnd quarter s
  | .capSelectChange sel => Sys2Proof.Machine.execCapSelectChange sel s
  | .arbiterEvaluate => Sys2Proof.Machine.execArbiterEvaluate s
  | .deferredEvaluation => Sys2Proof.Machine.execDeferredEvaluation s
  | .clockTransitionEnd => Sys2Proof.Machine.execClockTransitionEnd s
  | .energyCharge => Sys2Proof.Machine.execEnergyCharge s
  | .periodRefill vfq => Sys2Proof.Machine.execPeriodRefill vfq s
  | .launch p => Sys2Proof.Machine.execLaunch p s
  | .load p => Sys2Proof.Machine.execLoad p s
  | .unload p => Sys2Proof.Machine.execUnload p s
  | .stopCommand p => Sys2Proof.Machine.execStopCommand p s
  | .query p => Sys2Proof.Machine.execQuery p s
  | .gangReady gang => Sys2Proof.Machine.execGangReady gang s
  | .gangPlace vf => Sys2Proof.Machine.execGangPlace vf s
  | .gangRelease gang => Sys2Proof.Machine.execGangRelease gang s
  | .gangSwitchDecide gang => Sys2Proof.Machine.execGangSwitchDecide gang s
  | .sliceExpiry gang => Sys2Proof.Machine.execSliceExpiry gang s
  | .switchStop gang => Sys2Proof.Machine.execSwitchStop gang s
  | .saveComplete gang => Sys2Proof.Machine.execSaveComplete gang s
  | .restoreRelease gang => Sys2Proof.Machine.execRestoreRelease gang s
  | .gangComplete gang => Sys2Proof.Machine.execGangComplete gang s
  | .ident m sel => Sys2Proof.Machine.execIdent m sel s
  | .attest m nonce => Sys2Proof.Machine.execAttest m nonce s
  | .bind m b => Sys2Proof.Machine.execBind m b s
  | .paddock m r => Sys2Proof.Machine.execPaddock m r s
  | .vfcfg m c => Sys2Proof.Machine.execVfcfg m c s
  | .vfreset m release => Sys2Proof.Machine.execVfreset m release s
  | .shedScrub shed => Sys2Proof.Machine.execShedScrub shed s
  | .migrate m phase => Sys2Proof.Machine.execMigrate m phase s
  | .tables m t => Sys2Proof.Machine.execTables m t s
  | .fwstage m f => Sys2Proof.Machine.execFwstage m f s
  | .fwact m force => Sys2Proof.Machine.execFwact m force s
  | .errlog m => Sys2Proof.Machine.execErrlog m s
  | .layup m b => Sys2Proof.Machine.execLayup m b s
  | .layupRestore m b => Sys2Proof.Machine.execLayupRestore m b s
  | .unknownOpc p opc => Sys2Proof.Machine.execUnknownOpc p opc s
  | .droppedPacket port => Sys2Proof.Machine.execDroppedPacket port s

end Sys2Proof.Machine
end

