-- ==== Sys2Proof/Machine/Step.lean ====
section
/-! DEFINITION. One step of the machine, and an instruction placed where a step takes it. -/
namespace Sys2Proof.Machine

/-- Ends a step that answers a next state: the holds of R93 and R104 are brought up to date. -/
def settled (issued : Option Nat) : Host.Outcome State Fault Refusal → Host.Outcome State Fault Refusal
  | .next t => .next (t.settleHolds issued)
  | .fault r => .fault r
  | .refused r => .refused r

/-- The issue turn of a core: nothing, a trap of the fetch, or the meaning of the decoded instruction. -/
def stepIssue (core : Nat) (s : State) : Host.Outcome State Fault Refusal :=
  match s.prepare core with
  | .idle => settled none (.next (s.queueMisses core))
  | .trapped t => settled none (.next t)
  | .outside a => .fault (.fetchOutsideMemory a)
  | .run i t => settled (some t.cur) (exec i t)

/-- One turn of the machine, in the state whose schedule has just given it. -/
def stepTurn (turn : Turn) (s : State) : Host.Outcome State Fault Refusal :=
  match turn with
  | .issue core => stepIssue core s
  | .event i => settled none (if Instr.isWord i then .next s else exec i s)
  | .tick n => settled none (.next (s.pass n))
  | .tile core => settled none (.next (s.tileTurn core))
  | .convert core => settled none (.next (s.cvtTurn core))
  | .command vfq => settled none (.next (s.commandTurn vfq))
  | .keeper => settled none (.next s.keeperTurn)
  | .keeperLost => settled none (.next s.loseKeeper)
  | .keeperBack => settled none (.next s.keeperBack)
  | .managed c => settled none (s.runManaged c)

/-- One step: the next turn of the schedule. -/
def step (s : State) : Host.Outcome State Fault Refusal := stepTurn s.takeTurn.1 s.takeTurn.2

/-! ## An instruction placed for the next step (assumption 3) -/

/-- Where the block of a placed instruction lies. -/
def placedBlock : Nat := 0x1000
/-- A header with no key and LEN 1, or LEN 0 before `eret`, which must be the last of its block (R41, R352). -/
def placedHeader (i : Instr) : Word :=
  match i with
  | .eret _ => 0xFE0000F8F8F8F800
  | _ => 0xFE0100F8F8F8F800

/-- The state with a one-shed gang on shed 0 whose control context, of the role that the instruction needs, issues it next. -/
def State.withFetchWord (s : State) (nbits w : Nat) : State :=
  match decodeTableWord nbits w with
  | none => s
  | some i =>
    let word : Word := BitVec.ofNat 64 (w % 2 ^ nbits)
    let core := (roleNeeded i).getD 0
    let k := 11 * core
    let put (m : Memory) : Memory :=
      Memory.setDword (Memory.setDword m placedBlock 0xFF (placedHeader i)) (placedBlock + 8) 0xFF word
    let s1 := s.setMemQ 0 (put (s.memQ 0))
    let s2 := (s1.updShed 0 fun d => { d with gang := some 1, withdrawn := false }).setQuarter 0 { s1.quarterAt 0 with up := true }
    let s3 := s2.setGang 1 { Gang.reset with state := .resident }
    let s4 := s3.updCore core fun c => { c with
      ptr := 10, contained := none, seq := .reset, divider := none, vecDivider := none
      icache := Table.put (c.icache.del placedBlock) (placedBlock + 8) word }
    let s5 := s4.updCtx k fun c => { c with
      mode := .ready, pc := mkPc 0 placedBlock, hdr := placedHeader i, cbase := 0, cbound := 0x1000, inBase := 0, inBound := 0x1000, hold := [], ops := []
      fences := [], seen := [], mismatch := 0, replay := false, passed := none, ahead := none }
    { s5 with turns := [.issue core] }

end Sys2Proof.Machine
end

