-- ==== Sys2Proof/Safety.lean ====
section
/-! DEFINITION. What every state of a run keeps, and the terms in which claims are stated. -/
namespace Sys2Proof.Machine

/-! ## Safe states and runs -/

/-- Every quarter's memory, and both sets of durable copies, are in canonical form. -/
def State.memoryWf (s : State) : Bool :=
  (List.range 4).all (fun q => (s.memQ q).wf) && Memory.wf s.ord.prim && Memory.wf s.ord.mirr

/-- x0 of every context is kept as 0 and k0 as all ones, so that no path but the accessors gives them another value (R26). -/
def State.hardWired (s : State) : Bool :=
  s.ctxs.all fun e => e.2.x[0] == 0 && e.2.k[0] == 0xFFFF

/-- Every context that another one has yielded to may still issue (R93, R104): a hold never outlives its reason. -/
def State.HoldsReady (s : State) : Prop := ∀ k j, j ∈ (s.ctx k).hold → s.isReady j = true

/-- The moves of the order machine that are events, with the barriers, walks, repetitions and retirements that it takes like them (R230, R242,
R255, R288, R316, R336). -/
def Instr.isMove : Instr → Bool
  | .perform _ _ | .propagate _ _ | .apply _ _ | .read _ _ _ | .atomic _ _ | .reduce _ _ | .merge _ | .engineStep _ _ | .flag _ | .durable _ _
  | .sleepWake _ | .messageAccept _ _ | .barrierEpisodeComplete _ | .collectiveComplete _ | .pageWalk _ _ _ | .seqRepetition _ | .gmmaJoin _ _
  | .tileOpRetire _ | .cvtRetire _ | .blockEnd _ | .contextRetirement _ | .coreHalted _ => true
  | _ => false
/-- The turns that are moves: an issue, which is ISSUE of R288, a turn of a tile slice or conversion engine, and those events. -/
def Turn.isMove : Turn → Bool
  | .issue _ | .tile _ | .convert _ => true
  | .event i => Instr.isMove i
  | _ => false

/-- A run: each state is a step after the one before it. -/
def Run (r : Nat → State) : Prop := ∀ n, step (r n) = .next (r (n + 1))
/-- A move is permitted where taking it does something. -/
def Permitted (t : Turn) (s : State) : Prop := Turn.isMove t = true ∧ stepTurn t s ≠ .next s
/-- The runs that the hardware makes: a move that stays permitted is taken (R285). -/
def FairRun (r : Nat → State) : Prop :=
  Run r ∧ ∀ t n, (∀ m, n ≤ m → Permitted t (r m)) → ∃ m, n ≤ m ∧ (r m).takeTurn.1 = t

/-- A core is safe while no fault of the fetch stops the machine. -/
def safeStep (s : State) : Prop := ∃ t, step s = .next t

/-! ## What a claim says of an instruction -/

/-- The instruction passes the checks of R52 in the executing context, the checker is due to find nothing, and this is its first issue
(R359). -/
def State.Fit (s : State) (i : Instr) : Prop := s.issueTrap i = none ∧ s.me.mismatch = 0 ∧ s.me.replay = false

/-- The instruction retires with state t (R85). -/
def Completes (i : Instr) (s t : State) : Prop := exec i s = .next (t.retire s.cur)
/-- The instruction traps at its location (R350). -/
def Traps (i : Instr) (s : State) (cause : BitVec 8) (tval : Word) (tinfo : BitVec 8) : Prop :=
  exec i s = .next (s.takeTrap s.cur cause false tval tinfo)
/-- The same after reads at its issue that leave state t: of them only the corrections of errors stay (R350, R365). -/
def TrapsAfter (i : Instr) (s t : State) (cause : BitVec 8) (tval : Word) (tinfo : BitVec 8) : Prop :=
  exec i s = .next ((s.readBy t).takeTrap s.cur cause false tval tinfo)
/-- The context falls asleep at the instruction with state t (R108). -/
def Sleeps (i : Instr) (s : State) (w : Wait) (t : State) : Prop := exec i s = .next (t.sleepMe w)

/-- Only the executing context has changed: no memory, no other context, nothing of any core, shed, gang or the package. -/
def OnlyMe (s t : State) : Prop := t = { s with ctxs := t.ctxs } ∧ ∀ k, k ≠ s.cur → t.ctx k = s.ctx k

/-- Two states read the same from every byte of every quarter's memory. -/
def SameBytes (s t : State) : Prop := ∀ q a, t.byteQ q a = s.byteQ q a
/-- In quarter q's memory exactly the bytes of a doubleword that the mask names change, to those of the value. -/
def Stores (s t : State) (q loc : Nat) (mask : BitVec 8) (v : Word) : Prop :=
  ∀ p a, t.byteQ p a =
    if p % 4 = q % 4 ∧ loc ≤ a ∧ a < loc + 8 ∧ mask.getLsbD (a - loc) = true then v.extractLsb' (8 * (a - loc)) 8
    else s.byteQ p a
/-- A byte of a doubleword of which a quarter holds a partial, while a level-two slice is full or within 64 lines of it: an access may evict
the line of the partial, and with it merge the partial (R279, R282). -/
def State.Mergeable (s : State) (a : Nat) : Prop :=
  (∃ b, b ≤ a ∧ a < b + 8 ∧ s.hasPartial b = true) ∧
  ∃ q d, sliceLines ≤ ((s.l2Q q).filter fun e => e.2.at_ q e.1 = d).length + 64
/-- The same as SameBytes and Stores, apart from those bytes. -/
def SameButMerges (s t : State) : Prop := ∀ q a, ¬s.Mergeable a → t.byteQ q a = s.byteQ q a
def StoresButMerges (s t : State) (q loc : Nat) (mask : BitVec 8) (v : Word) : Prop :=
  ∀ p a, ¬s.Mergeable a → t.byteQ p a =
    if p % 4 = q % 4 ∧ loc ≤ a ∧ a < loc + 8 ∧ mask.getLsbD (a - loc) = true then v.extractLsb' (8 * (a - loc)) 8
    else s.byteQ p a
/-- The instructions that read memory or prefetch at their issue, and so move cache lines then (R281, R305, R317). -/
def Instr.readsAtIssue : Instr → Bool
  | .pref _ | .copy _ | .copy2 _ | .get _ | .put _ | .puta _ | .wsig _ | .digest _ | .collStart _ | .buoySeal _ | .cbkLd _ | .gmCfg _
  | .gmStep _ | .gmMask _ | .gmForce _ => true
  | _ => false
/-- Every register, mode and location of every context is unchanged: only pending operations, fences, observations and
counters may differ, and what `waita` left behind. -/
def SameRegs (s t : State) : Prop :=
  ∀ k, ({ t.ctx k with ops := (s.ctx k).ops, fences := (s.ctx k).fences, seen := (s.ctx k).seen, ld := (s.ctx k).ld,
                       st := (s.ctx k).st, cp := (s.ctx k).cp, tl := (s.ctx k).tl, ahead := (s.ctx k).ahead } : Ctx) = s.ctx k
/-- The line of a place was last written under the key that a slot holds, or is not encrypted (R339). -/
def State.SameKey (s : State) (slot loc : Nat) : Prop :=
  isPad loc = true ∨ ∀ key, s.ord.keyed.get? (lineOf loc) = some key → key = s.keyOfSlot slot
/-- Translated destinations of a unit, each with its key slot, none in a saved image: their lines stand under these keys, and no line is
reached through two slots. -/
def State.PlainDsts (s : State) (ls : List (Option (Nat × Nat))) : Prop :=
  (∀ p, some p ∈ ls → imageOf p.1 = none ∧ s.SameKey p.2 p.1) ∧
  ∀ p r, some p ∈ ls → some r ∈ ls → lineOf p.1 = lineOf r.1 → p.2 = r.2

/-! ## Elements that a tile operation or a conversion stores -/

/-- n addresses w bytes apart translate for writing one after another, each in the state that the one before it left. -/
def State.TranslateInTurn (s : State) (k w : Nat) (va : Word) (h : Nat → Hit) (n : Nat) : Prop :=
  ∀ j < n, (match j with
    | 0 => s
    | i + 1 => (h i).st).translate k (va + BitVec.ofNat 64 (w * j)) true = .ok (h j)
/-- The places of n elements of w bytes lie each in one doubleword and apart from one another, each line under one key slot. -/
def PlacesApart (h : Nat → Hit) (n w : Nat) : Prop :=
  (∀ j < n, (h j).loc % 8 + w ≤ 8) ∧
  ∀ i j, i < n → j < n → i ≠ j → ((h i).loc + w ≤ (h j).loc ∨ (h j).loc + w ≤ (h i).loc) ∧
    (lineOf (h i).loc = lineOf (h j).loc → pteKey (h i).w0 = pteKey (h j).w0)
/-- The order rules let an operation store to each of n places, and its line stands under the key of its page. -/
def State.LetsPlaces (s : State) (k id : Nat) (h : Nat → Hit) (n : Nat) : Prop :=
  ∀ j < n, let d := dwordOf (h j).loc
    s.mayMove k (writeAs id d) = true ∧ s.redsSettled (qtrOfCtx k) d = true ∧ s.SameKey (pteKey (h j).w0) d
/-- In quarter q's memory n elements of w bytes hold the values v, and every other byte is as it was, but for doublewords of which a quarter
held a partial. -/
def ElementsStored (s t : State) (q : Nat) (h : Nat → Hit) (n w : Nat) (v : Nat → Nat) : Prop :=
  (∀ j < n, ∀ b < w, t.byteQ q ((h j).loc + b) = BitVec.ofNat 8 (v j / 256 ^ b)) ∧
  ∀ p a, (∀ b, b ≤ a → a < b + 8 → s.hasPartial b = false) →
    (p % 4 ≠ q % 4 ∨ ∀ j < n, a < (h j).loc ∨ (h j).loc + w ≤ a) → t.byteQ p a = s.byteQ p a

end Sys2Proof.Machine

/-! ## The spec's own arithmetic, written from its pseudocode -/
namespace Sys2Proof.Claims
open Sys2Proof.Machine

/-- The FUNC 0 to 20 instruction of major 0x10 (R197). -/
def intInstr (op : IntOp) (f : RR) : Instr :=
  match op with
  | .add => .add f
  | .sub => .sub f
  | .mul => .mul f
  | .mulh => .mulh f
  | .div => .div f
  | .rem => .rem f
  | .and => .and f
  | .or => .or f
  | .xor => .xor f
  | .andn => .andn f
  | .shl => .shl f
  | .shr => .shr f
  | .sra => .sra f
  | .rol => .rol f
  | .min => .min f
  | .max => .max f
  | .abs => .abs f
  | .neg => .neg f
  | .clz => .clz f
  | .ctz => .ctz f
  | .popc => .popc f

/-- WIDTH and SIGNED of an integer TYPE (R29). -/
def width (ty : BitVec 4) : Nat := if ty.toNat < 2 then 8 else if ty.toNat < 4 then 16 else if ty.toNat < 6 then 32 else 64
def signed (ty : BitVec 4) : Bool := ty.toNat % 2 = 0
/-- SINT or UINT of a pattern. -/
def val (sg : Bool) {w : Nat} (p : BitVec w) : Int := if sg then p.toInt else p.toNat
/-- MINVAL and MAXVAL. -/
def minVal (sg : Bool) (w : Nat) : Int := if sg then -(2 ^ (w - 1)) else 0
def maxVal (sg : Bool) (w : Nat) : Int := if sg then 2 ^ (w - 1) - 1 else 2 ^ w - 1

/-- EXACT of R198 and R199 on W-bit patterns p and q with the shift amount s. -/
def exact (op : IntOp) (sg : Bool) {w : Nat} (p q : BitVec w) (s : Nat) : Int :=
  match op with
  | .add => val sg p + val sg q
  | .sub => val sg p - val sg q
  | .mul => val sg p * val sg q
  | .mulh => (val sg p * val sg q).fdiv (2 ^ w)
  | .div => if q = 0 then (if sg && decide (val sg p < 0) then minVal sg w else maxVal sg w) else (val sg p).tdiv (val sg q)
  | .rem => if q = 0 then val sg p else val sg p - val sg q * (val sg p).tdiv (val sg q)
  | .and => (p &&& q).toNat
  | .or => (p ||| q).toNat
  | .xor => (p ^^^ q).toNat
  | .andn => (p &&& ~~~q).toNat
  | .shl => val sg p * 2 ^ s
  | .shr => (p.toNat / 2 ^ s : Nat)
  | .sra => p.toInt.fdiv (2 ^ s)
  | .rol => (p.rotateLeft (s % w)).toNat
  | .min => min (val sg p) (val sg q)
  | .max => max (val sg p) (val sg q)
  | .abs => (val sg p).natAbs
  | .neg => -val sg p
  | .clz => (w - (if p = 0 then 0 else p.toNat.log2 + 1) : Nat)
  | .ctz => (((List.range w).find? fun i => p.getLsbD i).getD w : Nat)
  | .popc => ((List.range w).countP fun i => p.getLsbD i : Nat)

/-- r of INT_OP after the clamp that SAT = 1 makes, and the flags that it and a division by zero raise (R198, R199). -/
def clamped (sat : Bool) (sg : Bool) (w : Nat) (r : Int) : Int := if sat then max (minVal sg w) (min (maxVal sg w) r) else r
def intFlags (op : IntOp) (sat sg : Bool) {w : Nat} (q : BitVec w) (r : Int) : BitVec 5 :=
  (if clamped sat sg w r = r then 0 else flagO) ||| (if (op = .div || op = .rem) && decide (q = 0) then flagZ else 0)
/-- SEXT or ZEXT of the W-bit pattern of an integer. -/
def pattern (sg : Bool) (w : Nat) (r : Int) : Word :=
  if sg then (BitVec.ofInt w r).signExtend 64 else (BitVec.ofInt w r).setWidth 64

/-- The integer that a finite value comes to on a grid of 2^g, and whether that grid holds it exactly; no other value is on a grid. -/
def gridValue (g : Int) : FVal → Int
  | .fin n m e => (if n then -1 else 1) * (m * 2 ^ (e - g).toNat : Nat)
  | _ => 0
def gridHolds (g : Int) : FVal → Bool
  | .fin _ m e => m = 0 || decide (g ≤ e)
  | _ => false
/-- The exact product of two finite values. -/
def productOf : FVal → FVal → FVal
  | .fin x m e, .fin y n f => .fin (x != y) (m * n) (e + f)
  | _, _ => .nan false
def finiteVal : FVal → Bool
  | .fin _ _ _ => true
  | _ => false
def infiniteVal : FVal → Bool
  | .inf _ => true
  | _ => false
def zeroVal : FVal → Bool
  | .fin _ m _ => m = 0
  | _ => false

/-! ## Lanes -/

/-- A lane-wise vector instruction, row by row of R215, R220 and R224: its lanes, the bits of v_D that lane i writes (first
bit and width), and what an active lane delivers with its flags. -/
structure LaneSpec where
  instr : RR → Instr
  lanes : RR → Nat
  slot : RR → Nat → Nat × Nat
  val : RR → State → Nat → Nat × BitVec 5

/-- L and the whole lane i of TYPE. -/
def plainLanes (f : RR) : Nat := lanesOf (typeWidth f.ty.toNat)
def plainSlot (f : RR) (i : Nat) : Nat × Nat := (typeWidth f.ty.toNat * i, typeWidth f.ty.toNat)
/-- Lane i, or its slot of the group that a live NARROW names (R32). -/
def narrowSlot (f : RR) (i : Nat) : Nat × Nat :=
  if modNfmt f.narrow = 0 then plainSlot f i
  else
    let n := containerBits (typeFloat f.ty.toNat) (modNfmt f.narrow)
    (modGrp f.narrow * plainLanes f * n + i * n, n)

/-- A row of R216: EXACT of the integer operation and ROUND_TO it, or the float lane. -/
def arith (instr : RR → Instr) (gi : RR → Nat → Nat → Nat → Int × BitVec 5)
    (gf : RR → Nat → Nat → Nat → Nat × BitVec 5) : LaneSpec where
  instr := instr
  lanes := plainLanes
  slot := narrowSlot
  val f s i :=
    let a := sourceLane (s.rv f.a) f.moda f.ty.toNat i
    let b := sourceLane (s.rv f.b) f.modb f.ty.toNat i
    let c := lane (s.rv f.c) (typeWidth f.ty.toNat) i
    if typeFloat f.ty.toNat then gf f a b c
    else
      let r := gi f a b c
      let t := clampLane f.ty.toNat f.narrow (f.sat = 1) r.1
      (t.1, r.2 ||| t.2)
/-- A row that only an integer TYPE takes: its float part is never reached. -/
def intRow (instr : RR → Instr) (op : IntOp) : LaneSpec := arith instr (laneInt op) (fun f a _ _ => laneEnc f a)
/-- A row that moves lanes and raises no flag; an F6 lane keeps bits [7:6] = 0 (R180). -/
def moves (instr : RR → Instr) (lanes : RR → Nat) (val : RR → State → Nat → Nat) : LaneSpec where
  instr := instr
  lanes := lanes
  slot := plainSlot
  val f s i := (if f.ty = 14 then val f s i % 64 else val f s i, 0)

/-- The lane-wise rows of majors 0x30 to 0x32. -/
def laneSpecs : List LaneSpec := [
  arith .vadd (laneInt .add) (laneFloat .add),
  arith .vsub (laneInt .sub) (laneFloat .sub),
  arith .vmul (laneInt .mul) (laneFloat .mul),
  intRow .vmulh .mulh,
  arith .vfma laneFma (laneFloat .fma),
  arith .vmin (laneInt .min) (fun f a b _ => laneEnc f (fminmax (fmtOf f.ty.toNat) false a b)),
  arith .vmax (laneInt .max) (fun f a b _ => laneEnc f (fminmax (fmtOf f.ty.toNat) true a b)),
  arith .vabs (laneInt .abs) (fun f a _ _ => laneEnc f (fabsBits (fmtOf f.ty.toNat) a)),
  arith .vneg (laneInt .neg) (fun f a _ _ => laneEnc f (fnegBits (fmtOf f.ty.toNat) a)),
  intRow .vand .and, intRow .vor .or, intRow .vxor .xor, intRow .vandn .andn,
  intRow .vshl .shl, intRow .vshr .shr, intRow .vsra .sra,
  arith .vdiv (laneInt .div) (laneFloat .div),
  arith .vsqrt (fun _ a _ _ => ((a : Int), 0)) (laneFloat .sqrt),
  moves .vsel plainLanes (fun f s i => if (s.rk (low3 f.c)).getLsbD i then sourceLane (s.rv f.a) f.moda f.ty.toNat i
    else sourceLane (s.rv f.b) f.modb f.ty.toNat i),
  { instr := .vcvt
    lanes := fun f => lanesOf (max (typeWidth f.ty.toNat) (typeWidth f.c.toNat))
    slot := fun f i =>
      let l := lanesOf (max (typeWidth f.ty.toNat) (typeWidth f.c.toNat))
      (typeWidth f.ty.toNat * (i + l * modGrp f.narrow), typeWidth f.ty.toNat)
    val := fun f s i =>
      let ws := typeWidth f.c.toNat
      let l := lanesOf (max (typeWidth f.ty.toNat) ws)
      convert f.c.toNat f.ty.toNat f.rnd.toNat (f.sat = 1) typeWidth (bits (s.rv f.a) (ws * (i + l * modGrp f.moda)) ws) },
  moves .vperm (fun _ => 16) (fun f s j => permByte (s.rv f.a) (s.rv f.c) (lane (s.rv f.b) 8 j)),
  moves .vlut16 plainLanes lutEntry,
  moves .vbcast plainLanes (fun f s _ => (s.rx f.a).toNat % 2 ^ typeWidth f.ty.toNat),
  moves .vzip plainLanes (fun f s i =>
    let w := typeWidth f.ty.toNat
    lane (if i % 2 = 0 then s.rv f.a else s.rv f.b) w (i / 2 + f.rnd.toNat * (lanesOf w / 2))),
  moves .vunzip plainLanes (fun f s i =>
    let w := typeWidth f.ty.toNat
    let e := 2 * i + f.rnd.toNat
    if e < lanesOf w then lane (s.rv f.a) w e else lane (s.rv f.b) w (e - lanesOf w)),
  { instr := .vdot4, lanes := plainLanes, slot := plainSlot, val := dotLane 4 },
  { instr := .vdot2, lanes := plainLanes, slot := plainSlot, val := dotLane 2 }]

/-- Bit j of v_D after a lane-wise instruction: the bit of the lane's result where an active lane writes it, and otherwise
the bit that was there (R27). -/
def LanesWritten (e : LaneSpec) (f : RR) (s : State) (v : Quad) : Prop :=
  (∀ i < e.lanes f, ∀ j, j < 128 → (e.slot f i).1 ≤ j → j < (e.slot f i).1 + (e.slot f i).2 →
    v.getLsbD j = if active (s.rk f.k) f.kn i then (e.val f s i).1.testBit (j - (e.slot f i).1) else (s.rv f.d).getLsbD j) ∧
  (∀ j, (∀ i < e.lanes f, ¬((e.slot f i).1 ≤ j ∧ j < (e.slot f i).1 + (e.slot f i).2)) → v.getLsbD j = (s.rv f.d).getLsbD j)
/-- A flag is raised exactly where an active lane raises it (R214). -/
def LaneFlags (e : LaneSpec) (f : RR) (s : State) (fl : BitVec 5) : Prop :=
  ∀ b, fl.getLsbD b = true ↔ ∃ i < e.lanes f, active (s.rk f.k) f.kn i = true ∧ (e.val f s i).2.getLsbD b = true

/-- The executing context owns the sequencer and records (R229). -/
def Recording (s : State) : Prop :=
  (s.core s.myCore).seq.owner = some s.cur ∧ (s.core s.myCore).seq.recording = true ∧ (s.core s.myCore).seq.suspended = 0
/-- The state with an instruction appended to the queue. -/
def queued (i : Instr) (s t : State) : State :=
  t.updCore s.myCore fun c => { c with seq := { c.seq with queue := c.seq.queue ++ [{ instr := i, pc := s.me.pc }] } }

end Sys2Proof.Claims
end

