-- ==== Sys2Proof/Certificates/Slice0/Obligations.lean ====
section
/-! DEFINITION. What is claimed of the machine, for the provers. Each claim cites the rule of the spec that it
formalises. -/
section
open Sys2Proof Sys2Proof.Machine Sys2Proof.Claims

/-- 02_encodings.md, 03_opcode_map.md: For every well-formed instruction with every operand at every value that its
encoding admits, the eight bytes of its word, followed by any bytes, decode to that instruction and leave those bytes.
-/
def Obligations.DecodingReadsBackEveryWellFormedInstruction : Prop :=
  ∀ i : Instr, WellFormed i → ∀ rest : List Byte, decode (wordBytes (encode i) ++ rest) = .ok (i, rest)

/-- 02_encodings.md, 03_opcode_map.md: Every 64-bit word is the encoding of the instruction that it decodes to,
malformed and unassigned words included; so decoding drops no bit of a word, and two different words never decode to one
instruction. -/
def Obligations.EveryWordIsTheEncodingOfItsInstruction : Prop :=
  (∀ w : Word, encode (decodeWord w) = w) ∧ ∀ w v : Word, decodeWord w = decodeWord v → w = v

/-- R28, R33, R34, R205, R217, R221, R227, R228: The words that the spec writes out for vcmp.f32 k1, v2, v3, lt, for
vperm.ui8 v1, v2, v3, v4, for kpop x4, k2, for seq.loop x5, x6 and for seq.beg, and the words laid out field by field
for addi x3, x1, -1 and st.b64.na-style operands of the M format, decode to those instructions. -/
def Obligations.SpecWordsDecodeAsWritten : Prop :=
  decodeWord 0x3008860042880000 = .vcmp { d := 1, a := 2, b := 3, c := 0, k := 0, kn := 0, ty := 10, rnd := 1, sat := 0, moda := 0, modb := 0, narrow := 0 } ∧
  decodeWord 0x3108864000400000 = .vperm { d := 1, a := 2, b := 3, c := 4, k := 0, kn := 0, ty := 1, rnd := 0, sat := 0, moda := 0, modb := 0, narrow := 0 } ∧
  decodeWord 0x3320800014000000 = .kpop { d := 4, a := 2, b := 0, c := 0, k := 0, kn := 0, ty := 0, rnd := 0, sat := 0, moda := 0, modb := 0, narrow := 0 } ∧
  decodeWord 0x34014C0004000000 = .seqLoop { d := 0, a := 5, b := 6, c := 0, k := 0, kn := 0, ty := 0, rnd := 0, sat := 0, moda := 0, modb := 0, narrow := 0 } ∧
  decodeWord 0x3400000000000000 = .seqBeg { d := 0, a := 0, b := 0, c := 0, k := 0, kn := 0, ty := 0, rnd := 0, sat := 0, moda := 0, modb := 0, narrow := 0 } ∧
  decodeWord (0x12#8 ++ 3#5 ++ 1#5 ++ 0#5 ++ 0#5 ++ 0#3 ++ 0#1 ++ 0xFFFFFFFF#32) =
    .addi { d := 3, a := 1, b := 0, c := 0, k := 0, kn := 0, imm := 0xFFFFFFFF } ∧
  decodeWord (0x45#8 ++ 0#5 ++ 6#5 ++ 7#5 ++ 0#5 ++ 0#3 ++ 0#1 ++ 0#3 ++ 1#2 ++ 3#3 ++ 0x000040#24) =
    .st { d := 0, a := 6, b := 7, c := 0, k := 0, kn := 0, scope := 0, hint := 1, size := 3, off := 0x40 }

/-- R51, R53: Every word that decodes to no assigned instruction, the all-zero word and every word with the header mark
0xFE among them, raises the illegal trap (cause 1) at its location with TVAL the word, and never the feature trap. -/
def Obligations.UnassignedWordTakesIllegalTrap : Prop :=
  (∀ (w : Word) (s : State), Traps (.unassignedEncoding w) s 1 w 0) ∧
  decodeWord 0 = .unassignedEncoding 0 ∧
  ∀ w : Word, w.extractLsb' 56 8 = 0xFE#8 → decodeWord w = .unassignedEncoding w

/-- R52, R53: For every instruction word and every state: if the feature of its major opcode or FUNC is absent it takes
the feature trap; otherwise, on a core of another role than it needs, the illegal trap; otherwise, where it breaks a
field check, the illegal trap; otherwise, where a field code needs an absent feature, the feature trap. In each case
TVAL is the word and the state is that of the trap entry, with no effect of the instruction. -/
def Obligations.ChecksAreMadeInOrder : Prop :=
  ∀ (i : Instr) (s : State), Instr.isWord i = true →
    (s.hasFeature (majorFeature i) = false → Traps i s 2 (encode i) 0) ∧
    (s.hasFeature (majorFeature i) = true →
      ((∃ r, roleNeeded i = some r ∧ r ≠ s.myRole) → Traps i s 1 (encode i) 0) ∧
      ((∀ r, roleNeeded i = some r → r = s.myRole) →
        (WellFormed.check i ≠ none → Traps i s 1 (encode i) 0) ∧
        (WellFormed.check i = none → (∃ n ∈ fieldFeatures i, s.hasFeature n = false) → Traps i s 2 (encode i) 0)))

/-- R45, R85, R86: When an instruction retires, its context is READY at the next instruction of the same block where its
index is below LEN, and at the block end, with its location unchanged, where it is LEN; every register of the context,
every other context and everything else in the package stay as they are. -/
def Obligations.RetirementGoesToTheNextInstructionOrTheBlockEnd : Prop :=
  ∀ (s : State) (k : Nat),
    (pcIndex (s.ctx k).pc = hdrLen (s.ctx k).hdr → (s.retire k).ctx k = { s.ctx k with mode := .blockEnd }) ∧
    (pcIndex (s.ctx k).pc < hdrLen (s.ctx k).hdr →
      (s.retire k).ctx k = { s.ctx k with mode := .ready, pc := (s.retire k |>.ctx k).pc } ∧
      pcIndex ((s.retire k).ctx k).pc = pcIndex (s.ctx k).pc + 1 ∧
      pcBlock ((s.retire k).ctx k).pc = pcBlock (s.ctx k).pc) ∧
    (∀ j, j ≠ k → (s.retire k).ctx j = s.ctx j) ∧ s.retire k = { s with ctxs := (s.retire k).ctxs }

/-- R45, R348, R350, R351, R360: A trap of context k writes the cause and BEND into TCAUSE, the value into TVAL, the
location of the instruction into TPC and TINFO, suspends a recording of its own, looks TCAUSE up in the current
generation of table TYARD, and, where the winning action is JUMP to a block inside the code bounds with a legal header,
leaves the context READY at instruction 0 of that block; its general registers, condition sets, masks and FSTAT, and all
memory, are unchanged. A JUMP target outside the code bounds raises no further trap: a helper context is then retired
with reason 3. Where the generation that the lookup reads is poisoned, the core is contained instead. -/
def Obligations.TrapEntrySavesAndDispatches : Prop :=
  ∀ (s : State) (k : Nat) (cause : BitVec 8) (bend : Bool) (tval : Word) (tinfo : BitVec 8),
    let c := s.ctx k
    let s1 := (s.updCtx k fun v => v.trapRegs cause bend tval v.pc tinfo).suspendRecording k
    let use := s1.yardUse k c.tyard false
    let act := use.2.1.lookup (((if bend then 0x8000 else 0) ||| cause.zeroExtend 16 : BitVec 16).zeroExtend 64)
    let addr := s.arenaBase k + 8 * actTarget act
    let t := s.takeTrap k cause bend tval tinfo
    (use.2.1.bad ≠ [] → t = use.2.2.containEvent (coreOfCtx k) 3) ∧
    (use.2.1.bad = [] → actKind act = 1 →
    (c.inCode addr = true → addr % 8 = 0 → (s.gang ((s.gangOfCore (coreOfCtx k)).getD 0)).gone addr = false →
      headerOk (use.2.2.fetch (coreOfCtx k) addr).1 = true →
      (t.ctx k).tcause = ((if bend then 0x8000 else 0) ||| cause.zeroExtend 16) ∧ (t.ctx k).tval = tval ∧
      (t.ctx k).tpc = c.pc ∧ (t.ctx k).tinfo = tinfo ∧ (t.ctx k).mode = .ready ∧ (t.ctx k).pc = mkPc 0 addr ∧
      (t.ctx k).hdr = (use.2.2.fetch (coreOfCtx k) addr).1 ∧
      (t.ctx k).x = c.x ∧ (t.ctx k).v = c.v ∧ (t.ctx k).k = c.k ∧ (t.ctx k).c = c.c ∧ (t.ctx k).y0 = c.y0 ∧
      (t.ctx k).y1 = c.y1 ∧ (t.ctx k).fstat = c.fstat ∧ (t.ctx k).tyard = c.tyard ∧ SameBytes s t) ∧
    (c.inCode addr = false → ctxNo k ≠ 0 → (t.ctx k).mode = .exiting 3 none ∧ (t.ctx k).tpc = c.pc))

/-- R40, R45, R54, R109, R111, R314, R343: When the next turn is an issue turn of a core, the first context after the
pointer that may issue becomes the executing one and the pointer moves to it; where its location lies in a region not
freed by force, inside the code bounds of its block and in memory that exists, the word that the core's instruction
cache delivers there is decoded and the step is the meaning of that instruction in that state, once the vector unit's
last user, the divider that the instruction takes and the window of an earlier waita are brought up to date; the holds
of the other contexts are brought up to date after it. Moving past the instruction is part of the meaning (see the
retirement statement). Where a schedule's turns come from is the model's choice (assumption 2). -/
def Obligations.StepRunsTheInstructionAtTheContextsLocation : Prop :=
  ∀ (s : State) (core : Nat) (rest : List Turn), s.turns = .issue core :: rest →
    ∀ k, ({ s with turns := rest } : State).pick core = some k →
      let u := ({ s with turns := rest } : State).begin_ core k
      let a := pcAddr (u.ctx k).pc
      u.cur = k ∧ (u.core core).ptr = ctxNo k ∧
      ((u.gang ((u.gangOfCore (coreOfCtx k)).getD 0)).gone (pcBlock (u.ctx k).pc) = false →
        (u.ctx k).inBlockCode a = true → u.exists_ a = true →
        let i := decodeWord (u.fetch (coreOfCtx k) a).1
        let t := (u.fetch (coreOfCtx k) a).2
        step s = settled (some k) (exec i ((t.useUnits core k i).narrowAhead k i)))

/-- R343, R344, R354: When the next turn is an issue turn and the chosen context's location lies outside the code bounds
that its block was entered with, in a region not freed by force, the step takes the code-bound trap (cause 5) with TVAL
the address, and runs no instruction. -/
def Obligations.FetchOutsideTheCodeBoundsTraps : Prop :=
  ∀ (s : State) (core : Nat) (rest : List Turn), s.turns = .issue core :: rest →
    ∀ k, ({ s with turns := rest } : State).pick core = some k →
      let u := ({ s with turns := rest } : State).begin_ core k
      let a := pcAddr (u.ctx k).pc
      (u.gang ((u.gangOfCore (coreOfCtx k)).getD 0)).gone (pcBlock (u.ctx k).pc) = false →
      (u.ctx k).inBlockCode a = false →
      step s = .next ((u.takeTrap k 5 false (BitVec.ofNat 64 a) 0).settleHolds none)

/-- R9, R136, R137, R154, R169, R170, R285, R344, R369: A turn that lists a happening of the machine is the meaning of
that happening; one that lists an instruction word does nothing, because words are only fetched; a turn of n global
ticks is n single ticks, each of which makes the charge of R170 where its number is a multiple of 1,000, before a period
that begins there is refilled (that order is the model's choice, assumption 72): it advances GTIME by n, changes no
memory and of a context at most event bit 4, and, where it passes no multiple of 1,000, changes of the queues exactly
those that have run into a multiple of their period, with E at 0; an issue turn of a core none of whose contexts may
issue leaves only the misses of those that are STALLED joined to a walk or queued; a turn of the keeper's processor
changes nothing but that processor. A turn of the tile unit or the conversion unit is theirs; the loss of the keeper
marks it lost; its return ends that and puts the management commands that wait before all other turns, in their order,
each of which then runs as if it came now (assumption 57). A queue's turn does nothing without a master; otherwise,
where no gang of the queue owes a record, a STOP at its head completes with status 0, a started UNLOAD goes on, and the
oldest LOAD or UNLOAD not started starts where every command before it has started, with DPREV none is left before it,
and with DSEQ its command has been accepted and completed (assumption 61): a LOAD reports status 0 with the load status
(assumption 30) or, where a walk has to wait, stays; an UNLOAD completes with 2 without a loaded object, with 0 once no
one counts it, by force once its gangs are off their sheds, which it switches out. In each case the holds of R93 are
brought up to date. Which turn comes next is the model's choice (assumption 2), and the code that the keeper runs is
that of assumptions 117 and 118. -/
def Obligations.StepOfAnotherTurn : Prop :=
  ∀ (s : State) (rest : List Turn),
    (∀ i, s.turns = .event i :: rest → Instr.isWord i = false → step s = settled none (exec i { s with turns := rest })) ∧
    (∀ i, s.turns = .event i :: rest → Instr.isWord i = true → step s = settled none (.next { s with turns := rest })) ∧
    (∀ n, s.turns = .tick n :: rest → step s = settled none (.next (({ s with turns := rest } : State).pass n)) ∧
      (s.pass n).now = s.now + n ∧ (s.pass n).ord = s.ord ∧
      (∀ k, ∃ e : BitVec 5, (s.pass n).ctx k = { s.ctx k with event := e } ∧ e &&& 0b01111 = (s.ctx k).event &&& 0b01111) ∧
      (s.now / 1000 = (s.now + n) / 1000 → ∀ v, let q := s.queue v
        (s.pass n).queue v = if (s.queues.get? v).isSome = true ∧ q.period ≠ 0 ∧ s.now / q.period ≠ (s.now + n) / q.period then
          { q with charge := 0, periodStart := (s.now + n) / q.period * q.period, warned := false, exhausted := false, switchDue := false } else q)) ∧
    (∀ core, s.turns = .issue core :: rest → ({ s with turns := rest } : State).pick core = none →
      step s = settled none (.next (({ s with turns := rest } : State).queueMisses core))) ∧
    (∀ n, s.pass (n + 1) = s.oneTick.pass n) ∧
    s.oneTick = (if (s.now + 1) % 1000 = 0 then s.elapse.chargeEnergy else s.elapse).refillSince s.now ∧
    (s.turns = .keeper :: rest → ∃ c : KeeperCpu, (s.keeper.lost = true → c = s.keeper.cpu) ∧
      step s = settled none (.next { s with turns := rest, keeper := { s.keeper with cpu := c } })) ∧
    (∀ core, s.turns = .tile core :: rest → step s = settled none (.next (({ s with turns := rest } : State).tileTurn core))) ∧
    (∀ core, s.turns = .convert core :: rest → step s = settled none (.next (({ s with turns := rest } : State).cvtTurn core))) ∧
    (∀ n, s.turns = .command n :: rest → step s = settled none (.next (({ s with turns := rest } : State).commandTurn n))) ∧
    (s.turns = .keeperLost :: rest → step s = settled none (.next { s with turns := rest, keeper := { s.keeper with lost := true } })) ∧
    (s.turns = .keeperBack :: rest → step s = settled none (.next { s with
      turns := s.keeper.waiting.map Turn.managed ++ rest, keeper := { s.keeper with lost := false, waiting := [] } })) ∧
    (∀ (m : Mgmt) (full force : Byte) (release : Bool) (nonce : List Byte) (b : BindBody) (r : Option Rect) (c : VfCfg) (phase : Nat) (tb : TablesBody)
      (f : FwImage) (l : LayupBody),
      ∀ e ∈ ([(.ident m full, .ident m full), (.attest m nonce, .attest m nonce), (.bind m b, .bind m b), (.paddock m r, .paddock m r),
        (.vfcfg m c, .vfcfg m c), (.vfreset m release, .vfreset m release), (.migrate m phase, .migrate m phase), (.tables m tb, .tables m tb),
        (.fwstage m f, .fwstage m f), (.fwact m force, .fwact m force), (.errlog m, .errlog m), (.layup m l, .layup m l),
        (.layupRestore m l, .layupRestore m l)] : List (Managed × Instr)),
      s.turns = .managed e.1 :: rest → step s = settled none (exec e.2 { s with turns := rest })) ∧
    ∀ n : Nat,
      let q := s.queue n
      let vf := vfOf n
      let t := s.commandTurn n
      let ended (u : State) (c : Cmd) (st : Nat) (info : Word) : Prop := (u.queue n).cmds = q.cmds.filter (fun e => e.seq ≠ c.seq) ∧
        ∃ r, (u.queue n).sent = r :: q.sent ∧ r.seq = c.seq ∧ r.tag = c.tag ∧ r.status = BitVec.ofNat 16 st ∧ r.info = info
      let starts (c : Cmd) : Prop := q.cmds.find? (fun e => !e.started) = some c ∧ q.cmds.find? (fun e => e.seq = c.seq) = some c
      let freed (u : State) (obj : Nat) : Prop := (u.vf vf).objs.get? obj = none
      (s.master.ready = false → t = s) ∧
      (∀ (m : Nat) (seq : BitVec 32), s.cmdDone m seq = true ↔ ∃ back, back < 2 ^ 31 ∧ back < (s.queue m).accepted ∧
        seq = (s.queue m).expected - 1 - BitVec.ofNat 32 back ∧ ∀ e ∈ (s.queue m).cmds, e.seq ≠ seq) ∧
      (∀ pre c post, q.cmds = pre ++ c :: post → (∀ e ∈ pre, e.seq ≠ c.seq) →
        (s.mayStart n c = true ↔ (∀ e ∈ pre, e.started = true) ∧ (c.flags.getLsbD 0 = true → pre = []) ∧
          (c.flags.getLsbD 1 = true → s.cmdDone (4 * vf + c.depq.toNat % 4) c.depseq = true))) ∧
      (∀ c obj force, q.cmds.find? (fun e => e.seq = c.seq) = some c →
        let u := s.tryUnload n c.seq obj force
        ((s.vf vf).objs.get? obj = none → ended u c 2 0) ∧
        ∀ o, (s.vf vf).objs.get? obj = some o →
          let here : Prop := ∃ e ∈ s.gangs, e.2.isOf vf o = true ∧ (e.2.state = .resident ∨ e.2.state = .switching ∨ e.2.state = .launching ∨
            e.2.state = .restoring)
          (force = false → s.refCount vf o ≠ 0 → u = s) ∧
          (force = false → s.refCount vf o = 0 → ended u c 0 0 ∧ freed u obj) ∧
          (force = true → ¬here → ended u c 0 0 ∧ freed u obj) ∧
          (force = true → here → u.queues = s.queues ∧ u.vfs = s.vfs ∧ ∀ g x, s.gangs.get? g = some x →
            x.isOf vf o = true → x.state = .resident → (u.gang g).switchAt.isSome = true)) ∧
      (s.master.ready = true → (∀ e ∈ s.gangs, e.2.vfq = n → (s.gang e.1).owed = none) →
        (∀ c, q.cmds.head? = some c → c.kind = .stop → ∃ r ∈ (t.queue n).sent, r.seq = c.seq ∧ r.tag = c.tag ∧ r.status = 0) ∧
        (∀ c obj force, q.cmds = [c] → c.started = true → c.kind = .unload obj force → t = s.tryUnload n c.seq obj force) ∧
        ((∀ c, q.cmds.head? = some c → c.kind ≠ .stop) → (∀ c ∈ q.cmds, ∀ obj force, c.started = true → c.kind ≠ .unload obj force) →
          (q.cmds.find? (fun e => !e.started) = none → t = s) ∧
          ∀ c, starts c →
            ((∀ g, c.kind = .launch g → t = s) ∧ (s.mayStart n c = false → t = s)) ∧
            (s.mayStart n c = true →
              (∀ obj image, c.kind = .load obj image →
                let loads := (s.markStarted n c.seq).loadObject vf obj image
                (∀ u, loads = .ok u → ended t c 0 0 ∧ t.vfs = u.vfs ∧ SameBytes u t) ∧
                (loads = .error loadWaits → t = s) ∧
                ∀ st, loads = .error st → st ≠ loadWaits → ended t c 0 (BitVec.ofNat 64 st) ∧ freed t obj) ∧
              ∀ obj force, c.kind = .unload obj force →
                ((∀ o, (s.vf vf).objs.get? obj = some o → o.pending = true) → ended t c 2 0) ∧
                ∀ o, (s.vf vf).objs.get? obj = some o → o.pending = false →
                  t = (s.markStarted n c.seq).tryUnload n c.seq obj force)))

/-- R53, R270, R350: Whatever the state, a step is refused never, and faults only on an issue turn whose chosen
context's location names an address outside the package's address space; every instruction and every happening of the
machine answers a next state. -/
def Obligations.OnlyTheFetchStopsTheMachine : Prop :=
  (∀ (i : Instr) (s : State), ∃ t, exec i s = .next t) ∧
  ∀ s : State, (∃ t, step s = .next t) ∨
    ∃ core k, s.takeTurn.1 = .issue core ∧ s.takeTurn.2.pick core = some k ∧
      let a := pcAddr ((s.takeTurn.2.begin_ core k).ctx k).pc
      s.exists_ a = false ∧ step s = .fault (.fetchOutsideMemory a)

/-- R93, R104, R106: From every state, reachable or not, a step that answers a next state leaves every context holding
its turn only for contexts that are READY: a hold of YIELD or of the instruction yield ends when the other context
issues or stops being READY. So no hold outlives its reason and no context waits for one that cannot issue. -/
def Obligations.HoldsNameOnlyReadyContexts : Prop :=
  ∀ s t : State, step s = .next t → t.HoldsReady

/-- R93, R106: In the state after reset every context's hold is empty, so the invariant of the yields holds there. -/
def Obligations.ResetHasNoHolds : Prop :=
  State.reset.HoldsReady ∧ ∀ k, (State.reset.ctx k).hold = []

/-- R9, R46, R119, R153, R162, R284: After reset the global tick counter reads 0; every context of every core reads 0
from every scalar, vector, condition and flag register, and from every lane mask but k0, which reads all ones; no
mailbox holds a message; no shed has a gang, every helper is IDLE and every control context HALTED; the order machine
has no write, the memories and both copies of the durable layers are in canonical form with nothing listed; the front
end of quarter 0 is master and ready; and the cap of CAPSEL 0 is that of a TB-4Q. The reset values of registers for
which the spec states none are the model's choice (assumption 1), that the package is a TB-4Q of full capacity is
assumption 4, and that every byte of memory reads as blank is assumption 5. -/
def Obligations.ResetStateIsWhatTheSpecGives : Prop :=
  State.reset.gtime = 0 ∧
  (∀ k, (State.reset.ctx k).mode = (if k % 11 = 0 then .halted else .idle) ∧ (∀ r, (State.reset.ctx k).rx r = 0) ∧ (∀ r, (State.reset.ctx k).rv r = 0) ∧
    (State.reset.ctx k).rk 0 = 0xFFFF ∧ (∀ r, r ≠ 0 → (State.reset.ctx k).rk r = 0) ∧ (∀ r, (State.reset.ctx k).rc r = 0) ∧
    (State.reset.ctx k).fstat = 0 ∧ (State.reset.ctx k).ops = []) ∧
  (∀ core n, (State.reset.mailbox core n).present = false) ∧
  (∀ d, State.reset.gangOfShed d = none ∧ ∀ n, State.reset.sem d n = 0) ∧
  State.reset.ord.writes = [] ∧ State.reset.memoryWf = true ∧ State.reset.hardWired = true ∧
  (∀ q a, State.reset.byteQ q a = Memory.blank) ∧
  State.reset.master.front = 0 ∧ State.reset.master.ready = true ∧ State.reset.cap = 1500000

/-- R25, R40, R45, R109: With a word placed in the state after reset, the next step is the meaning of the instruction
that the word decodes to, for every 64-bit word: the control context of a core of the role that the instruction needs is
the first that may issue, its location names the word, and nothing else is listed in the schedule. How a program comes
to run is the model's choice (assumption 3). -/
def Obligations.PlacedInstructionIsTheOneThatRuns : Prop :=
  ∀ w : Word,
    let s := State.reset.withFetchWord 64 w.toNat
    ∃ t : State, step s = settled (some t.cur) (exec (decodeWord w) t) ∧ t.me.x = Ctx.reset.x ∧ t.me.mode = .ready ∧
      t.turns = [] ∧ pcIndex t.me.pc = 0

/-- R6, R284, R288: PERFORM of a write at a quarter, APPLY of a write at a quarter, DURABLE to a copy, a write that a
reset sends straight to a copy, the loader's and keeper's stores and what a reset takes back of a lost write keep the
memories of all quarters and both sets of durable copies in canonical form, from every state in which they are. -/
def Obligations.MemoryOperationsKeepTheCanonicalForm : Prop :=
  ∀ s : State, s.memoryWf = true →
    (∀ who id q loc mask val tag rel atom merged bad, (s.perform who id q loc mask val tag rel atom merged bad).memoryWf = true) ∧
    (∀ id q, (s.applyWrite id q).memoryWf = true) ∧
    (∀ id mirror, (s.durable id mirror).memoryWf = true) ∧
    (∀ id mirror, (s.copyTakes id mirror).memoryWf = true) ∧
    (∀ loc mask v, (s.writeAll loc mask v).memoryWf = true) ∧
    (∀ loc mask v bad, (s.writeEverywhere loc mask v bad).memoryWf = true) ∧
    (∀ w, (s.undo w).memoryWf = true) ∧
    ∀ q, (s.durableReread q).memoryWf = true

/-- R198, R199: For FUNC 0 to 20 of major 0x10 (add, sub, mul, mulh, div, rem, and, or, xor, andn, shl, shr, sra, rol,
min, max, abs, neg, clz, ctz, popc), for every TYPE and SAT that the instruction admits and all register values: the
instruction completes, x_D holds the W-bit pattern of the exact result of R198, clamped under SAT, extended by TYPE's
signedness, overflow is raised exactly where the clamp changed the result, and a division by zero gives the value of
R199 and raises divide-by-zero. Every other register, flag and byte of memory is unchanged; a write to x0 is discarded.
-/
def Obligations.ScalarIntegerResultIsTheSpecs : Prop :=
  ∀ (op : IntOp) (f : RR) (s : State), s.Fit (intInstr op f) →
    let w := width f.ty
    let sg := signed f.ty
    let p : BitVec w := (s.rx f.a).setWidth w
    let q : BitVec w := (s.rx f.b).setWidth w
    let r := exact op sg p q (s.rx f.b).toNat
    exec (intInstr op f) s = .next (((s.wx f.d (pattern sg w (clamped (f.sat = 1) sg w r))).orFlags
      (intFlags op (f.sat = 1) sg q r)).retire s.cur)

/-- R200: bfx gives, for each bit i of x_D, bit POS + i of x_A where i is below L, and above it the field's top bit for
the signed form of a field that is not empty, and 0 otherwise, bits above 63 reading 0; bfi gives bit i - POS of x_A
where i lies in the field, and bit i of x_C elsewhere. POS is x_B[5:0] and L the smaller of x_B[14:8] and 64; no other
bit of x_B plays a part. Both complete for every operand, and nothing but x_D changes. -/
def Obligations.BitFieldExtractAndInsertByBits : Prop :=
  ∀ (f : RR) (s : State),
    let pos := ((s.rx f.b).extractLsb' 0 6).toNat
    let l := min ((s.rx f.b).extractLsb' 8 7).toNat 64
    (s.Fit (.bfx f) → ∃ r : Word, exec (.bfx f) s = .next ((s.wx f.d r).retire s.cur) ∧
      ∀ i < 64, r.getLsbD i = if i < l then (s.rx f.a).getLsbD (pos + i)
        else (f.ty = 6 && decide (0 < l) && (s.rx f.a).getLsbD (pos + l - 1))) ∧
    (s.Fit (.bfi f) → ∃ r : Word, exec (.bfi f) s = .next ((s.wx f.d r).retire s.cur) ∧
      ∀ i < 64, r.getLsbD i = if pos ≤ i ∧ i < pos + l then (s.rx f.a).getLsbD (i - pos) else (s.rx f.c).getLsbD i)

/-- R201: lea gives x_D := (x_A + x_B * (W/8) + x_C) mod 2^64, and mov gives the low W bits of x_A, sign-extended for a
signed TYPE and zero-extended for an unsigned one. Neither raises a flag, and nothing but x_D changes. -/
def Obligations.AddressSumAndTypedMove : Prop :=
  ∀ (f : RR) (s : State),
    (s.Fit (.lea f) → Completes (.lea f) s (s.wx f.d (s.rx f.a + s.rx f.b * BitVec.ofNat 64 (width f.ty / 8) + s.rx f.c))) ∧
    (s.Fit (.mov f) → Completes (.mov f) s (s.wx f.d (
      if signed f.ty then ((s.rx f.a).setWidth (width f.ty)).signExtend 64 else ((s.rx f.a).setWidth (width f.ty)).setWidth 64)))

/-- R203, R204, R205: cmp writes c_D with EQ, LT, LO and UN of the W-bit operands, whatever the signedness of TYPE; csel
selects x_A or x_B, and setc writes 1 or 0, by the tested condition c_C[BIT] XOR NEG; decz writes c_C with the 64-bit
comparison of x_A against 1 and then x_D with x_A - 1, or 0 where x_A is 0; cmpi compares x_A with the sign-extended
immediate. Nothing else changes. -/
def Obligations.ConditionsSelectAndCount : Prop :=
  ∀ (f : RR) (s : State),
    (s.Fit (.cmp f) → ∃ c : BitVec 4, Completes (.cmp f) s (s.wc (low2 f.d) c) ∧
      let p := (s.rx f.a).setWidth (width f.ty)
      let q := (s.rx f.b).setWidth (width f.ty)
      c.getLsbD 0 = decide (p = q) ∧ c.getLsbD 1 = p.slt q ∧ c.getLsbD 2 = p.ult q ∧ c.getLsbD 3 = false) ∧
    (s.Fit (.csel f) → Completes (.csel f) s
      (s.wx f.d (if (s.rc (low2 f.c)).getLsbD f.rnd.toNat != decide (f.sat = 1) then s.rx f.a else s.rx f.b))) ∧
    (s.Fit (.setc f) → Completes (.setc f) s
      (s.wx f.d (if (s.rc (low2 f.c)).getLsbD f.rnd.toNat != decide (f.sat = 1) then 1 else 0))) ∧
    (s.Fit (.decz f) → ∃ c : BitVec 4, Completes (.decz f) s
        ((s.wc (low2 f.c) c).wx f.d (if s.rx f.a = 0 then 0 else s.rx f.a - 1)) ∧
      c.getLsbD 0 = decide (s.rx f.a = 1) ∧ c.getLsbD 1 = (s.rx f.a).slt 1 ∧ c.getLsbD 2 = decide (s.rx f.a = 0) ∧
      c.getLsbD 3 = false) ∧
    ∀ g : RI, s.Fit (.cmpi g) → ∃ c : BitVec 4, Completes (.cmpi g) s (s.wc (low2 g.d) c) ∧
      c.getLsbD 0 = decide (s.rx g.a = g.imm.signExtend 64) ∧ c.getLsbD 1 = (s.rx g.a).slt (g.imm.signExtend 64) ∧
      c.getLsbD 2 = (s.rx g.a).ult (g.imm.signExtend 64) ∧ c.getLsbD 3 = false

/-- R205: addi adds the sign-extended immediate; andi, ori and xori combine with the zero-extended one; li writes the
sign-extended one; lih replaces the high half of x_A; shli, shri and srai shift by the immediate. Each completes, and
nothing but x_D changes. -/
def Obligations.ImmediateFormsOperateOnAllBits : Prop :=
  ∀ (f : RI) (s : State),
    (s.Fit (.addi f) → Completes (.addi f) s (s.wx f.d (s.rx f.a + f.imm.signExtend 64))) ∧
    (s.Fit (.andi f) → Completes (.andi f) s (s.wx f.d (s.rx f.a &&& f.imm.setWidth 64))) ∧
    (s.Fit (.ori f) → Completes (.ori f) s (s.wx f.d (s.rx f.a ||| f.imm.setWidth 64))) ∧
    (s.Fit (.xori f) → Completes (.xori f) s (s.wx f.d (s.rx f.a ^^^ f.imm.setWidth 64))) ∧
    (s.Fit (.li f) → Completes (.li f) s (s.wx f.d (f.imm.signExtend 64))) ∧
    (s.Fit (.lih f) → Completes (.lih f) s (s.wx f.d (f.imm ++ (s.rx f.a).extractLsb' 0 32))) ∧
    (s.Fit (.shli f) → Completes (.shli f) s (s.wx f.d (s.rx f.a * 2 ^ f.imm.toNat))) ∧
    (s.Fit (.shri f) → Completes (.shri f) s (s.wx f.d (BitVec.ofNat 64 ((s.rx f.a).toNat / 2 ^ f.imm.toNat)))) ∧
    (s.Fit (.srai f) → Completes (.srai f) s (s.wx f.d (BitVec.ofInt 64 ((s.rx f.a).toInt.fdiv (2 ^ f.imm.toNat)))))

/-- R206, R208: Each of the six float operations completes for all operand encodings: x_D takes ROUND_F of the exact
value of the operation on the low W bits of its sources, with zeros above, and FSTAT takes the flags of the special
cases and of the one rounding. No value traps, and nothing else changes. What ROUND_F does is stated apart. -/
def Obligations.FloatArithmeticRoundsOnce : Prop :=
  ∀ (op : FloatOp) (f : RR) (s : State),
    let i : Instr := match op with
      | .add => .fadd f
      | .sub => .fsub f
      | .mul => .fmul f
      | .div => .fdiv f
      | .sqrt => .fsqrt f
      | .fma => .fma f
    let F := fmtOf f.ty.toNat
    let v := floatExact op f.rnd.toNat (F.value (s.rx f.a).toNat) (F.value (s.rx f.b).toNat) (F.value (s.rx f.c).toNat)
    let r := roundF F f.rnd.toNat (f.sat = 1) v.1
    s.Fit i → exec i s = .next (((s.wx f.d (BitVec.ofNat 64 r.1)).orFlags (v.2 ||| r.2)).retire s.cur)

/-- R206, R209, R210: fmin, fmax, fabs and fneg deliver an encoding of TYPE with zeros above it and raise no flag; fcmp
writes c_D with EQ, LT, LO or, for a NaN operand, UN alone; fclass writes one bit of ten; fcvt, ftoi and itof convert
from the type in C with the flags of the conversion. Each completes for all encodings, and nothing else changes. -/
def Obligations.FloatComparisonsClassesAndConversions : Prop :=
  ∀ (f : RR) (s : State),
    let F := fmtOf f.ty.toNat
    let a := (s.rx f.a).toNat
    let b := (s.rx f.b).toNat
    (s.Fit (.fmin f) → Completes (.fmin f) s (s.wx f.d (BitVec.ofNat 64 (F.trim (fminmax F false a b))))) ∧
    (s.Fit (.fmax f) → Completes (.fmax f) s (s.wx f.d (BitVec.ofNat 64 (F.trim (fminmax F true a b))))) ∧
    (s.Fit (.fabs f) → Completes (.fabs f) s (s.wx f.d (BitVec.ofNat 64 (a % 2 ^ F.signBit)))) ∧
    (s.Fit (.fneg f) → Completes (.fneg f) s (s.wx f.d (BitVec.ofNat 64 (Nat.xor (a % 2 ^ (F.signBit + 1)) (2 ^ F.signBit))))) ∧
    (s.Fit (.fcmp f) → ∃ c : BitVec 4, Completes (.fcmp f) s (s.wc (low2 f.d) c) ∧
      c = (if (F.value a).isNan || (F.value b).isNan then 8
        else if cmpVal (F.value a) (F.value b) = .eq then 1 else if cmpVal (F.value a) (F.value b) = .lt then 6 else 0)) ∧
    (s.Fit (.fclass f) → ∃ n < 10, Completes (.fclass f) s (s.wx f.d (BitVec.ofNat 64 (2 ^ n))) ∧
      (8 ≤ n ↔ (F.value a).isNan = true)) ∧
    (∀ i ∈ ([.fcvt f, .ftoi f, .itof f] : List Instr), s.Fit i →
      let r := convert f.c.toNat f.ty.toNat f.rnd.toNat (f.sat = 1) typeWidth a
      Completes i s ((s.wx f.d (if 8 ≤ f.ty.toNat then BitVec.ofNat 64 r.1
        else extend (intSigned f.ty.toNat) (typeWidth f.ty.toNat) r.1)).orFlags r.2))

/-- R178, R184: For every float format, rounding mode and saturation, and every encoding of a finite value, subnormals
and both zeros included: ROUND_F of its value gives the encoding back and raises no flag. So no rounding moves a value
that the format holds, and every finite encoding has its own value. -/
def Obligations.RoundingKeepsAnEncodingsOwnValue : Prop :=
  ∀ ty ∈ ([8, 9, 10, 11, 12, 13, 14] : List Nat), ∀ (rnd : Nat) (sat : Bool) (p : Nat), p < 2 ^ ((fmtOf ty).signBit + 1) →
    ∀ neg m e, (fmtOf ty).value p = .fin neg m e → roundF (fmtOf ty) rnd sat (.fin neg m e) = (p, 0)

/-- R27, R180, R188, R214, R215, R216, R217, R218, R221, R222, R223, R225: For vadd, vsub, vmul, vmulh, vfma, vmin,
vmax, vabs, vneg, vand, vor, vxor, vandn, vshl, vshr, vsra, vdiv, vsqrt, vsel, vcvt, vperm, vlut16, vbcast, vzip,
vunzip, vdot4 and vdot2, with every form of mask, modifier and NARROW, outside a recording: the instruction completes;
in v_D each active lane's slot holds the result of its row computed from the sources as they were (so D may name a
source), each inactive lane's slot and every bit outside the slots keeps its value; a flag is raised exactly where an
active lane raises it; and nothing else changes. That a narrowed float vmin, vmax, vabs or vneg raises the flags of its
rounding (R188), which the flags column of R215 does not list, is the model's reading (assumption 52), and so is that
vsel of TYPE 14 writes bits [7:6] of a lane as 0 (R180, assumption 101). -/
def Obligations.LaneWiseInstructionsWriteActiveLanesOnly : Prop :=
  ∀ e ∈ laneSpecs, ∀ (f : RR) (s : State), s.Fit (e.instr f) → ¬Recording s →
    ∃ (v : Quad) (fl : BitVec 5), exec (e.instr f) s = .next (((s.wv f.d v).orFlags fl).retire s.cur) ∧
      LanesWritten e f s v ∧ LaneFlags e f s fl

/-- R27, R180, R214, R217, R223, R226: Outside a recording: vcmp writes bit i of k_D with the tested condition of each
active lane, keeps the bits of inactive lanes below L and clears those from L up, and has no effect where no lane is
active; vins writes lane x_B mod L if it is active and nothing otherwise, an F6 lane with its bits [7:6] 0, as R180 has
every F6 value written (how that goes with R223's x_A[W−1:0] is the model's reading, assumption 101); vext writes that
lane, extended, to x_D; vred.add, vred.max and vred.min fold the active lanes into x_C and write x_D, and have no effect
where no lane is active. Each completes, and nothing else changes. -/
def Obligations.VectorCompareInsertExtractReduce : Prop :=
  ∀ (f : RR) (s : State), ¬Recording s →
    let w := typeWidth f.ty.toNat
    let l := lanesOf w
    let act (i : Nat) : Bool := active (s.rk f.k) f.kn i
    let some_ := (List.range l).any act
    let j := (s.rx f.b).toNat % l
    (s.Fit (.vcmp f) →
      (some_ = false → Completes (.vcmp f) s s) ∧
      (some_ = true → ∃ m : BitVec 16, Completes (.vcmp f) s (s.wk (low3 f.d) m) ∧
        (∀ i < l, m.getLsbD i = if act i then (laneCond f s i).getLsbD f.rnd.toNat != decide (f.sat = 1)
          else (s.rk (low3 f.d)).getLsbD i) ∧ ∀ i, l ≤ i → m.getLsbD i = false)) ∧
    (s.Fit (.vins f) →
      (act j = false → Completes (.vins f) s s) ∧
      (act j = true → ∃ v : Quad, Completes (.vins f) s (s.wv f.d v) ∧ ∀ b < 128, v.getLsbD b =
        if w * j ≤ b ∧ b < w * j + w then (s.rx f.a).getLsbD (b - w * j) && !(f.ty = 14 && decide (w * j + 6 ≤ b))
        else (s.rv f.d).getLsbD b)) ∧
    (s.Fit (.vext f) → Completes (.vext f) s (s.wx f.d (laneOut f.ty.toNat (lane (s.rv f.a) w j)))) ∧
    (∀ e ∈ ([(.vredAdd f, redAddLanes f), (.vredMax f, fun s ls => (redMinmaxLanes true f s ls, 0)),
        (.vredMin f, fun s ls => (redMinmaxLanes false f s ls, 0))] : List (Instr × (State → List Nat → Nat × BitVec 5))),
      s.Fit e.1 →
        (some_ = false → Completes e.1 s s) ∧
        (some_ = true → let r := e.2 s ((List.range l).filter act)
          Completes e.1 s ((s.wx f.d (laneOut f.ty.toNat r.1)).orFlags r.2)))

/-- R26, R227: kand, kor, kxor, knot and kmov write k_D with the bitwise result; kset writes it with the low 16 bits of
x_A; kpop writes x_D with the number of one bits of k_A and krd with k_A. Each completes and nothing else changes; where
D names k0 or x0 the write is discarded and the instruction retires as otherwise. -/
def Obligations.MaskInstructions : Prop :=
  (∀ (f : RR) (s : State),
    (s.Fit (.kand f) → Completes (.kand f) s (s.wk (low3 f.d) (s.rk (low3 f.a) &&& s.rk (low3 f.b)))) ∧
    (s.Fit (.kor f) → Completes (.kor f) s (s.wk (low3 f.d) (s.rk (low3 f.a) ||| s.rk (low3 f.b)))) ∧
    (s.Fit (.kxor f) → Completes (.kxor f) s (s.wk (low3 f.d) (s.rk (low3 f.a) ^^^ s.rk (low3 f.b)))) ∧
    (s.Fit (.knot f) → Completes (.knot f) s (s.wk (low3 f.d) (~~~ s.rk (low3 f.a)))) ∧
    (s.Fit (.kmov f) → Completes (.kmov f) s (s.wk (low3 f.d) (s.rk (low3 f.a)))) ∧
    (s.Fit (.kset f) → Completes (.kset f) s (s.wk (low3 f.d) ((s.rx f.a).setWidth 16))) ∧
    (s.Fit (.kpop f) → Completes (.kpop f) s
      (s.wx f.d (BitVec.ofNat 64 ((List.range 16).countP fun i => (s.rk (low3 f.a)).getLsbD i)))) ∧
    (s.Fit (.krd f) → Completes (.krd f) s (s.wx f.d ((s.rk (low3 f.a)).setWidth 64)))) ∧
  (∀ (c : Ctx) (w : Word) (m : BitVec 16), c.wx 0 w = c ∧ c.wk 0 m = c ∧ c.rx 0 = 0 ∧ c.rk 0 = 0xFFFF) ∧
  (∀ (c : Ctx) (r q : BitVec 5) (w : Word), q ≠ r → (c.wx r w).rx q = c.rx q) ∧
  (∀ (c : Ctx) (r : BitVec 5) (w : Word), r ≠ 0 → (c.wx r w).rx r = w) ∧
  ∀ (c : Ctx) (r q : BitVec 3) (m : BitVec 16), q ≠ r → (c.wk r m).rk q = c.rk q

/-- R229: While its owner records, every vector instruction of majors 0x30 to 0x32 has the effect that it has outside a
recording and is appended to the queue with its location; where the queue holds 16 instructions, it raises the sequencer
trap (cause 22) with TVAL its word and is neither executed nor queued. -/
def Obligations.RecordingQueuesVectorInstructions : Prop :=
  (∀ e ∈ laneSpecs, ∀ (f : RR) (s : State), s.Fit (e.instr f) → Recording s →
    ((s.core s.myCore).seq.queue.length = 16 → Traps (e.instr f) s 22 (encode (e.instr f)) 0) ∧
    ((s.core s.myCore).seq.queue.length < 16 → ∃ (v : Quad) (fl : BitVec 5),
      exec (e.instr f) s = .next ((queued (e.instr f) s ((s.wv f.d v).orFlags fl)).retire s.cur) ∧
      LanesWritten e f s v ∧ LaneFlags e f s fl)) ∧
  ∀ (f : RR) (s : State), ∀ i ∈ ([.vcmp f, .vins f, .vext f, .vredAdd f, .vredMax f, .vredMin f] : List Instr),
    s.Fit i → Recording s →
      ((s.core s.myCore).seq.queue.length = 16 → Traps i s 22 (encode i) 0) ∧
      ((s.core s.myCore).seq.queue.length < 16 → ∃ t, vectorEff i s = .done t ∧
        exec i s = .next ((queued i s t).retire s.cur))

/-- R110, R111, R228, R229, R230, R232: seq.beg completes for a context that finds the sequencer free and no earlier
sleeper, or owns it with no repetition outstanding, making it the recording owner of an empty queue, and traps in a
handler whose owner's recording is suspended; seq.loop of the owner, with a count of at most 65535, a legal step and no
repetition outstanding, schedules the repetitions and ends the recording, and with it its suspension by a trap (that a
handler's seq.beg then records again is the model's reading of R229 and R230, assumption 116), and a non-owner, a large
count or an illegal step raises the sequencer trap with the value; seq.end of the owner without outstanding repetitions
frees the sequencer, and seq.wait completes; issued by another context both have no effect. A scheduled repetition whose
operands are ready, on a core that runs, with its divider free and the vector unit not used last by the sequencer while
a context wants it, runs its instruction with each stepped vector field at its value plus r times its step modulo 32,
and moves on to the next; where the checker finds a mismatch it does not commit and issues again, and a second mismatch
contains the core; while the owner's own instruction is between its two issues, a mismatch is that instruction's, and
the repetition retires. -/
def Obligations.SequencerOwnershipAndRepetitions : Prop :=
  ∀ (f : RR) (s : State),
    let q := s.mySeq
    (s.Fit (.seqBeg f) →
      (((q.owner = none ∧ s.myTurn (waitsForSeq s) = true) ∨ (q.owner = some s.cur ∧ q.left = 0 ∧ q.suspended = 0)) →
        Completes (.seqBeg f) s (s.setSeq s.myCore { Sequencer.reset with owner := some s.cur, recording := true })) ∧
      (q.owner = some s.cur → q.suspended ≠ 0 → Traps (.seqBeg f) s 22 0 0)) ∧
    (s.Fit (.seqLoop f) →
      (q.owner ≠ some s.cur → Traps (.seqLoop f) s 22 0 0) ∧
      (q.owner = some s.cur → 65535 < (s.rx f.a).toNat → Traps (.seqLoop f) s 22 (s.rx f.a) 0) ∧
      (q.owner = some s.cur → (s.rx f.a).toNat ≤ 65535 → s.rx f.b &&& ~~~(0x1F1F1F1F : Word) ≠ 0 →
        Traps (.seqLoop f) s 22 (s.rx f.b) 0) ∧
      (q.owner = some s.cur → (s.rx f.a).toNat ≤ 65535 → s.rx f.b &&& ~~~(0x1F1F1F1F : Word) = 0 → q.left = 0 →
        Completes (.seqLoop f) s (s.setSeq s.myCore
          { q with recording := false, suspended := 0, reps := (s.rx f.a).toNat, rep := 1, pos := 0, steps := s.rx f.b }))) ∧
    (s.Fit (.seqEnd f) →
      (q.owner ≠ some s.cur → Completes (.seqEnd f) s s) ∧
      (q.owner = some s.cur → q.left = 0 → Completes (.seqEnd f) s (s.setSeq s.myCore .reset))) ∧
    (s.Fit (.seqWait f) → (q.owner ≠ some s.cur ∨ q.left = 0) → Completes (.seqWait f) s s) ∧
    (∀ core k e t, (s.core core).seq.owner = some k → (s.core core).seq.left ≠ 0 →
      (s.core core).seq.queue[(s.core core).seq.pos]? = some e → s.coreRuns core = true →
      ((s.core core).vecLast = some true → s.wantsVector core false = false) →
      let q := (s.core core).seq
      let i := stepped q.steps q.rep e.instr
      (s.core core).dividing i = false →
      s.operandsReady k i = true →
      (((s.ctx k).mismatch = 0 ∨ (s.ctx k).replay = true) → vectorEff i { s with cur := k } = .done t → (∀ r n, (t.ctx k).mode ≠ .exiting r n) →
        exec (.seqRepetition core) s = .next (((t.setSeq core
          (if q.pos + 1 < q.queue.length then { q with pos := q.pos + 1, replay := false }
            else { q with pos := 0, rep := q.rep + 1, replay := false })).useVector core true).updCore core fun c => c.divide (ctxNo k) i)) ∧
      ((s.ctx k).mismatch ≠ 0 → (s.ctx k).replay = false → q.replay = false → exec (.seqRepetition core) s = .next ((((({ s with cur := k } : State).updMe fun c =>
        { c with mismatch := c.mismatch - 1 }).setSeq core { q with replay := true }).useVector core true).updCore core fun c => c.divide (ctxNo k) i)) ∧
      ((s.ctx k).mismatch ≠ 0 → (s.ctx k).replay = false → q.replay = true →
        exec (.seqRepetition core) s = .next (((({ s with cur := k } : State).containEvent core 1).useVector core true).updCore core fun c => c.divide (ctxNo k) i))) ∧
    ∀ steps r, stepped steps r (.vadd f) = .vadd { f with
      d := f.d + BitVec.ofNat 5 (r * (steps.extractLsb' 0 5).toNat), a := f.a + BitVec.ofNat 5 (r * (steps.extractLsb' 8 5).toNat),
      b := f.b + BitVec.ofNat 5 (r * (steps.extractLsb' 16 5).toNat) }

/-- R272, R331, R332, R335, R337: For every context and access: an address in the top 2 MiB names the byte of the
context's own shed's scratchpad and touches no translation cache (that it counts as a raw page is assumption 106); an
address from 2^48 below the window fails with reason 7; and a translation that succeeds outside the window names the
byte at the leaf's page plus the offset inside the page, after every leaf check of R337 passed for the access's
direction: the leaf is valid, grants the access, lies inside the grant, has a key of the function and keeps the durable
rule. -/
def Obligations.AddressesTranslateByRangeAndLeaf : Prop :=
  ∀ (s : State) (k : Nat) (va : Word) (wr : Bool),
    (Config.padWindow ≤ va.toNat → ∃ h, s.translate k va wr = .ok h ∧
      h.loc = padLoc (shedOfCtx k) (va.toNat - Config.padWindow) ∧ h.st = s) ∧
    (2 ^ 48 ≤ va.toNat → va.toNat < Config.padWindow → ∃ r, s.translate k va wr = .error r ∧ r = 7) ∧
    (va.toNat < Config.padWindow → ∀ h, s.translate k va wr = .ok h →
      va.toNat < 2 ^ 48 ∧ pteV h.w0 = true ∧ (if wr then pteW h.w0 else pteR h.w0) = true ∧
      ∃ c level, (s.vf (vfOf (s.gang ((s.gangOfCore (coreOfCtx k)).getD 0)).vfq)).cfg = some c ∧ leafReason c h.w0 level (some wr) = 0 ∧
        c.holds (ptePage h.w0) (pageSize level) = true ∧ c.keys.contains (pteKey h.w0) = true ∧
        h.page ≤ va.toNat ∧ h.loc = ptePage h.w0 + (va.toNat - h.page))

/-- R34, R35, R300, R303, R304: For an address x_A + SEXT(OFFSET) that is a multiple of the access's size and
translates, with ld below 255: ld, ldu and ld.acq complete; a read of the doubleword at the translated place becomes
pending, to deliver the addressed bytes to x_D with sign extension for ld and zeros for the others, as an acquire for
ld.acq; ld counts it. No register, memory byte or other context changes at issue, only the translation caches. -/
def Obligations.ScalarLoadsBecomePendingReads : Prop :=
  ∀ (f : MF) (s : State) (h : Hit),
    s.translate s.cur (s.rx f.a + f.off.signExtend 64) false = .ok h → (s.rx f.a + f.off.signExtend 64).toNat % 2 ^ f.size.toNat = 0 →
    s.me.ld ≠ 255 →
    ∀ e ∈ ([(.ld f, true, false), (.ldu f, false, false), (.ldAcq f, false, true)] : List (Instr × Bool × Bool)), s.Fit e.1 →
      Completes e.1 s ((h.st.pushOp (pteKey h.w0) (pageHint f.hint h.w0)
        (.read (.x f.d (h.loc % 8) (2 ^ f.size.toNat) e.2.1) [h.loc / 8 * 8] [] e.2.2)).updMe fun c => { c with ld := c.ld + 1 })

/-- R27, R191, R192, R194, R300, R305: With no active lane vld and vld.raw complete with no effect. Otherwise, with ld
below 255 and an address that translates: vld.raw at a 16-byte-aligned address, and vld there on a page whose format
holds no groups, complete with a pending read of the one or two doublewords that hold an active byte; vld on a page that
breaks R192 raises the page-format trap; on a decoding page, which has lanes 0 to 7 only, vld without an active lane
among the eight completes with no effect; with one it takes the alignment trap at a misaligned address, and at an
aligned one completes with a pending decoding read of its doubleword, and of the doubleword of its scale where the page
has scales. ld counts each read. -/
def Obligations.VectorLoadsBecomePendingReads : Prop :=
  ∀ (f : MF) (s : State) (h : Hit),
    let ea := s.rx f.a + f.off.signExtend 64
    let m := s.laneMask f
    let p := pageFmt h.w1
    let raw := (h.st.pushOp (pteKey h.w0) (pageHint f.hint h.w0) (.read (.vraw f.d m) (halves h.loc m) [] false)).updMe fun c =>
      { c with ld := c.ld + 1 }
    (m = 0 → (s.Fit (.vld f) → Completes (.vld f) s s) ∧ (s.Fit (.vldRaw f) → Completes (.vldRaw f) s s)) ∧
    (m ≠ 0 → s.me.ld ≠ 255 → s.translate s.cur ea false = .ok h →
      (s.Fit (.vldRaw f) → ea.toNat % 16 = 0 → Completes (.vldRaw f) s raw) ∧
      (s.Fit (.vld f) →
        (pageFmtOk h.w1 = false → Traps (.vld f) s 16 ea 0) ∧
        (pageFmtOk h.w1 = true →
          (p.g ≠ 0 → m.extractLsb' 0 8 = 0#8 → Completes (.vld f) s h.st) ∧
          (p.g = 0 → ea.toNat % 16 = 0 → Completes (.vld f) s raw) ∧
          (p.g = 0 → ea.toNat % 16 ≠ 0 → Traps (.vld f) s 13 ea 0) ∧
          (p.g ≠ 0 → m.extractLsb' 0 8 ≠ 0#8 → ea.toNat % (if p.fmt = 9 then 4 else 8) ≠ 0 → Traps (.vld f) s 13 ea 0) ∧
          (p.g ≠ 0 → ea.toNat % (if p.fmt = 9 then 4 else 8) = 0 → m.extractLsb' 0 8 ≠ 0#8 → p.sc = 0 →
            Completes (.vld f) s ((h.st.pushOp (pteKey h.w0) (pageHint f.hint h.w0)
              (.read (.vdec f.d m p.fmt p.sc p.g (h.loc % 8) 0 (s.slotOf s.myShed p.slot) []) [h.loc / 8 * 8] [] false)).updMe fun c =>
                { c with ld := c.ld + 1 })) ∧
          (p.g ≠ 0 → ea.toNat % (if p.fmt = 9 then 4 else 8) = 0 → m.extractLsb' 0 8 ≠ 0#8 → p.sc ≠ 0 →
            ∀ g, h.st.translate h.st.cur (scaleAddr p h.page (ea.toNat - h.page)) false = .ok g →
            (scaleAddr p h.page (ea.toNat - h.page)).toNat % 8 + PageFmt.z p ≤ 8 →
            Completes (.vld f) s ((g.st.pushOp (pteKey h.w0) (pageHint f.hint h.w0)
              (.read (.vdec f.d m p.fmt p.sc p.g (h.loc % 8) (g.loc % 8) (s.slotOf s.myShed p.slot)
                [(pageHint f.hint g.w0, pteKey g.w0)]) [h.loc / 8 * 8, g.loc / 8 * 8] [] false)).updMe fun c => { c with ld := c.ld + 1 })))))

/-- R34, R292, R300, R303, R304, R305: For an aligned address that translates for writing, with st below 255: st and
st.rel complete with one buffered write of the addressed bytes of x_B, st.rel with its scope and the release set of its
context at that moment; vst with an active lane completes with one buffered write for each half that has one, of the
active bytes of v_B alone, counted once, and with no active lane it has no effect. At issue no byte of memory changes.
-/
def Obligations.StoresEnterTheWriteBuffer : Prop :=
  ∀ (f : MF) (s : State) (h : Hit),
    let ea := s.rx f.a + f.off.signExtend 64
    let n := 2 ^ f.size.toNat
    let count (t : State) : State := t.updMe fun c => { c with st := c.st + 1 }
    s.translate s.cur ea true = .ok h → s.me.st ≠ 255 →
    (ea.toNat % n = 0 → s.Fit (.st f) → Completes (.st f) s (count (h.st.pushOp (pteKey h.w0) (pageHint f.hint h.w0)
      (.write (h.loc / 8 * 8) (byteMask (h.loc % 8) n) (s.rx f.b <<< (8 * (h.loc % 8))) none none [])))) ∧
    (ea.toNat % n = 0 → s.Fit (.stRel f) → Completes (.stRel f) s (count (h.st.pushOp (pteKey h.w0) (pageHint f.hint h.w0)
      (.write (h.loc / 8 * 8) (byteMask (h.loc % 8) n) (s.rx f.b <<< (8 * (h.loc % 8))) none (some f.scope)
        (h.st.releaseSet s.cur))))) ∧
    (s.laneMask f = 0 → s.Fit (.vst f) → Completes (.vst f) s s) ∧
    (s.laneMask f ≠ 0 → ea.toNat % 16 = 0 → s.Fit (.vst f) → ∃ t, Completes (.vst f) s (count t) ∧ SameBytes s t ∧
      (t.ctx s.cur).ops.map (·.kind) = (h.st.ctx s.cur).ops.map (·.kind) ++
        (if (s.laneMask f).extractLsb' 0 8 = 0#8 then [] else
          [.write h.loc ((s.laneMask f).extractLsb' 0 8) ((s.rv f.b).extractLsb' 0 64) none none []]) ++
        (if (s.laneMask f).extractLsb' 8 8 = 0#8 then [] else
          [.write (h.loc + 8) ((s.laneMask f).extractLsb' 8 8) ((s.rv f.b).extractLsb' 64 64) none none []]))

/-- R46, R300, R303, R355: With its counter below 255, ld, ldu, ld.acq, st, st.rel, vld.raw and vst with an active lane,
waita, every amo and every red at an address that is not a multiple of the access's size take the alignment trap (cause
13) with TVAL the effective address; where the address is aligned and its translation fails, the instruction is referred
or traps as R355 and R358 give, or, where its walk cannot end yet (R336), it stays STALLED and its miss joins that walk
or the quarter's queue. With its counter at 255 each of them sleeps at issue and changes nothing else. -/
def Obligations.MisalignedAccessesTrapAndFullCountersWait : Prop :=
  ∀ (f : MF) (s : State),
    let ea := s.rx f.a + f.off.signExtend 64
    let ldForms : List (Instr × Nat × Bool) := [(.ld f, 2 ^ f.size.toNat, false), (.ldu f, 2 ^ f.size.toNat, false),
      (.ldAcq f, 2 ^ f.size.toNat, false), (.waita f, 8, false)] ++
      ([.amoAdd f, .amoAnd f, .amoOr f, .amoXor f, .amoMin f, .amoMax f, .amoMinu f, .amoMaxu f, .amoSwap f, .amoCas f] :
        List Instr).map fun i => (i, 2 ^ f.size.toNat, true)
    let stForms : List (Instr × Nat × Bool) := [(.st f, 2 ^ f.size.toNat, true), (.stRel f, 2 ^ f.size.toNat, true)] ++
      ([.redAdd f, .redAnd f, .redOr f, .redXor f, .redMin f, .redMax f, .redMinu f, .redMaxu f] : List Instr).map fun i =>
        (i, 2 ^ f.size.toNat, true)
    let vecForms : List (Instr × Nat × Bool) := [(.vldRaw f, 16, false), (.vst f, 16, true)]
    let count (e : Instr × Nat × Bool) : BitVec 8 := if e ∈ stForms ∨ e.1 = .vst f then s.me.st else s.me.ld
    ∀ e ∈ ldForms ++ stForms ++ vecForms, s.Fit e.1 → (e ∈ vecForms → s.laneMask f ≠ 0) →
      (count e ≠ 255 → ea.toNat % e.2.1 ≠ 0 → Traps e.1 s 13 ea 0) ∧
      (count e ≠ 255 → ea.toNat % e.2.1 = 0 → ∀ r, s.translate s.cur ea e.2.2 = .error r →
        exec e.1 s = .next (if r = walkWaits then s.missOf s.cur ea e.2.2 else s.pageFault ea r e.2.2)) ∧
      (count e = 255 → Sleeps e.1 s (.again e.1) s)

/-- R355, R358: For a failed translation of an instruction: a supervisor context takes the trap of cause 15 with TVAL
the address and TINFO the reason; a context of a function without a supervisor gang takes cause 30 in the same form; any
other context falls asleep at the instruction with one open referral that names its function, address, reason,
direction, core and context, and nothing of memory changes. -/
def Obligations.FailedTranslationsAreReferredOrTrap : Prop :=
  ∀ (s : State) (va : Word) (reason : Nat) (wr : Bool),
    (s.me.sup = true → s.pageFault va reason wr = s.takeTrap s.cur 15 false va (BitVec.ofNat 8 reason)) ∧
    (s.me.sup = false → s.supervisor s.myVf = none →
      s.pageFault va reason wr = s.takeTrap s.cur 30 false va (BitVec.ofNat 8 reason)) ∧
    (s.me.sup = false → s.supervisor s.myVf ≠ none →
      ((s.pageFault va reason wr).ctx s.cur).mode = .asleep (.fault s.next) ∧
      (∃ r, (s.pageFault va reason wr).refs.get? s.next = some r ∧ r.vf = s.myVf ∧ r.va = va ∧ r.work = 0 ∧ r.key = s.cur ∧
        r.detail = faultDetail reason wr false false false 0 (ctxNo s.cur) ((s.gang s.myGang).lcore s.myCore) 0 ∧ r.slot = none) ∧
      SameBytes s (s.pageFault va reason wr))

/-- R46, R273, R292, R306: For ld.f, ld.fe, st.ef, st.f, tag.set and tag.clr: an address below the scratchpad window
raises the tag-range trap (cause 14) with TVAL the address, and one that is not a multiple of 8 the alignment trap.
Otherwise, with the counter below 255: st.f, tag.set and tag.clr complete with a buffered write or tag change, st.f as a
release at .shed; ld.f and ld.fe sleep while the tag is empty, and on a full tag that no earlier sleeper waits for and
no order rule holds, of a word without poison, deliver the word's value to x_D, ld.fe emptying the tag; st.ef sleeps
while the tag is full, and on an empty one writes exactly the eight bytes of the word in its own quarter's view and
fills the tag. -/
def Obligations.TaggedScratchpadAccesses : Prop :=
  ∀ (f : MF) (s : State),
    let ea := s.rx f.a + f.off.signExtend 64
    let loc := padLoc s.myShed (ea.toNat - Config.padWindow)
    let o (k : OpKind) : Op := { moveAs s.next with kind := k }
    let may (k : OpKind) : Bool := s.mayMove s.cur (o k) && s.mayMove s.cur (readAs s.next loc)
    let wr := o (.write loc 0xFF (s.rx f.b) (some true) (some 2) (s.releaseSet s.cur))
    (∀ i ∈ ([.ldF f, .ldFe f, .stEf f, .stF f, .tagSet f, .tagClr f] : List Instr), s.Fit i →
      (ea.toNat < Config.padWindow → Traps i s 14 ea 0) ∧
      (Config.padWindow ≤ ea.toNat → ea.toNat % 8 ≠ 0 → Traps i s 13 ea 0)) ∧
    (Config.padWindow ≤ ea.toNat → ea.toNat % 8 = 0 →
      (s.Fit (.stF f) → s.me.st ≠ 255 → Completes (.stF f) s ((s.pushOp 0 0 wr.kind).updMe fun c => { c with st := c.st + 1 })) ∧
      (s.Fit (.tagSet f) → s.me.st ≠ 255 → Completes (.tagSet f) s ((s.pushOp 0 0 (.tag loc true)).updMe fun c => { c with st := c.st + 1 })) ∧
      (s.Fit (.tagClr f) → s.me.st ≠ 255 → Completes (.tagClr f) s ((s.pushOp 0 0 (.tag loc false)).updMe fun c => { c with st := c.st + 1 })) ∧
      (s.me.ld ≠ 255 → s.tag loc = false → (s.Fit (.ldF f) → Sleeps (.ldF f) s (.again (.ldF f)) s) ∧
        (s.Fit (.ldFe f) → Sleeps (.ldFe f) s (.again (.ldFe f)) s)) ∧
      (s.me.ld ≠ 255 → s.tag loc = true → s.myTurn (sameTag s loc true) = true → s.readPoisoned s.cur s.next loc 0xFF = false →
        (s.Fit (.ldF f) → may (.read (.x f.d 0 8 false) [loc] [] true) = true → ∃ t, Completes (.ldF f) s t ∧
          t.rx f.d = (if f.d = 0 then 0 else s.readVal s.cur s.next 0 loc) ∧
          t.tag loc = true ∧ SameBytes s t ∧ ∀ r, r ≠ f.d → t.rx r = s.rx r) ∧
        (s.Fit (.ldFe f) → may (.tag loc false) = true → ∃ t, Completes (.ldFe f) s t ∧
          t.rx f.d = (if f.d = 0 then 0 else s.readVal s.cur s.next 0 loc) ∧ t.tag loc = false ∧ SameBytes s t ∧
          ∀ r, r ≠ f.d → t.rx r = s.rx r)) ∧
      (s.me.st ≠ 255 → s.tag loc = true → s.Fit (.stEf f) → Sleeps (.stEf f) s (.again (.stEf f)) s) ∧
      (s.me.st ≠ 255 → s.tag loc = false → s.mayMove s.cur wr = true → s.myTurn (sameTag s loc false) = true → s.Fit (.stEf f) →
        (s.memQ s.myQtr).wf = true → ∃ t, Completes (.stEf f) s t ∧ t.tag loc = true ∧
          (∀ i < 8, t.byteQ s.myQtr (loc + i) = (s.rx f.b).extractLsb' (8 * i) 8) ∧
          (∀ q a, (q % 4 ≠ s.myQtr % 4 ∨ a < loc ∨ loc + 8 ≤ a) → t.byteQ q a = s.byteQ q a) ∧
          ∀ r, t.rx r = s.rx r))

/-- R279, R308, R309: pref completes whether or not its address translates, and changes only line states, translation
caches, injected errors of its line, which it corrects and logs, and, by the merge of R279, doublewords of which a
quarter holds a partial; flush and inv, with st below 255, complete with no effect where the address does not translate
or names the scratchpad, and otherwise with a buffered operation on the line at their scope, counted in st. While its
walk cannot end (R336) each stays STALLED, and its miss joins that walk or the quarter's queue. None changes another
byte of memory or a register. -/
def Obligations.CacheControlMovesNoData : Prop :=
  ∀ (f : MF) (s : State),
    let ea := s.rx f.a + f.off.signExtend 64
    (s.Fit (.pref f) → s.translate s.cur ea false ≠ .error walkWaits → ∃ t, Completes (.pref f) s t ∧
      (∀ q a, (∀ b, b ≤ a → a < b + 8 → s.hasPartial b = false) → t.byteQ q a = s.byteQ q a) ∧ ∀ k, t.ctx k = s.ctx k) ∧
    (s.Fit (.pref f) → s.translate s.cur ea false = .error walkWaits → exec (.pref f) s = .next (s.missOf s.cur ea false)) ∧
    ∀ e ∈ ([(.flush f, false), (.inv f, true)] : List (Instr × Bool)), s.Fit e.1 → s.me.st ≠ 255 →
      (∀ r, s.translate s.cur ea false = .error r → r ≠ walkWaits → Completes e.1 s s) ∧
      (s.translate s.cur ea false = .error walkWaits → exec e.1 s = .next (s.missOf s.cur ea false)) ∧
      (∀ h, s.translate s.cur ea false = .ok h → isPad h.loc = true → Completes e.1 s h.st) ∧
      (∀ h, s.translate s.cur ea false = .ok h → isPad h.loc = false → Completes e.1 s
        ((h.st.pushOp (pteKey h.w0) 0 (.line e.2 (lineOf h.loc) f.scope)).updMe fun c => { c with st := c.st + 1 }))

/-- R300, R310, R311, R312: For an aligned address that translates for writing: each amo, with ld below 255, completes
with a pending atomic of its operation on the element, with operand x_B, compare value x_C, destination x_D and its
scope; each red, with st below 255, completes with a buffered reduction on a page that allows it, and with an atomic
that returns nothing on another page or in the scratchpad. No register and no byte of memory changes at issue. -/
def Obligations.AtomicsAndReductionsBecomePending : Prop :=
  ∀ (f : MF) (s : State) (h : Hit),
    let ea := s.rx f.a + f.off.signExtend 64
    let n := 2 ^ f.size.toNat
    let dw := h.loc / 8 * 8
    s.translate s.cur ea true = .ok h → ea.toNat % n = 0 →
    (s.me.ld ≠ 255 → ∀ e ∈ ([(.amoAdd f, .add), (.amoAnd f, .and), (.amoOr f, .or), (.amoXor f, .xor), (.amoMin f, .min),
        (.amoMax f, .max), (.amoMinu f, .minu), (.amoMaxu f, .maxu), (.amoSwap f, .swap), (.amoCas f, .cas)] :
        List (Instr × AmoFn)), s.Fit e.1 →
      Completes e.1 s ((h.st.pushOp (pteKey h.w0) 0 (.amo e.2 dw (h.loc % 8) n (s.rx f.b) (s.rx f.c) (some f.d) f.scope
        (h.st.releaseSet s.cur) none)).updMe fun c => { c with ld := c.ld + 1 })) ∧
    (s.me.st ≠ 255 → ∀ e ∈ ([(.redAdd f, .add), (.redAnd f, .and), (.redOr f, .or), (.redXor f, .xor), (.redMin f, .min),
        (.redMax f, .max), (.redMinu f, .minu), (.redMaxu f, .maxu)] : List (Instr × AmoFn)), s.Fit e.1 →
      Completes e.1 s ((h.st.pushOp (pteKey h.w0) (pageHint 0 h.w0) (if !isPad h.loc && pteCom h.w0 then .red e.2 dw (h.loc % 8) n (s.rx f.b)
        else .amo e.2 dw (h.loc % 8) n (s.rx f.b) 0 none 0 [] none)).updMe fun c => { c with st := c.st + 1 }))

/-- R279, R282, R286, R288, R292, R297, R300: When a context's buffered write may move and no reduction holds it,
PERFORM gives the memory of the context's quarter exactly the bytes of the write, and no other byte of any quarter
changes, but where the line was encrypted under another key than the page's, whose other bytes become what they decrypt
to (assumption 41), and where the access evicts a line of a partial from a full level-two slice, whose merge writes its
doublewords; the write is then visible at that quarter alone, remembers the writes that were visible there before,
carries what it releases, has its place in coherence order if that quarter is its home, and is pending no more; st falls
when it was the last of its instruction; and no register changes. Buffered tag changes and yard writes take their own
effect in the same way, and line operations and injected errors move too; none of these changes a byte. -/
def Obligations.PerformMovesABufferedWriteIntoItsQuarter : Prop :=
  ∀ (s : State) (k op : Nat) (o : Op), (s.ctx k).findOp op = some o → op < s.next → s.mayMove k o = true → s.performable k o = true →
    let q := qtrOfCtx k
    let g := (s.gangOfCore (coreOfCtx k)).getD 0
    (∀ loc mask val tag rel set, o.kind = .write loc mask val tag rel set → (s.memQ q).wf = true →
      ∃ t, exec (.perform k op) s = .next t ∧ StoresButMerges (s.encrypt o.key loc) t q loc mask val ∧
        (s.SameKey o.key loc → SameBytes s (s.encrypt o.key loc)) ∧ SameRegs s t ∧ (t.ctx k).findOp op = none ∧
        (∀ f, tag = some f → t.tag loc = f) ∧
        ((t.ctx k).st = if (s.ctx k).st = 0 ∨ (s.ctx k).ops.any (fun p => p.id != op && p.grp == o.grp) = true then (s.ctx k).st
          else (s.ctx k).st - 1) ∧
        ∃ w, t.writeAt op = some w ∧ w.loc = loc ∧ w.mask = mask ∧ w.val = val ∧ w.vis = qbit q ∧ w.inbox = 0 ∧ w.cp = s.vis q ∧
          w.rel = s.relOf k o ∧ (w.co.isSome = true ↔ home loc = q)) ∧
    ((∀ loc mask val tag rel set, o.kind ≠ .write loc mask val tag rel set) →
      ∃ t, exec (.perform k op) s = .next t ∧ SameBytes s t ∧ SameRegs s t ∧ (t.ctx k).findOp op = none ∧
        (∀ loc full, o.kind = .tag loc full → t.tag loc = full) ∧
        (∀ n i v m a, o.kind = .yardEntry n i v m a → ((t.gang g).yard n).staging.entries.get? i.toNat = some (v, m, a) ∧
          ((t.gang g).yard n).cur = ((s.gang g).yard n).cur ∧ ((t.gang g).yard n).staging.fallback = ((s.gang g).yard n).staging.fallback) ∧
        (∀ n a, o.kind = .yardFallback n a → ((t.gang g).yard n).staging.fallback = a ∧
          ((t.gang g).yard n).cur = ((s.gang g).yard n).cur ∧ ((t.gang g).yard n).staging.entries = ((s.gang g).yard n).staging.entries))

/-- R284, R288, R298: PROPAGATE puts a write into the inbox of a quarter, and changes nothing else, where that is
allowed: never of a write that its home quarter does not hold yet, but to that home. APPLY is allowed only once every
write that the write comes after is visible at the quarter; it then makes the write visible there, and changes exactly
its bytes, at home all of them, elsewhere those of which the quarter holds no write later in coherence order; that a
write of the quarter's own which has not reached its home yet, and so has no place in that order, counts as later there
is the model's choice (assumption 6); no other byte of any quarter and no register changes, but that an atomic whose
write reaches its own quarter delivers the old value to its register. -/
def Obligations.WritesReachOtherQuartersThroughTheirHome : Prop :=
  ∀ (s : State) (id q : Nat) (w : WriteRec), s.writeAt id = some w →
    (s.mayPropagate id q = true → exec (.propagate id q) s = .next (s.setWrite id { w with inbox := w.inbox ||| qbit q })) ∧
    (home w.loc ≠ q → w.vis.getLsbD (home w.loc) = false → exec (.propagate id q) s = .next s) ∧
    (s.allVis q w.cp = false → exec (.apply id q) s = .next s) ∧
    (s.mayApply id q = true → (s.memQ q).wf = true →
      ∃ t, exec (.apply id q) s = .next t ∧ Stores s t q w.loc (if home w.loc = q then w.mask else s.applyMask q w) w.val ∧
        (∀ b < 8, (s.applyMask q w).getLsbD b = true ↔ w.mask.getLsbD b = true ∧ s.heldLater q w.loc b (w.co.getD 0) = false) ∧
        (∃ w', t.writeAt id = some w' ∧ w'.vis = w.vis ||| qbit q ∧ w'.val = w.val ∧ w'.mask = w.mask ∧ w'.loc = w.loc) ∧
        ((s.ctxs.all fun e => e.2.ops.all fun o => o.id != id) = true → t.ctxs = s.ctxs) ∧
        ∀ k o fn loc off size b c d sc set old,
          s.ctxs.find? (fun e => qtrOfCtx e.1 = q && e.2.ops.any (·.id == id)) = some (k, s.ctx k) →
          (s.ctx k).findOp id = some o → o.kind = .amo fn loc off size b c (some d) sc set (some old) →
          (t.ctx k).rx d = (if d = 0 then 0 else extend false (8 * size) (subValue old off size)) ∧ (t.ctx k).findOp id = none ∧
          ∀ r, r ≠ d → (t.ctx k).rx r = (s.ctx k).rx r)

/-- R288, R300, R304, R305, R314, R339: When a part of a pending read may be taken and consumes no poison, READ takes
each byte of its doubleword from the newest earlier buffered write of the context that holds it, and otherwise from the
memory of the context's quarter, as the key slot of its page decrypts it; a plain load that reads ahead of an earlier
waita, as R314 allows, takes it from that memory as it was when the waita read, under what the context had buffered then
(which value an early read takes is the model's choice, assumption 89). While parts are missing the value is kept with
the read; the last part writes the destination register, ends the operation and lets ld fall. No byte of memory changes
but by the merge of a line that the read evicts, and no register but the destination: for a scalar load the addressed
bytes, sign- or zero-extended, and x0 stays 0. -/
def Obligations.ReadsDeliverWhatTheirQuarterHolds : Prop :=
  ∀ (s : State) (k op part : Nat) (o : Op) (dst : Dest) (locs : List Nat) (got : Table Word) (acq : Bool) (loc : Nat),
    (s.ctx k).findOp op = some o → o.kind = .read dst locs got acq → s.readable k o part = some loc →
    s.readPoisoned k op loc (neededBytes dst part locs) = false →
    let slot := (dst.how part (o.hint, o.key)).2
    let val := match s.readsAhead k o loc with
      | none => s.readVal k op slot loc
      | some a => forwardOver (s.ctx k).ops op loc (Memory.dword a.mem loc)
    let got1 := got.put part val
    (∀ b < 8, (s.readVal k op slot loc).extractLsb' (8 * b) 8 =
      (forwarded (s.ctx k).ops op loc b).getD ((s.plain slot (qtrOfCtx k) loc).extractLsb' (8 * b) 8)) ∧
    (s.SameKey slot loc → ∀ b < 8, (s.plain slot (qtrOfCtx k) loc).extractLsb' (8 * b) 8 = s.byteQ (qtrOfCtx k) (loc + b)) ∧
    ((s.ctx k).ahead = none → s.readsAhead k o loc = none) ∧
    ∃ t, exec (.read k op part) s = .next t ∧ SameButMerges s t ∧ (∀ j, j ≠ k → t.ctx j = s.ctx j) ∧
      (got1.length ≠ locs.length → SameRegs s t ∧ ∃ p, (t.ctx k).findOp op = some p ∧ p.kind = .read dst locs got1 acq) ∧
      (got1.length = locs.length → (t.ctx k).findOp op = none ∧
        (t.ctx k).ld = (if (s.ctx k).ld = 0 then 0 else (s.ctx k).ld - 1) ∧
        (t.ctx k).x = ((s.ctx k).deliver dst (got1.map (·.2))).x ∧ (t.ctx k).v = ((s.ctx k).deliver dst (got1.map (·.2))).v ∧
        (t.ctx k).k = (s.ctx k).k ∧ (t.ctx k).c = (s.ctx k).c ∧ (t.ctx k).fstat = (s.ctx k).fstat ∧
        (t.ctx k).mode = (s.ctx k).mode ∧ (t.ctx k).pc = (s.ctx k).pc ∧
        ∀ r off size sext, dst = .x r off size sext → locs.length = 1 → got = [] →
          (t.ctx k).rx r = (if r = 0 then 0 else extend sext (8 * size) (subValue val off size)) ∧
          ∀ r', r' ≠ r → (t.ctx k).rx r' = (s.ctx k).rx r')

/-- R278, R279, R282, R288, R296, R310, R311, R312: When an atomic may be taken and its doubleword holds no poison,
ATOMIC writes exactly the addressed bytes at the home quarter with the operation applied to the value there; one without
a result ends, one with a result delivers the old value at once where its own quarter is home, and otherwise keeps it
until its write is visible. Bytes change as their key says where the line was encrypted under another key (assumption
41), and by the merge of a line of a partial that the access evicts from a full level-two slice. REDUCE combines its
operand into its element of its quarter's partial, which starts at the identity, and changes no byte unless a partial of
another operation or size is merged first or a line is evicted with its partial. MERGE applies the partials of all
quarters to each doubleword at its home, leaves none of that line, and changes no byte outside it. -/
def Obligations.AtomicsAndReductionsCombineAtTheHome : Prop :=
  (∀ (s : State) (k op : Nat) (o : Op) (fn : AmoFn) (loc off size : Nat) (b c : Word) (ret : Option (BitVec 5)) (sc : BitVec 3)
      (set : List Nat), (s.ctx k).findOp op = some o → o.kind = .amo fn loc off size b c ret sc set none →
    s.atomicReady k o loc = true → s.poisoned (home loc) loc = false → (s.memQ (home loc)).wf = true →
    let old := s.plain o.key (home loc) loc
    let new := amoNew fn (8 * size) (subValue old off size) (b.toNat % 2 ^ (8 * size)) (c.toNat % 2 ^ (8 * size))
    ∃ t, exec (.atomic k op) s = .next t ∧ StoresButMerges (s.encrypt o.key loc) t (home loc) loc (byteMask off size) (putValue old off size new) ∧
      (s.SameKey o.key loc → SameBytes s (s.encrypt o.key loc) ∧ old = s.readQ (home loc) loc) ∧
      (ret = none → (t.ctx k).findOp op = none ∧ SameRegs s t) ∧
      (∀ d, ret = some d → home loc ≠ qtrOfCtx k → SameRegs s t ∧
        ∃ p, (t.ctx k).findOp op = some p ∧ p.kind = .amo fn loc off size b c ret sc set (some old)) ∧
      (∀ d, ret = some d → home loc = qtrOfCtx k → (∀ e ∈ s.ctxs, e.1 ≠ k → ∀ p ∈ e.2.ops, p.id ≠ op) →
        (t.ctx k).findOp op = none ∧ (t.ctx k).rx d = (if d = 0 then 0 else extend false (8 * size) (subValue old off size)) ∧
        ∀ r, r ≠ d → (t.ctx k).rx r = (s.ctx k).rx r)) ∧
  (∀ (s : State) (k op : Nat) (o : Op) (fn : AmoFn) (loc off size : Nat) (b : Word),
    (s.ctx k).findOp op = some o → o.kind = .red fn loc off size b → s.mayMove k o = true →
    let old := (s.partialsQ (qtrOfCtx k)).get? (lineOf loc)
    let keep := old.isNone || old.any (fun p => p.fn = fn && p.size = size)
    let base := if keep then (old.bind fun p => p.dws.get? loc).getD (identityWord fn size) else identityWord fn size
    ∃ t p, exec (.reduce k op) s = .next t ∧ (t.ctx k).findOp op = none ∧ SameRegs s t ∧ (keep = true → s.SameKey o.key loc → loc % 8 = 0 →
      ((∀ r d, ((s.l2Q r).filter fun e => e.2.at_ r e.1 = d).length < sliceLines) → SameBytes s t) ∧
      ∀ r a, ¬s.Mergeable a → a < lineOf loc ∨ lineOf loc + 64 ≤ a → t.byteQ r a = s.byteQ r a) ∧
      (t.partialsQ (qtrOfCtx k)).get? (lineOf loc) = some p ∧ p.fn = fn ∧ p.size = size ∧
      p.dws.get? loc = some (putValue base off size (amoNew fn (8 * size) (subValue base off size) (b.toNat % 2 ^ (8 * size)) 0))) ∧
  ∀ (s : State) (line : Nat), s.memoryWf = true → ((List.range 4).any fun q => ((s.partialsQ q).get? (lineOf line)).isSome) = true →
    ∃ t, exec (.merge line) s = .next t ∧ t.ctxs = s.ctxs ∧ (∀ q, (t.partialsQ q).get? (lineOf line) = none) ∧
      (∀ q a, a < lineOf line ∨ lineOf line + 64 ≤ a → t.byteQ q a = s.byteQ q a) ∧
      ∀ i < 8, s.hasPartial (lineOf line + 8 * i) = true →
        t.readQ (home (lineOf line + 8 * i)) (lineOf line + 8 * i) =
          (List.range 4).foldl (fun w q => match (s.partialsQ q).get? (lineOf line) with
            | none => w
            | some p => match p.dws.get? (lineOf line + 8 * i) with
              | none => w
              | some d => applyPartial p w d) (s.readQ (home (lineOf line + 8 * i)) (lineOf line + 8 * i))

/-- R288, R297, R318, R320, R321, R395: A unit of a copying operation that is due, whose index, sources and destinations
all translate and which no remote side refuses, on a core whose gang runs, with destinations in memory under the keys of
their pages, moves whole: each destination doubleword in the package takes the value read for it, or its sum with what
stands there where the operation accumulates, no other byte changes, and the unit counts as moved. A unit of a digest
adds its bytes to the message. FLAG, once every unit has moved and what the operation releases is complete, ends the
operation: cp falls, the completion counter named rises by one, a digest's four result doublewords are written, once
every quarter has all that their homes have in view (that they then go into view everywhere at once is the model's
choice, assumption 125), and then the signal: an arrival word of a scratchpad with its tag full, or the flag word of
wsig, set or added to. No register changes. What SHA3-256 of a message is comes from outside the spec (assumption 48).
-/
def Obligations.EngineUnitsMoveBytesAndSignalLast : Prop :=
  ∀ (s : State) (op unit : Nat) (e : EngOp), s.ord.engines.get? op = some e → s.memoryWf = true → s.coreRuns e.core = true → e.refused = false →
    (¬e.moved.contains unit = true → (∀ p ∈ e.parked, p.1 ≠ unit) → unit < engUnits e → s.engReady op e = true →
      s.refusesUnit e = false →
      (e.func ≠ 6 → ∀ idx bad s1 vs s2 (ls : List (Option (Nat × Nat))) s3, s.engIndex op e unit = .ok (idx, bad) s1 →
        s1.engRead op e (s.srcSide e) (unitSpan e unit idx).1 ((unitPart e unit).2.2 / 8) = .ok vs s2 →
        s2.engDsts e (s.dstSide e) (dAccum e.desc) (unitSpan e unit idx).2 ((unitPart e unit).2.2 / 8) = .ok ls s3 →
        s.PlainDsts ls → (∀ (i j loc a b : Nat), ls[i]? = some (some (loc, a)) → ls[j]? = some (some (loc, b)) → i = j) →
        ∃ t, exec (.engineStep op unit) s = .next t ∧ SameRegs s t ∧
          (∃ x, t.ord.engines.get? op = some x ∧ x.moved = e.moved ++ [unit]) ∧
          (∀ (i loc slot : Nat) v, ls[i]? = some (some (loc, slot)) → vs[i]? = some v →
            t.readQ (home loc) loc = if dAccum e.desc then s.readQ (home loc) loc + v.1 else v.1) ∧
          ∀ q a, (∀ loc slot, some (loc, slot) ∈ ls → ¬(q % 4 = home loc % 4 ∧ loc ≤ a ∧ a < loc + 8)) → t.byteQ q a = s.byteQ q a) ∧
      (e.func = 6 → unit = e.moved.length → ∀ vs s2, s.engRead op e .near (unitSpan e unit 0).1 ((unitPart e unit).2.2 / 8) = .ok vs s2 →
        ∃ t x, exec (.engineStep op unit) s = .next t ∧ SameBytes s t ∧ SameRegs s t ∧ t.ord.engines.get? op = some x ∧
          x.moved = e.moved ++ [unit] ∧ x.hash = e.hash ++ vs.flatMap fun v => wordBytes v.1)) ∧
    (engUnits e ≤ e.moved.length → e.parked = [] → e.set.all (s.complete e.ctx 4) = true →
      e.writes.all (s.complete e.ctx 4) = true → (e.func = 5 → s.refusesUnit e = false) →
      let ends (t : State) : Prop := t.ord.engines.get? op = none ∧ (∀ k, (t.ctx k).x = (s.ctx k).x ∧ (t.ctx k).v = (s.ctx k).v) ∧
        (t.ctx e.ctx).cp = (if (s.ctx e.ctx).cp = 0 then 0 else (s.ctx e.ctx).cp - 1) ∧
        (t.core e.core).cc = if dCnt e.desc then (s.core e.core).cc.set (dCci e.desc) ((s.core e.core).cc[dCci e.desc] + 1)
          else (s.core e.core).cc
      let pad := padLoc (if e.func = 4 then e.far else shedOfCore e.core) e.desc.sig.toNat
      (dArr e.desc = true → e.func ≠ 6 → imageOf pad = none → (s.memQ (home pad)).wf = true → s.SameKey 0 pad → ∃ t, exec (.flag op) s = .next t ∧ ends t ∧ Stores s t (home pad) pad 0xFF e.desc.sigval ∧
        t.tag pad = true) ∧
      (dArr e.desc = false → e.func ≠ 5 → e.func ≠ 6 → ∃ t, exec (.flag op) s = .next t ∧ ends t ∧ SameBytes s t) ∧
      (e.func = 6 → ∀ l0 l1 l2 l3 s2, s.engDsts e .near false e.desc.dst 4 = .ok [some l0, some l1, some l2, some l3] s2 →
        s.PlainDsts [some l0, some l1, some l2, some l3] → [l0.1, l1.1, l2.1, l3.1].Nodup →
        (dArr e.desc = true → imageOf pad = none ∧ ∀ l ∈ [l0, l1, l2, l3], pad + 8 ≤ l.1 ∨ l.1 + 8 ≤ pad) →
        ([l0, l1, l2, l3].all (fun l => s2.maySpread l.1) = false → exec (.flag op) s = .next (s.withWalks s2)) ∧
        ([l0, l1, l2, l3].all (fun l => s2.maySpread l.1) = true → ∃ t, exec (.flag op) s = .next t ∧ ends t ∧ (dArr e.desc = true → t.tag pad = true) ∧
          [l0, l1, l2, l3].map (fun l => t.readQ (home l.1) l.1) = Sha3.digest e.hash)) ∧
      (dArr e.desc = false → e.func = 5 → ∀ loc slot s1, s.engDsts e (s.dstSide e) (dSigadd e.desc) e.desc.sig 1 = .ok [some (loc, slot)] s1 →
        s.PlainDsts [some (loc, slot)] →
        ∃ t, exec (.flag op) s = .next t ∧ ends t ∧
          Stores s t (home loc) loc 0xFF (if dSigadd e.desc then s.readQ (home loc) loc + e.desc.sigval else e.desc.sigval)))

/-- R271, R288, R298, R385, R386, R389: DURABLE of a write of the durable space that its home quarter holds, with no
reduction of its doubleword outstanding, to a copy whose layer works, changes in that copy exactly the write's bytes for
which the copy holds no later write, and in the other copy and every quarter nothing; the write then counts as taken by
that copy. DURABLE_WRITEBACK makes every such write of the line taken by both copies. A lighthouse layer leaves service
at once, its return begins a resync, and at the end of the resync the copies that the layer holds equal their other
copies and it is in service again; a doubleword of which the layer held the last copy without an error is poisoned. No
register and no byte that a quarter reads changes in any of these. -/
def Obligations.DurableCopiesTakeVisibleWrites : Prop :=
  (∀ (s : State) (id copy : Nat) (w : WriteRec), s.writeAt id = some w → isDurable w.loc = true →
    w.vis.getLsbD (home w.loc) = true → s.redsSettled (home w.loc) w.loc = true → s.memoryWf = true →
    let m := decide (copy ≠ 0)
    ∃ t, exec (.durable id copy) s = .next t ∧ SameBytes s t ∧ t.ctxs = s.ctxs ∧
      (∀ b < 8, (s.copyMask w m).getLsbD b = true ↔ w.mask.getLsbD b = true ∧
        ∀ e ∈ s.ord.writes, ¬(e.2.loc = w.loc ∧ e.2.mask.getLsbD b = true ∧ (if m then e.2.durM else e.2.durP) = true ∧
          w.co.getD 0 < e.2.co.getD 0)) ∧
      (∀ a, Memory.get (if m then t.ord.mirr else t.ord.prim) a =
        if s.copyWorks w.loc m = true ∧ w.loc ≤ a ∧ a < w.loc + 8 ∧ (s.copyMask w m).getLsbD (a - w.loc) = true then
          w.val.extractLsb' (8 * (a - w.loc)) 8 else Memory.get (if m then s.ord.mirr else s.ord.prim) a) ∧
      (if m then t.ord.prim = s.ord.prim else t.ord.mirr = s.ord.mirr) ∧
      t.writeAt id = some (if m then { w with durM := true } else { w with durP := true })) ∧
  (∀ (s : State) (line : Nat), ∃ t, exec (.durableWriteback line) s = .next t ∧ SameBytes s t ∧ t.ctxs = s.ctxs ∧
    ∀ id w, s.writeAt id = some w → lineOf w.loc = lineOf line → isDurable w.loc = true → w.vis.getLsbD (home w.loc) = true →
      s.redsSettled (home w.loc) w.loc = true → ∃ w', t.writeAt id = some w' ∧ w'.durP = true ∧ w'.durM = true ∧ w'.val = w.val ∧ w'.loc = w.loc) ∧
  ∀ (s : State) (q : Nat),
    (∃ t, exec (.lighthouseOutOfService q) s = .next t ∧ (t.quarterAt q).inService = false ∧ (t.quarterAt q).resync = false ∧
      SameBytes s t ∧ t.ord = { s.ord with poison := t.ord.poison } ∧ (s.onlyIn q = [] → t.ord = s.ord) ∧
      (∀ a ∈ s.onlyIn q, s.poisoned (home a) a = false → (t.ord.poison.get? a).isSome = true) ∧
      t.ctxs = s.ctxs ∧ ∀ p, p % 4 ≠ q % 4 → t.quarterAt p = s.quarterAt p) ∧
    ((s.quarterAt q).inService = false → (s.quarterAt q).resync = false → ∃ t, exec (.lighthouseReturn q) s = .next t ∧
      (t.quarterAt q).inService = false ∧ (t.quarterAt q).resync = true ∧ t.ord = s.ord ∧ t.ctxs = s.ctxs) ∧
    ((s.quarterAt q).resync = true → s.memoryWf = true → ∃ t, exec (.lighthouseResyncEnd q) s = .next t ∧ SameBytes s t ∧
      t.ctxs = s.ctxs ∧ (t.quarterAt q).inService = true ∧ (t.quarterAt q).resync = false ∧
      (∀ a ∈ s.onlyIn q, s.poisoned (home a) a = false → (t.ord.poison.get? a).isSome = true) ∧
      (∀ a, Memory.get t.ord.prim a = if physQtr a = q then Memory.get s.ord.mirr a else Memory.get s.ord.prim a) ∧
      ∀ a, Memory.get t.ord.mirr a = if physQtr a = partner q then Memory.get s.ord.prim a else Memory.get s.ord.mirr a)

/-- R173, R277, R279, R334, R335, R336, R359, R360, R366, R388: A line that another shed asked for in at least 12 of its
last 16 requests, and that has stood still long enough, moves to that shed's slice once its partials are merged; a miss
that has to wait joins the walk of its page or comes last in its quarter's queue; PAGE_WALK begins a walk only for an
access that misses, and a walk among the first 64 reads its entries in turn, the first word as an acquire, as plain
loads that consume poison, and fills the caches of the cores whose access the leaf lets through and for whose shed the
page was not invalidated since; a sweeper corrects a soft error in place, or marks a doubleword of the transient space
as poisoned and a mirror copy as bad (poisoned too where the primary's layer is out of service), and re-encodes a line
of layers 0 to 2 with the code of its quarter's entry; a checker mismatch waits for the context's next retiring
instruction. None of these, but for a merge of partials, changes a byte or a register; which slot decrypts a table is
the model's choice (assumption 105). A read or atomic that could be taken now and would take a poisoned byte contains
its core with cause 3 instead, with no byte changed. -/
def Obligations.LinesWalksAndSweepersChangeNoData : Prop :=
  ∀ s : State,
    (∀ line e d, (s.l2Q (home (lineOf line))).get? (lineOf line) = some e →
      (∀ x ∈ s.l2Q (home (lineOf line)), x.1 = lineOf line → x.2 = e) → e.mover (home (lineOf line)) (lineOf line) = some d →
      s.movable (home (lineOf line)) e = true →
      12 ≤ e.asks.countP (· == d) ∧ ∃ t x, exec (.lineMigration line) s = .next t ∧ SameButMerges (s.mergeLine (lineOf line)) t ∧
        t.ctxs = s.ctxs ∧ ((∀ q, (s.partialsQ q).get? (lineOf line) = none) → SameButMerges s t) ∧
        (t.l2Q (home (lineOf line))).get? (lineOf line) = some x ∧
        x.slice.getD (homeSlice (home (lineOf line)) (lineOf line)) = d ∧ x.state = e.state) ∧
    (∀ core vf sup va wr c, let q := qtrOfCore core
      let t := s.miss core vf sup va wr
      (s.vf vf).cfg = some c → va.toNat < 2 ^ 48 → s.tlbFind core vf sup va.toNat = none →
      SameBytes s t ∧ t.ctxs = s.ctxs ∧
      (∀ w, s.ord.walks.find? (fun w => Walk.same w q vf sup va.toNat) = some w → ¬(w.core = core ∧ w.wr = wr) → (core, wr) ∉ w.joins →
        { w with joins := w.joins ++ [(core, wr)] } ∈ t.ord.walks) ∧
      (s.ord.walks.find? (fun w => Walk.same w q vf sup va.toNat) = none → ∃ w, t.ord.walks = s.ord.walks ++ [w] ∧ w.core = core ∧ w.wr = wr ∧
        w.joins = [] ∧ w.va = va.toNat ∧ w.level = 0 ∧ w.table = (if sup then c.sroot else c.uroot).getD 0 ∧ w.vf = vf ∧ w.sup = sup)) ∧
    (∀ core page vf sup c, let q := qtrOfCore core
      (s.vf vf).cfg = some c →
      (s.ord.walks.find? (fun w => Walk.same w q vf sup page) = none →
        (s.missed core vf sup page = none → exec (.pageWalk core ⟨vf, page⟩ sup) s = .next s) ∧
        ∀ w, s.missed core vf sup page = some w → Walk.same w q vf sup page = true ∧
          exec (.pageWalk core ⟨vf, page⟩ sup) s = .next (s.updOrd fun o => { o with walks := o.walks ++ [w] })) ∧
      (∀ w, s.ord.walks.find? (fun w => Walk.same w q vf sup page) = some w →
        (s.served q w = false ∨ s.entryReady q w.entry = false → exec (.pageWalk core ⟨vf, page⟩ sup) s = .next s) ∧
        (s.served q w = true → s.entryReady q w.entry = true →
          let loc := if w.w0.isNone then w.entry else w.entry + 8
          (s.poisoned q loc = true → exec (.pageWalk core ⟨vf, page⟩ sup) s = .next ((s.updWalk q vf sup page fun _ => none).containEvent w.core 3)) ∧
          (s.poisoned q loc = false → ∃ t, exec (.pageWalk core ⟨vf, page⟩ sup) s = .next t ∧ SameBytes s t ∧ t.ctxs = s.ctxs ∧
            (w.w0 = none → { w with w0 := some (s.tableWord c q w.entry) } ∈ t.ord.walks) ∧
            ∀ w0 e, w.w0 = some w0 → (w.next c w0 (s.tableWord c q (w.entry + 8))).2 = some e → w.discard = false ∧
              ∀ h ∈ w.fills c w0, e ∈ (t.core h).tlb ∧ e ∈ (t.shed (shedOfCore h)).tlb)))) ∧
    (∀ loc, (∃ t, exec (.sweep loc false) s = .next t ∧ SameBytes s t ∧ t.ctxs = s.ctxs ∧ dwordOf loc ∉ t.ord.soft ∧
        t.ord.poison = s.ord.poison) ∧
      ∃ t, exec (.sweep loc true) s = .next t ∧ SameBytes s t ∧ t.ctxs = s.ctxs ∧ (∀ d, (t.shed d).full = (s.shed d).full) ∧
        (isDurable (dwordOf loc) = false → mirrorOf (dwordOf loc) = none → (t.ord.poison.get? (dwordOf loc)).isSome = true) ∧
        (∀ p, mirrorOf (dwordOf loc) = some p → p ∈ t.ord.badMirr ∧
          ((s.quarterAt (home p)).inService = false → (t.ord.poison.get? p).isSome = true))) ∧
    (∀ line, isPad (lineOf line) = false → physLayer (lineOf line) < 3 → ∃ t, exec (.eccReencode line) s = .next t ∧
      SameBytes s t ∧ t.ctxs = s.ctxs ∧
      (lineOf line ∈ t.ord.ecc ↔ (qtrPoint s.power (s.qtrEntryOf (physQtr (lineOf line)))).ecc = true)) ∧
    (∀ k, exec (.checkerMismatch k) s = .next (s.updCtx k fun c => { c with mismatch := c.mismatch + 1 })) ∧
    ∀ k, ∀ o ∈ (s.ctx k).ops, (s.core (coreOfCtx k)).contained = none →
      ((∃ dst locs got acq i loc, o.kind = .read dst locs got acq ∧ i < locs.length ∧ s.readable k o i = some loc ∧
          s.readPoisoned k o.id loc (neededBytes dst i locs) = true) ∨
        ∃ fn loc off size b c ret sc set, o.kind = .amo fn loc off size b c ret sc set none ∧ s.atomicReady k o loc = true ∧
          s.poisoned (home loc) loc = true) →
      exec (.poisonConsumed k) s = .next (s.containEvent (coreOfCtx k) 3) ∧ SameBytes s (s.containEvent (coreOfCtx k) 3)

/-- R356, R357, R361, R362, R363, R401: A core that runs for a released gang which has a supervisor gang and no open
containment event is contained with its cause: its contexts hold no pending operation and read 0 in every counter, its
waiting messages are gone, every other live context of the gang sees event bit 3, and a record for the supervisor is
opened. A record goes into the next slot of the fault ring once tags 2 and 3 are empty, doublewords 0 and 1 first and
doubleword 3 with its tag full once those are visible; a full response empties its tag and retries the waiting work, or
refuses it with the page-fault trap. A self-test that ends either clears the core for restart or withdraws its shed; a
restart without a sealed epoch and without a first block gives the control context its entry registers in HALTED. -/
def Obligations.ContainmentIsReportedAndAnswered : Prop :=
  ∀ s : State,
    (∀ core cause g, (s.core core).contained = none → s.gangOfCore core = some g → (s.gang g).sup = false →
      (s.gang g).state ≠ .launching → (s.gang g).state ≠ .restoring → (s.gang g).openEvents = 0 → s.supervisor (vfOf (s.gang g).vfq) ≠ none →
      ∃ t, exec (.containment core cause) s = .next t ∧ SameBytes s t ∧ (t.core core).contained = some cause ∧
        (t.core core).port = [] ∧ (t.core core).tiles = [] ∧
        (∀ k ∈ ctxsOfCore core, (t.ctx k).ops = [] ∧ (t.ctx k).ld = 0 ∧ (t.ctx k).st = 0 ∧ (t.ctx k).cp = 0 ∧ (t.ctx k).tl = 0) ∧
        (t.gang g).openEvents = 1 ∧ (s.gang g).lcore core ∈ (t.gang g).lost ∧
        (∀ k ∈ (s.gang g).ctxs, coreOfCtx k ≠ core → (s.ctx k).mode.live = true → (t.ctx k).event.getLsbD 3 = true) ∧
        ∃ id r, t.refs.get? id = some r ∧ r.work = 4 ∧ r.key = core ∧ r.written = false) ∧
    (∀ vf referral r gn, s.refs.get? referral = some r → s.supervisor vf = some gn → r.vf = vf → r.written = false →
      (s.gang gn).state ≠ .saved → s.memoryWf = true →
      let d := (s.gang gn).rank0
      let q := qtrOfShed d
      (r.slot = none → s.tag (ringLoc d (s.vf vf).ring + 16) = false → s.tag (ringLoc d (s.vf vf).ring + 24) = false →
        ∃ t, exec (.faultRecordWrite vf referral) s = .next t ∧ t.readQ q (ringLoc d (s.vf vf).ring) = r.va ∧
          t.readQ q (ringLoc d (s.vf vf).ring + 8) = r.detail ∧ (t.vf vf).ring = ((s.vf vf).ring + 1) % 256 ∧
          ∃ r', t.refs.get? referral = some r' ∧ r'.slot = some (s.vf vf).ring ∧ r'.written = false) ∧
      (∀ k, r.slot = some k → r.head.all (s.complete (33 * d) 4) = true →
        ∃ t, exec (.faultRecordWrite vf referral) s = .next t ∧ Stores s t q (ringLoc d k + 24) 0xFF r.info ∧
          t.tag (ringLoc d k + 24) = true ∧ ∃ r', t.refs.get? referral = some r' ∧ r'.written = true)) ∧
    (∀ vf slot id r gn, s.refs.find? (fun e => e.2.vf = vf && e.2.slot = some slot && e.2.written) = some (id, r) →
      s.supervisor vf = some gn → (s.gang gn).state ≠ .saved →
      let loc := padLoc (s.gang gn).rank0 (0x1FE000 + 32 * slot + 16)
      s.tag loc = true → r.discard = false → r.work = 0 → (s.ctx r.key).mode = .asleep (.fault id) →
      ((s.readQ (home loc) loc).extractLsb' 0 2 = 1#2 → ∃ t, exec (.referralResponse vf slot) s = .next t ∧ t.tag loc = false ∧
        t.ctx r.key = { s.ctx r.key with mode := .ready } ∧ SameBytes s t ∧ t.refs.get? id = none) ∧
      ((s.readQ (home loc) loc).extractLsb' 0 2 ≠ 1#2 → exec (.referralResponse vf slot) s =
        .next (({ (s.setTag loc false).correct loc with refs := s.refs.del id } : State).takeTrap r.key 15 false r.va
          ((r.detail.extractLsb' 0 3).zeroExtend 8)))) ∧
    ∀ core g, s.gangOfCore core = some g →
      (∀ cause, (s.core core).contained = some cause → (s.core core).restart = 1 → (Config.selfTest s.free = true ∨ s.master.ready = true) →
        ∃ t, exec (.selfTestComplete core) s = .next t ∧ (t.core core).restart = 2 ∧ SameBytes s t ∧
          (t.shed (shedOfCore core)).withdrawn = ((s.shed (shedOfCore core)).withdrawn || !Config.selfTest s.free)) ∧
      (∀ cause, (s.core core).contained = some cause → (s.core core).restart = 2 → s.gangRuns g = true →
        (s.quarterAt (qtrOfCore core)).up = true → (cause = 4 → (s.core core).containedAt.toNat < (s.gang g).releaseTick) →
        (s.shed (shedOfCore core)).withdrawn = false → (s.gang g).anchor = 0 →
        (s.gang g).image.first (roleOf core) = 0xFFFFFFFF →
        ∃ t, exec (.coreRestart core) s = .next t ∧ SameBytes s t ∧ (t.core core).contained = none ∧
          (t.core core).cc = (s.core core).cc ∧ (∀ n, (t.mailbox core n).present = false) ∧
          (s.gang g).lcore core ∉ (t.gang g).lost ∧ (t.ctx (11 * core)).mode = .halted ∧
          (t.ctx (11 * core)).rx 1 = (s.gang g).image.params ∧
          (t.ctx (11 * core)).rx 2 = (s.shed (shedOfCore core)).rank.zeroExtend 64 ∧
          (∀ n, 1 ≤ n → n ≤ 10 → (t.ctx (11 * core + n)).mode = .idle) ∧
          ∀ k ∈ (s.gang g).ctxs, (t.ctx k).event.getLsbD 3 = false)

/-- R48, R154, R160, R162, R299, R364, R387, R389: A die reset leaves the die down, no pending operation in any of its
contexts, no engine operation of its cores, and every durable byte of its quarter, as every quarter reads it, equal to
the primary copy, or to the mirror where the primary's layer is out of service. The die returns once its self-test
passes. After a reset of the master's die a handover makes the lowest surviving quarter's front end master, or the same
one where no other survives. A package reset sets GTIME to 0, removes every gang and queue and returns every context to
its reset values, and keeps the package's identity, the CAPSEL balls and the bytes of the memories; what a package reset
keeps beyond R160 is the model's choice (assumption 65). -/
def Obligations.ResetsOfTheDieAndThePackage : Prop :=
  ∀ s : State,
    (∀ q, q < s.nq → s.memoryWf = true → ∃ t, exec (.dieReset q) s = .next t ∧ (t.quarterAt q).up = false ∧
      (∀ k, qtrOfCtx k = q → (t.ctx k).ops = []) ∧ (∀ e ∈ t.ord.engines, qtrOfCore e.2.core ≠ q) ∧
      ∀ p a, isDurable a = true → home a = q →
        t.byteQ p a = Memory.get (if (s.quarterAt q).inService then t.ord.prim else t.ord.mirr) a) ∧
    (∀ q, (s.quarterAt q).up = false → ∃ t, exec (.dieReturn q) s = .next t ∧ (t.quarterAt q).up = Config.selfTest s.free ∧
      SameBytes s t ∧ t.ctxs = s.ctxs) ∧
    (∀ q, s.master.ready = false → q < s.nq → (s.quarterAt q).up = true →
      (if q = s.master.front then ∀ p < s.nq, p ≠ q → (s.quarterAt p).up = false
        else ∀ p < q, p ≠ s.master.front → (s.quarterAt p).up = false) →
      ∃ t, exec .masterHandover s = .next t ∧ t.master.front = q ∧ t.master.ready = true ∧ SameBytes s t ∧ t.ctxs = s.ctxs) ∧
    ∃ t, exec .packageReset s = .next t ∧ t.gtime = 0 ∧ t.gangs = [] ∧ t.queues = [] ∧ (∀ k, t.ctx k = .start k) ∧ SameBytes s t ∧
      t.four = s.four ∧ t.keeper.identity = s.keeper.identity ∧ t.power.capsel = s.power.capsel ∧ t.ord.writes = []

/-- R293, R301, R313, R314, R315, R316, R321: fence, fence.acq and fence.rel complete, in every state (that a fence
retires at once, and its effect stands in the conditions of the later moves, is the model's reading of R289 and R313,
assumption 54, DEDUCED), with a fence of their kind, scope and release set that holds later operations. wait completes
where each of ld, st, cp and tl is at or below its byte of IMM32 and otherwise sleeps; waita delivers the doubleword,
once no order rule or reduction holds its read, as soon as it differs from x_B and sleeps while it is equal; ccnt.rd
reads a completion counter and ccnt.wait completes once the counter has reached x_B modulo 2^32, and traps where x_B has
a high bit. sem.p takes a unit of its shed's semaphore and gives the value before, or sleeps at 0; sem.v adds 1 to 65535
units once its release is complete at .shed, and traps where the amount is wrong or the sum exceeds 65535; sem.rd reads.
bar arrives and sleeps, or, issued again after its episode (R359), only retires with the status; the episode completes
once every member that is not contained has arrived and the arrivals' releases are complete, and each sleeper of it then
goes on with the status, or is issued again where the checker is due to find a mismatch. -/
def Obligations.FencesWaitsSemaphoresAndBarriers : Prop :=
  (∀ (f : MF) (s : State),
    let ea := s.rx f.a + f.off.signExtend 64
    let fenced (kind : Nat) (set : List Nat) : State := (s.updMe fun c => { c with
      fences := c.fences ++ [{ id := s.next, kind := kind, scope := f.scope, set := set }] }).tickNext
    (s.Fit (.fence f) → Completes (.fence f) s (fenced 0 (s.releaseSet s.cur))) ∧
    (s.Fit (.fenceAcq f) → Completes (.fenceAcq f) s (fenced 1 [])) ∧
    (s.Fit (.fenceRel f) → Completes (.fenceRel f) s (fenced 2 (s.releaseSet s.cur))) ∧
    (s.Fit (.waita f) → s.me.ld ≠ 255 → ea.toNat % 8 = 0 → ∀ h, s.translate s.cur ea false = .ok h →
      let v := h.st.readVal s.cur s.next (pteKey h.w0) h.loc
      (s.mayMove s.cur (readAs s.next h.loc) = false ∨ s.redsSettled s.myQtr h.loc = false →
        Sleeps (.waita f) s (.again (.waita f)) s) ∧
      (s.mayMove s.cur (readAs s.next h.loc) = true → s.redsSettled s.myQtr h.loc = true →
        s.readPoisoned s.cur s.next h.loc 0xFF = false →
        (v = s.rx f.b → ∃ t, Sleeps (.waita f) s (.again (.waita f)) t ∧ SameBytes s t ∧ SameRegs s t) ∧
        (v ≠ s.rx f.b → ∃ t, Completes (.waita f) s t ∧ SameBytes s t ∧ t.rx f.d = (if f.d = 0 then 0 else v) ∧
          ∀ r, r ≠ f.d → t.rx r = s.rx r)))) ∧
  (∀ (f : RI) (s : State), s.Fit (.wait f) →
    let met := s.me.ld ≤ f.imm.extractLsb' 0 8 ∧ s.me.st ≤ f.imm.extractLsb' 8 8 ∧ s.me.cp ≤ f.imm.extractLsb' 16 8 ∧
      s.me.tl ≤ f.imm.extractLsb' 24 8
    (met → Completes (.wait f) s s) ∧ (¬met → Sleeps (.wait f) s (.again (.wait f)) s)) ∧
  (∀ (f : RR) (s : State),
    let n := semOf f
    let v := s.sem s.myShed n
    let b := s.rx f.b
    let cc := (s.core s.myCore).cc[ccOf f]
    (s.Fit (.ccntRd f) → Completes (.ccntRd f) s (s.wx f.d (cc.zeroExtend 64))) ∧
    (s.Fit (.ccntWait f) → (b.extractLsb' 32 32 ≠ 0#32 → Traps (.ccntWait f) s 25 b 0) ∧
      (b.extractLsb' 32 32 = 0#32 → 2 ^ 31 ≤ (cc - b.extractLsb' 0 32).toNat → Sleeps (.ccntWait f) s (.again (.ccntWait f)) s) ∧
      (b.extractLsb' 32 32 = 0#32 → (cc - b.extractLsb' 0 32).toNat < 2 ^ 31 →
        Completes (.ccntWait f) s (s.updMe (·.see s.next true (s.core s.myCore).ccSet[ccOf f])).tickNext)) ∧
    (s.Fit (.semP f) → (v = 0 → Sleeps (.semP f) s (.again (.semP f)) s) ∧
      (v ≠ 0 → s.myTurn (sameSem s n) = true → ∃ t, Completes (.semP f) s t ∧ t.sem s.myShed n = v - 1 ∧
        t.rx f.d = (if f.d = 0 then 0 else v.zeroExtend 64) ∧ SameBytes s t ∧ (∀ r, r ≠ f.d → t.rx r = s.rx r) ∧
        ∀ m, m ≠ n → t.sem s.myShed m = s.sem s.myShed m)) ∧
    (s.Fit (.semV f) → (b.toNat = 0 ∨ 65535 < b.toNat ∨ 65535 < v.toNat + b.toNat → Traps (.semV f) s 24 b 0) ∧
      (0 < b.toNat → v.toNat + b.toNat ≤ 65535 → s.setComplete s.cur 2 (s.releaseSet s.cur) = true → ∃ t, Completes (.semV f) s t ∧
        t.sem s.myShed n = v + b.setWidth 16 ∧ t.rx f.d = (if f.d = 0 then 0 else v.zeroExtend 64) ∧ SameBytes s t ∧
        (∀ r, r ≠ f.d → t.rx r = s.rx r) ∧ ∀ m, m ≠ n → t.sem s.myShed m = s.sem s.myShed m) ∧
      (0 < b.toNat → v.toNat + b.toNat ≤ 65535 → s.setComplete s.cur 2 (s.releaseSet s.cur) = false →
        Sleeps (.semV f) s (.again (.semV f)) s)) ∧
    (s.Fit (.semRd f) → Completes (.semRd f) s (s.wx f.d (v.zeroExtend 64))) ∧
    (s.Fit (.bar f) → ∀ m, s.me.passed = some m → Completes (.bar f) s
      ((s.updMe fun c => { c with passed := none }).wx f.d (lostStatus (s.gang s.myGang) m))) ∧
    (s.Fit (.bar f) → s.me.passed = none → ∃ t, Sleeps (.bar f) s (.bar f.d ((s.core s.myCore).arrivals + 1)) t ∧
      (t.core s.myCore).arrivals = (s.core s.myCore).arrivals + 1 ∧ SameBytes s t ∧ t.ctxs = s.ctxs ∧
      ∀ i ∈ s.releaseSet s.cur, (s.cur, i) ∈ ((t.gang s.myGang).arrived.getD ((s.core s.myCore).arrivals + 1) []))) ∧
  ∀ (s : State) (gang : Nat),
    let g := s.gang gang
    let n := g.episode + 1
    s.gangRuns gang = true →
    (∀ c ∈ g.cores, (s.core c).contained = none → g.lcore c ∉ g.lost → n ≤ (s.core c).arrivals) →
    (∃ c ∈ g.cores, n ≤ (s.core c).arrivals) → (∀ e ∈ g.arrived.getD n [], s.complete e.1 4 e.2 = true) →
    ∃ t, exec (.barrierEpisodeComplete gang) s = .next t ∧ (t.gang gang).episode = n ∧ SameBytes s t ∧
      (∀ k ∈ g.ctxs, ∀ d m, (s.ctx k).mode = .asleep (.bar d m) → m ≤ n →
        (∀ r, r ≠ d → (t.ctx k).rx r = (s.ctx k).rx r) ∧
        (((s.ctx k).mismatch = 0 ∨ s.repetitionReplays k = true) → (t.ctx k).rx d = (if d = 0 then 0 else lostStatus g m) ∧
          (t.ctx k).mode = (if pcIndex (s.ctx k).pc = hdrLen (s.ctx k).hdr then .blockEnd else .ready)) ∧
        ((s.ctx k).mismatch ≠ 0 → s.repetitionReplays k = false → (t.ctx k).rx d = (s.ctx k).rx d ∧ (t.ctx k).mode = .ready ∧ (t.ctx k).passed = some m ∧
          (t.ctx k).replay = true ∧ (t.ctx k).mismatch = (s.ctx k).mismatch - 1)) ∧
      (∀ k, (∀ d m, (s.ctx k).mode = .asleep (.bar d m) → n < m) → t.ctx k = s.ctx k) ∧
      (g.lost = [] → g.skip = [] → ∀ m, lostStatus g m = 0)

/-- R88, R97, R98, R101, R103, R104: yard.we and yard.wf, with a selector of their form and st below 255, complete with
a buffered write of the staging generation, counted in st. yard.rd is STALLED until the context's own yard writes are
performed, then reads a word of the current or staging generation, and a poisoned one contains the core; yard.pin
records the current generation as the context's pin on the table, with at most four tables pinned, not counting pins
already revoked; yard.unpin drops it; that either takes a revoked pin on the table away together with its pending
pin-revoked trap is the model's choice (assumption 17); yard.gen gives the generation number with its two bits. A
selector with a bit outside its form raises the yard-selector trap with its value. yard.cmt sleeps until its release set
is complete at its scope, then stands in the table's queue, and, first in it but for those of contexts held aside, with
no pin on a retained generation and no stale copy left, makes the staging entries current with the next number, gives
that number to x_D and retires. A core outside the scope drops its stale copy in the background, and a commit that has
waited long enough revokes the pins on the retained generation. -/
def Obligations.YardTablesCommitAsOne : Prop :=
  (∀ (f : RR) (s : State),
    let pd := s.rx f.d
    let pa := s.rx f.a
    let y (w : Word) : YardTable := (s.gang s.myGang).yard (selTable w)
    let count (t : State) : State := t.updMe fun c => { c with st := c.st + 1 }
    (s.Fit (.yardWe f) → (pd &&& ~~~0xFF3F ≠ 0 → Traps (.yardWe f) s 11 pd 0) ∧ (pd &&& ~~~0xFF3F = 0 → s.me.st ≠ 255 →
      Completes (.yardWe f) s (count (s.pushOp 0 0 (.yardEntry (selTable pd) (selIndex pd) (s.rx f.a) (s.rx f.b) (s.rx f.c)))))) ∧
    (s.Fit (.yardWf f) → (pd &&& ~~~0xFF00 ≠ 0 → Traps (.yardWf f) s 11 pd 0) ∧ (pd &&& ~~~0xFF00 = 0 → s.me.st ≠ 255 →
      Completes (.yardWf f) s (count (s.pushOp 0 0 (.yardFallback (selTable pd) (s.rx f.a)))))) ∧
    (s.Fit (.yardRd f) → selOk pa (if selWsel pa = 3 then 0xD00000 else 0xD0003F) = true →
      let g := if selStg pa then (y pa).staging else (y pa).cur
      let free := s.me.ops.all fun o => !OpKind.yard o.kind
      let bad := g.bad.contains (if selWsel pa = 3 then 64 else (selIndex pa).toNat)
      (free = false → exec (.yardRd f) s = .next s) ∧
      (free = true → bad = true → exec (.yardRd f) s = .next (s.containEvent s.myCore 3)) ∧
      (free = true → bad = false → Completes (.yardRd f) s (s.wx f.d (g.word (selIndex pa).toNat (selWsel pa))))) ∧
    (s.Fit (.yardPin f) → (pa &&& ~~~0xFF00 ≠ 0 → Traps (.yardPin f) s 11 pa 0) ∧
      (pa &&& ~~~0xFF00 = 0 → 4 ≤ (s.me.pins.filter (·.table ≠ selTable pa)).countP (!·.revoked) → Traps (.yardPin f) s 11 pa 0) ∧
      (pa &&& ~~~0xFF00 = 0 → (s.me.pins.filter (·.table ≠ selTable pa)).countP (!·.revoked) < 4 → ∃ t, Completes (.yardPin f) s t ∧
        t.rx f.d = (if f.d = 0 then 0 else (y pa).gen.zeroExtend 64) ∧
        t.me.pins = { table := selTable pa, gen := (y pa).gen, revoked := false } :: s.me.pins.filter (·.table ≠ selTable pa))) ∧
    (s.Fit (.yardUnpin f) → pa &&& ~~~0xFF00 = 0 → ∃ t, Completes (.yardUnpin f) s t ∧
      t.me.pins = s.me.pins.filter (·.table ≠ selTable pa) ∧ ∀ r, t.rx r = s.rx r) ∧
    (s.Fit (.yardGen f) → pa &&& ~~~0xFF00 = 0 → Completes (.yardGen f) s (s.wx f.d (BitVec.ofNat 64 ((y pa).gen.toNat +
      (if (y pa).retained.isSome then 2 ^ 16 else 0) + (if (y pa).first.isSome then 2 ^ 17 else 0))))) ∧
    (s.Fit (.yardCmt f) →
      (selOk pa 0x70000 = false ∨ (selScope pa).toNat = 0 ∨ 4 < (selScope pa).toNat → Traps (.yardCmt f) s 11 pa 0) ∧
      (selOk pa 0x70000 = true → 1 ≤ (selScope pa).toNat → (selScope pa).toNat ≤ 4 →
        Sleeps (.yardCmt f) s (.commitRelease f (s.releaseSet s.cur)) s))) ∧
  (∀ (s : State) (k : Nat) (f : RR) (ids : List Nat), s.coreRuns (coreOfCtx k) = true →
    let u : State := { s with cur := k }
    let n := selTable ((s.ctx k).rx f.a)
    let y := (s.gang u.myGang).yard n
    ((s.ctx k).mode = .asleep (.commitRelease f ids) →
      (s.setComplete k (selScope ((s.ctx k).rx f.a)) ids = false → exec (.sleepWake k) s = .next s) ∧
      (s.setComplete k (selScope ((s.ctx k).rx f.a)) ids = true → ∃ t m, exec (.sleepWake k) s = .next t ∧
        (t.ctx k).mode = .asleep (.commitQueued f) ∧ ((t.gang u.myGang).yard n).commits = y.commits ++ [m] ∧ m.ctx = k ∧ m.set = ids ∧
        ((t.gang u.myGang).yard n).cur = y.cur)) ∧
    ((s.ctx k).mode = .asleep (.commitQueued f) → (s.ctx k).mismatch = 0 → ∀ m, y.first = some m → m.ctx = k →
      s.commitReady (s.gang u.myGang) n y = true → ∃ t, exec (.sleepWake k) s = .next t ∧
        ((t.gang u.myGang).yard n).cur =
          { y.staging with rel := some { set := m.set, scope := m.scope, core := coreOfCtx k } } ∧ ((t.gang u.myGang).yard n).staging = y.staging ∧
        ((t.gang u.myGang).yard n).gen = y.gen + 1 ∧ ((t.gang u.myGang).yard n).commits.length + 1 = y.commits.length ∧
        (t.ctx k).rx f.d = (if f.d = 0 then 0 else (y.gen + 1).zeroExtend 64) ∧
        (t.ctx k).mode = (if pcIndex (s.ctx k).pc = hdrLen (s.ctx k).hdr then .blockEnd else .ready))) ∧
  (∀ (s : State) (core table g : Nat), s.gangOfCore core = some g →
    core ∈ ((s.gang g).yard (BitVec.ofNat 8 table)).stale →
    ∃ t, exec (.yardBackgroundInvalidate core table) s = .next t ∧ core ∉ ((t.gang g).yard (BitVec.ofNat 8 table)).stale ∧
      (∀ z ∈ (t.core core).yardCache, ¬(z.table = BitVec.ofNat 8 table ∧ z.asCurrent = true)) ∧
      ((t.gang g).yard (BitVec.ofNat 8 table)).cur = ((s.gang g).yard (BitVec.ofNat 8 table)).cur) ∧
  ∀ (s : State) (gang table : Nat) (m : Commit) (rg : BitVec 16) (rc : YardGen),
    ((s.gang gang).yard (BitVec.ofNat 8 table)).first = some m →
    ((s.gang gang).yard (BitVec.ofNat 8 table)).retained = some (rg, rc) →
    s.gangRuns gang = true → Config.revokeTicks ≤ (s.gang gang).residentTicks - m.since →
    ∃ t, exec (.pinRevocation gang table) s = .next t ∧
      ∀ k ∈ (s.gang gang).ctxs, ∀ p ∈ (t.ctx k).pins, p.table = BitVec.ofNat 8 table → p.gen = rg → p.revoked = true

/-- R86, R91, R93, R94, R95, R104, R113, R114, R115, R116, R117, R118: A block end, whose only wait is that of W, looks
its key up in the lowest entry that matches, or the fallback, and applies the action: JUMP, SETY and YIELD enter a legal
block at instruction 0, SETY and SETYX with y0 and y1, EXIT leaves the program, a vacant, trapping or undefined action
takes its trap with BEND, and a poisoned generation contains the core. start and start.try of a control context give the
helper named, or the lowest idle one, its argument, rank and grid size in x1 to x3, the control context's trap table and
code bounds, 0 in every other register, condition, mask but k0, counter and trap register, no pin, and the block; with
no idle helper start sleeps and start.try gives 0. halt leaves at once, and ends a sequencer that has nothing left to
issue; yield holds for the ready contexts of the core, also as the last instruction of its block (that it then holds
over the block end is assumption 100); stop makes a helper leave with reason 2, also one that sleeps, or that waits in
halt (assumption 13), leaves one that waits in EXIT to that action, and completes once it is gone; hlive gives the live
mask. A leaving context whose counters have drained retires: a helper posts its notice or becomes idle, a control
context goes to HALTING, and to HALTED once its helpers are idle. -/
def Obligations.ContextsEnterBlocksStartAndRetire : Prop :=
  (∀ (g : YardGen) (key : Word),
    (∀ pre e post, g.entries = pre ++ e :: post → actKind e.2.2.2 ≠ 0 → (key ^^^ e.2.1) &&& e.2.2.1 = 0 →
      (∀ d ∈ pre, actKind d.2.2.2 = 0 ∨ (key ^^^ d.2.1) &&& d.2.2.1 ≠ 0) → g.lookup key = e.2.2.2) ∧
    ((∀ d ∈ g.entries, actKind d.2.2.2 = 0 ∨ (key ^^^ d.2.1) &&& d.2.2.1 ≠ 0) → g.lookup key = g.fallback)) ∧
  (∀ (s : State) (k : Nat),
    let c := s.ctx k
    let use := s.yardUse k (hdrTable c.hdr) (hdrP c.hdr)
    let key := s.keyOf k use.1 c.hdr
    let act := use.2.1.lookup key
    let addr := s.arenaBase k + 8 * actTarget act
    c.mode = .blockEnd → s.coreRuns (coreOfCtx k) = true → (hdrW c.hdr = true → c.ld = 0 ∧ c.st = 0 ∧ c.cp = 0 ∧ c.tl = 0) →
    (∀ p ∈ c.pins, p.revoked = false) →
    (use.2.1.bad ≠ [] → exec (.blockEnd k) s = .next (use.2.2.containEvent (coreOfCtx k) 3)) ∧
    (use.2.1.bad = [] →
    ((actKind act = 1 ∨ actKind act = 2 ∨ actKind act = 3 ∨ actKind act = 5) → c.inCode addr = true → addr % 8 = 0 →
      (s.gang ((s.gangOfCore (coreOfCtx k)).getD 0)).gone addr = false → headerOk (use.2.2.fetch (coreOfCtx k) addr).1 = true →
      ∃ t, exec (.blockEnd k) s = .next t ∧ (t.ctx k).mode = .ready ∧ (t.ctx k).pc = mkPc 0 addr ∧
        (t.ctx k).hdr = (use.2.2.fetch (coreOfCtx k) addr).1 ∧ (t.ctx k).x = c.x ∧ (t.ctx k).v = c.v ∧ SameBytes s t ∧
        (actKind act = 1 → (t.ctx k).y0 = c.y0 ∧ (t.ctx k).y1 = c.y1 ∧ (t.ctx k).hold = c.hold) ∧
        (actKind act = 2 → (t.ctx k).y0 = (actP0 act).zeroExtend 64 ∧ (t.ctx k).y1 = (actP1 act).zeroExtend 64) ∧
        (actKind act = 3 → (t.ctx k).y0 = c.rx ((actP0 act).setWidth 5) ∧ (t.ctx k).y1 = c.rx ((actP1 act).setWidth 5)) ∧
        (actKind act = 5 → ∀ j, j ∈ (t.ctx k).hold ↔ j ≠ k ∧ coreOfCtx j = coreOfCtx k ∧ (s.ctx j).mode = .ready)) ∧
    (actKind act = 4 → ∃ t, exec (.blockEnd k) s = .next t ∧ (t.ctx k).mode =
      .exiting 0 (if (actP0 act).getLsbD 5 then some ((actP0 act).setWidth 5) else none)) ∧
    let left := use.2.2.updCtx k fun v => v.crossBlock use.2.2.next c.hdr act
    (actKind act = 0 → exec (.blockEnd k) s = .next (left.takeTrap k 8 true key 0)) ∧
    (actKind act = 6 → exec (.blockEnd k) s = .next (left.takeTrap k 9 true key 0)) ∧
    (6 < actKind act → exec (.blockEnd k) s = .next (left.takeTrap k 10 true act 0)))) ∧
  (∀ (f : RR) (s : State),
    let desc := s.rx f.a
    let blk := s.rx f.b
    let r := s.fetch s.myCore blk.toNat
    (∀ i ∈ ([.start f, .startTry f] : List Instr), s.Fit i → (ctxNo s.cur ≠ 0 → Traps i s 1 (encode i) 0) ∧
      (ctxNo s.cur = 0 → descOkStart desc = false → Traps i s 7 desc 0) ∧
      (ctxNo s.cur = 0 → descOkStart desc = true → blk.toNat % 8 = 0 → s.me.inCode blk.toNat = true → headerOk r.1 = true →
        ∀ n, s.helperFor (descHelp desc) = some n → ∃ t, Completes i s t ∧ 1 ≤ n ∧ n ≤ 10 ∧
          (s.ctx (11 * s.myCore + n)).mode = .idle ∧ t.rx f.d = (if f.d = 0 then 0 else BitVec.ofNat 64 n) ∧
          let h := t.ctx (11 * s.myCore + n)
          h.mode = .ready ∧ h.pc = mkPc 0 blk.toNat ∧ h.hdr = r.1 ∧ h.rx 1 = s.rx f.c ∧
          h.rx 2 = (s.shed s.myShed).rank.zeroExtend 64 ∧ h.rx 3 = (s.shed s.myShed).gangdim.zeroExtend 64 ∧
          (∀ q : BitVec 5, 3 < q.toNat → h.rx q = 0) ∧ (∀ q, h.rv q = 0) ∧ (∀ q, h.rc q = 0) ∧
          (∀ q, h.rk q = if q = 0 then 0xFFFF else 0) ∧ h.y0 = 0 ∧ h.y1 = 0 ∧ h.ld = 0 ∧ h.st = 0 ∧ h.cp = 0 ∧ h.tl = 0 ∧ h.fstat = 0 ∧
          h.tcause = 0 ∧ h.tval = 0 ∧ h.tpc = 0 ∧ h.buoy = Vector.replicate 4 0 ∧ h.pins = [] ∧ h.tyard = s.me.tyard ∧
          h.cbase = s.me.cbase ∧ h.cbound = s.me.cbound ∧ h.notice = descNotice desc ∧ SameBytes s t)) ∧
    (ctxNo s.cur = 0 → descOkStart desc = true → blk.toNat % 8 = 0 → s.me.inCode blk.toNat = true → headerOk r.1 = true →
      s.helperFor (descHelp desc) = none → (s.Fit (.start f) → Sleeps (.start f) s (.again (.start f)) r.2) ∧
      (s.Fit (.startTry f) → Completes (.startTry f) s (r.2.wx f.d 0))) ∧
    (s.Fit (.halt f) → ∃ t, exec (.halt f) s = .next t ∧ t.me = { s.me with mode := .exiting 1 none, hold := [] } ∧ SameBytes s t ∧
      (∀ k, k ≠ s.cur → t.ctx k = s.ctx k) ∧ (t.core s.myCore).seq = if (s.core s.myCore).seq.owner = some s.cur ∧
        (s.core s.myCore).seq.left = 0 then .reset else (s.core s.myCore).seq) ∧
    (s.Fit (.yield f) → ∃ l, Completes (.yield f) s (s.updMe fun c => { c with hold := l }) ∧
      ∀ j, j ∈ l ↔ j ≠ s.cur ∧ coreOfCtx j = s.myCore ∧ (s.ctx j).mode = .ready) ∧
    (s.Fit (.hlive f) → Completes (.hlive f) s (s.wx f.d (BitVec.ofNat 64 (1 + 2 * s.liveMask s.myCore +
      2 ^ 17 * bitsOf 10 fun i => decide ((s.ctx (11 * s.myCore + i + 1)).mode = .retiring))))) ∧
    (s.Fit (.stop f) → ctxNo s.cur = 0 → 1 ≤ desc.toNat → desc.toNat ≤ 10 →
      let h := 11 * s.myCore + desc.toNat
      ((s.ctx h).mode = .idle ∨ (s.ctx h).mode = .retiring → Completes (.stop f) s s) ∧
      ((s.ctx h).mode.live = true → (∀ r nv, (s.ctx h).mode = .exiting r nv → r = 1) → ∃ t, Sleeps (.stop f) s (.again (.stop f)) t ∧
        (t.ctx h).mode = .exiting 2 none) ∧
      (∀ nv, (s.ctx h).mode = .exiting 0 nv → ∃ t, Sleeps (.stop f) s (.again (.stop f)) t ∧ t.ctx h = s.ctx h))) ∧
  ∀ (s : State) (k : Nat) (reason : BitVec 3) (nv : Option (BitVec 5)),
    let core := coreOfCtx k
    ((s.ctx k).mode = .exiting reason nv → s.coreRuns core = true → (s.ctx k).ld = 0 → (s.ctx k).cp = 0 → (s.ctx k).tl = 0 →
      (s.ctx k).st = 0 → (s.ctx k).ops = [] → ((s.core core).seq.owner = some k → (s.core core).seq.left = 0) →
      (ctxNo k = 0 → reason = 0 → (s.core core).aside = []) →
      ∃ t, exec (.contextRetirement k) s = .next t ∧ SameBytes s t ∧ (t.ctx k).pins = [] ∧ (t.ctx k).x = (s.ctx k).x ∧
        (ctxNo k = 0 → (t.ctx k).mode = .halting) ∧
        (ctxNo k ≠ 0 → nv = none → (s.ctx k).notice = none → (t.ctx k).mode = .idle) ∧
        (ctxNo k ≠ 0 → ∀ m, (nv.or (s.ctx k).notice) = some m → (t.ctx k).mode = .retiring ∧ ∃ e ∈ (t.core core).port,
          e.mbox = m ∧ e.kind = 1 ∧ e.data = noticeData ((s.ctx k).rx 1) (ctxNo k) reason)) ∧
    ((s.ctx (11 * core)).mode = .halting → (∀ n, 1 ≤ n → n ≤ 10 → (s.ctx (11 * core + n)).mode = .idle) →
      exec (.coreHalted core) s = .next (s.updCtx (11 * core) fun c => { c with mode := .halted }))

/-- R17, R18, R119, R120, R121, R122, R123, R124: sendr and sendr.v, to a place in the paddock and the gang and with st
below 255, complete with a message of x_A or v_A for the mailbox named on its way to the target core, counted in st; a
place outside raises the place trap with its value, for a place given by DX, DY and ROLE of the word the register layout
of R38 built from them (the model's reading, assumption 51, DEDUCED). A waiting message of a running gang is accepted
into an empty mailbox once no message for that mailbox that came to the core before it waits and what it releases is
visible to it; it then stands before the others for that mailbox in the order of arrival; st of its sender then falls,
and a notice ends the retirement of its helper. mtake, with a message present, no mpeek waiting for it and its turn
come, delivers the low half to x_D and the high half to x_C and empties the mailbox; mpeek delivers it and leaves it;
both sleep while it is empty; mclr empties it. No other mailbox and no byte of memory changes. -/
def Obligations.MessagesArriveInMailboxes : Prop :=
  (∀ (f : XF) (s : State),
    ∀ e ∈ ([(.sendr f, (s.rx f.a).zeroExtend 128), (.sendrV f, s.rv f.a)] : List (Instr × Quad)), s.Fit e.1 →
      ((xPlace f s).1.bind s.gangTarget = none → Traps e.1 s 4 (xPlace f s).2 0) ∧
      (∀ target, (xPlace f s).1.bind s.gangTarget = some target → (s.me.st = 255 → Sleeps e.1 s (.again e.1) s) ∧
        (s.me.st ≠ 255 → ∃ t m, Completes e.1 s t ∧ (t.core target).port = (s.core target).port ++ [m] ∧ m.mbox = f.midx ∧
          m.data = e.2 ∧ m.srcCore = (s.gang s.myGang).lcore s.myCore ∧ m.srcCtx = ctxNo s.cur ∧ m.kind = 0 ∧ m.counted = true ∧
          m.set = s.releaseSet s.cur ∧ t.me = { s.me with st := s.me.st + 1 } ∧ SameBytes s t ∧
          (∀ c, c ≠ target → (t.core c).port = (s.core c).port) ∧ ∀ c n, t.mailbox c n = s.mailbox c n))) ∧
  (∀ (f : RR) (s : State),
    let m := s.mailbox s.myCore f.a
    let lo := m.data.extractLsb' 0 64
    let hi := m.data.extractLsb' 64 64
    let taken (t : State) : Prop := (∀ r, r ≠ f.d → r ≠ f.c → t.rx r = s.rx r) ∧
      (f.c ≠ f.d → t.rx f.d = (if f.d = 0 then 0 else lo) ∧ t.rx f.c = (if f.c = 0 then 0 else hi)) ∧
      (f.c = f.d → f.d ≠ 0 → t.rx f.d = lo ∨ t.rx f.d = hi) ∧ SameBytes s t ∧
      ∀ c n, (c ≠ s.myCore ∨ n ≠ f.a) → t.mailbox c n = s.mailbox c n
    (s.Fit (.mtake f) → (m.present = false → Sleeps (.mtake f) s (.again (.mtake f)) s) ∧
      (m.present = true → (∀ e ∈ s.sleepers, e.1 ≠ s.cur → sameMailbox s f.a false e.1 e.2.1 = false) →
        s.myTurn (sameMailbox s f.a true) = true → ∃ t, Completes (.mtake f) s t ∧ taken t ∧
          t.mailbox s.myCore f.a = { m with present := false, err := false })) ∧
    (s.Fit (.mpeek f) → (m.present = false → Sleeps (.mpeek f) s (.again (.mpeek f)) s) ∧
      (m.present = true → ∃ t, Completes (.mpeek f) s t ∧ taken t ∧ t.mailbox s.myCore f.a = m)) ∧
    (s.Fit (.mclr f) → ∃ t, Completes (.mclr f) s t ∧ t.ctxs = s.ctxs ∧ SameBytes s t ∧
      t.mailbox s.myCore f.a = { m with present := false, err := false } ∧
      ∀ c n, (c ≠ s.myCore ∨ n ≠ f.a) → t.mailbox c n = s.mailbox c n)) ∧
  ∀ (s : State) (core n : Nat) (m : Message), (s.core core).port[n]? = some m →
    let g := s.gang ((s.gangOfCore core).getD 0)
    let sender := 11 * g.coreOf m.srcCore + m.srcCtx
    s.gangRuns ((s.gangOfCore core).getD 0) = true → (s.core core).contained = none →
    (m.kind = 0 → (s.core (g.coreOf m.srcCore)).contained = none) →
    (s.mailbox core m.mbox).present = false →
    (∀ e ∈ (s.core core).port, e.mbox = m.mbox → e.order ∉ m.after) →
    s.setComplete sender (meetScope (g.coreOf m.srcCore) core) m.set = true →
    ∃ t, exec (.messageAccept core n) s = .next t ∧ SameBytes s t ∧ (t.core core).port = acceptedFirst m ((s.core core).port.eraseIdx n) ∧
      (∀ e ∈ (t.core core).port, e.mbox = m.mbox → ∀ o ∈ m.after, o ∈ e.after) ∧
      (t.mailbox core m.mbox).present = true ∧ (t.mailbox core m.mbox).data = m.data ∧
      (t.mailbox core m.mbox).err = decide (m.kind = 2) ∧
      (∀ c i, (c ≠ core ∨ i ≠ m.mbox) → t.mailbox c i = s.mailbox c i) ∧
      (m.kind = 0 → m.counted = true → (t.ctx sender).st = if (s.ctx sender).st = 0 then 0 else (s.ctx sender).st - 1) ∧
      (m.kind = 1 → m.srcCtx ≠ 0 → (s.ctx (11 * core + m.srcCtx)).mode = .retiring →
        (t.ctx (11 * core + m.srcCtx)).mode = .idle) ∧
      ∀ k, (t.ctx k).x = (s.ctx k).x ∧ (t.ctx k).v = (s.ctx k).v

/-- R8, R45, R49, R50, R343, R345, R349, R352, R353, R354, R365: srd completes with the value of the register that SREG
names and traps as illegal where the core's role has no such register; swr writes exactly that register, cut to its
width with its reserved bits 0, and no other. swr of a code bound, and tlbinv, take the privilege trap outside a
supervisor context; a bound that breaks the window takes the code-bound trap. trap takes the user trap with IMM32. eret
as a block's last instruction returns: to the block end where BEND is set, after the instruction for the causes that
resume next, and at the instruction for the others; elsewhere it is illegal. ecc.inj without the permission takes the
privilege trap, and otherwise schedules what its control names. icinv drops exactly the cached words of the range in its
scope; tlbinv sleeps until its release is complete and then drops every entry of its function in the range from the
caches of its scope. -/
def Obligations.SystemRegistersTrapsAndInvalidation : Prop :=
  (∀ (f : SF) (s : State),
    (s.Fit (.srd f) → (∀ w, s.readSreg f.sreg.toNat = some w → Completes (.srd f) s (s.wx f.d w)) ∧
      (s.readSreg f.sreg.toNat = none → Traps (.srd f) s 1 (encode (.srd f)) 0)) ∧
    (s.Fit (.swr f) → ∀ e ∈ ([(0x000, 0x80FF), (0x001, ~~~0), (0x002, ~~~7), (0x003, 0xFF), (0x004, 0x1F), (0x005, 7), (0x008, ~~~0), (0x009, ~~~0),
        (0x050, ~~~7), (0x051, ~~~7), (0x052, ~~~7), (0x053, ~~~7)] : List (Nat × Word)), f.sreg.toNat = e.1 →
      ∃ t, Completes (.swr f) s t ∧ t.readSreg e.1 = some (s.rx f.a &&& e.2) ∧
        (∀ n, n ≠ e.1 → t.readSreg n = s.readSreg n) ∧ (∀ r, t.rx r = s.rx r) ∧ OnlyMe s t) ∧
    (s.Fit (.swrCodeBounds f) →
      let w := s.rx f.a
      let base := if f.sreg = 0x010 then w else s.me.cbase
      let bound := if f.sreg = 0x010 then s.me.cbound else w
      (s.me.sup = false → Traps (.swrCodeBounds f) s 3 (encode (.swrCodeBounds f)) 0) ∧
      (s.me.sup = true → s.boundsOk base bound = false → Traps (.swrCodeBounds f) s 5 w 0) ∧
      (s.me.sup = true → s.boundsOk base bound = true →
        Completes (.swrCodeBounds f) s (s.updMe fun c => { c with cbase := base, cbound := bound })))) ∧
  (∀ s : State, s.readSreg 0x000 = some (s.me.tcause.zeroExtend 64) ∧ s.readSreg 0x001 = some s.me.tval ∧
    s.readSreg 0x002 = some s.me.tpc ∧ s.readSreg 0x00C = some ((s.me.tl ++ s.me.cp ++ s.me.st ++ s.me.ld).zeroExtend 64) ∧
    s.readSreg 0x0F0 = some (if s.four then 0xFF else 0xF9) ∧ s.readSreg 0x102 = some s.gtime) ∧
  (∀ (f : RI) (s : State), s.Fit (.trap f) → Traps (.trap f) s 28 (f.imm.zeroExtend 64) 0) ∧
  (∀ (f : RR) (s : State), s.Fit (.eret f) →
    let c := s.me
    let blk := pcBlock c.tpc
    let idx := pcIndex c.tpc
    let h := (s.fetch s.myCore blk).1
    (pcIndex c.pc ≠ hdrLen c.hdr → Traps (.eret f) s 1 (encode (.eret f)) 0) ∧
    (pcIndex c.pc = hdrLen c.hdr → (c.inCode blk = false → Traps (.eret f) s 5 (BitVec.ofNat 64 blk) 0) ∧
      (c.inCode blk = true → headerOk h = false → TrapsAfter (.eret f) s (s.fetch s.myCore blk).2 1 (BitVec.ofNat 64 blk) 0) ∧
      (c.inCode blk = true → headerOk h = true → idx ≤ hdrLen h → ∃ t, exec (.eret f) s = .next t ∧ SameBytes s t ∧ t.me.x = c.x ∧
        t.me.v = c.v ∧ t.me.k = c.k ∧ t.me.c = c.c ∧ t.me.hdr = h ∧ pcBlock t.me.pc = blk ∧
        let past := c.tcause.extractLsb' 0 8 = 2#8 ∨ c.tcause.extractLsb' 0 8 = 28#8
        (c.tcause.getLsbD 15 = true → t.me.mode = .blockEnd) ∧
        (c.tcause.getLsbD 15 = false → past → idx < hdrLen h → t.me.mode = .ready ∧ pcIndex t.me.pc = idx + 1) ∧
        (c.tcause.getLsbD 15 = false → past → idx = hdrLen h → t.me.mode = .blockEnd) ∧
        (c.tcause.getLsbD 15 = false → ¬past → t.me.mode = .ready ∧ pcIndex t.me.pc = idx)))) ∧
  (∀ (f : RR) (s : State), s.Fit (.eccInj f) →
    let va := s.rx f.a
    let ctl := s.rx f.b
    let permit : Prop := ∃ c, (s.vf s.myVf).cfg = some c ∧ c.inject = true
    (¬permit → Traps (.eccInj f) s 3 (encode (.eccInj f)) 0) ∧
    (permit → (3 < ctl.toNat → Traps (.eccInj f) s 29 ctl 0) ∧
      (ctl = 2 → Completes (.eccInj f) s (s.updMe fun c => { c with mismatch := 1 })) ∧
      (ctl = 3 → Completes (.eccInj f) s (s.updMe fun c => { c with mismatch := 2 })) ∧
      (ctl.toNat < 2 → s.me.st ≠ 255 → va.toNat % 8 ≠ 0 → Traps (.eccInj f) s 13 va 0) ∧
      (ctl.toNat < 2 → s.me.st ≠ 255 → va.toNat % 8 = 0 → ∀ h, s.translate s.cur va true = .ok h → Completes (.eccInj f) s
        ((h.st.pushOp (pteKey h.w0) 0 (.inject (decide (ctl = 1)) h.loc)).updMe fun c => { c with st := c.st + 1 })))) ∧
  (∀ (f : MF) (s : State) (cfg : VfCfg), s.Fit (.icinv f) → (s.vf s.myVf).cfg = some cfg →
    let hit (a : Nat) : Prop := cfg.abase ≤ a ∧ a < cfg.abase + cfg.asize ∧
      overlaps (lineOf a) 64 (s.rx f.a + f.off.signExtend 64).toNat (s.rx f.b).toNat = true
    ∃ t, Completes (.icinv f) s t ∧ t.ctxs = s.ctxs ∧ SameBytes s t ∧ ∀ core e, e ∈ (t.core core).icache ↔
      e ∈ (s.core core).icache ∧ ¬(inScope f.scope s.myCore core = true ∧ hit e.1)) ∧
  (∀ (f : MF) (s : State), s.Fit (.tlbinv f) → (s.me.sup = false → Traps (.tlbinv f) s 3 (encode (.tlbinv f)) 0) ∧
    (s.me.sup = true → Sleeps (.tlbinv f) s (.tlbinv f (s.releaseSet s.cur)) s)) ∧
  ∀ (f : MF) (s : State) (k : Nat) (ids : List Nat), (s.ctx k).mode = .asleep (.tlbinv f ids) → (s.ctx k).mismatch = 0 →
    s.coreRuns (coreOfCtx k) = true →
    (s.setComplete k f.scope ids = false → exec (.sleepWake k) s = .next s) ∧
    (s.setComplete k f.scope ids = true → ∃ t, exec (.sleepWake k) s = .next t ∧ SameBytes s t ∧ (t.ctx k).x = (s.ctx k).x ∧
      (t.ctx k).mode = (if pcIndex (s.ctx k).pc = hdrLen (s.ctx k).hdr then .blockEnd else .ready) ∧
      let hit (e : TlbEntry) : Prop := e.vf = vfOf (s.gang ((s.gangOfCore (coreOfCtx k)).getD 0)).vfq ∧ overlaps e.base e.size
        ((s.ctx k).rx f.a + f.off.signExtend 64).toNat ((s.ctx k).rx f.b).toNat = true
      (∀ e ∈ (t.shed (shedOfCtx k)).tlb, e ∈ (s.shed (shedOfCtx k)).tlb ∧ ¬hit e) ∧
      ∀ core, inScope f.scope (coreOfCtx k) core = true → ∀ e ∈ (t.core core).tlb, e ∈ (s.core core).tlb ∧ ¬hit e)

/-- R161, R162, R164, R165, R167, R169, R170, R172, R174, R175: clk.rd gives CLKGRANT, the gang's request and the ticks
of the last and the next possible change (that selector 2 gives the tick at which the change landed, and selector 3
counts from the tick at which it began, is assumption 29); clk.req replaces the request, gives the old one and asks for
an evaluation; clk.ack clears its event bits and gives them; pwr.rd gives the queue's joules (in whole microjoules,
assumption 91), its period and the tick at which that began, and the package's estimate and cap; an index or value out
of range traps with cause 23. A choice of the arbiter is a fitting entry of least score, and where none fits an entry of
least power. A change of the cap balls asks for an evaluation; an evaluation clears the request for it; each one
deferred waits for its own tick; a transition of 2000 ticks that ends gives each touched shed of the running gang its
new codes with the next SEQ, or only ends its mark, and leaves the grant of a shed whose gang has stopped for its switch
as it is; charging clears the activity counters; a period's begin clears charge and warning. -/
def Obligations.ClockGrantsAndEnergyBudgets : Prop :=
  (∀ (f : RR) (s : State),
    let xa := s.rx f.a
    let g := s.gang s.myGang
    let q := s.queue g.vfq
    (s.Fit (.clkRd f) → (3 < xa.toNat → Traps (.clkRd f) s 23 xa 0) ∧
      (xa = 0 → Completes (.clkRd f) s (s.wx f.d (s.shed s.myShed).clkGrant)) ∧
      (xa = 1 → Completes (.clkRd f) s (s.wx f.d (g.clkreq.zeroExtend 64))) ∧
      (xa = 2 → Completes (.clkRd f) s (s.wx f.d (BitVec.ofNat 64 (s.shed s.myShed).lastChange))) ∧
      (xa = 3 → Completes (.clkRd f) s (s.wx f.d (BitVec.ofNat 64 (max g.changeTick g.releaseTick + 100000))))) ∧
    (s.Fit (.clkReq f) → (2 ^ 32 ≤ xa.toNat ∨ reqOk (xa.setWidth 32) = false → Traps (.clkReq f) s 23 xa 0) ∧
      (xa.toNat < 2 ^ 32 → reqOk (xa.setWidth 32) = true → ∃ t, Completes (.clkReq f) s t ∧
        (t.gang s.myGang).clkreq = xa.setWidth 32 ∧ t.power.evaluate = true ∧ SameBytes s t ∧
        t.rx f.d = (if f.d = 0 then 0 else g.clkreq.zeroExtend 64) ∧ ∀ r, r ≠ f.d → t.rx r = s.rx r)) ∧
    (s.Fit (.clkAck f) → (xa &&& ~~~0x11 ≠ 0 → Traps (.clkAck f) s 23 xa 0) ∧ (xa &&& ~~~0x11 = 0 →
      Completes (.clkAck f) s ((s.updMe fun c => { c with event := c.event &&& ~~~(xa.setWidth 5) }).wx f.d
        ((s.eventBits s.cur).zeroExtend 64)))) ∧
    (s.Fit (.pwrRd f) → (5 < xa.toNat → Traps (.pwrRd f) s 23 xa 0) ∧
      (xa = 0 → Completes (.pwrRd f) s (s.wx f.d (if q.budget = 0 then BitVec.allOnes 64 else BitVec.ofNat 64 (q.budget - q.energy)))) ∧
      (xa = 1 → Completes (.pwrRd f) s (s.wx f.d (BitVec.ofNat 64 q.energy))) ∧
      (xa = 2 → Completes (.pwrRd f) s (s.wx f.d (BitVec.ofNat 64 q.period))) ∧
      (xa = 3 → Completes (.pwrRd f) s (s.wx f.d (BitVec.ofNat 64 (s.now / q.period * q.period)))) ∧
      (xa = 4 → Completes (.pwrRd f) s (s.wx f.d (BitVec.ofNat 64 s.est))) ∧
      (xa = 5 → Completes (.pwrRd f) s (s.wx f.d (BitVec.ofNat 64 s.cap))))) ∧
  (∀ (fits : Nat → Nat → Bool) (l : List (Nat × Nat × Nat × Nat × Nat)),
    ((∃ e ∈ l, fits e.1 e.2.1 = true) → ∃ e ∈ l, e.1 = bestEntry fits l ∧ fits e.1 e.2.1 = true ∧
      ∀ d ∈ l, fits d.1 d.2.1 = true → e.2.2.1 ≤ d.2.2.1) ∧
    (l ≠ [] → (∀ e ∈ l, fits e.1 e.2.1 = false) → ∃ e ∈ l, e.1 = bestEntry fits l ∧ ∀ d ∈ l, e.2.1 ≤ d.2.1)) ∧
  ∀ s : State,
    (∀ sel, ∃ t, exec (.capSelectChange sel) s = .next t ∧ t.power.capsel = sel ∧ t.power.evaluate = true ∧ SameBytes s t ∧
      t.ctxs = s.ctxs ∧ (sel = 0 → t.cap = s.power.capA) ∧ (sel = 1 → t.cap = s.power.capB) ∧ (sel = 2 → t.cap = s.power.capC)) ∧
    (s.power.evaluate = true → ∃ t, exec .arbiterEvaluate s = .next t ∧ t.power.evaluate = false ∧ SameBytes s t ∧
      t.ctxs = s.ctxs) ∧
    (∀ tick rest, s.power.deferred = tick :: rest → (s.now < tick → exec .deferredEvaluation s = .next s) ∧
      (tick ≤ s.now → exec .deferredEvaluation s =
        .next ({ s with power := { s.power with deferred := rest } } : State).arbitrate)) ∧
    (∃ t, exec .clockTransitionEnd s = .next t ∧ (∀ e ∈ t.power.rowMove, s.now < e.2.1 + 2000) ∧
      (∀ e ∈ t.power.qtrMove, s.now < e.2.1 + 2000) ∧
      let runs (g : Gang) : Bool := g.state = .resident || (g.state = .switching && g.switchAt.isSome)
      (∀ d, (∀ e ∈ s.gangs, runs e.2 = true → d ∉ e.2.sheds) → (t.shed d).clkGrant = (s.shed d).clkGrant) ∧
      ∀ n g, s.gangs.filter (fun e => runs e.2) = [(n, g)] → g.sheds.Nodup → ∀ d ∈ g.sheds,
        (∃ e ∈ s.power.rowMove, e.1 = rowKey d ∧ e.2.1 + 2000 ≤ s.now) →
        (∀ e ∈ s.power.rowMove, e.1 = rowKey d → e.2.1 + 2000 ≤ s.now) →
        (∀ e ∈ s.power.qtrMove, e.1 = qtrOfShed d → e.2.1 + 2000 ≤ s.now) →
        let old := (s.shed d).clkGrant
        (grantView old = s.grantCodes d → (t.shed d).clkGrant = old &&& ~~~0x80000000) ∧
        (grantView old ≠ s.grantCodes d → (t.shed d).clkGrant =
            s.grantCodes d ||| BitVec.ofNat 64 ((grantSeq old + 1) % 2 ^ 16 * 2 ^ 32) ∧ (t.shed d).lastChange = s.now ∧
          ∀ k, shedOfCtx k = d → (s.ctx k).mode.live = true → (t.ctx k).event.getLsbD 0 = true)) ∧
    (s.now % 1000 = 0 → ∃ t, exec .energyCharge s = .next t ∧ SameBytes s t ∧ (∀ n, (s.queue n).charge ≤ (t.queue n).charge) ∧
      ∀ e ∈ s.gangs, e.2.state = .resident → (t.gang e.1).activity = Vector.replicate 7 0) ∧
    ∀ n, (s.queue n).period ≠ 0 → s.now % (s.queue n).period = 0 → ∃ t, exec (.periodRefill n) s = .next t ∧ SameBytes s t ∧
      (t.queue n).charge = 0 ∧ (t.queue n).periodStart = s.now ∧ (t.queue n).warned = false ∧ (t.queue n).exhausted = false ∧
      t.power.evaluate = true

/-- R251, R317, R319, R322, R323, R390, R391, R392, R394, R396, R397, R395: copy, copy2, get, put, puta, wsig and digest
complete, with cp below 255 and a legal descriptor at an aligned address, by adding one operation of that descriptor
that has moved nothing, counted in cp (its loads of the descriptor may evict and merge a line of a partial, R279, and
change no other byte); a misaligned address, an illegal descriptor and a place outside trap with their causes.
coll.start joins the core's next collective and gives the lowest free handle, or sleeps; the collective completes once
every member that is not lost is not switched out and has joined and contributed, with the combination in member order
written to every buffer, or with the status of a lost member; coll.wait gives the status and frees the handle, after a
whole collective once the result stands in the member's buffer, over stores that the member made to it meanwhile. buoy,
once the context's counters are 0, names the next instruction in its slot register and buffers the 128 words of the
record. buoy.seal sleeps until its release set, with the gang's writes that a reset has lost and the context had in
view, is durable (a lost one of the covered range once the places it held are written again, assumption 21) and then
writes the seal record of its epoch's half to both copies, gives the epoch, and remembers anchor and epoch; lh.st reads
the state of the layers, the anchor and the epoch. -/
def Obligations.EnginesCollectivesAndSealsBegin : Prop :=
  (∀ w0 w1 w2 w3 w4 w5 w6 w7 : Word, let d := engDesc [w0, w1, w2, w3, w4, w5, w6, w7]
    d.dst = w0 ∧ d.src = w1 ∧ d.len = w2.extractLsb' 0 32 ∧ d.flags = w2.extractLsb' 32 16 ∧ d.peer = w2.extractLsb' 48 16 ∧
    d.place = w3 ∧ d.sig = w4 ∧ d.sigval = w5 ∧ d.aux = w6 ∧ d.nidx = w7.extractLsb' 0 32 ∧ d.elem = w7.extractLsb' 32 32) ∧
  (∀ (f : RR) (s : State),
    let xa := s.rx f.a
    (∀ e ∈ ([(.copy f, 0), (.copy2 f, 1), (.get f, 2), (.put f, 3), (.puta f, 4), (.wsig f, 5), (.digest f, 6)] : List (Instr × Nat)),
      s.Fit e.1 → s.me.cp ≠ 255 → (xa.toNat % 8 ≠ 0 → Traps e.1 s 13 xa 0) ∧
      (xa.toNat % 8 = 0 → ∀ ws t, s.syncLoad s.cur xa 8 = .ok ws t →
        (descOk s e.2 (engDesc ws) = false → TrapsAfter e.1 s t 25 xa 0) ∧
        (descOk s e.2 (engDesc ws) = true → farShed s e.2 (engDesc ws) = none → TrapsAfter e.1 s t 4 (engDesc ws).place 0) ∧
        (descOk s e.2 (engDesc ws) = true → ∀ far, farShed s e.2 (engDesc ws) = some far → ∃ u x, Completes e.1 s u ∧
          u.ord.engines.get? t.next = some x ∧ x.desc = engDesc ws ∧ x.func = e.2 ∧ x.addr = xa ∧ x.far = far ∧ x.core = s.myCore ∧
          x.ctx = s.cur ∧ x.moved = [] ∧ x.writes = [] ∧ u.me.cp = s.me.cp + 1 ∧ u.me.x = s.me.x ∧ SameButMerges s u))) ∧
    (s.Fit (.collStart f) → s.me.cp ≠ 255 → (xa.toNat % 8 ≠ 0 → Traps (.collStart f) s 13 xa 0) ∧
      (xa.toNat % 8 = 0 → ∀ ws t, s.syncLoad s.cur xa 4 = .ok ws t →
        (collDescOk s ws = false → TrapsAfter (.collStart f) s t 27 xa 0) ∧
        (collDescOk s ws = true → lowestFree (s.core s.myCore).handles = none → Sleeps (.collStart f) s (.again (.collStart f)) (s.readBy t)) ∧
        (collDescOk s ws = true → ∀ n, lowestFree (s.core s.myCore).handles = some n → ∃ u hd cl j, Completes (.collStart f) s u ∧
          n < 16 ∧ (∀ i < n, ((s.core s.myCore).handles.get? i).isSome = true) ∧ u.rx f.d = (if f.d = 0 then 0 else BitVec.ofNat 64 n) ∧
          (u.core s.myCore).handles.get? n = some hd ∧ u.ord.colls.get? hd.coll = some cl ∧ cl.role = s.myRole ∧
          cl.joined.get? hd.member = some j ∧ j.ctx = ctxNo s.cur ∧ j.addr = xa ∧ j.buf = ws.getD 0 0 ∧ j.word1 = ws.getD 1 0 ∧
          j.contrib = none ∧ u.me.cp = s.me.cp + 1 ∧ SameButMerges s u))) ∧
    (s.Fit (.collWait f) → (16 ≤ xa.toNat → Traps (.collWait f) s 27 xa 0) ∧
      (∀ hd cl j, xa.toNat < 16 → (s.core s.myCore).handles.get? xa.toNat = some hd → s.ord.colls.get? hd.coll = some cl →
        cl.joined.get? hd.member = some j → cDrain j.word1 = false →
        (cl.done = none → Sleeps (.collWait f) s (.again (.collWait f)) s) ∧
        (cl.done = some collDiffers → Traps (.collWait f) s 27 xa 0) ∧
        (∀ st, cl.done = some st → st ≠ collDiffers → st ≠ 0 → Completes (.collWait f) s
          ((s.updCore s.myCore fun c => { c with handles := c.handles.del xa.toNat }).wx f.d st)) ∧
        (cl.done = some 0 → ∀ t ids, s.writeElems s.myCore (11 * s.myCore + j.ctx)
            (fun t loc off => !j.refused && t.overwritten s.myCore s.myQtr cl.writes loc off) j.buf cl.result = .ok (t, ids) →
          let landed := t.landed s.myQtr (cl.writes.filter fun i => match s.writeAt i with
            | some w => (ctxsOfCore s.myCore).contains w.who || w.who = savedWriter s.myGang
            | none => false)
          (landed = false → Sleeps (.collWait f) s (.again (.collWait f)) s) ∧
          (landed = true → ∃ u, Completes (.collWait f) s u ∧ SameBytes t u ∧ (u.core s.myCore).handles.get? xa.toNat = none ∧
            u.rx f.d = 0 ∧ ∀ r, r ≠ f.d → u.rx r = s.rx r))))) ∧
  (∀ (s : State) (coll : Nat) (cl : Coll), s.ord.colls.get? coll = some cl → cl.done = none →
    let ms := s.collMembers cl
    ms ≠ [] → (s.collGangs cl).all (·.isSome) = true →
    (∀ m ∈ ms, memberLost s cl m = false → (cl.joined.get? m).isSome = true ∧
      (s.gangRuns (memberGang m) = true ∨ (s.gang (memberGang m)).state = .complete)) →
    (∀ c, lostMember s cl ms = some c → (∃ m ∈ ms, memberLost s cl m = false) → ∃ t x, exec (.collectiveComplete coll) s = .next t ∧
      t.ord.colls.get? coll = some x ∧ x.done = some (BitVec.ofNat 64 (1 + 2 ^ 16 * c)) ∧ SameBytes s t ∧ t.ctxs = s.ctxs) ∧
    (∀ (js : List (Nat × Join)) (w : Word), lostMember s cl ms = none → js.map (·.1) = ms →
      (∀ e ∈ js, cl.joined.get? e.1 = some e.2 ∧ e.2.word1 = w ∧ e.2.contrib.isSome = true ∧ e.2.parked = none ∧ e.2.refused = false) →
      (∀ e ∈ cl.joined, ∃ j, (e.1, j) ∈ js ∧ e.2 = j) → (∀ p ∈ cl.parts, p.1 = Config.fabricAddress) →
      (∃ p ∈ cl.parts, (s.queue p.2).bulk = false) → ∀ t ids,
      s.writeMembers ((List.range (cCount w)).map fun n => combine (cOp w) false 0 (js.map fun e => (e.2.contrib.getD []).getD n 0)) js
        = .ok (t, ids) →
      ∃ u x, exec (.collectiveComplete coll) s = .next u ∧ u.ord.colls.get? coll = some x ∧ x.done = some 0 ∧ SameBytes t u ∧
        u.ctxs = t.ctxs)) ∧
  (∀ (code : Nat) (v : BitVec 32) (vs : List (BitVec 32)), combine 1 false code (v :: vs) = vs.foldl (· + ·) v ∧
    combine 0 false code (v :: vs) = vs.foldl addFp v) ∧
  (∀ (f : RR) (s : State),
    let xa := s.rx f.a
    let xb := s.rx f.b
    (s.Fit (.buoy f) → pcIndex s.me.pc ≠ hdrLen s.me.hdr → xb.extractLsb' 2 6 = 0#6 → xb.extractLsb' 8 56 ≠ 0#56 →
      xa.toNat % 1024 = 0 →
      (s.me.st ≠ 0 → Sleeps (.buoy f) s (.again (.buoy f)) s) ∧
      (s.me.ld = 0 → s.me.st = 0 → s.me.cp = 0 → s.me.tl = 0 → s.mySeq.left = 0 → ∀ h, s.translate s.cur xa true = .ok h →
        (pteDur h.w0 = false → Traps (.buoy f) s 1 xa 0) ∧
        (pteDur h.w0 = true → ∃ (t : State) (ws : Nat → Word), Completes (.buoy f) s t ∧ t.me.st = 128 ∧ SameBytes s t ∧ t.me.x = s.me.x ∧
          t.me.buoy[(xb.extractLsb' 0 2).toNat] = mkPc (pcIndex s.me.pc + 1) (pcBlock s.me.pc) ∧
          t.me.ops.map (·.kind) = s.me.ops.map (·.kind) ++
            (List.range 128).map (fun n => OpKind.write (h.loc + 8 * n) 0xFF (ws n) none none []) ∧
          ws 0 = xb >>> 8 ∧ ws 1 = mkPc (pcIndex s.me.pc + 1) (pcBlock s.me.pc) ∧ ws 4 = s.me.y0 ∧ ws 5 = s.me.y1 ∧
          (∀ r : BitVec 5, ws (8 + r.toNat) = s.rx r) ∧ ∀ r : BitVec 5, ws (40 + 2 * r.toNat) = (s.rv r).extractLsb' 0 64 ∧
            ws (41 + 2 * r.toNat) = (s.rv r).extractLsb' 64 64))) ∧
    (s.Fit (.buoySeal f) → (xa.toNat % 4096 ≠ 0 → Traps (.buoySeal f) s 1 xa 0) ∧
      (xa.toNat % 4096 = 0 → xb.toNat % 8 = 0 → ∀ h, s.translate s.cur xa true = .ok h → pteDur h.w0 = true → ∀ ws t,
        h.st.syncLoad s.cur xb 8 = .ok ws t → (∀ v, imageFault ws = some v → TrapsAfter (.buoySeal f) s t 1 v 0) ∧
        (imageFault ws = none → Sleeps (.buoySeal f) s (.seal f (t.releaseSet s.cur ++ t.lostSeen s.myGang s.myQtr) ws) t))) ∧
    (s.Fit (.lhSt f) → (2 < xa.toNat → Traps (.lhSt f) s 1 xa 0) ∧
      (xa = 1 → Completes (.lhSt f) s (s.wx f.d (s.gang s.myGang).anchor)) ∧
      (xa = 2 → Completes (.lhSt f) s (s.wx f.d (s.gang s.myGang).lastEpoch)) ∧
      (xa = 0 → s.myQtr < 4 → ∃ w, Completes (.lhSt f) s (s.wx f.d w) ∧ w.getLsbD 0 = (s.quarterAt s.myQtr).inService ∧
        w.getLsbD 1 = (s.quarterAt (partner s.myQtr)).inService ∧
        w.getLsbD 2 = ((s.quarterAt s.myQtr).resync || (s.quarterAt (partner s.myQtr)).resync) ∧
        w.getLsbD 3 = (s.quarterAt (partner s.myQtr)).up ∧ (w.extractLsb' 16 32).toNat = min (s.dirtyDurable s.myQtr) (2 ^ 32 - 1)))) ∧
  ∀ (f : RR) (s : State) (k : Nat) (ids : List Nat) (image : List Word), (s.ctx k).mode = .asleep (.seal f ids image) →
    (s.ctx k).mismatch = 0 → s.coreRuns (coreOfCtx k) = true →
    let own := (s.gangOfCore (coreOfCtx k)).getD 0
    (s.sealReleased k own ids image = false → exec (.sleepWake k) s = .next s) ∧
    (s.sealReleased k own ids image = true → s.memoryWf = true → image.length = 8 → ∀ h, s.translate k ((s.ctx k).rx f.a) true = .ok h → pteDur h.w0 = true →
      let e := image.getD 0 0
      let loc := h.loc + 64 * (e.toNat % 2)
      let g := (s.gangOfCore (coreOfCtx k)).getD 0
      (∀ i < 8, s.copyWorks (loc + 8 * i) false = true ∧ s.copyWorks (loc + 8 * i) true = true) →
      ∃ t, exec (.sleepWake k) s = .next t ∧ (t.gang g).anchor = (s.ctx k).rx f.a ∧ (t.gang g).lastEpoch = e ∧
        (t.ctx k).rx f.d = (if f.d = 0 then 0 else e) ∧
        (∀ i < 8, i ≠ 3 → Memory.dword t.ord.prim (loc + 8 * i) = image.getD i 0 ∧ Memory.dword t.ord.mirr (loc + 8 * i) = image.getD i 0) ∧
        Memory.dword t.ord.prim (loc + 24) = (s.gang g).sealName ∧ Memory.dword t.ord.mirr (loc + 24) = (s.gang g).sealName)

/-- 12_arith_matrix_conversion.md, R36, R237, R238, R239, R240, R245, R247, R248, R249, R253, R254: A tile instruction
whose guard bit is 0 completes with no effect; one whose registers break R237 takes the tile-descriptor trap with the
value; otherwise, with room for a fifth and tl below 255, it completes with an operation of those registers behind the
others, counted in tl; where the slice's queue is full its context stays STALLED. zset and zclr set one zero-flag bit.
The members of a row barrier join once each has an unjoined gmma at its head, and abandon where their shapes differ. A
finished head retires: its flags are merged, tl falls and ROWPROG shows it. A first checksum mismatch makes a group
again; a second one on it contains the core. A turn of a slice on its head operation: an abandoned one, all of whose
accesses have drained, goes with its trap; one parked, finished, not joined or not ready stays; one not begun begins; a
tzero makes every element +0; a group of tmma or gmma adds to every element of each joined member's accumulator the
exact sum of its 16 products, rounded once to f32 (in 32 bits modulo 2^32 for INT8), with its flags, and changes no
other accumulator; a page of another format abandons with cause 16, and a fault parks with its referral; a tdrain stores
one row of 64 elements, as they are or rounded to bf16, to places that translate, apart from each other and from what is
read after; tdrain.coll puts the row into the collective. cvt.t checks its addresses, does nothing for 0 elements, and
otherwise queues; a turn converts the next at most 64 elements, the exact value times the scale rounded once, with flags
and the magnitude of R254; a finished conversion merges its flags and the larger magnitude into AMAX; amax.rd and
amax.clr give AMAX, the record, or clear it. No byte of memory changes at issue or retirement. -/
def Obligations.TileAndConversionOperationsQueueAndRetire : Prop :=
  (∀ (f : TF) (s : State),
    (∀ e ∈ ([(.tzero f, 0, none), (.tmma f, 1, productCheck f s), (.gmma f, 2, productCheck f s), (.tdrain f, 3, drainCheck f s),
        (.tdrainColl f, 4, collDrainCheck f s)] : List (Instr × Nat × Option Word)), s.Fit e.1 →
      (f.zen = 1 → (s.core s.myCore).z.getLsbD f.zp.toNat = false → Completes e.1 s s) ∧
      ((f.zen = 0 ∨ (s.core s.myCore).z.getLsbD f.zp.toNat = true) →
        (∀ v, e.2.2 = some v → Traps e.1 s 17 v 0) ∧
        (e.2.2 = none → s.me.tl = 255 → Sleeps e.1 s (.again e.1) s) ∧
        (e.2.2 = none → s.me.tl ≠ 255 → 4 ≤ (s.core s.myCore).tiles.length → exec e.1 s = .next s) ∧
        (e.2.2 = none → s.me.tl ≠ 255 → (s.core s.myCore).tiles.length < 4 → ∃ t op, Completes e.1 s t ∧
          (t.core s.myCore).tiles = (s.core s.myCore).tiles ++ [op] ∧ op.func = e.2.1 ∧ op.ctx = s.cur ∧ op.acc = f.acc ∧
          op.atype = f.atype ∧ op.btype = f.btype ∧ op.a = s.rx f.a ∧ op.b = s.rx f.b ∧ op.c = s.rx f.c ∧ op.d = s.rx f.d ∧
          op.started = false ∧ op.done = 0 ∧ op.abort = none ∧ t.me = { s.me with tl := s.me.tl + 1 } ∧ SameBytes s t ∧
          (t.core s.myCore).acc = (s.core s.myCore).acc))) ∧
    (∀ e ∈ ([(.zset f, decide (s.rx f.a ≠ 0)), (.zclr f, false)] : List (Instr × Bool)), s.Fit e.1 → ∃ t, Completes e.1 s t ∧
      t.ctxs = s.ctxs ∧ SameBytes s t ∧ ∀ i < 16, (t.core s.myCore).z.getLsbD i =
        if i = f.d.toNat % 16 then e.2 else (s.core s.myCore).z.getLsbD i)) ∧
  (∀ (s : State) (gang row : Nat),
    let g := s.gang gang
    let lead := (g.rowCores row).headD 0
    s.gangRuns gang = true → g.rowCores row ≠ [] →
    (∀ c ∈ g.rowCores row, (s.core c).contained = none ∧ ∃ o, s.tileHead c = some o ∧ o.func = 2 ∧ o.joined = false) →
    ∃ t, exec (.gmmaJoin gang row) s = .next t ∧ SameBytes s t ∧ t.ctxs = s.ctxs ∧
      ((∀ c ∈ g.rowCores row, ∀ o l, s.tileHead c = some o → s.tileHead lead = some l → o.d = l.d ∧ o.atype = l.atype ∧ o.btype = l.btype) →
        ∀ c ∈ g.rowCores row, ∃ o, t.tileHead c = some o ∧ o.joined = true ∧ o.leader = lead ∧ o.abort = none) ∧
      (¬(∀ c ∈ g.rowCores row, ∀ o l, s.tileHead c = some o → s.tileHead lead = some l → o.d = l.d ∧ o.atype = l.atype ∧ o.btype = l.btype) →
        ∀ c ∈ g.rowCores row, ∃ o, t.tileHead c = some o ∧ o.abort = some (17, o.d, 0))) ∧
  (∀ (s : State) (core : Nat) (op : TileOp), s.tileHead core = some op → s.coreRuns core = true → op.parked = none →
    (op.abort = none → op.total ≤ op.done → ∃ t, exec (.tileOpRetire core) s = .next t ∧ SameBytes s t ∧
      (t.core core).tiles = (s.core core).tiles.tail ∧ (t.core core).acc = (s.core core).acc ∧
      (t.core core).rowprog = (if op.func = 0 then (s.core core).rowprog else rowprogWord 0 op) ∧
      t.ctx op.ctx = { s.ctx op.ctx with fstat := (s.ctx op.ctx).fstat ||| op.flags,
                                         tl := if (s.ctx op.ctx).tl = 0 then 0 else (s.ctx op.ctx).tl - 1 }) ∧
    (op.started = true → op.done < op.total → op.func ≠ 0 →
      (op.mismatch = 0 → ∃ t, exec (.checksumMismatch core) s = .next t ∧ SameBytes s t ∧ t.ctxs = s.ctxs ∧
        t.tileHead core = some { op with mismatch := 1 }) ∧
      (1 ≤ op.mismatch → exec (.checksumMismatch core) s = .next (s.containEvent core 2)))) ∧
  (∀ (f : RR) (s : State),
    let n := s.rx f.d
    let c := s.core s.myCore
    (s.Fit (.cvtT f) →
      ((s.rx f.a).toNat % (typeWidth f.c.toNat / 8) ≠ 0 → Traps (.cvtT f) s 17 (s.rx f.a) 0) ∧
      ((s.rx f.a).toNat % (typeWidth f.c.toNat / 8) = 0 → (s.rx f.b).toNat % (typeWidth f.ty.toNat / 8) ≠ 0 →
        Traps (.cvtT f) s 17 (s.rx f.b) 0) ∧
      ((s.rx f.a).toNat % (typeWidth f.c.toNat / 8) = 0 → (s.rx f.b).toNat % (typeWidth f.ty.toNat / 8) = 0 →
        (n.extractLsb' 0 32 = 0#32 → Completes (.cvtT f) s s) ∧
        (n.extractLsb' 0 32 ≠ 0#32 → s.me.tl ≠ 255 → ∃ t op, Completes (.cvtT f) s t ∧ (t.core s.myCore).cvt = c.cvt ++ [op] ∧
          op.ctx = s.cur ∧ op.n = (n.extractLsb' 0 32).toNat ∧ op.scale = n.extractLsb' 32 32 ∧ op.src = s.rx f.a ∧
          op.dst = s.rx f.b ∧ op.ty = f.ty ∧ op.done = 0 ∧ t.me = { s.me with tl := s.me.tl + 1 } ∧ SameBytes s t))) ∧
    (s.Fit (.amaxRd f) → (s.rx f.a = 0 → Completes (.amaxRd f) s (s.wx f.d (c.amax.zeroExtend 64))) ∧
      (s.rx f.a = 1 → Completes (.amaxRd f) s (s.wx f.d c.cvtRec)) ∧
      (s.rx f.a ≠ 0 → s.rx f.a ≠ 1 → Traps (.amaxRd f) s 17 (s.rx f.a) 0)) ∧
    (s.Fit (.amaxClr f) → Completes (.amaxClr f) s ((s.wx f.d (c.amax.zeroExtend 64)).updCore s.myCore fun c => { c with amax := 0 }))) ∧
  (∀ (s : State) (core : Nat) (op : CvtOp), (s.core core).cvt.head? = some op → s.coreRuns core = true → op.parked = none →
    op.abort = none → op.n ≤ op.done → ∃ t, exec (.cvtRetire core) s = .next t ∧ SameBytes s t ∧ (t.core core).cvt = (s.core core).cvt.tail ∧
      (t.core core).cvtRec = cvtRecord 0 op ∧ (t.core core).amax.getLsbD 31 = ((s.core core).amax.getLsbD 31 || op.candN) ∧
      ((t.core core).amax.extractLsb' 0 31).toNat = max ((s.core core).amax.extractLsb' 0 31).toNat op.candMag.toNat ∧
      t.ctx op.ctx = { s.ctx op.ctx with fstat := (s.ctx op.ctx).fstat ||| op.flags,
                                         tl := if (s.ctx op.ctx).tl = 0 then 0 else (s.ctx op.ctx).tl - 1 }) ∧
  (∀ (s : State) (core : Nat) (op : TileOp), s.tileHead core = some op → s.coreRuns core = true →
    let u := s.tileTurn core
    let abandoned (cause : BitVec 8) (tval : Word) (tinfo : BitVec 8) : Prop := ∃ t, u = t.deliverTrap op.ctx cause tval tinfo ∧
      SameBytes s t ∧ (t.core core).tiles = (s.core core).tiles.tail ∧ (t.core core).acc = (s.core core).acc ∧
      (t.core core).rowprog = (if op.func = 0 then (s.core core).rowprog else rowprogWord 3 op) ∧
      t.ctx op.ctx = { s.ctx op.ctx with fstat := (s.ctx op.ctx).fstat ||| op.flags,
                                         tl := if (s.ctx op.ctx).tl = 0 then 0 else (s.ctx op.ctx).tl - 1 }
    (∀ cause tval tinfo, op.abort = some (cause, tval, tinfo) → op.carry = [] → abandoned cause tval tinfo) ∧
    (op.abort = none → (op.parked.isSome = true ∨ op.total ≤ op.done ∨ s.tileReady op = false ∨ (op.func = 2 ∧ op.joined = false)) → u = s) ∧
    (op.abort = none → op.parked = none → op.done < op.total → s.tileReady op = true → (op.func = 2 → op.joined = true) →
      (op.started = false → SameBytes s u ∧ u.ctxs = s.ctxs ∧ (u.core core).acc = (s.core core).acc ∧
        u.tileHead core = some { op with started := true, slots := (s.shed (shedOfCore core)).slots }) ∧
      (op.started = true →
        (op.func = 0 → SameBytes s u ∧ u.ctxs = s.ctxs ∧ u.tileHead core = some { op with done := 1 } ∧
          ∀ n i j, i < 64 → j < 64 → (u.core core).cell n i j = if n = op.acc.toNat then 0 else (s.core core).cell n i j) ∧
        ((op.func = 1 ∨ op.func = 2) →
          let mates := s.tileMates core op
          (op.func = 2 → ∀ c ∈ mates, ∀ o, s.tileHead c = some o →
            o.started = true ∧ s.tileReady o = true ∧ o.parked = none ∧ o.abort = none) → mates.Nodup →
          ∀ lop as cls t ms t2, s.tileHead (if op.func = 2 then op.leader else core) = some lop →
            s.groupA lop.ctx lop op.cls op.done = .ok (as, cls, t) → t.rowB cls op.done mates = .ok (ms, t2) →
            SameRegs s u ∧ (∀ q a, (∀ b, b ≤ a → a < b + 8 → s.hasPartial b = false) → u.byteQ q a = s.byteQ q a) ∧
            ∀ c k bs, (c, k, bs) ∈ ms → ∃ o o', s.tileHead c = some o ∧ u.tileHead c = some o' ∧ o'.done = o.done + 1 ∧ o'.mismatch = 0 ∧
              let A (i n : Nat) : TVal := as.getD (16 * i + n) (.i 0)
              let B (n j : Nat) : TVal := bs.getD (64 * n + j) (.i 0)
              let old (i j : Nat) : BitVec 32 := (s.core c).cell o.acc.toNat i j
              let sum (i j : Nat) := groupSum (old i j) ((List.range 16).map fun n => ((A i n).float, (B n j).float))
              (∀ i < 64, ∀ j < 64, (u.core c).cell o.acc.toNat i j = if k = 3 then
                  BitVec.ofInt 32 ((old i j).toInt + ((List.range 16).map fun n => (A i n).int * (B n j).int).sum) else (sum i j).1) ∧
              (∀ b, o'.flags.getLsbD b = true ↔ o.flags.getLsbD b = true ∨
                k ≠ 3 ∧ ∃ i < 64, ∃ j < 64, (sum i j).2.getLsbD b = true) ∧
              ∀ n i j, n ≠ o.acc.toNat → i < 64 → j < 64 → (u.core c).cell n i j = (s.core c).cell n i j) ∧
        (op.func = 1 → op.carry = [] →
          (∀ va, s.groupA op.ctx op op.cls op.done = .error (.format va) → abandoned 16 va 0) ∧
          ∀ va r, s.groupA op.ctx op op.cls op.done = .error (.fault va r) → (s.ctx op.ctx).sup = false →
            s.supervisor (vfOf (s.gang ((s.gangOfCore core).getD 0)).vfq) ≠ none → SameBytes s u ∧ u.ctxs = s.ctxs ∧
            u.tileHead core = some { op with parked := some s.next } ∧ (u.core core).acc = (s.core core).acc ∧
            (u.core core).rowprog = rowprogWord 2 op ∧ ∃ x, u.refs.get? s.next = some x ∧ x.va = va ∧ x.work = 1 ∧ x.key = core) ∧
        (op.func = 3 → op.carry = [] → s.memoryWf = true →
          let n := if op.atype = 1 then 2 else 4
          let row (i : Nat) : Word := op.a + BitVec.ofNat 64 (i * (op.c.extractLsb' 0 32).toNat)
          let v (j : Nat) := drainCell op ((s.core core).cell op.acc.toNat op.done j)
          ∀ h, s.TranslateInTurn op.ctx n (row op.done) h 64 → PlacesApart h 64 n → (h 63).st.LetsPlaces op.ctx op.id h 64 →
            (∀ i j, op.done < i → i < 64 → j < 64 →
              touches ((row op.done + BitVec.ofNat 64 (n * j)) &&& ~~~(7 : Word)) (row i) (64 * n) = false) →
            ElementsStored s u (qtrOfCtx op.ctx) h 64 n (fun j => (v j).1) ∧ SameRegs s u ∧ (u.core core).acc = (s.core core).acc ∧
            ∃ o', u.tileHead core = some o' ∧ o'.done = op.done + 1 ∧ o'.carry = [] ∧
              ∀ b, o'.flags.getLsbD b = true ↔ op.flags.getLsbD b = true ∨ ∃ j < 64, (v j).2.getLsbD b = true) ∧
        (op.func = 4 → ∀ hd cl, (s.core core).handles.get? op.a.toNat = some hd → s.ord.colls.get? hd.coll = some cl →
          SameBytes s u ∧ u.ctxs = s.ctxs ∧ (∃ o', u.tileHead core = some o' ∧ o'.done = op.done + 1) ∧
          ∃ x, u.ord.colls.get? hd.coll = some x ∧ ∀ j < 64, (x.drained.getD hd.member []).get?
            (((op.b + BitVec.ofNat 64 (op.done * (op.c.extractLsb' 0 32).toNat)).toNat + j) % 2 ^ 64) =
              some ((s.core core).cell op.acc.toNat op.done j))))) ∧
  (∀ (op : TileOp) (c : BitVec 32), (op.atype ≠ 1 → drainCell op c = (c.toNat, 0)) ∧
    (op.atype = 1 → drainCell op c = roundF (fmtOf 9) 0 false ((fmtOf 10).value c.toNat))) ∧
  (∀ (x : Word) (stride fmt g i k : Nat), i < 64 → k < 16 →
    (aAddrs x stride fmt g)[16 * i + k]? = some (if fmt = 9 then (x + BitVec.ofNat 64 (512 * g + 8 * i + k / 2), k % 2)
      else (x + BitVec.ofNat 64 (i * stride + (16 * g + k) * fmtSize fmt), 0))) ∧
  (∀ (x : Word) (stride fmt g k j : Nat), k < 16 → j < 64 →
    (bAddrs x stride fmt g)[64 * k + j]? = some (x + BitVec.ofNat 64 ((16 * g + k) * stride + j * fmtSize fmt), 0)) ∧
  (∀ (acc : BitVec 32) (ps : List (FVal × FVal)), ps ≠ [] →
    let a := (fmtOf 10).value acc.toNat
    let bad : Prop := ∃ p ∈ ps, (infiniteVal p.1 = true ∧ zeroVal p.2 = true) ∨ (zeroVal p.1 = true ∧ infiniteVal p.2 = true)
    let someNan : Prop := a.isNan = true ∨ ∃ p ∈ ps, p.1.isNan = true ∨ p.2.isNan = true
    (finiteVal a = true → (∀ p ∈ ps, finiteVal p.1 = true ∧ finiteVal p.2 = true) → ∃ g, gridHolds g a = true ∧
      (∀ p ∈ ps, gridHolds g (productOf p.1 p.2) = true) ∧
      let z := gridValue g a + (ps.map fun p => gridValue g (productOf p.1 p.2)).sum
      let r := roundF (fmtOf 10) 0 false (.fin (decide (z < 0)) z.natAbs g)
      groupSum acc ps = (BitVec.ofNat 32 r.1, r.2)) ∧
    (bad → groupSum acc ps = (0x7FC00000, flagI)) ∧
    (infiniteVal a = false → (∀ p ∈ ps, infiniteVal p.1 = false ∧ infiniteVal p.2 = false) → someNan → groupSum acc ps = (0x7FC00000, 0)) ∧
    (∀ n, ¬bad → ¬someNan → (infiniteVal a = true → a.neg? = n) →
      (∀ p ∈ ps, infiniteVal p.1 = true ∨ infiniteVal p.2 = true → (p.1.neg? != p.2.neg?) = n) →
      (infiniteVal a = true ∨ ∃ p ∈ ps, infiniteVal p.1 = true ∨ infiniteVal p.2 = true) →
      groupSum acc ps = (if n then 0xFF800000 else 0x7F800000, 0))) ∧
  (∀ (s : State) (core : Nat) (op : CvtOp), (s.core core).cvt.head? = some op → s.coreRuns core = true → op.abort = none →
    let u := s.cvtTurn core
    ((op.parked.isSome = true ∨ op.n ≤ op.done) → u = s) ∧
    (op.parked = none → op.done < op.n → (∀ i ∈ op.before, ∀ o ∈ (s.ctx op.ctx).ops, o.id ≠ i) → op.carry = [] → s.memoryWf = true →
      let n := min 64 (op.n - op.done)
      let w := typeWidth op.ty.toNat / 8
      let dst := op.dst + BitVec.ofNat 64 (op.done * w)
      ∀ xs t h, s.cvtRead op (op.src + BitVec.ofNat 64 (op.done * (typeWidth op.srcType.toNat / 8))) n = .ok (xs, t) →
        t.TranslateInTurn op.ctx w dst h n → PlacesApart h n w → (h (n - 1)).st.LetsPlaces op.ctx op.id h n →
        (op.n = op.done + n ∨ ∀ j < n, touches ((dst + BitVec.ofNat 64 (w * j)) &&& ~~~(7 : Word)) (dst + BitVec.ofNat 64 (n * w))
          ((op.n - op.done - n) * w) = false) →
        let r (j : Nat) := cvtElem op.srcType.toNat op.ty.toNat op.rnd.toNat op.sat op.scale (xs.getD j 0)
        let cand (j : Nat) := cvtCand op.srcType.toNat (xs.getD j 0)
        ElementsStored s u (qtrOfCtx op.ctx) h n w (fun j => (r j).1) ∧ SameRegs s u ∧ ∃ o', (u.core core).cvt.head? = some o' ∧
          o'.done = op.done + n ∧ o'.carry = [] ∧
          (∀ b, o'.flags.getLsbD b = true ↔ op.flags.getLsbD b = true ∨ ∃ j < n, (r j).2.getLsbD b = true) ∧
          (o'.candN = true ↔ op.candN = true ∨ ∃ j < n, (cand j).1 = true) ∧ op.candMag ≤ o'.candMag ∧
          (∀ j < n, (cand j).2 ≤ o'.candMag) ∧ (o'.candMag = op.candMag ∨ ∃ j < n, o'.candMag = (cand j).2))) ∧
  ∀ (src dst rnd : Nat) (sat : Bool) (scale : BitVec 32) (raw : Nat),
    let x := if typeFloat src then (fmtOf src).value raw else ofIntVal (toInt (intSigned src) (typeWidth src) raw)
    let k := (fmtOf 10).value scale.toNat
    let gives (v : FVal) : Nat × BitVec 5 := if typeFloat dst then roundF (fmtOf dst) rnd sat v
      else (ofInt (typeWidth dst) (toIntClamp (intSigned dst) (typeWidth dst) rnd v).1, (toIntClamp (intSigned dst) (typeWidth dst) rnd v).2)
    let c := cvtElem src dst rnd sat scale raw
    (typeFloat src = false → typeFloat dst = false → scale = 0x3F800000 → let z := toInt (intSigned src) (typeWidth src) raw
      c = (ofInt (typeWidth dst) (clamped sat (intSigned dst) (typeWidth dst) z),
        if clamped sat (intSigned dst) (typeWidth dst) z = z then 0 else flagO)) ∧
    ((typeFloat src = true ∨ typeFloat dst = true ∨ scale ≠ 0x3F800000) →
      (∀ n, x = .nan n → c = gives (.nan n)) ∧ (∀ n, x.isNan = false → k = .nan n → c = gives (.nan n)) ∧
      ((zeroVal x = true ∧ infiniteVal k = true) ∨ (infiniteVal x = true ∧ zeroVal k = true) →
        c = ((gives (.nan false)).1, flagI)) ∧
      (finiteVal x = true → finiteVal k = true → c = gives (productOf x k)) ∧
      (infiniteVal x = true ∨ infiniteVal k = true → x.isNan = false → k.isNan = false → zeroVal x = false → zeroVal k = false →
        c = gives (.inf (x.neg? != k.neg?))))

/-- R43, R196, R257, R258, R259, R260, R261, R262, R263: Without a configuration every gm instruction but gm.cfg takes
the grammar-range trap with TVAL 0. gm.cfg with a legal aligned descriptor configures the engine at its start state.
gm.step with a token below VOCAB reads its class and the transition entry of the state: a move takes the next state, a
call pushes the return state and traps where the stack is full, a return pops or reports an empty stack, and a reject
keeps the state, with the status word in x_D. gm.mask delivers 512 bits of the state's mask to four registers, bits at
or above VOCAB as 0; gm.force counts the allowed tokens and sets event bit 2 where there is one; gm.reset returns to the
start; gm.st gives the state word and takes a legal one. cbk.ld replaces a slot of the shed as a whole and cbk.rd reads
an entry. -/
def Obligations.GrammarEngineAndCodebooks : Prop :=
  (∀ (f : RR) (s : State), (s.core s.myCore).grammar = none →
    ∀ i ∈ ([.gmStep f, .gmMask f, .gmForce f, .gmReset f, .gmSt f] : List Instr), s.Fit i → Traps i s 20 0 0) ∧
  (∀ (f : RR) (s : State), s.Fit (.gmCfg f) → ((s.rx f.a).toNat % 8 ≠ 0 → Traps (.gmCfg f) s 20 (s.rx f.a) 0) ∧
    ((s.rx f.a).toNat % 8 = 0 → ∀ ws t, s.syncLoad s.cur (s.rx f.a) 8 = .ok ws t →
      (grammarOk (grammarOf ws) ws = false → TrapsAfter (.gmCfg f) s t 20 (s.rx f.a) 0) ∧
      (grammarOk (grammarOf ws) ws = true → ∃ u, Completes (.gmCfg f) s u ∧ (u.core s.myCore).grammar = some (grammarOf ws) ∧
        (grammarOf ws).state = (grammarOf ws).start ∧ (grammarOf ws).depth = 0 ∧ u.me.event.getLsbD 2 = false ∧ u.me.x = s.me.x ∧
        SameButMerges s u))) ∧
  (∀ (f : RR) (s : State) (g : Grammar), (s.core s.myCore).grammar = some g →
    let a := s.rx f.a
    (s.Fit (.gmStep f) → (g.vocab ≤ a.toNat → Traps (.gmStep f) s 20 a 0) ∧
      (a.toNat < g.vocab → ∀ c s1 e s2, s.syncByte s.cur (g.clstab + a) = .ok [c] s1 →
        (g.nclass ≤ c.toNat → TrapsAfter (.gmStep f) s s1 20 a 0) ∧
        (c.toNat < g.nclass → s1.syncHalf s.cur (g.trtab + BitVec.ofNat 64 (2 * (g.state * g.nclass + c.toNat))) = .ok [e] s2 →
          e.toNat < 2 ^ 16 → e.extractLsb' 6 2 = 0#2 →
          let op := (e.extractLsb' 14 2).toNat
          let ret := (e.extractLsb' 8 6).toNat
          let next := (e.extractLsb' 0 6).toNat
          let goes (g' : Grammar) (rej und : Bool) : Prop := ∃ u, Completes (.gmStep f) s u ∧
            (u.core s.myCore).grammar = some g' ∧ u.rx f.d = (if f.d = 0 then 0 else stepStatus g' rej und) ∧
            u.me.event.getLsbD 2 = false ∧ (∀ r, r ≠ f.d → u.rx r = s.rx r) ∧ SameButMerges s u
          (op = 0 → next < g.nstate → goes { g with state := next } false false) ∧
          (op = 1 → next < g.nstate → ret < g.nstate → g.depth < 8 → goes { g with
            state := next, depth := g.depth + 1, stack := g.stack.setIfInBounds g.depth (BitVec.ofNat 6 ret) } false false) ∧
          (op = 1 → next < g.nstate → ret < g.nstate → 8 ≤ g.depth → TrapsAfter (.gmStep f) s s2 21 a 0) ∧
          (op = 2 → g.depth = 0 → goes g false true) ∧
          (op = 2 → g.depth ≠ 0 → goes { g with state := (g.stack[g.depth - 1]?.getD 0).toNat, depth := g.depth - 1,
                                                stack := g.stack.setIfInBounds (g.depth - 1) 0 } false false) ∧
          (op = 3 → goes g true false) ∧
          (op ≤ 1 → g.nstate ≤ next → TrapsAfter (.gmStep f) s s2 20 e 0)))) ∧
    (s.Fit (.gmMask f) → (chunks g.vocab ≤ a.toNat → Traps (.gmMask f) s 20 a 0) ∧
      (a.toNat < chunks g.vocab →
        (∀ c, g.cache.get? (g.state * chunks g.vocab + a.toNat) = some c → ∃ u, Completes (.gmMask f) s u ∧ u.me.x = s.me.x ∧
          SameBytes s u ∧ ∀ m < 4, ∀ b < 128, (u.rv (f.d + BitVec.ofNat 5 m)).getLsbD b =
            (c.getLsbD (128 * m + b) && decide (512 * a.toNat + 128 * m + b < g.vocab))) ∧
        (g.cache.get? (g.state * chunks g.vocab + a.toNat) = none → ∀ ws t,
          s.syncLoad s.cur (g.masktab + BitVec.ofNat 64 (64 * (g.state * chunks g.vocab + a.toNat))) 8 = .ok ws t →
          ∃ u, Completes (.gmMask f) s u ∧ u.me.x = s.me.x ∧ SameButMerges s u ∧ ∀ m < 4, ∀ b < 128,
            (u.rv (f.d + BitVec.ofNat 5 m)).getLsbD b = ((ws.getD ((128 * m + b) / 64) 0).getLsbD ((128 * m + b) % 64) &&
              decide (512 * a.toNat + 128 * m + b < g.vocab))))) ∧
    (s.Fit (.gmForce f) → ∀ g' cs t x, s.loadChunks g 0 (chunks g.vocab) = (.ok x t, g', cs) → ∃ u, Completes (.gmForce f) s u ∧
      let n := (countTokens cs).1
      u.rx f.d = (if f.d = 0 then 0 else BitVec.ofNat 64 (n * 2 ^ 16 + (if n = 1 then (countTokens cs).2 else 0xFFFF))) ∧
      u.me.event.getLsbD 2 = decide (n = 1) ∧ (∀ r, r ≠ f.d → u.rx r = s.rx r)) ∧
    (s.Fit (.gmReset f) → ∃ u, Completes (.gmReset f) s u ∧ (u.core s.myCore).grammar =
      some { g with state := g.start, depth := 0, stack := Vector.replicate 8 0 } ∧ u.me.event.getLsbD 2 = false ∧ u.me.x = s.me.x) ∧
    (s.Fit (.gmSt f) → (f.a = 0 → Completes (.gmSt f) s (s.wx f.d (grammarWord g))) ∧
      (f.a ≠ 0 → grammarSet g a = none → Traps (.gmSt f) s 20 a 0) ∧
      (f.a ≠ 0 → ∀ g', grammarSet g a = some g' → g'.state = (a.extractLsb' 0 6).toNat ∧ g'.depth = (a.extractLsb' 8 4).toNat ∧
        Completes (.gmSt f) s ((s.wx f.d (grammarWord g)).setGrammar g')))) ∧
  ∀ (f : RR) (s : State),
    (s.Fit (.cbkLd f) → (63 < (s.rx f.b).toNat → Traps (.cbkLd f) s 19 (s.rx f.b) 0) ∧
      ((s.rx f.b).toNat ≤ 63 → (s.rx f.a).toNat % 32 ≠ 0 → Traps (.cbkLd f) s 19 (s.rx f.a) 0) ∧
      ((s.rx f.b).toNat ≤ 63 → (s.rx f.a).toNat % 32 = 0 → ∀ ws t, s.syncLoad s.cur (s.rx f.a) 4 = .ok ws t →
        ∃ u, Completes (.cbkLd f) s u ∧ SameButMerges s u ∧ u.me.x = s.me.x ∧
          (∀ i < 16, (u.slotOf s.myShed (s.rx f.b).toNat)[i]? = some ((ws.getD (i / 4) 0).extractLsb' (16 * (i % 4)) 16)) ∧
          ∀ n, n ≠ (s.rx f.b).toNat → u.slotOf s.myShed n = s.slotOf s.myShed n)) ∧
    (s.Fit (.cbkRd f) → (s.rx f.a &&& ~~~0xF3F ≠ 0 → Traps (.cbkRd f) s 19 (s.rx f.a) 0) ∧
      (s.rx f.a &&& ~~~0xF3F = 0 → Completes (.cbkRd f) s (s.wx f.d (((s.slotOf s.myShed ((s.rx f.a).extractLsb' 0 6).toNat).getD
        ((s.rx f.a).extractLsb' 8 4).toNat 0).zeroExtend 64))))

/-- R83, R128, R129, R130, R131, R132, R133, R134, R344, R415: For LAUNCH, LOAD, UNLOAD, STOP and QUERY: a message from
another source is dropped and counted; a malformed one gets status 1, one whose SEQ is neither expected nor a recent one
status 9, and one for a full queue status 10, with nothing else changed; the order of these checks is assumption 31
(DEDUCED). Accepted, each advances the expected SEQ. LAUNCH with a loadable image makes a WAITING gang and stands in the
queue, and with another gets the status of its refusal. LOAD into an empty queue under a free number runs at once, in
one event (assumption 33, DEDUCED), and reports status 0 with the load status in INFO, also where that is not 0 (that
status is the model's reading, assumption 30, DEDUCED), the object being there exactly where it is 0; where a page walk
of the loader has to wait, it stays pending in its queue. UNLOAD into an empty queue of an object nobody counts frees
it, and of none gets status 2. STOP fails every gang of the queue, one that runs at a timestamp. A LAUNCH of an object
that a LOAD is to bring waits for that load. QUERY reports the oldest command's state and the number queued, at its
acceptance, whatever its DPREV and DSEQ (the model's choice, assumption 129). A message with an unlisted OPC gets status
1, and a packet that needs an unsupported option counts at its port. -/
def Obligations.CommandsAreCheckedThenTakeEffect : Prop :=
  (∀ (p : Packet) (s : State),
    let n := p.queue
    let q := s.queue n
    let vf := vfOf n
    let obj := p.field 0 4
    let ok (body : Bool) : Prop := s.keeper.paused = false ∧ s.master.ready = true ∧ q.source = some p.src ∧ p.wellFormed body = true ∧ p.seq = q.expected ∧
      q.cmds.length < 256
    let unpaid : Prop := ∀ e ∈ s.gangs, e.2.vfq = n → (s.gang e.1).owed = none
    (∀ e ∈ ([(.launch p, decide (p.body.length = 16)), (.load p, decide (8 ≤ p.body.length) && decide (p.field 4 4 = 0)),
        (.unload p, decide (p.body.length = 8) && decide (p.field 4 4 ≤ 1)), (.stopCommand p, p.body.isEmpty),
        (.query p, p.body.isEmpty)] : List (Instr × Bool)), s.keeper.paused = false → s.master.ready = true →
      (q.source ≠ some p.src → exec e.1 s = .next (s.setQueue n { q with dropped := q.dropped + 1 })) ∧
      (q.source = some p.src → p.wellFormed e.2 = false → exec e.1 s = .next (s.answer p 1 0)) ∧
      (q.source = some p.src → p.wellFormed e.2 = true → p.seq ≠ q.expected → 256 < (q.expected - p.seq).toNat →
        exec e.1 s = .next (s.answer p 9 0)) ∧
      (q.source = some p.src → p.wellFormed e.2 = true → p.seq = q.expected → 256 ≤ q.cmds.length →
        exec e.1 s = .next (s.answer p 10 0))) ∧
    (ok (decide (p.body.length = 16)) →
      let im := s.launchImage vf obj (p.field 4 4) (BitVec.ofNat 64 (p.field 8 8))
      (∀ i < 4, ∀ c ∈ (s.queue (4 * vf + i)).cmds, c.kind ≠ .unload obj false) →
      (∀ o, (s.vf vf).objs.get? obj = some o → o.pending = true → ∃ t g, exec (.launch p) s = .next t ∧ t.gangs.get? s.next = some g ∧
        g.state = .waiting ∧ g.waits = some o.loadId ∧ (t.queue n).expected = q.expected + 1) ∧
      ((∀ o, (s.vf vf).objs.get? obj = some o → o.pending = false) →
      (∀ st, im = .error st → ∃ t r, exec (.launch p) s = .next t ∧ (t.queue n).sent.head? = some r ∧ r.seq = p.seq ∧ r.tag = p.tag ∧ r.vfq = p.vfq ∧
        r.status = BitVec.ofNat 16 st ∧ (t.queue n).cmds = q.cmds ∧ t.gangs = s.gangs ∧ (t.queue n).expected = q.expected + 1) ∧
      (∀ image, im = .ok image → ∃ t g, exec (.launch p) s = .next t ∧ t.gangs.get? s.next = some g ∧ g.state = .waiting ∧ g.waits = none ∧ g.vfq = n ∧
        g.seq = p.seq ∧ g.image = image ∧ g.clkreq = image.clkreq ∧ (t.queue n).expected = q.expected + 1 ∧
        ∃ c, (t.queue n).cmds = q.cmds ++ [c] ∧ c.seq = p.seq ∧ c.kind = .launch s.next ∧ c.started = false))) ∧
    (ok (decide (8 ≤ p.body.length) && decide (p.field 4 4 = 0)) → q.cmds = [] → p.flags.getLsbD 1 = false → unpaid → obj ≠ 0 →
      (s.vf vf).objs.get? obj = none → ∃ t, exec (.load p) s = .next t ∧ (t.queue n).expected = q.expected + 1 ∧
        let loads := (((s.accept p).withLoad p).markStarted n p.seq).loadObject vf obj (p.body.drop 8)
        let reported (st : Nat) : Prop := ∃ r, (t.queue n).sent.head? = some r ∧ r.seq = p.seq ∧ r.tag = p.tag ∧ r.status = 0 ∧
          r.info = BitVec.ofNat 64 st ∧ (t.queue n).cmds = []
        (∀ u, loads = .ok u → reported 0 ∧ ∃ o, (t.vf vf).objs.get? obj = some o ∧ o.pending = false) ∧
        (∀ st, loads = .error st → st ≠ loadWaits → reported st ∧ (t.vf vf).objs.get? obj = none) ∧
        (loads = .error loadWaits → (t.queue n).sent = q.sent ∧ (∃ c, (t.queue n).cmds = [c] ∧ c.seq = p.seq ∧ c.started = false) ∧
          ∃ o, (t.vf vf).objs.get? obj = some o ∧ o.pending = true)) ∧
    (ok (decide (p.body.length = 8) && decide (p.field 4 4 ≤ 1)) → q.cmds = [] → p.flags.getLsbD 1 = false → unpaid →
      ((s.vf vf).objs.get? obj = none → ∃ t r, exec (.unload p) s = .next t ∧ (t.queue n).sent.head? = some r ∧ r.seq = p.seq ∧
        r.status = 2 ∧ (t.queue n).expected = q.expected + 1) ∧
      (∀ o, (s.vf vf).objs.get? obj = some o → o.pending = false → p.field 4 4 = 0 → s.refCount vf o = 0 →
        ∃ t r, exec (.unload p) s = .next t ∧ (t.queue n).sent.head? = some r ∧ r.seq = p.seq ∧ r.status = 0 ∧
          (t.vf vf).objs.get? obj = none ∧ (t.queue n).expected = q.expected + 1)) ∧
    (ok p.body.isEmpty → ∃ t, exec (.stopCommand p) s = .next t ∧ SameBytes s t ∧ (t.queue n).expected = q.expected + 1 ∧
      ∀ g, (s.gangs.get? g).isSome = true → (s.gang g).vfq = n → (s.gang g).state ≠ .complete →
        (t.gang g).state = .failed ∨ (Gang.runs (s.gang g) s.now = true ∧ (t.gang g).switchAt.isSome = true ∧ (t.gang g).discard = true)) ∧
    (ok p.body.isEmpty → ∃ t r, exec (.query p) s = .next t ∧ (t.queue n).sent.head? = some r ∧ r.seq = p.seq ∧ r.tag = p.tag ∧
      r.status = 0 ∧ r.info = BitVec.ofNat 64 ((match q.cmds.head? with
        | some c => s.queryCode c
        | none => 0) + 2 ^ 8 * q.cmds.length) ∧ (t.queue n).cmds = q.cmds ∧ t.gangs = s.gangs ∧ (t.queue n).expected = q.expected + 1) ∧
    (∀ opc : Byte, s.keeper.paused = false → (opc = 0 ∨ 5 < opc.toNat) → q.source = some p.src →
      exec (.unknownOpc p opc) s = .next (s.answer p 1 0))) ∧
  ∀ (port : Nat) (s : State), ∃ t, exec (.droppedPacket port) s = .next t ∧ t.ord = s.ord ∧ t.ctxs = s.ctxs ∧
    ∀ i : Fin 4, (t.quarterAt (port / 4)).drops[i] = (s.quarterAt (port / 4)).drops[i] + (if i.val = port % 4 then 1 else 0)

/-- R125, R126, R127, R139, R141, R142, R144, R145, R148, R149, R150: A WAITING gang whose command may start becomes
READY, or, where the load that it waited for failed, FAILED (assumption 110, DESIGN CHOICE) with the status of its
refusal; the first runnable gang of a paddock that fits gets its rectangle of free sheds (which save area it gets is
assumption 36, DESIGN CHOICE); a LAUNCHING gang whose evaluation has been made is released with every scratchpad reading
0 and every shed's rank set; where each first block lies in bounds with a legal header, it is RESIDENT at this tick,
each control context with its entry registers at instruction 0 of its role's first block, or HALTED where it has none,
with its helpers IDLE, its mailboxes empty and its tile state cleared, all in one event (assumption 26, DEDUCED); a
preempted gang, one whose slice is used up, or one that is resident while its function migrates, is SWITCHING with a
timestamp 1,000 to 2,000 ticks ahead; at it the gang stops, or fails where it is discarded; once its accesses have
drained it is SAVED with the contents of its sheds, which are then free; a restored gang has the registers and
scratchpad bytes that were saved, with event bit 4 set in live contexts where its queue's charge is at the warning level
then; and a gang at its end completes with status 0 and frees its sheds. -/
def Obligations.GangsPassThroughTheirStates : Prop :=
  (∀ (s : State) (n : Nat),
    let g := s.gang n
    let soon (t : State) : Prop := ∃ at_, (t.gang n).switchAt = some at_ ∧ s.now + 1000 ≤ at_ ∧ at_ ≤ s.now + 2000 ∧
      (t.gang n).state = .switching ∧ SameBytes s t ∧ t.ctxs = s.ctxs
    (g.state = .waiting → s.master.ready = true → (s.queue g.vfq).exhausted = false →
      ∀ c, (s.queue g.vfq).cmds.find? (fun c => c.seq = g.seq) = some c → s.mayStart g.vfq c = true →
      let becomes (im : Image) : Prop := ∃ t, exec (.gangReady n) s = .next t ∧ (t.gang n).state = .ready ∧ (t.gang n).image = im ∧
        (t.gang n).runnable = s.next
      let ends (st : Nat) : Prop := ∃ t r, exec (.gangReady n) s = .next t ∧ (t.gang n).state = .failed ∧
        (t.queue g.vfq).sent.head? = some r ∧ r.seq = g.seq ∧ r.tag = c.tag ∧ r.status = BitVec.ofNat 16 st
      (g.waits = none → becomes g.image) ∧ ∀ id, g.waits = some id →
        (∀ o, (s.vf (vfOf g.vfq)).objs.get? g.obj = some o → o.loadId = id → o.pending = false →
          (∀ im, s.launchImage (vfOf g.vfq) g.obj g.recIdx g.params = .ok im → becomes im) ∧
          (∀ st, s.launchImage (vfOf g.vfq) g.obj g.recIdx g.params = .error st → ends st)) ∧
        ((∀ o, (s.vf (vfOf g.vfq)).objs.get? g.obj = some o → o.loadId ≠ id) → ends 2)) ∧
    ((s.preempted (vfOf g.vfq)).contains n = true → s.master.ready = true → g.state = .resident → g.switchAt = none →
      ∃ t, exec (.gangSwitchDecide n) s = .next t ∧ soon t) ∧
    (s.moving (vfOf g.vfq) = true → (s.preempted (vfOf g.vfq)).contains n = false → s.master.ready = true → g.state = .resident →
      g.switchAt = none → ∃ t, exec (.gangSwitchDecide n) s = .next t ∧ soon t) ∧
    ((s.sliceLeavers n).contains n = true → s.master.ready = true → g.state = .resident → g.switchAt = none →
      ∃ t, exec (.sliceExpiry n) s = .next t ∧ soon t) ∧
    (∀ cfg, (s.vf (vfOf g.vfq)).cfg = some cfg → g.state = .resident → g.switchAt = none →
      g.releaseTick + 1000 * cfg.slice ≤ s.now → (s.leavers (vfOf g.vfq)).contains n = false →
      (∀ e ∈ s.gangs, e.1 ≠ n → vfOf e.2.vfq = vfOf g.vfq → (s.queue e.2.vfq).cls = (s.queue g.vfq).cls → s.sliceUsed e.2 = false) →
      (∀ e ∈ s.runnable (vfOf g.vfq), (s.fits (vfOf g.vfq) (s.leavers (vfOf g.vfq)) e.2) = none →
        (s.queue e.2.vfq).cls = (s.queue g.vfq).cls) →
      (∃ e ∈ s.runnable (vfOf g.vfq), (s.fits (vfOf g.vfq) (s.leavers (vfOf g.vfq)) e.2) = none ∧
        (s.fits (vfOf g.vfq) (n :: s.leavers (vfOf g.vfq)) e.2).isSome = true) →
      (s.sliceLeavers n).contains n = true) ∧
    (∀ at_, g.switchAt = some at_ → (s.now < at_ → exec (.switchStop n) s = .next s) ∧
      (at_ ≤ s.now → g.discard = true → exec (.switchStop n) s = .next (s.failGang n 4)) ∧
      (at_ ≤ s.now → g.discard = false → ∃ t, exec (.switchStop n) s = .next t ∧ (t.gang n).state = .switching ∧
        (t.gang n).switchAt = none ∧ SameBytes s t ∧
        (∀ k, (t.ctx k).x = (s.ctx k).x) ∧ ∀ k ∈ g.ctxs, ∀ r, (t.ctx k).mode ≠ .asleep (.fault r))) ∧
    let read := g.sheds.foldl (fun (t : State) d => t.correctRange (padLoc d 0) (padLoc d Config.padBytes)) s
    let flushed := (g.cores.foldl (fun (u : State) c => u.l1Flush c) read).unparkGang n
    (g.state = .switching → g.switchAt = none → (∀ k ∈ g.ctxs, (s.ctx k).ops = []) → ∃ t, exec (.saveComplete n) s = .next t ∧
      (t.gang n).state = .saved ∧ (t.gang n).saved = g.sheds.map (flushed.saveShed g) ∧ (∀ d, t.gangOfShed d ≠ some n ∨ d ∉ g.sheds) ∧
      ∀ d i, i < 33 → ((flushed.saveShed g d).ctxs[i]?).map (·.x) = some (s.ctx (33 * d + i)).x) ∧
    (g.state = .resident → g.discard = false → s.master.ready = true → s.gangDone g = true → s.gangPerformed n g = true → ∃ t, exec (.gangComplete n) s = .next t ∧
      (t.gang n).state = .complete ∧ SameBytes s t ∧ (∀ d, t.gangOfShed d ≠ some n ∨ d ∉ g.sheds) ∧
      ∀ c, (s.queue g.vfq).cmds.find? (·.seq = g.seq) = some c → g.sup = false → ∃ r, (t.queue g.vfq).sent.head? = some r ∧
        r.seq = g.seq ∧ r.status = 0 ∧ r.tag = c.tag ∧ r.info = BitVec.ofNat 64 g.lostCount)) ∧
  (∀ (s : State) (vf : Nat) (e : Nat × Gang) (x y : Nat), (s.vf vf).resize = none → s.moving vf = false → s.master.ready = true → s.keeper.layAt = none →
    (s.runnable vf).findSome? (fun e => (s.fits vf [] e.2).map fun p => (e, p)) = some (e, (x, y)) →
    ∃ t, exec (.gangPlace vf) s = .next t ∧ (t.gang e.1).x0 = x ∧ (t.gang e.1).y0 = y ∧
      (t.gang e.1).state = (if e.2.state = .saved then .restoring else .launching) ∧
      (∀ d ∈ (t.gang e.1).sheds, t.gangOfShed d = some e.1 ∧ s.shedFree [] d = true) ∧ t.power.evaluate = true ∧ SameBytes s t) ∧
  (∀ (s : State) (n : Nat), (s.gang n).state = .launching → s.power.evaluate = false → s.diesUp (s.gang n) = true →
    ∃ t, exec (.gangRelease n) s = .next t ∧
      (∀ d ∈ (s.gang n).sheds, (t.shed d).rank = BitVec.ofNat 32 ((s.gang n).rankOf d) ∧ (t.shed d).full = [] ∧
        ∀ q a, padLoc d 0 ≤ a → a < padLoc d Config.padBytes → t.byteQ q a = 0) ∧
      let g := s.gang n
      let arena : Nat × Nat := ((s.vf (vfOf g.vfq)).cfg.map fun c => (c.abase, c.arenaKey)).getD (0, 0)
      let start (c : Nat) : Word := mkPc 0 (arena.1 + 8 * (g.image.first (roleOf c)).toNat)
      let word (c : Nat) : Word := s.plain arena.2 (qtrOfCore c) (pcBlock (start c))
      ((∀ c ∈ g.cores, g.image.first (roleOf c) ≠ 0xFFFFFFFF → let blk := pcBlock (start c)
          g.image.cbase.toNat * 8 ≤ blk ∧ blk < g.image.cbound.toNat * 8 ∧ isPad blk = false ∧ g.gone blk = false ∧
          headerOk (word c) = true ∧ ∀ e ∈ (s.core c).icache, e.1 = blk → e.2 = word c) →
        (t.gang n).state = .resident ∧ (t.gang n).releaseTick = s.now ∧ ∀ c ∈ g.cores, let k := t.ctx (11 * c)
          (g.image.first (roleOf c) = 0xFFFFFFFF → k.mode = .halted) ∧
          (g.image.first (roleOf c) ≠ 0xFFFFFFFF → k.mode = .ready ∧ k.pc = start c ∧ k.hdr = word c) ∧
          k.rx 1 = g.image.params ∧ k.rx 2 = (BitVec.ofNat 32 (g.rankOf (shedOfCore c))).zeroExtend 64 ∧
          k.rx 3 = (BitVec.ofNat 32 (g.image.gw * 2 ^ 16 + g.image.gh)).zeroExtend 64 ∧
          (∀ i < 32, 4 ≤ i → k.rx (BitVec.ofNat 5 i) = ((g.image.regs.reverse.find? fun e => e.1 % 32 = i).map (·.2)).getD 0) ∧
          k.tyard = g.image.trapyard ∧ k.cbase = g.image.cbase ∧ k.cbound = g.image.cbound ∧
          (∀ i, 1 ≤ i → i ≤ 10 → (t.ctx (11 * c + i)).mode = .idle) ∧ (∀ b, (t.mailbox c b).present = false) ∧
          (t.core c).acc = Core.reset.acc ∧ (t.core c).z = 0 ∧ (t.core c).tiles = [])) ∧
  ∀ (s : State) (n : Nat) (d rank : Nat) (p : SavedShed), (s.gang n).state = .restoring → s.power.evaluate = false → s.diesUp (s.gang n) = true →
    s.missing (s.gang n) = [] → (s.gang n).freed = [] → (s.gang n).image.note.getLsbD 31 = false → (s.gang n).sheds.Nodup →
    (s.gang n).sheds[rank]? = some d → (s.gang n).saved[rank]? = some p → p.ctxs.length = 33 → Memory.wf p.pad = true →
    (∀ z ∈ (s.gang n).saved, ∀ c ∈ z.pad, c.1 < Config.padBytes) → s.memoryWf = true →
    ∃ t, exec (.restoreRelease n) s = .next t ∧ (t.gang n).state = .resident ∧ (t.gang n).releaseTick = s.now ∧
      (∀ (i : Nat) c, p.ctxs[i]? = some c → (t.ctx (33 * d + i)).x = c.x ∧ (t.ctx (33 * d + i)).v = c.v ∧
        (t.ctx (33 * d + i)).mode = c.mode ∧ (t.ctx (33 * d + i)).pc = c.pc ∧
        (t.ctx (33 * d + i)).event.getLsbD 4 = (((s.queue (s.gang n).vfq).atLevel && c.mode.live) ||
          ((s.queue (s.gang n).vfq).warned && c.event.getLsbD 4))) ∧
      ∀ q off, off < Config.padBytes → t.byteQ q (padLoc d off) = Memory.get p.pad off

/-- R129, R143, R149, R152, R159, R331, R341, R342, R367, R368, R370, R406: Every management command from another source
than the bound one changes nothing; one that comes while the keeper is lost waits for its return; a malformed header
gets status 1, a signature that does not verify status 12. Accepted: IDENT and ATTEST reply with the records the spec
lays out (a selector byte of IDENT or FWACT above 1 gets status 1); ERRLOG returns the log and clears it; BIND sets
source, class and reduction class, or gets status 1 without a source or a class, and 13 for another class of a busy
queue; PADDOCK takes effect where a master is there and no gang stands on a leaving shed (these conditions are
assumption 69, DEDUCED), and is refused with 13 where it meets another or the pool is too small; VFCFG sets a state
within the limits, is malformed (1) with a reserved bit or undefined value in a peer entry, and refused with 13 outside
the limits (assumption 34, DEDUCED); VFRESET fails every gang and completes every command with status 4, a LAUNCH once
its gang's writes are performed (assumption 62, DEDUCED), and waits where there is no master; SHED_SCRUB clears the
scratchpad; MIGRATE runs its phases in order at the source and at the destination, which applies the writes that came
and reports a missing import block with 15 (the order of its phases, these writes and this status are assumption 95,
DEDUCED); TABLES loads tables that pass and budgets; FWSTAGE and FWACT stage and activate, and the keeper's processor
starts on the new code from address 0 (the model's choice, assumption 118), but a containment that is being handled ends
first, and what fails queues or switches gangs waits for a master; LAYUP pauses parsing, waits for an open containment,
switches gangs out, then completes with the bytes written, and its restore brings general memory back. -/
def Obligations.KeeperCarriesOutManagementCommands : Prop :=
  (∀ (m : Mgmt) (s : State) (full force : Byte) (release : Bool) (nonce : List Byte) (b : BindBody) (r : Option Rect) (c : VfCfg)
      (phase : Nat) (tb : TablesBody) (f : FwImage) (l : LayupBody),
    ∀ e ∈ ([(.ident m full, .ident m full), (.attest m nonce, .attest m nonce), (.bind m b, .bind m b), (.paddock m r, .paddock m r),
        (.vfcfg m c, .vfcfg m c), (.vfreset m release, .vfreset m release), (.migrate m phase, .migrate m phase), (.tables m tb, .tables m tb),
        (.fwstage m f, .fwstage m f), (.fwact m force, .fwact m force), (.errlog m, .errlog m), (.layup m l, .layup m l),
        (.layupRestore m l, .layupRestore m l)] : List (Instr × Managed)),
      (m.src ≠ s.keeper.source → exec e.1 s = .next s) ∧
      (m.src = s.keeper.source → s.keeper.lost = true →
        exec e.1 s = .next { s with keeper := { s.keeper with waiting := s.keeper.waiting ++ [e.2] } }) ∧
      (m.src = s.keeper.source → s.keeper.lost = false → m.headerOk = false → exec e.1 s = .next (s.reply m 1 0 [])) ∧
      (m.src = s.keeper.source → s.keeper.lost = false → m.headerOk = true →
        Config.mldsaVerify 0 (Config.sha3x512 m.signed) m.sig = false → exec e.1 s = .next (s.reply m 12 0 []))) ∧
  (∀ (m : Mgmt) (s : State), m.src = s.keeper.source → s.keeper.lost = false → m.headerOk = true →
      Config.mldsaVerify 0 (Config.sha3x512 m.signed) m.sig = true →
    let vf := m.vf
    let q := s.queue m.queue
    let replied (t : State) (st : Nat) (info : Word) (body : List Byte) : Prop := ∃ r, t.keeper.replies.head? = some r ∧
      r.record.seq = m.seq ∧ r.record.tag = m.tag ∧ r.record.status = BitVec.ofNat 16 st ∧ r.record.info = info ∧ r.body = body
    let refused (i : Instr) (st : Nat) : Prop := exec i s = .next (s.reply m st 0 [])
    let waits (i : Instr) (c : Managed) : Prop := exec i s = .next { s with keeper := { s.keeper with waiting := s.keeper.waiting ++ [c] } }
    (∀ sel : Byte, (2 ≤ sel.toNat → refused (.ident m sel) 1) ∧ (sel.toNat ≤ 1 → ∃ t, exec (.ident m sel) s = .next t ∧ SameBytes s t ∧
      replied t 0 0 (s.identityRecord ++ if sel = 1 then s.manufacturingRecord else []))) ∧
    (∀ nonce, (nonce.length ≠ 32 → refused (.attest m nonce) 1) ∧ (nonce.length = 32 →
      let body := s.identityRecord ++ nonce ++ Config.sha3x512 s.keeper.active.manifest ++ leBytes 4 s.keeper.corrected ++
        leBytes 4 s.keeper.uncorrectable ++ leBytes 4 s.keeper.containments ++ leBytes 4 0
      ∃ t, exec (.attest m nonce) s = .next t ∧ SameBytes s t ∧ replied t 0 0 (body ++ Config.mldsaSign (Config.sha3x512 body)))) ∧
    (∃ t, exec (.errlog m) s = .next t ∧ SameBytes s t ∧ t.keeper.log = [] ∧ t.keeper.lostEntries = 0 ∧
      replied t 0 0 (leBytes 4 s.keeper.log.length ++ leBytes 4 s.keeper.lostEntries ++ leBytes 8 0 ++
        s.keeper.log.flatMap LogEntry.bytes)) ∧
    (∀ b : BindBody, ((b.source = none ∨ b.cls = none) → refused (.bind m b) 1) ∧
      ∀ src cls, b.source = some src → b.cls = some cls →
        (s.busyQueue m.queue = true → q.cls ≠ cls → refused (.bind m b) 13) ∧
        ((s.busyQueue m.queue = false ∨ q.cls = cls) → ∃ t, exec (.bind m b) s = .next t ∧ replied t 0 0 [] ∧
          t.queue m.queue = { q with source := some src, cls := cls, bulk := b.bulk.getD false })) ∧
    (∀ p : Rect, 0 < p.w → 0 < p.h → p.x + p.w ≤ 16 → p.y + p.h ≤ s.rowsN →
      let meets := s.vfs.any fun e => e.1 ≠ vf && e.2.rects.any (rectsMeet p)
      ((meets = true ∨ (s.vf vf).cfg = none) → refused (.paddock m (some p)) 13) ∧
      ∀ c, meets = false → (s.vf vf).cfg = some c →
        (c.spSize < spillArea p + saveArea p.w p.h → refused (.paddock m (some p)) 13) ∧
        (spillArea p + saveArea p.w p.h ≤ c.spSize → s.master.ready = true → (∀ d ∈ shedsOut (s.vf vf).paddock (some p), s.gangOfShed d = none) →
          (∀ d ∈ shedsOut (some p) (s.vf vf).paddock, (s.shed d).scrub = false) → ∃ t, exec (.paddock m (some p)) s = .next t ∧ replied t 0 0 [] ∧ (t.vf vf).paddock = some p ∧
            ∀ d ∈ shedsOut (s.vf vf).paddock (some p), (t.shed d).scrub = true)) ∧
    ((s.vf vf).cfg = none → refused (.paddock m none) 13) ∧
    ((s.vf vf).cfg.isSome = true → s.master.ready = true → (∀ d ∈ shedsOut (s.vf vf).paddock none, s.gangOfShed d = none) →
      ∃ t, exec (.paddock m none) s = .next t ∧ replied t 0 0 [] ∧ (t.vf vf).paddock = none) ∧
    (∀ c : VfCfg, let entries := c.peers.all (fun p => p.2.entryOk)
      (entries = false → refused (.vfcfg m c) 1) ∧ (∀ p ∈ c.peers, (2 < p.2.kind ∨ p.2.rsv ≠ 0) → refused (.vfcfg m c) 1) ∧
      (entries = true → s.cfgOk vf c = false → refused (.vfcfg m c) 13) ∧ (entries = true → s.cfgOk vf c = true → ∃ t, exec (.vfcfg m c) s = .next t ∧
      replied t 0 0 [] ∧ (t.vf vf).cfg = some c)) ∧
    (s.master.ready = false → ∀ release, waits (.vfreset m release) (.vfreset m release)) ∧
    (s.master.ready = true → ∀ release, ∃ t, exec (.vfreset m release) s = .next t ∧
      (∀ g, (s.gangs.get? g).isSome = true → vfOf (s.gang g).vfq = vf → (t.gang g).state = .complete ∨ (t.gang g).state = .failed) ∧
      ∀ n, vfOf n = vf → (∀ c ∈ (t.queue n).cmds, c.kind.ownRecord = false) ∧
        ∀ c ∈ (s.queue n).cmds,
          let ended : Prop := ∃ r ∈ (t.queue n).sent, r.seq = c.seq ∧ r.status = 4
          (c.kind.ownRecord = true → ended) ∧
          ∀ g, c.kind = .launch g → (s.gangs.get? g).isSome = true → (s.gang g).vfq = n → (s.gang g).seq = c.seq →
            (s.gang g).state ≠ .complete → (s.gang g).state ≠ .failed → (t.gang g).owed = some 4 ∨ ended) ∧
    (∀ phase, let now := Table.getD s.keeper.migrating vf 0
      let onSheds := s.gangs.any fun e => vfOf e.2.vfq = vf && (e.2.state = .resident || e.2.state = .switching ||
        e.2.state = .launching || e.2.state = .restoring)
      let early := (s.keeper.outgoing.get? vf).any fun o => decide (s.now < o.cutOver + 100000000)
      ((phase = 0 ∨ 4 < phase) → refused (.migrate m phase) 1) ∧
      (1 ≤ phase → phase ≤ 4 → s.keeper.incoming.get? vf = none →
        (phase ≠ now + 1 ∨ (3 ≤ phase ∧ onSheds = true) ∨ (phase = 4 ∧ (s.stillNamed vf = true ∨ early = true))) →
        refused (.migrate m phase) 13) ∧
      (1 ≤ phase → phase ≤ 4 → s.keeper.incoming.get? vf = none → phase = now + 1 → (3 ≤ phase → onSheds = false) →
        (phase = 4 → s.stillNamed vf = false ∧ early = false) → (phase = 2 → s.master.ready = false → waits (.migrate m phase) (.migrate m phase)) ∧
        ((phase = 2 → s.master.ready = true) →
        ∃ t, exec (.migrate m phase) s = .next t ∧ replied t 0 0 [] ∧ (phase < 4 → Table.getD t.keeper.migrating vf 0 = phase) ∧
          (phase = 1 → ∃ o, t.keeper.outgoing.get? vf = some o ∧ o.copied = (s.mergePages vf).pages vf) ∧
          (phase = 3 → ∃ o, t.keeper.outgoing.get? vf = some o ∧ o.copied = (s.deliverAll.mergePages vf).pages vf) ∧
          (phase = 2 → ∀ g x, s.gangs.get? g = some x → vfOf x.vfq = vf → x.state = .resident → (t.gang g).switchAt.isSome = true) ∧
          (phase = 4 → t.vfs.get? vf = none ∧ (∀ e ∈ t.gangs, vfOf e.2.vfq ≠ vf) ∧
            ∀ n, vfOf n = vf → (t.queue n).source = none ∧ (t.queue n).cmds = []))) ∧
      ∀ i, 1 ≤ phase → phase ≤ 4 → s.keeper.incoming.get? vf = some i →
        let inOrder : Prop := (s.vf vf).cfg.isSome = true ∧ (phase = now + 1 ∨ (phase = 3 ∧ now = 3))
        (¬inOrder → refused (.migrate m phase) 13) ∧
        (inOrder → phase = 3 → s.lacksImport vf = true → refused (.migrate m phase) 15) ∧
        (inOrder → (phase = 3 → s.lacksImport vf = false) → ∃ t, exec (.migrate m phase) s = .next t ∧ replied t 0 0 [] ∧
          (phase < 4 → Table.getD t.keeper.migrating vf 0 = phase) ∧
          (phase = 3 → (t.keeper.incoming.get? vf).map (·.applied) = some i.writes.length) ∧
          (phase = 4 → t.keeper.incoming.get? vf = none))) ∧
    (∀ tb : TablesBody, (s.tablesOk (s.power.with tb) tb = false → refused (.tables m tb) 13) ∧
      (s.tablesOk (s.power.with tb) tb = true → ∃ t, exec (.tables m tb) s = .next t ∧ replied t 0 0 [] ∧
        t.power.rows = tb.rows.getD s.power.rows ∧ t.power.qtrs = tb.qtrs.getD s.power.qtrs ∧ t.power.evaluate = true ∧
        ((tb.budgets.map (·.vfq)).Nodup → ∀ x ∈ tb.budgets, (t.queue x.vfq).budget = x.b ∧ (t.queue x.vfq).period = x.p))) ∧
    (∀ f, ∃ t, exec (.fwstage m f) s = .next t ∧ replied t 0 0 [] ∧ t.keeper.staged = some f ∧ t.keeper.active = s.keeper.active) ∧
    (∀ force : Byte, 2 ≤ force.toNat → refused (.fwact m force) 1) ∧
    (∀ force : Byte, force.toNat ≤ 1 → (s.keeper.staged = none → refused (.fwact m force) 13) ∧ ∀ f, s.keeper.staged = some f →
      let signed := Config.mldsaVerify 1 (Config.sha3x512 (f.manifest ++ f.code ++ f.rest)) f.sig
      ((signed = false ∨ f.epoch < s.keeper.minEpoch) → refused (.fwact m force) 13) ∧
      (signed = true → s.keeper.minEpoch ≤ f.epoch →
        (∀ n rest, s.unreadable f = n :: rest → force = 0 → exec (.fwact m force) s = .next (s.reply m 14 (BitVec.ofNat 64 n) [])) ∧
        ((s.unreadable f = [] ∨ force = 1) → (s.containing = true ∨ (s.unreadable f ≠ [] ∧ s.master.ready = false)) →
          waits (.fwact m force) (.fwact m force)) ∧
        ((s.unreadable f = [] ∨ force = 1) → s.containing = false → (s.unreadable f = [] ∨ s.master.ready = true) → ∃ t, exec (.fwact m force) s = .next t ∧ replied t 0 0 [] ∧ t.keeper.active = f ∧
          t.keeper.staged = none ∧ t.keeper.cpu = KeeperCpu.boot f.code ∧ ∀ g x, s.gangs.get? g = some x → x.vfq ∈ s.unreadable f →
            (t.gang g).state = .complete ∨ (t.gang g).state = .failed))) ∧
    (∀ l : LayupBody, (layupOk l = false ∨ layRestore l = true → refused (.layup m l) 1) ∧
      (layupOk l = true → layRestore l = false → s.keeper.layAt = none → (s.containing = true ∨ s.master.ready = false) →
        exec (.layup m l) s = .next { s with keeper := { s.keeper with paused := true } }) ∧
      let begins : Prop := s.keeper.layAt.isSome = true ∨ s.containing = false
      (layupOk l = true → layRestore l = false → begins → s.master.ready = true → l.refusesAt = none → s.anyOnSheds = false → ∃ t, exec (.layup m l) s = .next t ∧
        t.keeper.paused = false ∧ replied t 0 (BitVec.ofNat 64 ((if layGen l then 144 * 2 ^ 30 * s.nq else 0) +
          (if layLh l then 24 * 2 ^ 30 * s.nq else 0) + 16384)) []) ∧
      (layupOk l = true → layRestore l = false → begins → s.master.ready = true → s.anyOnSheds = true → ∃ t, exec (.layup m l) s = .next t ∧ t.keeper.paused = true ∧
        ∀ g x, s.gangs.get? g = some x → x.state = .resident → (t.gang g).switchAt.isSome = true)) ∧
    ∀ l : LayupBody, (layupOk l = false ∨ layRestore l = false → refused (.layupRestore m l) 1) ∧
      (layupOk l = true → layRestore l = true →
        let clean := s.vfs.all (fun e => e.2.clean) && s.gangs.all (fun e => e.2.state = .complete || e.2.state = .failed)
        ((clean = false ∨ l.serial.toNat ≠ leAt s.keeper.identity 0 8) → refused (.layupRestore m l) 13) ∧
        (clean = true → l.serial.toNat = leAt s.keeper.identity 0 8 → Memory.wf l.cells = true →
          ∃ t, exec (.layupRestore m l) s = .next t ∧ replied t 0 0 [] ∧
            (layGen l = true → ∀ p a, s.exists_ a = true → physLayer a < 3 →
              t.byteQ p a = Memory.get l.cells (l.tbase.toNat + genOffset a))))) ∧
  ∀ (d : Nat) (s : State), ((s.shed d).scrub = false ∨ (s.shed d).gang.isSome = true → exec (.shedScrub d) s = .next s) ∧
    ((s.shed d).scrub = true → (s.shed d).gang = none → ∃ t, exec (.shedScrub d) s = .next t ∧ (t.shed d).scrub = false ∧
      (∀ q a, padLoc d 0 ≤ a → a < padLoc d Config.padBytes → t.byteQ q a = 0) ∧ (t.shed d).full = [] ∧
      t.core (3 * d) = Core.reset ∧ t.core (3 * d + 1) = Core.reset ∧ t.core (3 * d + 2) = Core.reset)

/-- R85, R284, R286, R288, R306, R323, R350, R361: For every instruction word, every state and whatever the instruction
comes to (it retires, traps, sleeps, is referred or contains its core): every byte that every quarter's memory holds is
unchanged, but for st.ef, which changes bytes of its one scratchpad doubleword in its own quarter alone, for coll.wait
of a collective that has completed whole, which writes the result to the member's buffer (R323: over stores that the
member made meanwhile), and for a doubleword that a quarter holds a partial of, whose line pref or an instruction that
reads its descriptor or table at issue may merge; and the scalar, vector, mask and condition registers, y0, y1, FSTAT,
the trap registers and the table TYARD of every other context are unchanged, but for a context that start or start.try
fills, which belongs to the same core. The global tick counter does not move. -/
def Obligations.NoInstructionReachesPastItsContextAtIssue : Prop :=
  ∀ (i : Instr) (s t : State), Instr.isWord i = true → exec i s = .next t →
    let takesResult : Prop := ∃ f hd cl, i = .collWait f ∧ (s.core s.myCore).handles.get? (s.rx f.a).toNat = some hd ∧
      s.ord.colls.get? hd.coll = some cl ∧ cl.done = some 0
    t.now = s.now ∧
    ((∀ f, i ≠ .stEf f) → ¬takesResult → Instr.readsAtIssue i = false → SameBytes s t) ∧
    ((∀ f, i ≠ .stEf f) → ¬takesResult → ∀ q a, (∀ b, b ≤ a → a < b + 8 → s.hasPartial b = false) → t.byteQ q a = s.byteQ q a) ∧
    (∀ f, i = .stEf f → ∀ p a, (p % 4 ≠ s.myQtr % 4 ∨
        a < padLoc s.myShed ((s.rx f.a + f.off.signExtend 64).toNat - Config.padWindow) ∨
        padLoc s.myShed ((s.rx f.a + f.off.signExtend 64).toNat - Config.padWindow) + 8 ≤ a) → t.byteQ p a = s.byteQ p a) ∧
    ∀ k, k ≠ s.cur → ((∀ f, i ≠ .start f ∧ i ≠ .startTry f) ∨ coreOfCtx k ≠ s.myCore) →
      (t.ctx k).x = (s.ctx k).x ∧ (t.ctx k).v = (s.ctx k).v ∧ (t.ctx k).k = (s.ctx k).k ∧ (t.ctx k).c = (s.ctx k).c ∧
      (t.ctx k).y0 = (s.ctx k).y0 ∧ (t.ctx k).y1 = (s.ctx k).y1 ∧ (t.ctx k).fstat = (s.ctx k).fstat ∧
      (t.ctx k).tcause = (s.ctx k).tcause ∧ (t.ctx k).tval = (s.ctx k).tval ∧ (t.ctx k).tpc = (s.ctx k).tpc ∧
      (t.ctx k).tinfo = (s.ctx k).tinfo ∧ (t.ctx k).tyard = (s.ctx k).tyard

end
end

