-- ==== Sys2Proof/Laws/Encoding.lean ====
section
/-! SUPPORT. The fields of a packed word are what was packed, format by format (R25 to R39). -/
namespace Sys2Proof

theorem extract_all {n : Nat} (x : BitVec n) {k : Nat} (h : k = 0) : x.extractLsb' k n = x := by
  subst h; simp

section
open BitVec

/-! ## RR format (R28) -/

theorem RR.major_pack (m : BitVec 8) (fn : BitVec 6) (f : RR) : field (f.pack m fn) 56 8 = m := by
  unfold field RR.pack packHead
  simp (disch := decide) only [extractLsb'_append_eq_of_le, extract_all]
theorem RR.func_pack (m : BitVec 8) (fn : BitVec 6) (f : RR) : field (f.pack m fn) 26 6 = fn := by
  unfold field RR.pack packHead
  simp (disch := decide) only [extractLsb'_append_eq_of_le, extractLsb'_append_eq_of_add_le, extract_all]
theorem RR.ofWord_pack (m : BitVec 8) (fn : BitVec 6) (f : RR) : RR.ofWord (f.pack m fn) = f := by
  unfold RR.ofWord field RR.pack packHead
  simp (disch := decide) only [extractLsb'_append_eq_of_le, extractLsb'_append_eq_of_add_le, extract_all]

/-! ## RI format (R33) -/

theorem RI.major_pack (m : BitVec 8) (f : RI) : field (f.pack m) 56 8 = m := by
  unfold field RI.pack packHead
  simp (disch := decide) only [extractLsb'_append_eq_of_le, extract_all]
theorem RI.ofWord_pack (m : BitVec 8) (f : RI) : RI.ofWord (f.pack m) = f := by
  unfold RI.ofWord field RI.pack packHead
  simp (disch := decide) only [extractLsb'_append_eq_of_le, extractLsb'_append_eq_of_add_le, extract_all]

/-! ## M format (R34, R35) -/

theorem MF.major_pack (m : BitVec 8) (f : MF) : field (f.pack m) 56 8 = m := by
  unfold field MF.pack packHead
  simp (disch := decide) only [extractLsb'_append_eq_of_le, extract_all]
theorem MF.ofWord_pack (m : BitVec 8) (f : MF) : MF.ofWord (f.pack m) = f := by
  unfold MF.ofWord field MF.pack packHead
  simp (disch := decide) only [extractLsb'_append_eq_of_le, extractLsb'_append_eq_of_add_le, extract_all]

/-! ## T format (R36, R37) -/

theorem TF.major_pack (m : BitVec 8) (fn : BitVec 6) (f : TF) : field (f.pack m fn) 56 8 = m := by
  unfold field TF.pack packHead
  simp (disch := decide) only [extractLsb'_append_eq_of_le, extract_all]
theorem TF.func_pack (m : BitVec 8) (fn : BitVec 6) (f : TF) : field (f.pack m fn) 26 6 = fn := by
  unfold field TF.pack packHead
  simp (disch := decide) only [extractLsb'_append_eq_of_le, extractLsb'_append_eq_of_add_le, extract_all]
theorem TF.ofWord_pack (m : BitVec 8) (fn : BitVec 6) (f : TF) : TF.ofWord (f.pack m fn) = f := by
  unfold TF.ofWord field TF.pack packHead
  simp (disch := decide) only [extractLsb'_append_eq_of_le, extractLsb'_append_eq_of_add_le, extract_all]

/-! ## X format (R38) -/

theorem XF.major_pack (m : BitVec 8) (fn : BitVec 4) (f : XF) : field (f.pack m fn) 56 8 = m := by
  unfold field XF.pack packHead
  simp (disch := decide) only [extractLsb'_append_eq_of_le, extract_all]
theorem XF.func_pack (m : BitVec 8) (fn : BitVec 4) (f : XF) : field (f.pack m fn) 8 4 = fn := by
  unfold field XF.pack packHead
  simp (disch := decide) only [extractLsb'_append_eq_of_le, extractLsb'_append_eq_of_add_le, extract_all]
theorem XF.ofWord_pack (m : BitVec 8) (fn : BitVec 4) (f : XF) : XF.ofWord (f.pack m fn) = f := by
  unfold XF.ofWord field XF.pack packHead
  simp (disch := decide) only [extractLsb'_append_eq_of_le, extractLsb'_append_eq_of_add_le, extract_all]

/-! ## S format (R39) -/

theorem SF.major_pack (m : BitVec 8) (f : SF) : field (f.pack m) 56 8 = m := by
  unfold field SF.pack packHead
  simp (disch := decide) only [extractLsb'_append_eq_of_le, extract_all]
theorem SF.sreg_pack (m : BitVec 8) (f : SF) : field (f.pack m) 0 12 = f.sreg := by
  unfold field SF.pack packHead
  simp (disch := decide) only [extractLsb'_append_eq_of_add_le, extract_all]
theorem SF.ofWord_pack (m : BitVec 8) (f : SF) : SF.ofWord (f.pack m) = f := by
  unfold SF.ofWord field SF.pack packHead
  simp (disch := decide) only [extractLsb'_append_eq_of_le, extractLsb'_append_eq_of_add_le, extract_all]

end

/-! ## Bytes of a word (R6) -/

/-- One byte below the rest of a word. -/
theorem byte_or_rest (w : Word) (k : Nat) :
    (w.extractLsb' k 8).zeroExtend 64 ||| ((w >>> (k + 8)) <<< 8) = w >>> k := by
  ext i hi
  simp only [BitVec.getElem_or, BitVec.getElem_shiftLeft, BitVec.getElem_setWidth, BitVec.getLsbD_extractLsb',
    BitVec.getElem_ushiftRight]
  by_cases h : i < 8
  · simp [h]
  · simp [h, show k + 8 + (i - 8) = k + i by omega]

/-- Eight bytes put together are the word that they were taken from. -/
theorem leWord_bytes (w : Word) :
    leWord [w.extractLsb' 0 8, w.extractLsb' 8 8, w.extractLsb' 16 8, w.extractLsb' 24 8, w.extractLsb' 32 8,
      w.extractLsb' 40 8, w.extractLsb' 48 8, w.extractLsb' 56 8] = w := by
  have h : leWord [] = w >>> 64 := (BitVec.ushiftRight_eq_zero (Nat.le_refl 64)).symm
  have step (k : Nat) (bs : List Byte) (hb : leWord bs = w >>> (k + 8)) :
      leWord (w.extractLsb' k 8 :: bs) = w >>> k := by rw [leWord, hb, byte_or_rest]
  simpa using step 0 _ (step 8 _ (step 16 _ (step 24 _ (step 32 _ (step 40 _ (step 48 _ (step 56 _ h)))))))

/-- The decoder reads back a word laid out as its bytes, and leaves the bytes after it. -/
theorem decode_wordBytes (w : Word) (rest : List Byte) : decode (wordBytes w ++ rest) = .ok (decodeWord w, rest) := by
  have h : wordBytes w = [w.extractLsb' 0 8, w.extractLsb' 8 8, w.extractLsb' 16 8, w.extractLsb' 24 8,
      w.extractLsb' 32 8, w.extractLsb' 40 8, w.extractLsb' 48 8, w.extractLsb' 56 8] := rfl
  rw [h]
  simp only [List.cons_append, List.nil_append, decode, leWord_bytes]

end Sys2Proof
end

