-- ==== Sys2Proof/Laws/Tables.lean ====
section
/-! SUPPORT. What the two containers of the state do: tables by number, and byte memories in canonical form. -/
namespace Sys2Proof

/-! ## Tables -/

theorem Table.get?_put_self {α : Type} (t : Table α) (k : Nat) (a : α) :
    Table.get? (Table.put t k a) k = some a := by
  induction t with
  | nil => simp [Table.put, Table.get?]
  | cons e t ih =>
    obtain ⟨j, b⟩ := e
    unfold Table.put
    split
    · simp [Table.get?]
    · split
      · simp [Table.get?]
      · simpa [Table.get?, ‹¬j = k›] using ih

theorem Table.get?_put_ne {α : Type} (t : Table α) {k j : Nat} (a : α) (h : j ≠ k) :
    Table.get? (Table.put t k a) j = Table.get? t j := by
  induction t with
  | nil => simp [Table.put, Table.get?, h.symm]
  | cons e t ih =>
    obtain ⟨i, b⟩ := e
    unfold Table.put
    split
    · rename_i hi; subst hi; simp [Table.get?, h.symm]
    · split
      · simp [Table.get?, h.symm]
      · simp only [Table.get?, ih]

@[simp] theorem Table.getD_put_self {α : Type} (t : Table α) (k : Nat) (a d : α) :
    Table.getD (Table.put t k a) k d = a := by
  simp [Table.getD, Table.get?_put_self]

theorem Table.getD_put_ne {α : Type} (t : Table α) {k j : Nat} (a d : α) (h : j ≠ k) :
    Table.getD (Table.put t k a) j d = Table.getD t j d := by
  simp [Table.getD, Table.get?_put_ne t a h]

theorem Table.getD_put {α : Type} (t : Table α) (k j : Nat) (a d : α) :
    Table.getD (Table.put t k a) j d = if j = k then a else Table.getD t j d := by
  split
  · subst_vars; simp
  · exact Table.getD_put_ne t a d ‹_›

theorem Table.put_put {α : Type} (t : Table α) (k : Nat) (a b : α) :
    Table.put (Table.put t k a) k b = Table.put t k b := by
  induction t with
  | nil => simp [Table.put]
  | cons e t ih =>
    obtain ⟨j, c⟩ := e
    by_cases h : j = k
    · simp [Table.put, h]
    · by_cases h' : k < j
      · simp [Table.put, h, h']
      · simp [Table.put, h, h', ih]

theorem Table.get?_mapVals {α : Type} (f : Nat → α → α) (t : Table α) (k : Nat) :
    Table.get? (Table.mapVals f t) k = (Table.get? t k).map (f k) := by
  induction t with
  | nil => rfl
  | cons e t ih =>
    obtain ⟨j, b⟩ := e
    simp only [Table.mapVals, List.map_cons, Table.get?]
    split
    · subst_vars; rfl
    · simpa [Table.mapVals] using ih

theorem Table.get?_del_self {α : Type} (t : Table α) (k : Nat) : Table.get? (Table.del t k) k = none := by
  induction t with
  | nil => rfl
  | cons e t ih =>
    obtain ⟨j, b⟩ := e
    by_cases h : j = k
    · simpa [Table.del, h] using ih
    · simpa [Table.del, h, Table.get?] using ih

end Sys2Proof
end

