-- ==== Sys2Proof/Laws/State.lean ====
section
/-! SUPPORT. What each update of the state changes and what it leaves, field by field, so that no proof unfolds a record
update; and what each accessor reads after each update. -/
namespace Sys2Proof.Machine

/-! ## The parts: read after write -/

@[simp] theorem State.ctx_setCtx_self (s : State) (k : Nat) (v : Ctx) : (s.setCtx k v).ctx k = v := Table.getD_put_self ..
theorem State.ctx_setCtx_ne (s : State) {k j : Nat} (v : Ctx) (h : j ≠ k) : (s.setCtx k v).ctx j = s.ctx j :=
  Table.getD_put_ne _ _ _ h
theorem State.ctx_setCtx (s : State) (k j : Nat) (v : Ctx) : (s.setCtx k v).ctx j = if j = k then v else s.ctx j :=
  Table.getD_put ..
@[simp] theorem State.ctx_updCtx_self (s : State) (k : Nat) (f : Ctx → Ctx) : (s.updCtx k f).ctx k = f (s.ctx k) :=
  Table.getD_put_self ..
theorem State.ctx_updCtx_ne (s : State) {k j : Nat} (f : Ctx → Ctx) (h : j ≠ k) : (s.updCtx k f).ctx j = s.ctx j :=
  Table.getD_put_ne _ _ _ h
theorem State.ctx_updCtx (s : State) (k j : Nat) (f : Ctx → Ctx) :
    (s.updCtx k f).ctx j = if j = k then f (s.ctx k) else s.ctx j := Table.getD_put ..
@[simp] theorem State.setCtx_setCtx (s : State) (k : Nat) (u v : Ctx) : (s.setCtx k u).setCtx k v = s.setCtx k v := by
  simp [State.setCtx, Table.put_put]
@[simp] theorem State.updCtx_updCtx (s : State) (k : Nat) (f g : Ctx → Ctx) :
    (s.updCtx k f).updCtx k g = s.updCtx k fun v => g (f v) := by
  simp [State.updCtx]

@[simp] theorem State.core_setCore_self (s : State) (k : Nat) (v : Core) : (s.setCore k v).core k = v := Table.getD_put_self ..
theorem State.core_setCore_ne (s : State) {k j : Nat} (v : Core) (h : j ≠ k) : (s.setCore k v).core j = s.core j :=
  Table.getD_put_ne _ _ _ h
theorem State.core_setCore (s : State) (k j : Nat) (v : Core) : (s.setCore k v).core j = if j = k then v else s.core j :=
  Table.getD_put ..
@[simp] theorem State.core_updCore_self (s : State) (k : Nat) (f : Core → Core) : (s.updCore k f).core k = f (s.core k) :=
  Table.getD_put_self ..
theorem State.core_updCore_ne (s : State) {k j : Nat} (f : Core → Core) (h : j ≠ k) : (s.updCore k f).core j = s.core j :=
  Table.getD_put_ne _ _ _ h
theorem State.core_updCore (s : State) (k j : Nat) (f : Core → Core) :
    (s.updCore k f).core j = if j = k then f (s.core k) else s.core j := Table.getD_put ..
@[simp] theorem State.setCore_setCore (s : State) (k : Nat) (u v : Core) : (s.setCore k u).setCore k v = s.setCore k v := by
  simp [State.setCore, Table.put_put]
@[simp] theorem State.updCore_updCore (s : State) (k : Nat) (f g : Core → Core) :
    (s.updCore k f).updCore k g = s.updCore k fun v => g (f v) := by
  simp [State.updCore]

@[simp] theorem State.shed_setShed_self (s : State) (k : Nat) (v : Shed) : (s.setShed k v).shed k = v := Table.getD_put_self ..
theorem State.shed_setShed_ne (s : State) {k j : Nat} (v : Shed) (h : j ≠ k) : (s.setShed k v).shed j = s.shed j :=
  Table.getD_put_ne _ _ _ h
theorem State.shed_setShed (s : State) (k j : Nat) (v : Shed) : (s.setShed k v).shed j = if j = k then v else s.shed j :=
  Table.getD_put ..
@[simp] theorem State.shed_updShed_self (s : State) (k : Nat) (f : Shed → Shed) : (s.updShed k f).shed k = f (s.shed k) :=
  Table.getD_put_self ..
theorem State.shed_updShed_ne (s : State) {k j : Nat} (f : Shed → Shed) (h : j ≠ k) : (s.updShed k f).shed j = s.shed j :=
  Table.getD_put_ne _ _ _ h
theorem State.shed_updShed (s : State) (k j : Nat) (f : Shed → Shed) :
    (s.updShed k f).shed j = if j = k then f (s.shed k) else s.shed j := Table.getD_put ..
@[simp] theorem State.setShed_setShed (s : State) (k : Nat) (u v : Shed) : (s.setShed k u).setShed k v = s.setShed k v := by
  simp [State.setShed, Table.put_put]
@[simp] theorem State.updShed_updShed (s : State) (k : Nat) (f g : Shed → Shed) :
    (s.updShed k f).updShed k g = s.updShed k fun v => g (f v) := by
  simp [State.updShed]

@[simp] theorem State.gang_setGang_self (s : State) (k : Nat) (v : Gang) : (s.setGang k v).gang k = v := Table.getD_put_self ..
theorem State.gang_setGang_ne (s : State) {k j : Nat} (v : Gang) (h : j ≠ k) : (s.setGang k v).gang j = s.gang j :=
  Table.getD_put_ne _ _ _ h
theorem State.gang_setGang (s : State) (k j : Nat) (v : Gang) : (s.setGang k v).gang j = if j = k then v else s.gang j :=
  Table.getD_put ..
@[simp] theorem State.gang_updGang_self (s : State) (k : Nat) (f : Gang → Gang) : (s.updGang k f).gang k = f (s.gang k) :=
  Table.getD_put_self ..
theorem State.gang_updGang_ne (s : State) {k j : Nat} (f : Gang → Gang) (h : j ≠ k) : (s.updGang k f).gang j = s.gang j :=
  Table.getD_put_ne _ _ _ h
theorem State.gang_updGang (s : State) (k j : Nat) (f : Gang → Gang) :
    (s.updGang k f).gang j = if j = k then f (s.gang k) else s.gang j := Table.getD_put ..
@[simp] theorem State.setGang_setGang (s : State) (k : Nat) (u v : Gang) : (s.setGang k u).setGang k v = s.setGang k v := by
  simp [State.setGang, Table.put_put]
@[simp] theorem State.updGang_updGang (s : State) (k : Nat) (f g : Gang → Gang) :
    (s.updGang k f).updGang k g = s.updGang k fun v => g (f v) := by
  simp [State.updGang]

@[simp] theorem State.vf_setVf_self (s : State) (k : Nat) (v : Vf) : (s.setVf k v).vf k = v := Table.getD_put_self ..
theorem State.vf_setVf_ne (s : State) {k j : Nat} (v : Vf) (h : j ≠ k) : (s.setVf k v).vf j = s.vf j :=
  Table.getD_put_ne _ _ _ h
theorem State.vf_setVf (s : State) (k j : Nat) (v : Vf) : (s.setVf k v).vf j = if j = k then v else s.vf j :=
  Table.getD_put ..
@[simp] theorem State.vf_updVf_self (s : State) (k : Nat) (f : Vf → Vf) : (s.updVf k f).vf k = f (s.vf k) :=
  Table.getD_put_self ..
theorem State.vf_updVf_ne (s : State) {k j : Nat} (f : Vf → Vf) (h : j ≠ k) : (s.updVf k f).vf j = s.vf j :=
  Table.getD_put_ne _ _ _ h
theorem State.vf_updVf (s : State) (k j : Nat) (f : Vf → Vf) :
    (s.updVf k f).vf j = if j = k then f (s.vf k) else s.vf j := Table.getD_put ..
@[simp] theorem State.setVf_setVf (s : State) (k : Nat) (u v : Vf) : (s.setVf k u).setVf k v = s.setVf k v := by
  simp [State.setVf, Table.put_put]
@[simp] theorem State.updVf_updVf (s : State) (k : Nat) (f g : Vf → Vf) :
    (s.updVf k f).updVf k g = s.updVf k fun v => g (f v) := by
  simp [State.updVf]

@[simp] theorem State.queue_setQueue_self (s : State) (k : Nat) (v : Queue) : (s.setQueue k v).queue k = v := Table.getD_put_self ..
theorem State.queue_setQueue_ne (s : State) {k j : Nat} (v : Queue) (h : j ≠ k) : (s.setQueue k v).queue j = s.queue j :=
  Table.getD_put_ne _ _ _ h
theorem State.queue_setQueue (s : State) (k j : Nat) (v : Queue) : (s.setQueue k v).queue j = if j = k then v else s.queue j :=
  Table.getD_put ..
@[simp] theorem State.queue_updQueue_self (s : State) (k : Nat) (f : Queue → Queue) : (s.updQueue k f).queue k = f (s.queue k) :=
  Table.getD_put_self ..
theorem State.queue_updQueue_ne (s : State) {k j : Nat} (f : Queue → Queue) (h : j ≠ k) : (s.updQueue k f).queue j = s.queue j :=
  Table.getD_put_ne _ _ _ h
theorem State.queue_updQueue (s : State) (k j : Nat) (f : Queue → Queue) :
    (s.updQueue k f).queue j = if j = k then f (s.queue k) else s.queue j := Table.getD_put ..
@[simp] theorem State.setQueue_setQueue (s : State) (k : Nat) (u v : Queue) : (s.setQueue k u).setQueue k v = s.setQueue k v := by
  simp [State.setQueue, Table.put_put]
@[simp] theorem State.updQueue_updQueue (s : State) (k : Nat) (f g : Queue → Queue) :
    (s.updQueue k f).updQueue k g = s.updQueue k fun v => g (f v) := by
  simp [State.updQueue]

@[simp] theorem State.memQ_setMemQ_self (s : State) (q : Nat) (m : Memory) : (s.setMemQ q m).memQ q = m := by
  simp [State.memQ, State.setMemQ]
theorem State.memQ_setMemQ_ne (s : State) {q p : Nat} (m : Memory) (h : p % 4 ≠ q % 4) : (s.setMemQ q m).memQ p = s.memQ p := by
  simp [State.memQ, State.setMemQ, h.symm]

/-! ## The executing context -/

@[simp] theorem State.me_updMe (s : State) (f : Ctx → Ctx) : (s.updMe f).me = f s.me := Table.getD_put_self ..
@[simp] theorem State.updMe_updMe (s : State) (f g : Ctx → Ctx) : (s.updMe f).updMe g = s.updMe fun c => g (f c) :=
  State.updCtx_updCtx ..
theorem State.ctx_updMe_ne (s : State) {k : Nat} (f : Ctx → Ctx) (h : k ≠ s.cur) : (s.updMe f).ctx k = s.ctx k :=
  State.ctx_updCtx_ne s f h

/-! ## The state, field by field -/

@[simp] theorem State.updCtx_turns (s : State) (k : Nat) (f : Ctx → Ctx) : (s.updCtx k f).turns = s.turns := rfl
@[simp] theorem State.updCtx_turnNo (s : State) (k : Nat) (f : Ctx → Ctx) : (s.updCtx k f).turnNo = s.turnNo := rfl
@[simp] theorem State.updCtx_cur (s : State) (k : Nat) (f : Ctx → Ctx) : (s.updCtx k f).cur = s.cur := rfl
@[simp] theorem State.updCtx_now (s : State) (k : Nat) (f : Ctx → Ctx) : (s.updCtx k f).now = s.now := rfl
@[simp] theorem State.updCtx_next (s : State) (k : Nat) (f : Ctx → Ctx) : (s.updCtx k f).next = s.next := rfl
@[simp] theorem State.updCtx_free (s : State) (k : Nat) (f : Ctx → Ctx) : (s.updCtx k f).free = s.free := rfl
@[simp] theorem State.updCtx_four (s : State) (k : Nat) (f : Ctx → Ctx) : (s.updCtx k f).four = s.four := rfl
@[simp] theorem State.updCtx_cores (s : State) (k : Nat) (f : Ctx → Ctx) : (s.updCtx k f).cores = s.cores := rfl
@[simp] theorem State.updCtx_sheds (s : State) (k : Nat) (f : Ctx → Ctx) : (s.updCtx k f).sheds = s.sheds := rfl
@[simp] theorem State.updCtx_gangs (s : State) (k : Nat) (f : Ctx → Ctx) : (s.updCtx k f).gangs = s.gangs := rfl
@[simp] theorem State.updCtx_ord (s : State) (k : Nat) (f : Ctx → Ctx) : (s.updCtx k f).ord = s.ord := rfl
@[simp] theorem State.updCtx_vfs (s : State) (k : Nat) (f : Ctx → Ctx) : (s.updCtx k f).vfs = s.vfs := rfl
@[simp] theorem State.updCtx_queues (s : State) (k : Nat) (f : Ctx → Ctx) : (s.updCtx k f).queues = s.queues := rfl
@[simp] theorem State.updCtx_refs (s : State) (k : Nat) (f : Ctx → Ctx) : (s.updCtx k f).refs = s.refs := rfl
@[simp] theorem State.updCtx_keeper (s : State) (k : Nat) (f : Ctx → Ctx) : (s.updCtx k f).keeper = s.keeper := rfl
@[simp] theorem State.updCtx_master (s : State) (k : Nat) (f : Ctx → Ctx) : (s.updCtx k f).master = s.master := rfl
@[simp] theorem State.updCtx_power (s : State) (k : Nat) (f : Ctx → Ctx) : (s.updCtx k f).power = s.power := rfl
@[simp] theorem State.updCtx_quarters (s : State) (k : Nat) (f : Ctx → Ctx) : (s.updCtx k f).quarters = s.quarters := rfl
@[simp] theorem State.updCtx_core (s : State) (k : Nat) (f : Ctx → Ctx) (j : Nat) : (s.updCtx k f).core j = s.core j := rfl
@[simp] theorem State.updCtx_shed (s : State) (k : Nat) (f : Ctx → Ctx) (j : Nat) : (s.updCtx k f).shed j = s.shed j := rfl
@[simp] theorem State.updCtx_gang (s : State) (k : Nat) (f : Ctx → Ctx) (j : Nat) : (s.updCtx k f).gang j = s.gang j := rfl
@[simp] theorem State.updCtx_vf (s : State) (k : Nat) (f : Ctx → Ctx) (j : Nat) : (s.updCtx k f).vf j = s.vf j := rfl
@[simp] theorem State.updCtx_queue (s : State) (k : Nat) (f : Ctx → Ctx) (j : Nat) : (s.updCtx k f).queue j = s.queue j := rfl
@[simp] theorem State.updCtx_memQ (s : State) (k : Nat) (f : Ctx → Ctx) (j : Nat) : (s.updCtx k f).memQ j = s.memQ j := rfl
@[simp] theorem State.updCtx_quarterAt (s : State) (k : Nat) (f : Ctx → Ctx) (j : Nat) : (s.updCtx k f).quarterAt j = s.quarterAt j := rfl
@[simp] theorem State.updCtx_writeAt (s : State) (k : Nat) (f : Ctx → Ctx) (j : Nat) : (s.updCtx k f).writeAt j = s.writeAt j := rfl
@[simp] theorem State.updCore_turns (s : State) (k : Nat) (f : Core → Core) : (s.updCore k f).turns = s.turns := rfl
@[simp] theorem State.updCore_turnNo (s : State) (k : Nat) (f : Core → Core) : (s.updCore k f).turnNo = s.turnNo := rfl
@[simp] theorem State.updCore_cur (s : State) (k : Nat) (f : Core → Core) : (s.updCore k f).cur = s.cur := rfl
@[simp] theorem State.updCore_now (s : State) (k : Nat) (f : Core → Core) : (s.updCore k f).now = s.now := rfl
@[simp] theorem State.updCore_next (s : State) (k : Nat) (f : Core → Core) : (s.updCore k f).next = s.next := rfl
@[simp] theorem State.updCore_free (s : State) (k : Nat) (f : Core → Core) : (s.updCore k f).free = s.free := rfl
@[simp] theorem State.updCore_four (s : State) (k : Nat) (f : Core → Core) : (s.updCore k f).four = s.four := rfl
@[simp] theorem State.updCore_ctxs (s : State) (k : Nat) (f : Core → Core) : (s.updCore k f).ctxs = s.ctxs := rfl
@[simp] theorem State.updCore_sheds (s : State) (k : Nat) (f : Core → Core) : (s.updCore k f).sheds = s.sheds := rfl
@[simp] theorem State.updCore_gangs (s : State) (k : Nat) (f : Core → Core) : (s.updCore k f).gangs = s.gangs := rfl
@[simp] theorem State.updCore_ord (s : State) (k : Nat) (f : Core → Core) : (s.updCore k f).ord = s.ord := rfl
@[simp] theorem State.updCore_vfs (s : State) (k : Nat) (f : Core → Core) : (s.updCore k f).vfs = s.vfs := rfl
@[simp] theorem State.updCore_queues (s : State) (k : Nat) (f : Core → Core) : (s.updCore k f).queues = s.queues := rfl
@[simp] theorem State.updCore_refs (s : State) (k : Nat) (f : Core → Core) : (s.updCore k f).refs = s.refs := rfl
@[simp] theorem State.updCore_keeper (s : State) (k : Nat) (f : Core → Core) : (s.updCore k f).keeper = s.keeper := rfl
@[simp] theorem State.updCore_master (s : State) (k : Nat) (f : Core → Core) : (s.updCore k f).master = s.master := rfl
@[simp] theorem State.updCore_power (s : State) (k : Nat) (f : Core → Core) : (s.updCore k f).power = s.power := rfl
@[simp] theorem State.updCore_quarters (s : State) (k : Nat) (f : Core → Core) : (s.updCore k f).quarters = s.quarters := rfl
@[simp] theorem State.updCore_ctx (s : State) (k : Nat) (f : Core → Core) (j : Nat) : (s.updCore k f).ctx j = s.ctx j := rfl
@[simp] theorem State.updCore_shed (s : State) (k : Nat) (f : Core → Core) (j : Nat) : (s.updCore k f).shed j = s.shed j := rfl
@[simp] theorem State.updCore_gang (s : State) (k : Nat) (f : Core → Core) (j : Nat) : (s.updCore k f).gang j = s.gang j := rfl
@[simp] theorem State.updCore_vf (s : State) (k : Nat) (f : Core → Core) (j : Nat) : (s.updCore k f).vf j = s.vf j := rfl
@[simp] theorem State.updCore_queue (s : State) (k : Nat) (f : Core → Core) (j : Nat) : (s.updCore k f).queue j = s.queue j := rfl
@[simp] theorem State.updCore_memQ (s : State) (k : Nat) (f : Core → Core) (j : Nat) : (s.updCore k f).memQ j = s.memQ j := rfl
@[simp] theorem State.updCore_quarterAt (s : State) (k : Nat) (f : Core → Core) (j : Nat) : (s.updCore k f).quarterAt j = s.quarterAt j := rfl
@[simp] theorem State.updCore_writeAt (s : State) (k : Nat) (f : Core → Core) (j : Nat) : (s.updCore k f).writeAt j = s.writeAt j := rfl
@[simp] theorem State.updShed_turns (s : State) (k : Nat) (f : Shed → Shed) : (s.updShed k f).turns = s.turns := rfl
@[simp] theorem State.updShed_turnNo (s : State) (k : Nat) (f : Shed → Shed) : (s.updShed k f).turnNo = s.turnNo := rfl
@[simp] theorem State.updShed_cur (s : State) (k : Nat) (f : Shed → Shed) : (s.updShed k f).cur = s.cur := rfl
@[simp] theorem State.updShed_now (s : State) (k : Nat) (f : Shed → Shed) : (s.updShed k f).now = s.now := rfl
@[simp] theorem State.updShed_next (s : State) (k : Nat) (f : Shed → Shed) : (s.updShed k f).next = s.next := rfl
@[simp] theorem State.updShed_free (s : State) (k : Nat) (f : Shed → Shed) : (s.updShed k f).free = s.free := rfl
@[simp] theorem State.updShed_four (s : State) (k : Nat) (f : Shed → Shed) : (s.updShed k f).four = s.four := rfl
@[simp] theorem State.updShed_ctxs (s : State) (k : Nat) (f : Shed → Shed) : (s.updShed k f).ctxs = s.ctxs := rfl
@[simp] theorem State.updShed_cores (s : State) (k : Nat) (f : Shed → Shed) : (s.updShed k f).cores = s.cores := rfl
@[simp] theorem State.updShed_gangs (s : State) (k : Nat) (f : Shed → Shed) : (s.updShed k f).gangs = s.gangs := rfl
@[simp] theorem State.updShed_ord (s : State) (k : Nat) (f : Shed → Shed) : (s.updShed k f).ord = s.ord := rfl
@[simp] theorem State.updShed_vfs (s : State) (k : Nat) (f : Shed → Shed) : (s.updShed k f).vfs = s.vfs := rfl
@[simp] theorem State.updShed_queues (s : State) (k : Nat) (f : Shed → Shed) : (s.updShed k f).queues = s.queues := rfl
@[simp] theorem State.updShed_refs (s : State) (k : Nat) (f : Shed → Shed) : (s.updShed k f).refs = s.refs := rfl
@[simp] theorem State.updShed_keeper (s : State) (k : Nat) (f : Shed → Shed) : (s.updShed k f).keeper = s.keeper := rfl
@[simp] theorem State.updShed_master (s : State) (k : Nat) (f : Shed → Shed) : (s.updShed k f).master = s.master := rfl
@[simp] theorem State.updShed_power (s : State) (k : Nat) (f : Shed → Shed) : (s.updShed k f).power = s.power := rfl
@[simp] theorem State.updShed_quarters (s : State) (k : Nat) (f : Shed → Shed) : (s.updShed k f).quarters = s.quarters := rfl
@[simp] theorem State.updShed_ctx (s : State) (k : Nat) (f : Shed → Shed) (j : Nat) : (s.updShed k f).ctx j = s.ctx j := rfl
@[simp] theorem State.updShed_core (s : State) (k : Nat) (f : Shed → Shed) (j : Nat) : (s.updShed k f).core j = s.core j := rfl
@[simp] theorem State.updShed_gang (s : State) (k : Nat) (f : Shed → Shed) (j : Nat) : (s.updShed k f).gang j = s.gang j := rfl
@[simp] theorem State.updShed_vf (s : State) (k : Nat) (f : Shed → Shed) (j : Nat) : (s.updShed k f).vf j = s.vf j := rfl
@[simp] theorem State.updShed_queue (s : State) (k : Nat) (f : Shed → Shed) (j : Nat) : (s.updShed k f).queue j = s.queue j := rfl
@[simp] theorem State.updShed_memQ (s : State) (k : Nat) (f : Shed → Shed) (j : Nat) : (s.updShed k f).memQ j = s.memQ j := rfl
@[simp] theorem State.updShed_quarterAt (s : State) (k : Nat) (f : Shed → Shed) (j : Nat) : (s.updShed k f).quarterAt j = s.quarterAt j := rfl
@[simp] theorem State.updShed_writeAt (s : State) (k : Nat) (f : Shed → Shed) (j : Nat) : (s.updShed k f).writeAt j = s.writeAt j := rfl
@[simp] theorem State.updGang_turns (s : State) (k : Nat) (f : Gang → Gang) : (s.updGang k f).turns = s.turns := rfl
@[simp] theorem State.updGang_turnNo (s : State) (k : Nat) (f : Gang → Gang) : (s.updGang k f).turnNo = s.turnNo := rfl
@[simp] theorem State.updGang_cur (s : State) (k : Nat) (f : Gang → Gang) : (s.updGang k f).cur = s.cur := rfl
@[simp] theorem State.updGang_now (s : State) (k : Nat) (f : Gang → Gang) : (s.updGang k f).now = s.now := rfl
@[simp] theorem State.updGang_next (s : State) (k : Nat) (f : Gang → Gang) : (s.updGang k f).next = s.next := rfl
@[simp] theorem State.updGang_free (s : State) (k : Nat) (f : Gang → Gang) : (s.updGang k f).free = s.free := rfl
@[simp] theorem State.updGang_four (s : State) (k : Nat) (f : Gang → Gang) : (s.updGang k f).four = s.four := rfl
@[simp] theorem State.updGang_ctxs (s : State) (k : Nat) (f : Gang → Gang) : (s.updGang k f).ctxs = s.ctxs := rfl
@[simp] theorem State.updGang_cores (s : State) (k : Nat) (f : Gang → Gang) : (s.updGang k f).cores = s.cores := rfl
@[simp] theorem State.updGang_sheds (s : State) (k : Nat) (f : Gang → Gang) : (s.updGang k f).sheds = s.sheds := rfl
@[simp] theorem State.updGang_ord (s : State) (k : Nat) (f : Gang → Gang) : (s.updGang k f).ord = s.ord := rfl
@[simp] theorem State.updGang_vfs (s : State) (k : Nat) (f : Gang → Gang) : (s.updGang k f).vfs = s.vfs := rfl
@[simp] theorem State.updGang_queues (s : State) (k : Nat) (f : Gang → Gang) : (s.updGang k f).queues = s.queues := rfl
@[simp] theorem State.updGang_refs (s : State) (k : Nat) (f : Gang → Gang) : (s.updGang k f).refs = s.refs := rfl
@[simp] theorem State.updGang_keeper (s : State) (k : Nat) (f : Gang → Gang) : (s.updGang k f).keeper = s.keeper := rfl
@[simp] theorem State.updGang_master (s : State) (k : Nat) (f : Gang → Gang) : (s.updGang k f).master = s.master := rfl
@[simp] theorem State.updGang_power (s : State) (k : Nat) (f : Gang → Gang) : (s.updGang k f).power = s.power := rfl
@[simp] theorem State.updGang_quarters (s : State) (k : Nat) (f : Gang → Gang) : (s.updGang k f).quarters = s.quarters := rfl
@[simp] theorem State.updGang_ctx (s : State) (k : Nat) (f : Gang → Gang) (j : Nat) : (s.updGang k f).ctx j = s.ctx j := rfl
@[simp] theorem State.updGang_core (s : State) (k : Nat) (f : Gang → Gang) (j : Nat) : (s.updGang k f).core j = s.core j := rfl
@[simp] theorem State.updGang_shed (s : State) (k : Nat) (f : Gang → Gang) (j : Nat) : (s.updGang k f).shed j = s.shed j := rfl
@[simp] theorem State.updGang_vf (s : State) (k : Nat) (f : Gang → Gang) (j : Nat) : (s.updGang k f).vf j = s.vf j := rfl
@[simp] theorem State.updGang_queue (s : State) (k : Nat) (f : Gang → Gang) (j : Nat) : (s.updGang k f).queue j = s.queue j := rfl
@[simp] theorem State.updGang_memQ (s : State) (k : Nat) (f : Gang → Gang) (j : Nat) : (s.updGang k f).memQ j = s.memQ j := rfl
@[simp] theorem State.updGang_quarterAt (s : State) (k : Nat) (f : Gang → Gang) (j : Nat) : (s.updGang k f).quarterAt j = s.quarterAt j := rfl
@[simp] theorem State.updGang_writeAt (s : State) (k : Nat) (f : Gang → Gang) (j : Nat) : (s.updGang k f).writeAt j = s.writeAt j := rfl
@[simp] theorem State.updVf_turns (s : State) (k : Nat) (f : Vf → Vf) : (s.updVf k f).turns = s.turns := rfl
@[simp] theorem State.updVf_turnNo (s : State) (k : Nat) (f : Vf → Vf) : (s.updVf k f).turnNo = s.turnNo := rfl
@[simp] theorem State.updVf_cur (s : State) (k : Nat) (f : Vf → Vf) : (s.updVf k f).cur = s.cur := rfl
@[simp] theorem State.updVf_now (s : State) (k : Nat) (f : Vf → Vf) : (s.updVf k f).now = s.now := rfl
@[simp] theorem State.updVf_next (s : State) (k : Nat) (f : Vf → Vf) : (s.updVf k f).next = s.next := rfl
@[simp] theorem State.updVf_free (s : State) (k : Nat) (f : Vf → Vf) : (s.updVf k f).free = s.free := rfl
@[simp] theorem State.updVf_four (s : State) (k : Nat) (f : Vf → Vf) : (s.updVf k f).four = s.four := rfl
@[simp] theorem State.updVf_ctxs (s : State) (k : Nat) (f : Vf → Vf) : (s.updVf k f).ctxs = s.ctxs := rfl
@[simp] theorem State.updVf_cores (s : State) (k : Nat) (f : Vf → Vf) : (s.updVf k f).cores = s.cores := rfl
@[simp] theorem State.updVf_sheds (s : State) (k : Nat) (f : Vf → Vf) : (s.updVf k f).sheds = s.sheds := rfl
@[simp] theorem State.updVf_gangs (s : State) (k : Nat) (f : Vf → Vf) : (s.updVf k f).gangs = s.gangs := rfl
@[simp] theorem State.updVf_ord (s : State) (k : Nat) (f : Vf → Vf) : (s.updVf k f).ord = s.ord := rfl
@[simp] theorem State.updVf_queues (s : State) (k : Nat) (f : Vf → Vf) : (s.updVf k f).queues = s.queues := rfl
@[simp] theorem State.updVf_refs (s : State) (k : Nat) (f : Vf → Vf) : (s.updVf k f).refs = s.refs := rfl
@[simp] theorem State.updVf_keeper (s : State) (k : Nat) (f : Vf → Vf) : (s.updVf k f).keeper = s.keeper := rfl
@[simp] theorem State.updVf_master (s : State) (k : Nat) (f : Vf → Vf) : (s.updVf k f).master = s.master := rfl
@[simp] theorem State.updVf_power (s : State) (k : Nat) (f : Vf → Vf) : (s.updVf k f).power = s.power := rfl
@[simp] theorem State.updVf_quarters (s : State) (k : Nat) (f : Vf → Vf) : (s.updVf k f).quarters = s.quarters := rfl
@[simp] theorem State.updVf_ctx (s : State) (k : Nat) (f : Vf → Vf) (j : Nat) : (s.updVf k f).ctx j = s.ctx j := rfl
@[simp] theorem State.updVf_core (s : State) (k : Nat) (f : Vf → Vf) (j : Nat) : (s.updVf k f).core j = s.core j := rfl
@[simp] theorem State.updVf_shed (s : State) (k : Nat) (f : Vf → Vf) (j : Nat) : (s.updVf k f).shed j = s.shed j := rfl
@[simp] theorem State.updVf_gang (s : State) (k : Nat) (f : Vf → Vf) (j : Nat) : (s.updVf k f).gang j = s.gang j := rfl
@[simp] theorem State.updVf_queue (s : State) (k : Nat) (f : Vf → Vf) (j : Nat) : (s.updVf k f).queue j = s.queue j := rfl
@[simp] theorem State.updVf_memQ (s : State) (k : Nat) (f : Vf → Vf) (j : Nat) : (s.updVf k f).memQ j = s.memQ j := rfl
@[simp] theorem State.updVf_quarterAt (s : State) (k : Nat) (f : Vf → Vf) (j : Nat) : (s.updVf k f).quarterAt j = s.quarterAt j := rfl
@[simp] theorem State.updVf_writeAt (s : State) (k : Nat) (f : Vf → Vf) (j : Nat) : (s.updVf k f).writeAt j = s.writeAt j := rfl
@[simp] theorem State.updQueue_turns (s : State) (k : Nat) (f : Queue → Queue) : (s.updQueue k f).turns = s.turns := rfl
@[simp] theorem State.updQueue_turnNo (s : State) (k : Nat) (f : Queue → Queue) : (s.updQueue k f).turnNo = s.turnNo := rfl
@[simp] theorem State.updQueue_cur (s : State) (k : Nat) (f : Queue → Queue) : (s.updQueue k f).cur = s.cur := rfl
@[simp] theorem State.updQueue_now (s : State) (k : Nat) (f : Queue → Queue) : (s.updQueue k f).now = s.now := rfl
@[simp] theorem State.updQueue_next (s : State) (k : Nat) (f : Queue → Queue) : (s.updQueue k f).next = s.next := rfl
@[simp] theorem State.updQueue_free (s : State) (k : Nat) (f : Queue → Queue) : (s.updQueue k f).free = s.free := rfl
@[simp] theorem State.updQueue_four (s : State) (k : Nat) (f : Queue → Queue) : (s.updQueue k f).four = s.four := rfl
@[simp] theorem State.updQueue_ctxs (s : State) (k : Nat) (f : Queue → Queue) : (s.updQueue k f).ctxs = s.ctxs := rfl
@[simp] theorem State.updQueue_cores (s : State) (k : Nat) (f : Queue → Queue) : (s.updQueue k f).cores = s.cores := rfl
@[simp] theorem State.updQueue_sheds (s : State) (k : Nat) (f : Queue → Queue) : (s.updQueue k f).sheds = s.sheds := rfl
@[simp] theorem State.updQueue_gangs (s : State) (k : Nat) (f : Queue → Queue) : (s.updQueue k f).gangs = s.gangs := rfl
@[simp] theorem State.updQueue_ord (s : State) (k : Nat) (f : Queue → Queue) : (s.updQueue k f).ord = s.ord := rfl
@[simp] theorem State.updQueue_vfs (s : State) (k : Nat) (f : Queue → Queue) : (s.updQueue k f).vfs = s.vfs := rfl
@[simp] theorem State.updQueue_refs (s : State) (k : Nat) (f : Queue → Queue) : (s.updQueue k f).refs = s.refs := rfl
@[simp] theorem State.updQueue_keeper (s : State) (k : Nat) (f : Queue → Queue) : (s.updQueue k f).keeper = s.keeper := rfl
@[simp] theorem State.updQueue_master (s : State) (k : Nat) (f : Queue → Queue) : (s.updQueue k f).master = s.master := rfl
@[simp] theorem State.updQueue_power (s : State) (k : Nat) (f : Queue → Queue) : (s.updQueue k f).power = s.power := rfl
@[simp] theorem State.updQueue_quarters (s : State) (k : Nat) (f : Queue → Queue) : (s.updQueue k f).quarters = s.quarters := rfl
@[simp] theorem State.updQueue_ctx (s : State) (k : Nat) (f : Queue → Queue) (j : Nat) : (s.updQueue k f).ctx j = s.ctx j := rfl
@[simp] theorem State.updQueue_core (s : State) (k : Nat) (f : Queue → Queue) (j : Nat) : (s.updQueue k f).core j = s.core j := rfl
@[simp] theorem State.updQueue_shed (s : State) (k : Nat) (f : Queue → Queue) (j : Nat) : (s.updQueue k f).shed j = s.shed j := rfl
@[simp] theorem State.updQueue_gang (s : State) (k : Nat) (f : Queue → Queue) (j : Nat) : (s.updQueue k f).gang j = s.gang j := rfl
@[simp] theorem State.updQueue_vf (s : State) (k : Nat) (f : Queue → Queue) (j : Nat) : (s.updQueue k f).vf j = s.vf j := rfl
@[simp] theorem State.updQueue_memQ (s : State) (k : Nat) (f : Queue → Queue) (j : Nat) : (s.updQueue k f).memQ j = s.memQ j := rfl
@[simp] theorem State.updQueue_quarterAt (s : State) (k : Nat) (f : Queue → Queue) (j : Nat) : (s.updQueue k f).quarterAt j = s.quarterAt j := rfl
@[simp] theorem State.updQueue_writeAt (s : State) (k : Nat) (f : Queue → Queue) (j : Nat) : (s.updQueue k f).writeAt j = s.writeAt j := rfl
@[simp] theorem State.updMe_turns (s : State) (f : Ctx → Ctx) : (s.updMe f).turns = s.turns := rfl
@[simp] theorem State.updMe_turnNo (s : State) (f : Ctx → Ctx) : (s.updMe f).turnNo = s.turnNo := rfl
@[simp] theorem State.updMe_cur (s : State) (f : Ctx → Ctx) : (s.updMe f).cur = s.cur := rfl
@[simp] theorem State.updMe_now (s : State) (f : Ctx → Ctx) : (s.updMe f).now = s.now := rfl
@[simp] theorem State.updMe_next (s : State) (f : Ctx → Ctx) : (s.updMe f).next = s.next := rfl
@[simp] theorem State.updMe_free (s : State) (f : Ctx → Ctx) : (s.updMe f).free = s.free := rfl
@[simp] theorem State.updMe_four (s : State) (f : Ctx → Ctx) : (s.updMe f).four = s.four := rfl
@[simp] theorem State.updMe_cores (s : State) (f : Ctx → Ctx) : (s.updMe f).cores = s.cores := rfl
@[simp] theorem State.updMe_sheds (s : State) (f : Ctx → Ctx) : (s.updMe f).sheds = s.sheds := rfl
@[simp] theorem State.updMe_gangs (s : State) (f : Ctx → Ctx) : (s.updMe f).gangs = s.gangs := rfl
@[simp] theorem State.updMe_ord (s : State) (f : Ctx → Ctx) : (s.updMe f).ord = s.ord := rfl
@[simp] theorem State.updMe_vfs (s : State) (f : Ctx → Ctx) : (s.updMe f).vfs = s.vfs := rfl
@[simp] theorem State.updMe_queues (s : State) (f : Ctx → Ctx) : (s.updMe f).queues = s.queues := rfl
@[simp] theorem State.updMe_refs (s : State) (f : Ctx → Ctx) : (s.updMe f).refs = s.refs := rfl
@[simp] theorem State.updMe_keeper (s : State) (f : Ctx → Ctx) : (s.updMe f).keeper = s.keeper := rfl
@[simp] theorem State.updMe_master (s : State) (f : Ctx → Ctx) : (s.updMe f).master = s.master := rfl
@[simp] theorem State.updMe_power (s : State) (f : Ctx → Ctx) : (s.updMe f).power = s.power := rfl
@[simp] theorem State.updMe_quarters (s : State) (f : Ctx → Ctx) : (s.updMe f).quarters = s.quarters := rfl
@[simp] theorem State.updMe_core (s : State) (f : Ctx → Ctx) (j : Nat) : (s.updMe f).core j = s.core j := rfl
@[simp] theorem State.updMe_shed (s : State) (f : Ctx → Ctx) (j : Nat) : (s.updMe f).shed j = s.shed j := rfl
@[simp] theorem State.updMe_gang (s : State) (f : Ctx → Ctx) (j : Nat) : (s.updMe f).gang j = s.gang j := rfl
@[simp] theorem State.updMe_vf (s : State) (f : Ctx → Ctx) (j : Nat) : (s.updMe f).vf j = s.vf j := rfl
@[simp] theorem State.updMe_queue (s : State) (f : Ctx → Ctx) (j : Nat) : (s.updMe f).queue j = s.queue j := rfl
@[simp] theorem State.updMe_memQ (s : State) (f : Ctx → Ctx) (j : Nat) : (s.updMe f).memQ j = s.memQ j := rfl
@[simp] theorem State.updMe_quarterAt (s : State) (f : Ctx → Ctx) (j : Nat) : (s.updMe f).quarterAt j = s.quarterAt j := rfl
@[simp] theorem State.updMe_writeAt (s : State) (f : Ctx → Ctx) (j : Nat) : (s.updMe f).writeAt j = s.writeAt j := rfl
@[simp] theorem State.updOrd_turns (s : State) (f : Order → Order) : (s.updOrd f).turns = s.turns := rfl
@[simp] theorem State.updOrd_turnNo (s : State) (f : Order → Order) : (s.updOrd f).turnNo = s.turnNo := rfl
@[simp] theorem State.updOrd_cur (s : State) (f : Order → Order) : (s.updOrd f).cur = s.cur := rfl
@[simp] theorem State.updOrd_now (s : State) (f : Order → Order) : (s.updOrd f).now = s.now := rfl
@[simp] theorem State.updOrd_next (s : State) (f : Order → Order) : (s.updOrd f).next = s.next := rfl
@[simp] theorem State.updOrd_free (s : State) (f : Order → Order) : (s.updOrd f).free = s.free := rfl
@[simp] theorem State.updOrd_four (s : State) (f : Order → Order) : (s.updOrd f).four = s.four := rfl
@[simp] theorem State.updOrd_ctxs (s : State) (f : Order → Order) : (s.updOrd f).ctxs = s.ctxs := rfl
@[simp] theorem State.updOrd_cores (s : State) (f : Order → Order) : (s.updOrd f).cores = s.cores := rfl
@[simp] theorem State.updOrd_sheds (s : State) (f : Order → Order) : (s.updOrd f).sheds = s.sheds := rfl
@[simp] theorem State.updOrd_gangs (s : State) (f : Order → Order) : (s.updOrd f).gangs = s.gangs := rfl
@[simp] theorem State.updOrd_vfs (s : State) (f : Order → Order) : (s.updOrd f).vfs = s.vfs := rfl
@[simp] theorem State.updOrd_queues (s : State) (f : Order → Order) : (s.updOrd f).queues = s.queues := rfl
@[simp] theorem State.updOrd_refs (s : State) (f : Order → Order) : (s.updOrd f).refs = s.refs := rfl
@[simp] theorem State.updOrd_keeper (s : State) (f : Order → Order) : (s.updOrd f).keeper = s.keeper := rfl
@[simp] theorem State.updOrd_master (s : State) (f : Order → Order) : (s.updOrd f).master = s.master := rfl
@[simp] theorem State.updOrd_power (s : State) (f : Order → Order) : (s.updOrd f).power = s.power := rfl
@[simp] theorem State.updOrd_quarters (s : State) (f : Order → Order) : (s.updOrd f).quarters = s.quarters := rfl
@[simp] theorem State.updOrd_ctx (s : State) (f : Order → Order) (j : Nat) : (s.updOrd f).ctx j = s.ctx j := rfl
@[simp] theorem State.updOrd_core (s : State) (f : Order → Order) (j : Nat) : (s.updOrd f).core j = s.core j := rfl
@[simp] theorem State.updOrd_shed (s : State) (f : Order → Order) (j : Nat) : (s.updOrd f).shed j = s.shed j := rfl
@[simp] theorem State.updOrd_gang (s : State) (f : Order → Order) (j : Nat) : (s.updOrd f).gang j = s.gang j := rfl
@[simp] theorem State.updOrd_vf (s : State) (f : Order → Order) (j : Nat) : (s.updOrd f).vf j = s.vf j := rfl
@[simp] theorem State.updOrd_queue (s : State) (f : Order → Order) (j : Nat) : (s.updOrd f).queue j = s.queue j := rfl
@[simp] theorem State.updOrd_quarterAt (s : State) (f : Order → Order) (j : Nat) : (s.updOrd f).quarterAt j = s.quarterAt j := rfl
@[simp] theorem State.setMemQ_turns (s : State) (q : Nat) (m : Memory) : (s.setMemQ q m).turns = s.turns := rfl
@[simp] theorem State.setMemQ_turnNo (s : State) (q : Nat) (m : Memory) : (s.setMemQ q m).turnNo = s.turnNo := rfl
@[simp] theorem State.setMemQ_cur (s : State) (q : Nat) (m : Memory) : (s.setMemQ q m).cur = s.cur := rfl
@[simp] theorem State.setMemQ_now (s : State) (q : Nat) (m : Memory) : (s.setMemQ q m).now = s.now := rfl
@[simp] theorem State.setMemQ_next (s : State) (q : Nat) (m : Memory) : (s.setMemQ q m).next = s.next := rfl
@[simp] theorem State.setMemQ_free (s : State) (q : Nat) (m : Memory) : (s.setMemQ q m).free = s.free := rfl
@[simp] theorem State.setMemQ_four (s : State) (q : Nat) (m : Memory) : (s.setMemQ q m).four = s.four := rfl
@[simp] theorem State.setMemQ_ctxs (s : State) (q : Nat) (m : Memory) : (s.setMemQ q m).ctxs = s.ctxs := rfl
@[simp] theorem State.setMemQ_cores (s : State) (q : Nat) (m : Memory) : (s.setMemQ q m).cores = s.cores := rfl
@[simp] theorem State.setMemQ_sheds (s : State) (q : Nat) (m : Memory) : (s.setMemQ q m).sheds = s.sheds := rfl
@[simp] theorem State.setMemQ_gangs (s : State) (q : Nat) (m : Memory) : (s.setMemQ q m).gangs = s.gangs := rfl
@[simp] theorem State.setMemQ_vfs (s : State) (q : Nat) (m : Memory) : (s.setMemQ q m).vfs = s.vfs := rfl
@[simp] theorem State.setMemQ_queues (s : State) (q : Nat) (m : Memory) : (s.setMemQ q m).queues = s.queues := rfl
@[simp] theorem State.setMemQ_refs (s : State) (q : Nat) (m : Memory) : (s.setMemQ q m).refs = s.refs := rfl
@[simp] theorem State.setMemQ_keeper (s : State) (q : Nat) (m : Memory) : (s.setMemQ q m).keeper = s.keeper := rfl
@[simp] theorem State.setMemQ_master (s : State) (q : Nat) (m : Memory) : (s.setMemQ q m).master = s.master := rfl
@[simp] theorem State.setMemQ_power (s : State) (q : Nat) (m : Memory) : (s.setMemQ q m).power = s.power := rfl
@[simp] theorem State.setMemQ_quarters (s : State) (q : Nat) (m : Memory) : (s.setMemQ q m).quarters = s.quarters := rfl
@[simp] theorem State.setMemQ_ctx (s : State) (q : Nat) (m : Memory) (j : Nat) : (s.setMemQ q m).ctx j = s.ctx j := rfl
@[simp] theorem State.setMemQ_core (s : State) (q : Nat) (m : Memory) (j : Nat) : (s.setMemQ q m).core j = s.core j := rfl
@[simp] theorem State.setMemQ_shed (s : State) (q : Nat) (m : Memory) (j : Nat) : (s.setMemQ q m).shed j = s.shed j := rfl
@[simp] theorem State.setMemQ_gang (s : State) (q : Nat) (m : Memory) (j : Nat) : (s.setMemQ q m).gang j = s.gang j := rfl
@[simp] theorem State.setMemQ_vf (s : State) (q : Nat) (m : Memory) (j : Nat) : (s.setMemQ q m).vf j = s.vf j := rfl
@[simp] theorem State.setMemQ_queue (s : State) (q : Nat) (m : Memory) (j : Nat) : (s.setMemQ q m).queue j = s.queue j := rfl
@[simp] theorem State.setMemQ_quarterAt (s : State) (q : Nat) (m : Memory) (j : Nat) : (s.setMemQ q m).quarterAt j = s.quarterAt j := rfl
@[simp] theorem State.setWrite_turns (s : State) (i : Nat) (w : WriteRec) : (s.setWrite i w).turns = s.turns := rfl
@[simp] theorem State.setWrite_turnNo (s : State) (i : Nat) (w : WriteRec) : (s.setWrite i w).turnNo = s.turnNo := rfl
@[simp] theorem State.setWrite_cur (s : State) (i : Nat) (w : WriteRec) : (s.setWrite i w).cur = s.cur := rfl
@[simp] theorem State.setWrite_now (s : State) (i : Nat) (w : WriteRec) : (s.setWrite i w).now = s.now := rfl
@[simp] theorem State.setWrite_next (s : State) (i : Nat) (w : WriteRec) : (s.setWrite i w).next = s.next := rfl
@[simp] theorem State.setWrite_free (s : State) (i : Nat) (w : WriteRec) : (s.setWrite i w).free = s.free := rfl
@[simp] theorem State.setWrite_four (s : State) (i : Nat) (w : WriteRec) : (s.setWrite i w).four = s.four := rfl
@[simp] theorem State.setWrite_ctxs (s : State) (i : Nat) (w : WriteRec) : (s.setWrite i w).ctxs = s.ctxs := rfl
@[simp] theorem State.setWrite_cores (s : State) (i : Nat) (w : WriteRec) : (s.setWrite i w).cores = s.cores := rfl
@[simp] theorem State.setWrite_sheds (s : State) (i : Nat) (w : WriteRec) : (s.setWrite i w).sheds = s.sheds := rfl
@[simp] theorem State.setWrite_gangs (s : State) (i : Nat) (w : WriteRec) : (s.setWrite i w).gangs = s.gangs := rfl
@[simp] theorem State.setWrite_vfs (s : State) (i : Nat) (w : WriteRec) : (s.setWrite i w).vfs = s.vfs := rfl
@[simp] theorem State.setWrite_queues (s : State) (i : Nat) (w : WriteRec) : (s.setWrite i w).queues = s.queues := rfl
@[simp] theorem State.setWrite_refs (s : State) (i : Nat) (w : WriteRec) : (s.setWrite i w).refs = s.refs := rfl
@[simp] theorem State.setWrite_keeper (s : State) (i : Nat) (w : WriteRec) : (s.setWrite i w).keeper = s.keeper := rfl
@[simp] theorem State.setWrite_master (s : State) (i : Nat) (w : WriteRec) : (s.setWrite i w).master = s.master := rfl
@[simp] theorem State.setWrite_power (s : State) (i : Nat) (w : WriteRec) : (s.setWrite i w).power = s.power := rfl
@[simp] theorem State.setWrite_quarters (s : State) (i : Nat) (w : WriteRec) : (s.setWrite i w).quarters = s.quarters := rfl
@[simp] theorem State.setWrite_ctx (s : State) (i : Nat) (w : WriteRec) (j : Nat) : (s.setWrite i w).ctx j = s.ctx j := rfl
@[simp] theorem State.setWrite_core (s : State) (i : Nat) (w : WriteRec) (j : Nat) : (s.setWrite i w).core j = s.core j := rfl
@[simp] theorem State.setWrite_shed (s : State) (i : Nat) (w : WriteRec) (j : Nat) : (s.setWrite i w).shed j = s.shed j := rfl
@[simp] theorem State.setWrite_gang (s : State) (i : Nat) (w : WriteRec) (j : Nat) : (s.setWrite i w).gang j = s.gang j := rfl
@[simp] theorem State.setWrite_vf (s : State) (i : Nat) (w : WriteRec) (j : Nat) : (s.setWrite i w).vf j = s.vf j := rfl
@[simp] theorem State.setWrite_queue (s : State) (i : Nat) (w : WriteRec) (j : Nat) : (s.setWrite i w).queue j = s.queue j := rfl
@[simp] theorem State.setWrite_quarterAt (s : State) (i : Nat) (w : WriteRec) (j : Nat) : (s.setWrite i w).quarterAt j = s.quarterAt j := rfl
@[simp] theorem State.setTag_turns (s : State) (l : Nat) (b : Bool) : (s.setTag l b).turns = s.turns := rfl
@[simp] theorem State.setTag_turnNo (s : State) (l : Nat) (b : Bool) : (s.setTag l b).turnNo = s.turnNo := rfl
@[simp] theorem State.setTag_cur (s : State) (l : Nat) (b : Bool) : (s.setTag l b).cur = s.cur := rfl
@[simp] theorem State.setTag_now (s : State) (l : Nat) (b : Bool) : (s.setTag l b).now = s.now := rfl
@[simp] theorem State.setTag_next (s : State) (l : Nat) (b : Bool) : (s.setTag l b).next = s.next := rfl
@[simp] theorem State.setTag_free (s : State) (l : Nat) (b : Bool) : (s.setTag l b).free = s.free := rfl
@[simp] theorem State.setTag_four (s : State) (l : Nat) (b : Bool) : (s.setTag l b).four = s.four := rfl
@[simp] theorem State.setTag_ctxs (s : State) (l : Nat) (b : Bool) : (s.setTag l b).ctxs = s.ctxs := rfl
@[simp] theorem State.setTag_cores (s : State) (l : Nat) (b : Bool) : (s.setTag l b).cores = s.cores := rfl
@[simp] theorem State.setTag_gangs (s : State) (l : Nat) (b : Bool) : (s.setTag l b).gangs = s.gangs := rfl
@[simp] theorem State.setTag_ord (s : State) (l : Nat) (b : Bool) : (s.setTag l b).ord = s.ord := rfl
@[simp] theorem State.setTag_vfs (s : State) (l : Nat) (b : Bool) : (s.setTag l b).vfs = s.vfs := rfl
@[simp] theorem State.setTag_queues (s : State) (l : Nat) (b : Bool) : (s.setTag l b).queues = s.queues := rfl
@[simp] theorem State.setTag_refs (s : State) (l : Nat) (b : Bool) : (s.setTag l b).refs = s.refs := rfl
@[simp] theorem State.setTag_keeper (s : State) (l : Nat) (b : Bool) : (s.setTag l b).keeper = s.keeper := rfl
@[simp] theorem State.setTag_master (s : State) (l : Nat) (b : Bool) : (s.setTag l b).master = s.master := rfl
@[simp] theorem State.setTag_power (s : State) (l : Nat) (b : Bool) : (s.setTag l b).power = s.power := rfl
@[simp] theorem State.setTag_quarters (s : State) (l : Nat) (b : Bool) : (s.setTag l b).quarters = s.quarters := rfl
@[simp] theorem State.setTag_ctx (s : State) (l : Nat) (b : Bool) (j : Nat) : (s.setTag l b).ctx j = s.ctx j := rfl
@[simp] theorem State.setTag_core (s : State) (l : Nat) (b : Bool) (j : Nat) : (s.setTag l b).core j = s.core j := rfl
@[simp] theorem State.setTag_gang (s : State) (l : Nat) (b : Bool) (j : Nat) : (s.setTag l b).gang j = s.gang j := rfl
@[simp] theorem State.setTag_vf (s : State) (l : Nat) (b : Bool) (j : Nat) : (s.setTag l b).vf j = s.vf j := rfl
@[simp] theorem State.setTag_queue (s : State) (l : Nat) (b : Bool) (j : Nat) : (s.setTag l b).queue j = s.queue j := rfl
@[simp] theorem State.setTag_memQ (s : State) (l : Nat) (b : Bool) (j : Nat) : (s.setTag l b).memQ j = s.memQ j := rfl
@[simp] theorem State.setTag_quarterAt (s : State) (l : Nat) (b : Bool) (j : Nat) : (s.setTag l b).quarterAt j = s.quarterAt j := rfl
@[simp] theorem State.setTag_writeAt (s : State) (l : Nat) (b : Bool) (j : Nat) : (s.setTag l b).writeAt j = s.writeAt j := rfl
@[simp] theorem State.tickNext_turns (s : State) : (s.tickNext).turns = s.turns := rfl
@[simp] theorem State.tickNext_turnNo (s : State) : (s.tickNext).turnNo = s.turnNo := rfl
@[simp] theorem State.tickNext_cur (s : State) : (s.tickNext).cur = s.cur := rfl
@[simp] theorem State.tickNext_now (s : State) : (s.tickNext).now = s.now := rfl
@[simp] theorem State.tickNext_free (s : State) : (s.tickNext).free = s.free := rfl
@[simp] theorem State.tickNext_four (s : State) : (s.tickNext).four = s.four := rfl
@[simp] theorem State.tickNext_ctxs (s : State) : (s.tickNext).ctxs = s.ctxs := rfl
@[simp] theorem State.tickNext_cores (s : State) : (s.tickNext).cores = s.cores := rfl
@[simp] theorem State.tickNext_sheds (s : State) : (s.tickNext).sheds = s.sheds := rfl
@[simp] theorem State.tickNext_gangs (s : State) : (s.tickNext).gangs = s.gangs := rfl
@[simp] theorem State.tickNext_ord (s : State) : (s.tickNext).ord = s.ord := rfl
@[simp] theorem State.tickNext_vfs (s : State) : (s.tickNext).vfs = s.vfs := rfl
@[simp] theorem State.tickNext_queues (s : State) : (s.tickNext).queues = s.queues := rfl
@[simp] theorem State.tickNext_refs (s : State) : (s.tickNext).refs = s.refs := rfl
@[simp] theorem State.tickNext_keeper (s : State) : (s.tickNext).keeper = s.keeper := rfl
@[simp] theorem State.tickNext_master (s : State) : (s.tickNext).master = s.master := rfl
@[simp] theorem State.tickNext_power (s : State) : (s.tickNext).power = s.power := rfl
@[simp] theorem State.tickNext_quarters (s : State) : (s.tickNext).quarters = s.quarters := rfl
@[simp] theorem State.tickNext_ctx (s : State) (j : Nat) : (s.tickNext).ctx j = s.ctx j := rfl
@[simp] theorem State.tickNext_core (s : State) (j : Nat) : (s.tickNext).core j = s.core j := rfl
@[simp] theorem State.tickNext_shed (s : State) (j : Nat) : (s.tickNext).shed j = s.shed j := rfl
@[simp] theorem State.tickNext_gang (s : State) (j : Nat) : (s.tickNext).gang j = s.gang j := rfl
@[simp] theorem State.tickNext_vf (s : State) (j : Nat) : (s.tickNext).vf j = s.vf j := rfl
@[simp] theorem State.tickNext_queue (s : State) (j : Nat) : (s.tickNext).queue j = s.queue j := rfl
@[simp] theorem State.tickNext_memQ (s : State) (j : Nat) : (s.tickNext).memQ j = s.memQ j := rfl
@[simp] theorem State.tickNext_quarterAt (s : State) (j : Nat) : (s.tickNext).quarterAt j = s.quarterAt j := rfl
@[simp] theorem State.tickNext_writeAt (s : State) (j : Nat) : (s.tickNext).writeAt j = s.writeAt j := rfl
@[simp] theorem State.orFlags_turns (s : State) (f : BitVec 5) : (s.orFlags f).turns = s.turns := rfl
@[simp] theorem State.orFlags_turnNo (s : State) (f : BitVec 5) : (s.orFlags f).turnNo = s.turnNo := rfl
@[simp] theorem State.orFlags_cur (s : State) (f : BitVec 5) : (s.orFlags f).cur = s.cur := rfl
@[simp] theorem State.orFlags_now (s : State) (f : BitVec 5) : (s.orFlags f).now = s.now := rfl
@[simp] theorem State.orFlags_next (s : State) (f : BitVec 5) : (s.orFlags f).next = s.next := rfl
@[simp] theorem State.orFlags_free (s : State) (f : BitVec 5) : (s.orFlags f).free = s.free := rfl
@[simp] theorem State.orFlags_four (s : State) (f : BitVec 5) : (s.orFlags f).four = s.four := rfl
@[simp] theorem State.orFlags_cores (s : State) (f : BitVec 5) : (s.orFlags f).cores = s.cores := rfl
@[simp] theorem State.orFlags_sheds (s : State) (f : BitVec 5) : (s.orFlags f).sheds = s.sheds := rfl
@[simp] theorem State.orFlags_gangs (s : State) (f : BitVec 5) : (s.orFlags f).gangs = s.gangs := rfl
@[simp] theorem State.orFlags_ord (s : State) (f : BitVec 5) : (s.orFlags f).ord = s.ord := rfl
@[simp] theorem State.orFlags_vfs (s : State) (f : BitVec 5) : (s.orFlags f).vfs = s.vfs := rfl
@[simp] theorem State.orFlags_queues (s : State) (f : BitVec 5) : (s.orFlags f).queues = s.queues := rfl
@[simp] theorem State.orFlags_refs (s : State) (f : BitVec 5) : (s.orFlags f).refs = s.refs := rfl
@[simp] theorem State.orFlags_keeper (s : State) (f : BitVec 5) : (s.orFlags f).keeper = s.keeper := rfl
@[simp] theorem State.orFlags_master (s : State) (f : BitVec 5) : (s.orFlags f).master = s.master := rfl
@[simp] theorem State.orFlags_power (s : State) (f : BitVec 5) : (s.orFlags f).power = s.power := rfl
@[simp] theorem State.orFlags_quarters (s : State) (f : BitVec 5) : (s.orFlags f).quarters = s.quarters := rfl
@[simp] theorem State.orFlags_core (s : State) (f : BitVec 5) (j : Nat) : (s.orFlags f).core j = s.core j := rfl
@[simp] theorem State.orFlags_shed (s : State) (f : BitVec 5) (j : Nat) : (s.orFlags f).shed j = s.shed j := rfl
@[simp] theorem State.orFlags_gang (s : State) (f : BitVec 5) (j : Nat) : (s.orFlags f).gang j = s.gang j := rfl
@[simp] theorem State.orFlags_vf (s : State) (f : BitVec 5) (j : Nat) : (s.orFlags f).vf j = s.vf j := rfl
@[simp] theorem State.orFlags_queue (s : State) (f : BitVec 5) (j : Nat) : (s.orFlags f).queue j = s.queue j := rfl
@[simp] theorem State.orFlags_memQ (s : State) (f : BitVec 5) (j : Nat) : (s.orFlags f).memQ j = s.memQ j := rfl
@[simp] theorem State.orFlags_quarterAt (s : State) (f : BitVec 5) (j : Nat) : (s.orFlags f).quarterAt j = s.quarterAt j := rfl
@[simp] theorem State.orFlags_writeAt (s : State) (f : BitVec 5) (j : Nat) : (s.orFlags f).writeAt j = s.writeAt j := rfl
@[simp] theorem State.wx_turns (s : State) (r : BitVec 5) (w : Word) : (s.wx r w).turns = s.turns := rfl
@[simp] theorem State.wx_turnNo (s : State) (r : BitVec 5) (w : Word) : (s.wx r w).turnNo = s.turnNo := rfl
@[simp] theorem State.wx_cur (s : State) (r : BitVec 5) (w : Word) : (s.wx r w).cur = s.cur := rfl
@[simp] theorem State.wx_now (s : State) (r : BitVec 5) (w : Word) : (s.wx r w).now = s.now := rfl
@[simp] theorem State.wx_next (s : State) (r : BitVec 5) (w : Word) : (s.wx r w).next = s.next := rfl
@[simp] theorem State.wx_free (s : State) (r : BitVec 5) (w : Word) : (s.wx r w).free = s.free := rfl
@[simp] theorem State.wx_four (s : State) (r : BitVec 5) (w : Word) : (s.wx r w).four = s.four := rfl
@[simp] theorem State.wx_cores (s : State) (r : BitVec 5) (w : Word) : (s.wx r w).cores = s.cores := rfl
@[simp] theorem State.wx_sheds (s : State) (r : BitVec 5) (w : Word) : (s.wx r w).sheds = s.sheds := rfl
@[simp] theorem State.wx_gangs (s : State) (r : BitVec 5) (w : Word) : (s.wx r w).gangs = s.gangs := rfl
@[simp] theorem State.wx_ord (s : State) (r : BitVec 5) (w : Word) : (s.wx r w).ord = s.ord := rfl
@[simp] theorem State.wx_vfs (s : State) (r : BitVec 5) (w : Word) : (s.wx r w).vfs = s.vfs := rfl
@[simp] theorem State.wx_queues (s : State) (r : BitVec 5) (w : Word) : (s.wx r w).queues = s.queues := rfl
@[simp] theorem State.wx_refs (s : State) (r : BitVec 5) (w : Word) : (s.wx r w).refs = s.refs := rfl
@[simp] theorem State.wx_keeper (s : State) (r : BitVec 5) (w : Word) : (s.wx r w).keeper = s.keeper := rfl
@[simp] theorem State.wx_master (s : State) (r : BitVec 5) (w : Word) : (s.wx r w).master = s.master := rfl
@[simp] theorem State.wx_power (s : State) (r : BitVec 5) (w : Word) : (s.wx r w).power = s.power := rfl
@[simp] theorem State.wx_quarters (s : State) (r : BitVec 5) (w : Word) : (s.wx r w).quarters = s.quarters := rfl
@[simp] theorem State.wx_core (s : State) (r : BitVec 5) (w : Word) (j : Nat) : (s.wx r w).core j = s.core j := rfl
@[simp] theorem State.wx_shed (s : State) (r : BitVec 5) (w : Word) (j : Nat) : (s.wx r w).shed j = s.shed j := rfl
@[simp] theorem State.wx_gang (s : State) (r : BitVec 5) (w : Word) (j : Nat) : (s.wx r w).gang j = s.gang j := rfl
@[simp] theorem State.wx_vf (s : State) (r : BitVec 5) (w : Word) (j : Nat) : (s.wx r w).vf j = s.vf j := rfl
@[simp] theorem State.wx_queue (s : State) (r : BitVec 5) (w : Word) (j : Nat) : (s.wx r w).queue j = s.queue j := rfl
@[simp] theorem State.wx_memQ (s : State) (r : BitVec 5) (w : Word) (j : Nat) : (s.wx r w).memQ j = s.memQ j := rfl
@[simp] theorem State.wx_quarterAt (s : State) (r : BitVec 5) (w : Word) (j : Nat) : (s.wx r w).quarterAt j = s.quarterAt j := rfl
@[simp] theorem State.wx_writeAt (s : State) (r : BitVec 5) (w : Word) (j : Nat) : (s.wx r w).writeAt j = s.writeAt j := rfl
@[simp] theorem State.wv_turns (s : State) (r : BitVec 5) (w : Quad) : (s.wv r w).turns = s.turns := rfl
@[simp] theorem State.wv_turnNo (s : State) (r : BitVec 5) (w : Quad) : (s.wv r w).turnNo = s.turnNo := rfl
@[simp] theorem State.wv_cur (s : State) (r : BitVec 5) (w : Quad) : (s.wv r w).cur = s.cur := rfl
@[simp] theorem State.wv_now (s : State) (r : BitVec 5) (w : Quad) : (s.wv r w).now = s.now := rfl
@[simp] theorem State.wv_next (s : State) (r : BitVec 5) (w : Quad) : (s.wv r w).next = s.next := rfl
@[simp] theorem State.wv_free (s : State) (r : BitVec 5) (w : Quad) : (s.wv r w).free = s.free := rfl
@[simp] theorem State.wv_four (s : State) (r : BitVec 5) (w : Quad) : (s.wv r w).four = s.four := rfl
@[simp] theorem State.wv_cores (s : State) (r : BitVec 5) (w : Quad) : (s.wv r w).cores = s.cores := rfl
@[simp] theorem State.wv_sheds (s : State) (r : BitVec 5) (w : Quad) : (s.wv r w).sheds = s.sheds := rfl
@[simp] theorem State.wv_gangs (s : State) (r : BitVec 5) (w : Quad) : (s.wv r w).gangs = s.gangs := rfl
@[simp] theorem State.wv_ord (s : State) (r : BitVec 5) (w : Quad) : (s.wv r w).ord = s.ord := rfl
@[simp] theorem State.wv_vfs (s : State) (r : BitVec 5) (w : Quad) : (s.wv r w).vfs = s.vfs := rfl
@[simp] theorem State.wv_queues (s : State) (r : BitVec 5) (w : Quad) : (s.wv r w).queues = s.queues := rfl
@[simp] theorem State.wv_refs (s : State) (r : BitVec 5) (w : Quad) : (s.wv r w).refs = s.refs := rfl
@[simp] theorem State.wv_keeper (s : State) (r : BitVec 5) (w : Quad) : (s.wv r w).keeper = s.keeper := rfl
@[simp] theorem State.wv_master (s : State) (r : BitVec 5) (w : Quad) : (s.wv r w).master = s.master := rfl
@[simp] theorem State.wv_power (s : State) (r : BitVec 5) (w : Quad) : (s.wv r w).power = s.power := rfl
@[simp] theorem State.wv_quarters (s : State) (r : BitVec 5) (w : Quad) : (s.wv r w).quarters = s.quarters := rfl
@[simp] theorem State.wv_core (s : State) (r : BitVec 5) (w : Quad) (j : Nat) : (s.wv r w).core j = s.core j := rfl
@[simp] theorem State.wv_shed (s : State) (r : BitVec 5) (w : Quad) (j : Nat) : (s.wv r w).shed j = s.shed j := rfl
@[simp] theorem State.wv_gang (s : State) (r : BitVec 5) (w : Quad) (j : Nat) : (s.wv r w).gang j = s.gang j := rfl
@[simp] theorem State.wv_vf (s : State) (r : BitVec 5) (w : Quad) (j : Nat) : (s.wv r w).vf j = s.vf j := rfl
@[simp] theorem State.wv_queue (s : State) (r : BitVec 5) (w : Quad) (j : Nat) : (s.wv r w).queue j = s.queue j := rfl
@[simp] theorem State.wv_memQ (s : State) (r : BitVec 5) (w : Quad) (j : Nat) : (s.wv r w).memQ j = s.memQ j := rfl
@[simp] theorem State.wv_quarterAt (s : State) (r : BitVec 5) (w : Quad) (j : Nat) : (s.wv r w).quarterAt j = s.quarterAt j := rfl
@[simp] theorem State.wv_writeAt (s : State) (r : BitVec 5) (w : Quad) (j : Nat) : (s.wv r w).writeAt j = s.writeAt j := rfl
@[simp] theorem State.wk_turns (s : State) (r : BitVec 3) (w : BitVec 16) : (s.wk r w).turns = s.turns := rfl
@[simp] theorem State.wk_turnNo (s : State) (r : BitVec 3) (w : BitVec 16) : (s.wk r w).turnNo = s.turnNo := rfl
@[simp] theorem State.wk_cur (s : State) (r : BitVec 3) (w : BitVec 16) : (s.wk r w).cur = s.cur := rfl
@[simp] theorem State.wk_now (s : State) (r : BitVec 3) (w : BitVec 16) : (s.wk r w).now = s.now := rfl
@[simp] theorem State.wk_next (s : State) (r : BitVec 3) (w : BitVec 16) : (s.wk r w).next = s.next := rfl
@[simp] theorem State.wk_free (s : State) (r : BitVec 3) (w : BitVec 16) : (s.wk r w).free = s.free := rfl
@[simp] theorem State.wk_four (s : State) (r : BitVec 3) (w : BitVec 16) : (s.wk r w).four = s.four := rfl
@[simp] theorem State.wk_cores (s : State) (r : BitVec 3) (w : BitVec 16) : (s.wk r w).cores = s.cores := rfl
@[simp] theorem State.wk_sheds (s : State) (r : BitVec 3) (w : BitVec 16) : (s.wk r w).sheds = s.sheds := rfl
@[simp] theorem State.wk_gangs (s : State) (r : BitVec 3) (w : BitVec 16) : (s.wk r w).gangs = s.gangs := rfl
@[simp] theorem State.wk_ord (s : State) (r : BitVec 3) (w : BitVec 16) : (s.wk r w).ord = s.ord := rfl
@[simp] theorem State.wk_vfs (s : State) (r : BitVec 3) (w : BitVec 16) : (s.wk r w).vfs = s.vfs := rfl
@[simp] theorem State.wk_queues (s : State) (r : BitVec 3) (w : BitVec 16) : (s.wk r w).queues = s.queues := rfl
@[simp] theorem State.wk_refs (s : State) (r : BitVec 3) (w : BitVec 16) : (s.wk r w).refs = s.refs := rfl
@[simp] theorem State.wk_keeper (s : State) (r : BitVec 3) (w : BitVec 16) : (s.wk r w).keeper = s.keeper := rfl
@[simp] theorem State.wk_master (s : State) (r : BitVec 3) (w : BitVec 16) : (s.wk r w).master = s.master := rfl
@[simp] theorem State.wk_power (s : State) (r : BitVec 3) (w : BitVec 16) : (s.wk r w).power = s.power := rfl
@[simp] theorem State.wk_quarters (s : State) (r : BitVec 3) (w : BitVec 16) : (s.wk r w).quarters = s.quarters := rfl
@[simp] theorem State.wk_core (s : State) (r : BitVec 3) (w : BitVec 16) (j : Nat) : (s.wk r w).core j = s.core j := rfl
@[simp] theorem State.wk_shed (s : State) (r : BitVec 3) (w : BitVec 16) (j : Nat) : (s.wk r w).shed j = s.shed j := rfl
@[simp] theorem State.wk_gang (s : State) (r : BitVec 3) (w : BitVec 16) (j : Nat) : (s.wk r w).gang j = s.gang j := rfl
@[simp] theorem State.wk_vf (s : State) (r : BitVec 3) (w : BitVec 16) (j : Nat) : (s.wk r w).vf j = s.vf j := rfl
@[simp] theorem State.wk_queue (s : State) (r : BitVec 3) (w : BitVec 16) (j : Nat) : (s.wk r w).queue j = s.queue j := rfl
@[simp] theorem State.wk_memQ (s : State) (r : BitVec 3) (w : BitVec 16) (j : Nat) : (s.wk r w).memQ j = s.memQ j := rfl
@[simp] theorem State.wk_quarterAt (s : State) (r : BitVec 3) (w : BitVec 16) (j : Nat) : (s.wk r w).quarterAt j = s.quarterAt j := rfl
@[simp] theorem State.wk_writeAt (s : State) (r : BitVec 3) (w : BitVec 16) (j : Nat) : (s.wk r w).writeAt j = s.writeAt j := rfl
@[simp] theorem State.wc_turns (s : State) (r : BitVec 2) (w : BitVec 4) : (s.wc r w).turns = s.turns := rfl
@[simp] theorem State.wc_turnNo (s : State) (r : BitVec 2) (w : BitVec 4) : (s.wc r w).turnNo = s.turnNo := rfl
@[simp] theorem State.wc_cur (s : State) (r : BitVec 2) (w : BitVec 4) : (s.wc r w).cur = s.cur := rfl
@[simp] theorem State.wc_now (s : State) (r : BitVec 2) (w : BitVec 4) : (s.wc r w).now = s.now := rfl
@[simp] theorem State.wc_next (s : State) (r : BitVec 2) (w : BitVec 4) : (s.wc r w).next = s.next := rfl
@[simp] theorem State.wc_free (s : State) (r : BitVec 2) (w : BitVec 4) : (s.wc r w).free = s.free := rfl
@[simp] theorem State.wc_four (s : State) (r : BitVec 2) (w : BitVec 4) : (s.wc r w).four = s.four := rfl
@[simp] theorem State.wc_cores (s : State) (r : BitVec 2) (w : BitVec 4) : (s.wc r w).cores = s.cores := rfl
@[simp] theorem State.wc_sheds (s : State) (r : BitVec 2) (w : BitVec 4) : (s.wc r w).sheds = s.sheds := rfl
@[simp] theorem State.wc_gangs (s : State) (r : BitVec 2) (w : BitVec 4) : (s.wc r w).gangs = s.gangs := rfl
@[simp] theorem State.wc_ord (s : State) (r : BitVec 2) (w : BitVec 4) : (s.wc r w).ord = s.ord := rfl
@[simp] theorem State.wc_vfs (s : State) (r : BitVec 2) (w : BitVec 4) : (s.wc r w).vfs = s.vfs := rfl
@[simp] theorem State.wc_queues (s : State) (r : BitVec 2) (w : BitVec 4) : (s.wc r w).queues = s.queues := rfl
@[simp] theorem State.wc_refs (s : State) (r : BitVec 2) (w : BitVec 4) : (s.wc r w).refs = s.refs := rfl
@[simp] theorem State.wc_keeper (s : State) (r : BitVec 2) (w : BitVec 4) : (s.wc r w).keeper = s.keeper := rfl
@[simp] theorem State.wc_master (s : State) (r : BitVec 2) (w : BitVec 4) : (s.wc r w).master = s.master := rfl
@[simp] theorem State.wc_power (s : State) (r : BitVec 2) (w : BitVec 4) : (s.wc r w).power = s.power := rfl
@[simp] theorem State.wc_quarters (s : State) (r : BitVec 2) (w : BitVec 4) : (s.wc r w).quarters = s.quarters := rfl
@[simp] theorem State.wc_core (s : State) (r : BitVec 2) (w : BitVec 4) (j : Nat) : (s.wc r w).core j = s.core j := rfl
@[simp] theorem State.wc_shed (s : State) (r : BitVec 2) (w : BitVec 4) (j : Nat) : (s.wc r w).shed j = s.shed j := rfl
@[simp] theorem State.wc_gang (s : State) (r : BitVec 2) (w : BitVec 4) (j : Nat) : (s.wc r w).gang j = s.gang j := rfl
@[simp] theorem State.wc_vf (s : State) (r : BitVec 2) (w : BitVec 4) (j : Nat) : (s.wc r w).vf j = s.vf j := rfl
@[simp] theorem State.wc_queue (s : State) (r : BitVec 2) (w : BitVec 4) (j : Nat) : (s.wc r w).queue j = s.queue j := rfl
@[simp] theorem State.wc_memQ (s : State) (r : BitVec 2) (w : BitVec 4) (j : Nat) : (s.wc r w).memQ j = s.memQ j := rfl
@[simp] theorem State.wc_quarterAt (s : State) (r : BitVec 2) (w : BitVec 4) (j : Nat) : (s.wc r w).quarterAt j = s.quarterAt j := rfl
@[simp] theorem State.wc_writeAt (s : State) (r : BitVec 2) (w : BitVec 4) (j : Nat) : (s.wc r w).writeAt j = s.writeAt j := rfl
@[simp] theorem State.setQuarter_turns (s : State) (q : Nat) (v : Quarter) : (s.setQuarter q v).turns = s.turns := rfl
@[simp] theorem State.setQuarter_turnNo (s : State) (q : Nat) (v : Quarter) : (s.setQuarter q v).turnNo = s.turnNo := rfl
@[simp] theorem State.setQuarter_cur (s : State) (q : Nat) (v : Quarter) : (s.setQuarter q v).cur = s.cur := rfl
@[simp] theorem State.setQuarter_now (s : State) (q : Nat) (v : Quarter) : (s.setQuarter q v).now = s.now := rfl
@[simp] theorem State.setQuarter_next (s : State) (q : Nat) (v : Quarter) : (s.setQuarter q v).next = s.next := rfl
@[simp] theorem State.setQuarter_free (s : State) (q : Nat) (v : Quarter) : (s.setQuarter q v).free = s.free := rfl
@[simp] theorem State.setQuarter_four (s : State) (q : Nat) (v : Quarter) : (s.setQuarter q v).four = s.four := rfl
@[simp] theorem State.setQuarter_ctxs (s : State) (q : Nat) (v : Quarter) : (s.setQuarter q v).ctxs = s.ctxs := rfl
@[simp] theorem State.setQuarter_cores (s : State) (q : Nat) (v : Quarter) : (s.setQuarter q v).cores = s.cores := rfl
@[simp] theorem State.setQuarter_sheds (s : State) (q : Nat) (v : Quarter) : (s.setQuarter q v).sheds = s.sheds := rfl
@[simp] theorem State.setQuarter_gangs (s : State) (q : Nat) (v : Quarter) : (s.setQuarter q v).gangs = s.gangs := rfl
@[simp] theorem State.setQuarter_ord (s : State) (q : Nat) (v : Quarter) : (s.setQuarter q v).ord = s.ord := rfl
@[simp] theorem State.setQuarter_vfs (s : State) (q : Nat) (v : Quarter) : (s.setQuarter q v).vfs = s.vfs := rfl
@[simp] theorem State.setQuarter_queues (s : State) (q : Nat) (v : Quarter) : (s.setQuarter q v).queues = s.queues := rfl
@[simp] theorem State.setQuarter_refs (s : State) (q : Nat) (v : Quarter) : (s.setQuarter q v).refs = s.refs := rfl
@[simp] theorem State.setQuarter_keeper (s : State) (q : Nat) (v : Quarter) : (s.setQuarter q v).keeper = s.keeper := rfl
@[simp] theorem State.setQuarter_master (s : State) (q : Nat) (v : Quarter) : (s.setQuarter q v).master = s.master := rfl
@[simp] theorem State.setQuarter_power (s : State) (q : Nat) (v : Quarter) : (s.setQuarter q v).power = s.power := rfl
@[simp] theorem State.setQuarter_ctx (s : State) (q : Nat) (v : Quarter) (j : Nat) : (s.setQuarter q v).ctx j = s.ctx j := rfl
@[simp] theorem State.setQuarter_core (s : State) (q : Nat) (v : Quarter) (j : Nat) : (s.setQuarter q v).core j = s.core j := rfl
@[simp] theorem State.setQuarter_shed (s : State) (q : Nat) (v : Quarter) (j : Nat) : (s.setQuarter q v).shed j = s.shed j := rfl
@[simp] theorem State.setQuarter_gang (s : State) (q : Nat) (v : Quarter) (j : Nat) : (s.setQuarter q v).gang j = s.gang j := rfl
@[simp] theorem State.setQuarter_vf (s : State) (q : Nat) (v : Quarter) (j : Nat) : (s.setQuarter q v).vf j = s.vf j := rfl
@[simp] theorem State.setQuarter_queue (s : State) (q : Nat) (v : Quarter) (j : Nat) : (s.setQuarter q v).queue j = s.queue j := rfl
@[simp] theorem State.setQuarter_memQ (s : State) (q : Nat) (v : Quarter) (j : Nat) : (s.setQuarter q v).memQ j = s.memQ j := rfl
@[simp] theorem State.setQuarter_writeAt (s : State) (q : Nat) (v : Quarter) (j : Nat) : (s.setQuarter q v).writeAt j = s.writeAt j := rfl
@[simp] theorem State.retire_turns (s : State) (k : Nat) : (s.retire k).turns = s.turns := rfl
@[simp] theorem State.retire_turnNo (s : State) (k : Nat) : (s.retire k).turnNo = s.turnNo := rfl
@[simp] theorem State.retire_cur (s : State) (k : Nat) : (s.retire k).cur = s.cur := rfl
@[simp] theorem State.retire_now (s : State) (k : Nat) : (s.retire k).now = s.now := rfl
@[simp] theorem State.retire_next (s : State) (k : Nat) : (s.retire k).next = s.next := rfl
@[simp] theorem State.retire_free (s : State) (k : Nat) : (s.retire k).free = s.free := rfl
@[simp] theorem State.retire_four (s : State) (k : Nat) : (s.retire k).four = s.four := rfl
@[simp] theorem State.retire_cores (s : State) (k : Nat) : (s.retire k).cores = s.cores := rfl
@[simp] theorem State.retire_sheds (s : State) (k : Nat) : (s.retire k).sheds = s.sheds := rfl
@[simp] theorem State.retire_gangs (s : State) (k : Nat) : (s.retire k).gangs = s.gangs := rfl
@[simp] theorem State.retire_ord (s : State) (k : Nat) : (s.retire k).ord = s.ord := rfl
@[simp] theorem State.retire_vfs (s : State) (k : Nat) : (s.retire k).vfs = s.vfs := rfl
@[simp] theorem State.retire_queues (s : State) (k : Nat) : (s.retire k).queues = s.queues := rfl
@[simp] theorem State.retire_refs (s : State) (k : Nat) : (s.retire k).refs = s.refs := rfl
@[simp] theorem State.retire_keeper (s : State) (k : Nat) : (s.retire k).keeper = s.keeper := rfl
@[simp] theorem State.retire_master (s : State) (k : Nat) : (s.retire k).master = s.master := rfl
@[simp] theorem State.retire_power (s : State) (k : Nat) : (s.retire k).power = s.power := rfl
@[simp] theorem State.retire_quarters (s : State) (k : Nat) : (s.retire k).quarters = s.quarters := rfl
@[simp] theorem State.retire_core (s : State) (k : Nat) (j : Nat) : (s.retire k).core j = s.core j := rfl
@[simp] theorem State.retire_shed (s : State) (k : Nat) (j : Nat) : (s.retire k).shed j = s.shed j := rfl
@[simp] theorem State.retire_gang (s : State) (k : Nat) (j : Nat) : (s.retire k).gang j = s.gang j := rfl
@[simp] theorem State.retire_vf (s : State) (k : Nat) (j : Nat) : (s.retire k).vf j = s.vf j := rfl
@[simp] theorem State.retire_queue (s : State) (k : Nat) (j : Nat) : (s.retire k).queue j = s.queue j := rfl
@[simp] theorem State.retire_memQ (s : State) (k : Nat) (j : Nat) : (s.retire k).memQ j = s.memQ j := rfl
@[simp] theorem State.retire_quarterAt (s : State) (k : Nat) (j : Nat) : (s.retire k).quarterAt j = s.quarterAt j := rfl
@[simp] theorem State.retire_writeAt (s : State) (k : Nat) (j : Nat) : (s.retire k).writeAt j = s.writeAt j := rfl

/-! ## Order machine: which of its parts an update leaves -/

@[simp] theorem State.setWrite_memQ (s : State) (i : Nat) (w : WriteRec) (q : Nat) : (s.setWrite i w).memQ q = s.memQ q := rfl
@[simp] theorem State.setMemQ_writeAt (s : State) (q : Nat) (m : Memory) (i : Nat) : (s.setMemQ q m).writeAt i = s.writeAt i := rfl
@[simp] theorem State.setMemQ_prim (s : State) (q : Nat) (m : Memory) : (s.setMemQ q m).ord.prim = s.ord.prim := rfl
@[simp] theorem State.setMemQ_mirr (s : State) (q : Nat) (m : Memory) : (s.setMemQ q m).ord.mirr = s.ord.mirr := rfl
@[simp] theorem State.setWrite_prim (s : State) (i : Nat) (w : WriteRec) : (s.setWrite i w).ord.prim = s.ord.prim := rfl
@[simp] theorem State.setWrite_mirr (s : State) (i : Nat) (w : WriteRec) : (s.setWrite i w).ord.mirr = s.ord.mirr := rfl
theorem State.writeAt_setWrite_self (s : State) (i : Nat) (w : WriteRec) : (s.setWrite i w).writeAt i = some w :=
  Table.get?_put_self ..
theorem State.writeAt_setWrite_ne (s : State) {i j : Nat} (w : WriteRec) (h : j ≠ i) :
    (s.setWrite i w).writeAt j = s.writeAt j := Table.get?_put_ne _ _ h

/-! ## Registers of a context (R26, R46) -/

/-- x0 reads 0 whatever was written to it (R26). -/
@[simp] theorem Ctx.rx_zero (c : Ctx) : c.rx 0#5 = 0#64 := rfl
/-- A write to x0 is discarded (R26). -/
@[simp] theorem Ctx.wx_zero (c : Ctx) (w : Word) : c.wx 0#5 w = c := rfl
theorem Ctx.rx_wx_self (c : Ctx) {r : BitVec 5} (w : Word) (h : r ≠ 0) : (c.wx r w).rx r = w := by
  simp only [Ctx.rx, Ctx.wx, if_neg h, Vector.getElem_set_self]
theorem Ctx.rx_wx_ne (c : Ctx) {r q : BitVec 5} (w : Word) (h : q ≠ r) : (c.wx r w).rx q = c.rx q := by
  unfold Ctx.rx Ctx.wx
  split
  · rfl
  · split
    · rfl
    · simp only [Vector.getElem_set]
      rw [if_neg]
      exact fun e => h (BitVec.eq_of_toNat_eq e.symm)
@[simp] theorem Ctx.rv_wv_self (c : Ctx) (r : BitVec 5) (w : Quad) : (c.wv r w).rv r = w := by
  simp [Ctx.rv, Ctx.wv]
theorem Ctx.rv_wv_ne (c : Ctx) {r q : BitVec 5} (w : Quad) (h : q ≠ r) : (c.wv r w).rv q = c.rv q := by
  simp only [Ctx.rv, Ctx.wv, Vector.getElem_set]
  rw [if_neg]
  exact fun e => h (BitVec.eq_of_toNat_eq e.symm)
/-- k0 reads all ones whatever was written to it (R26). -/
@[simp] theorem Ctx.rk_zero (c : Ctx) : c.rk 0#3 = 0xFFFF#16 := rfl
/-- A write to k0 is discarded (R26). -/
@[simp] theorem Ctx.wk_zero (c : Ctx) (w : BitVec 16) : c.wk 0#3 w = c := rfl
theorem Ctx.rk_wk_self (c : Ctx) {r : BitVec 3} (w : BitVec 16) (h : r ≠ 0) : (c.wk r w).rk r = w := by
  simp only [Ctx.rk, Ctx.wk, if_neg h, Vector.getElem_set_self]
theorem Ctx.rk_wk_ne (c : Ctx) {r q : BitVec 3} (w : BitVec 16) (h : q ≠ r) : (c.wk r w).rk q = c.rk q := by
  unfold Ctx.rk Ctx.wk
  split
  · rfl
  · split
    · rfl
    · simp only [Vector.getElem_set]
      rw [if_neg]
      exact fun e => h (BitVec.eq_of_toNat_eq e.symm)
@[simp] theorem Ctx.rc_wc_self (c : Ctx) (r : BitVec 2) (w : BitVec 4) : (c.wc r w).rc r = w := by
  simp [Ctx.rc, Ctx.wc]
theorem Ctx.rc_wc_ne (c : Ctx) {r q : BitVec 2} (w : BitVec 4) (h : q ≠ r) : (c.wc r w).rc q = c.rc q := by
  simp only [Ctx.rc, Ctx.wc, Vector.getElem_set]
  rw [if_neg]
  exact fun e => h (BitVec.eq_of_toNat_eq e.symm)

@[simp] theorem Ctx.wx_mode (c : Ctx) (r : BitVec 5) (w : Word) : (c.wx r w).mode = c.mode := by unfold Ctx.wx; split <;> rfl
@[simp] theorem Ctx.wx_pc (c : Ctx) (r : BitVec 5) (w : Word) : (c.wx r w).pc = c.pc := by unfold Ctx.wx; split <;> rfl
@[simp] theorem Ctx.wx_hdr (c : Ctx) (r : BitVec 5) (w : Word) : (c.wx r w).hdr = c.hdr := by unfold Ctx.wx; split <;> rfl
@[simp] theorem Ctx.wx_y0 (c : Ctx) (r : BitVec 5) (w : Word) : (c.wx r w).y0 = c.y0 := by unfold Ctx.wx; split <;> rfl
@[simp] theorem Ctx.wx_y1 (c : Ctx) (r : BitVec 5) (w : Word) : (c.wx r w).y1 = c.y1 := by unfold Ctx.wx; split <;> rfl
@[simp] theorem Ctx.wx_v (c : Ctx) (r : BitVec 5) (w : Word) : (c.wx r w).v = c.v := by unfold Ctx.wx; split <;> rfl
@[simp] theorem Ctx.wx_k (c : Ctx) (r : BitVec 5) (w : Word) : (c.wx r w).k = c.k := by unfold Ctx.wx; split <;> rfl
@[simp] theorem Ctx.wx_c (c : Ctx) (r : BitVec 5) (w : Word) : (c.wx r w).c = c.c := by unfold Ctx.wx; split <;> rfl
@[simp] theorem Ctx.wx_ld (c : Ctx) (r : BitVec 5) (w : Word) : (c.wx r w).ld = c.ld := by unfold Ctx.wx; split <;> rfl
@[simp] theorem Ctx.wx_st (c : Ctx) (r : BitVec 5) (w : Word) : (c.wx r w).st = c.st := by unfold Ctx.wx; split <;> rfl
@[simp] theorem Ctx.wx_cp (c : Ctx) (r : BitVec 5) (w : Word) : (c.wx r w).cp = c.cp := by unfold Ctx.wx; split <;> rfl
@[simp] theorem Ctx.wx_tl (c : Ctx) (r : BitVec 5) (w : Word) : (c.wx r w).tl = c.tl := by unfold Ctx.wx; split <;> rfl
@[simp] theorem Ctx.wx_tcause (c : Ctx) (r : BitVec 5) (w : Word) : (c.wx r w).tcause = c.tcause := by unfold Ctx.wx; split <;> rfl
@[simp] theorem Ctx.wx_tval (c : Ctx) (r : BitVec 5) (w : Word) : (c.wx r w).tval = c.tval := by unfold Ctx.wx; split <;> rfl
@[simp] theorem Ctx.wx_tpc (c : Ctx) (r : BitVec 5) (w : Word) : (c.wx r w).tpc = c.tpc := by unfold Ctx.wx; split <;> rfl
@[simp] theorem Ctx.wx_tyard (c : Ctx) (r : BitVec 5) (w : Word) : (c.wx r w).tyard = c.tyard := by unfold Ctx.wx; split <;> rfl
@[simp] theorem Ctx.wx_fstat (c : Ctx) (r : BitVec 5) (w : Word) : (c.wx r w).fstat = c.fstat := by unfold Ctx.wx; split <;> rfl
@[simp] theorem Ctx.wx_tinfo (c : Ctx) (r : BitVec 5) (w : Word) : (c.wx r w).tinfo = c.tinfo := by unfold Ctx.wx; split <;> rfl
@[simp] theorem Ctx.wx_cbase (c : Ctx) (r : BitVec 5) (w : Word) : (c.wx r w).cbase = c.cbase := by unfold Ctx.wx; split <;> rfl
@[simp] theorem Ctx.wx_cbound (c : Ctx) (r : BitVec 5) (w : Word) : (c.wx r w).cbound = c.cbound := by unfold Ctx.wx; split <;> rfl
@[simp] theorem Ctx.wx_inBase (c : Ctx) (r : BitVec 5) (w : Word) : (c.wx r w).inBase = c.inBase := by unfold Ctx.wx; split <;> rfl
@[simp] theorem Ctx.wx_inBound (c : Ctx) (r : BitVec 5) (w : Word) : (c.wx r w).inBound = c.inBound := by unfold Ctx.wx; split <;> rfl
@[simp] theorem Ctx.wx_buoy (c : Ctx) (r : BitVec 5) (w : Word) : (c.wx r w).buoy = c.buoy := by unfold Ctx.wx; split <;> rfl
@[simp] theorem Ctx.wx_event (c : Ctx) (r : BitVec 5) (w : Word) : (c.wx r w).event = c.event := by unfold Ctx.wx; split <;> rfl
@[simp] theorem Ctx.wx_pins (c : Ctx) (r : BitVec 5) (w : Word) : (c.wx r w).pins = c.pins := by unfold Ctx.wx; split <;> rfl
@[simp] theorem Ctx.wx_notice (c : Ctx) (r : BitVec 5) (w : Word) : (c.wx r w).notice = c.notice := by unfold Ctx.wx; split <;> rfl
@[simp] theorem Ctx.wx_mismatch (c : Ctx) (r : BitVec 5) (w : Word) : (c.wx r w).mismatch = c.mismatch := by unfold Ctx.wx; split <;> rfl
@[simp] theorem Ctx.wx_hold (c : Ctx) (r : BitVec 5) (w : Word) : (c.wx r w).hold = c.hold := by unfold Ctx.wx; split <;> rfl
@[simp] theorem Ctx.wx_ops (c : Ctx) (r : BitVec 5) (w : Word) : (c.wx r w).ops = c.ops := by unfold Ctx.wx; split <;> rfl
@[simp] theorem Ctx.wx_fences (c : Ctx) (r : BitVec 5) (w : Word) : (c.wx r w).fences = c.fences := by unfold Ctx.wx; split <;> rfl
@[simp] theorem Ctx.wx_seen (c : Ctx) (r : BitVec 5) (w : Word) : (c.wx r w).seen = c.seen := by unfold Ctx.wx; split <;> rfl
@[simp] theorem Ctx.wx_since (c : Ctx) (r : BitVec 5) (w : Word) : (c.wx r w).since = c.since := by unfold Ctx.wx; split <;> rfl
@[simp] theorem Ctx.wx_sup (c : Ctx) (r : BitVec 5) (w : Word) : (c.wx r w).sup = c.sup := by unfold Ctx.wx; split <;> rfl
@[simp] theorem Ctx.wk_mode (c : Ctx) (r : BitVec 3) (w : BitVec 16) : (c.wk r w).mode = c.mode := by unfold Ctx.wk; split <;> rfl
@[simp] theorem Ctx.wk_pc (c : Ctx) (r : BitVec 3) (w : BitVec 16) : (c.wk r w).pc = c.pc := by unfold Ctx.wk; split <;> rfl
@[simp] theorem Ctx.wk_hdr (c : Ctx) (r : BitVec 3) (w : BitVec 16) : (c.wk r w).hdr = c.hdr := by unfold Ctx.wk; split <;> rfl
@[simp] theorem Ctx.wk_x (c : Ctx) (r : BitVec 3) (w : BitVec 16) : (c.wk r w).x = c.x := by unfold Ctx.wk; split <;> rfl
@[simp] theorem Ctx.wk_y0 (c : Ctx) (r : BitVec 3) (w : BitVec 16) : (c.wk r w).y0 = c.y0 := by unfold Ctx.wk; split <;> rfl
@[simp] theorem Ctx.wk_y1 (c : Ctx) (r : BitVec 3) (w : BitVec 16) : (c.wk r w).y1 = c.y1 := by unfold Ctx.wk; split <;> rfl
@[simp] theorem Ctx.wk_v (c : Ctx) (r : BitVec 3) (w : BitVec 16) : (c.wk r w).v = c.v := by unfold Ctx.wk; split <;> rfl
@[simp] theorem Ctx.wk_c (c : Ctx) (r : BitVec 3) (w : BitVec 16) : (c.wk r w).c = c.c := by unfold Ctx.wk; split <;> rfl
@[simp] theorem Ctx.wk_ld (c : Ctx) (r : BitVec 3) (w : BitVec 16) : (c.wk r w).ld = c.ld := by unfold Ctx.wk; split <;> rfl
@[simp] theorem Ctx.wk_st (c : Ctx) (r : BitVec 3) (w : BitVec 16) : (c.wk r w).st = c.st := by unfold Ctx.wk; split <;> rfl
@[simp] theorem Ctx.wk_cp (c : Ctx) (r : BitVec 3) (w : BitVec 16) : (c.wk r w).cp = c.cp := by unfold Ctx.wk; split <;> rfl
@[simp] theorem Ctx.wk_tl (c : Ctx) (r : BitVec 3) (w : BitVec 16) : (c.wk r w).tl = c.tl := by unfold Ctx.wk; split <;> rfl
@[simp] theorem Ctx.wk_tcause (c : Ctx) (r : BitVec 3) (w : BitVec 16) : (c.wk r w).tcause = c.tcause := by unfold Ctx.wk; split <;> rfl
@[simp] theorem Ctx.wk_tval (c : Ctx) (r : BitVec 3) (w : BitVec 16) : (c.wk r w).tval = c.tval := by unfold Ctx.wk; split <;> rfl
@[simp] theorem Ctx.wk_tpc (c : Ctx) (r : BitVec 3) (w : BitVec 16) : (c.wk r w).tpc = c.tpc := by unfold Ctx.wk; split <;> rfl
@[simp] theorem Ctx.wk_tyard (c : Ctx) (r : BitVec 3) (w : BitVec 16) : (c.wk r w).tyard = c.tyard := by unfold Ctx.wk; split <;> rfl
@[simp] theorem Ctx.wk_fstat (c : Ctx) (r : BitVec 3) (w : BitVec 16) : (c.wk r w).fstat = c.fstat := by unfold Ctx.wk; split <;> rfl
@[simp] theorem Ctx.wk_tinfo (c : Ctx) (r : BitVec 3) (w : BitVec 16) : (c.wk r w).tinfo = c.tinfo := by unfold Ctx.wk; split <;> rfl
@[simp] theorem Ctx.wk_cbase (c : Ctx) (r : BitVec 3) (w : BitVec 16) : (c.wk r w).cbase = c.cbase := by unfold Ctx.wk; split <;> rfl
@[simp] theorem Ctx.wk_cbound (c : Ctx) (r : BitVec 3) (w : BitVec 16) : (c.wk r w).cbound = c.cbound := by unfold Ctx.wk; split <;> rfl
@[simp] theorem Ctx.wk_inBase (c : Ctx) (r : BitVec 3) (w : BitVec 16) : (c.wk r w).inBase = c.inBase := by unfold Ctx.wk; split <;> rfl
@[simp] theorem Ctx.wk_inBound (c : Ctx) (r : BitVec 3) (w : BitVec 16) : (c.wk r w).inBound = c.inBound := by unfold Ctx.wk; split <;> rfl
@[simp] theorem Ctx.wk_buoy (c : Ctx) (r : BitVec 3) (w : BitVec 16) : (c.wk r w).buoy = c.buoy := by unfold Ctx.wk; split <;> rfl
@[simp] theorem Ctx.wk_event (c : Ctx) (r : BitVec 3) (w : BitVec 16) : (c.wk r w).event = c.event := by unfold Ctx.wk; split <;> rfl
@[simp] theorem Ctx.wk_pins (c : Ctx) (r : BitVec 3) (w : BitVec 16) : (c.wk r w).pins = c.pins := by unfold Ctx.wk; split <;> rfl
@[simp] theorem Ctx.wk_notice (c : Ctx) (r : BitVec 3) (w : BitVec 16) : (c.wk r w).notice = c.notice := by unfold Ctx.wk; split <;> rfl
@[simp] theorem Ctx.wk_mismatch (c : Ctx) (r : BitVec 3) (w : BitVec 16) : (c.wk r w).mismatch = c.mismatch := by unfold Ctx.wk; split <;> rfl
@[simp] theorem Ctx.wk_hold (c : Ctx) (r : BitVec 3) (w : BitVec 16) : (c.wk r w).hold = c.hold := by unfold Ctx.wk; split <;> rfl
@[simp] theorem Ctx.wk_ops (c : Ctx) (r : BitVec 3) (w : BitVec 16) : (c.wk r w).ops = c.ops := by unfold Ctx.wk; split <;> rfl
@[simp] theorem Ctx.wk_fences (c : Ctx) (r : BitVec 3) (w : BitVec 16) : (c.wk r w).fences = c.fences := by unfold Ctx.wk; split <;> rfl
@[simp] theorem Ctx.wk_seen (c : Ctx) (r : BitVec 3) (w : BitVec 16) : (c.wk r w).seen = c.seen := by unfold Ctx.wk; split <;> rfl
@[simp] theorem Ctx.wk_since (c : Ctx) (r : BitVec 3) (w : BitVec 16) : (c.wk r w).since = c.since := by unfold Ctx.wk; split <;> rfl
@[simp] theorem Ctx.wk_sup (c : Ctx) (r : BitVec 3) (w : BitVec 16) : (c.wk r w).sup = c.sup := by unfold Ctx.wk; split <;> rfl
@[simp] theorem Ctx.wv_mode (c : Ctx) (r : BitVec 5) (w : Quad) : (c.wv r w).mode = c.mode := rfl
@[simp] theorem Ctx.wv_pc (c : Ctx) (r : BitVec 5) (w : Quad) : (c.wv r w).pc = c.pc := rfl
@[simp] theorem Ctx.wv_hdr (c : Ctx) (r : BitVec 5) (w : Quad) : (c.wv r w).hdr = c.hdr := rfl
@[simp] theorem Ctx.wv_x (c : Ctx) (r : BitVec 5) (w : Quad) : (c.wv r w).x = c.x := rfl
@[simp] theorem Ctx.wv_y0 (c : Ctx) (r : BitVec 5) (w : Quad) : (c.wv r w).y0 = c.y0 := rfl
@[simp] theorem Ctx.wv_y1 (c : Ctx) (r : BitVec 5) (w : Quad) : (c.wv r w).y1 = c.y1 := rfl
@[simp] theorem Ctx.wv_k (c : Ctx) (r : BitVec 5) (w : Quad) : (c.wv r w).k = c.k := rfl
@[simp] theorem Ctx.wv_c (c : Ctx) (r : BitVec 5) (w : Quad) : (c.wv r w).c = c.c := rfl
@[simp] theorem Ctx.wv_ld (c : Ctx) (r : BitVec 5) (w : Quad) : (c.wv r w).ld = c.ld := rfl
@[simp] theorem Ctx.wv_st (c : Ctx) (r : BitVec 5) (w : Quad) : (c.wv r w).st = c.st := rfl
@[simp] theorem Ctx.wv_cp (c : Ctx) (r : BitVec 5) (w : Quad) : (c.wv r w).cp = c.cp := rfl
@[simp] theorem Ctx.wv_tl (c : Ctx) (r : BitVec 5) (w : Quad) : (c.wv r w).tl = c.tl := rfl
@[simp] theorem Ctx.wv_tcause (c : Ctx) (r : BitVec 5) (w : Quad) : (c.wv r w).tcause = c.tcause := rfl
@[simp] theorem Ctx.wv_tval (c : Ctx) (r : BitVec 5) (w : Quad) : (c.wv r w).tval = c.tval := rfl
@[simp] theorem Ctx.wv_tpc (c : Ctx) (r : BitVec 5) (w : Quad) : (c.wv r w).tpc = c.tpc := rfl
@[simp] theorem Ctx.wv_tyard (c : Ctx) (r : BitVec 5) (w : Quad) : (c.wv r w).tyard = c.tyard := rfl
@[simp] theorem Ctx.wv_fstat (c : Ctx) (r : BitVec 5) (w : Quad) : (c.wv r w).fstat = c.fstat := rfl
@[simp] theorem Ctx.wv_tinfo (c : Ctx) (r : BitVec 5) (w : Quad) : (c.wv r w).tinfo = c.tinfo := rfl
@[simp] theorem Ctx.wv_cbase (c : Ctx) (r : BitVec 5) (w : Quad) : (c.wv r w).cbase = c.cbase := rfl
@[simp] theorem Ctx.wv_cbound (c : Ctx) (r : BitVec 5) (w : Quad) : (c.wv r w).cbound = c.cbound := rfl
@[simp] theorem Ctx.wv_inBase (c : Ctx) (r : BitVec 5) (w : Quad) : (c.wv r w).inBase = c.inBase := rfl
@[simp] theorem Ctx.wv_inBound (c : Ctx) (r : BitVec 5) (w : Quad) : (c.wv r w).inBound = c.inBound := rfl
@[simp] theorem Ctx.wv_buoy (c : Ctx) (r : BitVec 5) (w : Quad) : (c.wv r w).buoy = c.buoy := rfl
@[simp] theorem Ctx.wv_event (c : Ctx) (r : BitVec 5) (w : Quad) : (c.wv r w).event = c.event := rfl
@[simp] theorem Ctx.wv_pins (c : Ctx) (r : BitVec 5) (w : Quad) : (c.wv r w).pins = c.pins := rfl
@[simp] theorem Ctx.wv_notice (c : Ctx) (r : BitVec 5) (w : Quad) : (c.wv r w).notice = c.notice := rfl
@[simp] theorem Ctx.wv_mismatch (c : Ctx) (r : BitVec 5) (w : Quad) : (c.wv r w).mismatch = c.mismatch := rfl
@[simp] theorem Ctx.wv_hold (c : Ctx) (r : BitVec 5) (w : Quad) : (c.wv r w).hold = c.hold := rfl
@[simp] theorem Ctx.wv_ops (c : Ctx) (r : BitVec 5) (w : Quad) : (c.wv r w).ops = c.ops := rfl
@[simp] theorem Ctx.wv_fences (c : Ctx) (r : BitVec 5) (w : Quad) : (c.wv r w).fences = c.fences := rfl
@[simp] theorem Ctx.wv_seen (c : Ctx) (r : BitVec 5) (w : Quad) : (c.wv r w).seen = c.seen := rfl
@[simp] theorem Ctx.wv_since (c : Ctx) (r : BitVec 5) (w : Quad) : (c.wv r w).since = c.since := rfl
@[simp] theorem Ctx.wv_sup (c : Ctx) (r : BitVec 5) (w : Quad) : (c.wv r w).sup = c.sup := rfl
@[simp] theorem Ctx.wc_mode (c : Ctx) (r : BitVec 2) (w : BitVec 4) : (c.wc r w).mode = c.mode := rfl
@[simp] theorem Ctx.wc_pc (c : Ctx) (r : BitVec 2) (w : BitVec 4) : (c.wc r w).pc = c.pc := rfl
@[simp] theorem Ctx.wc_hdr (c : Ctx) (r : BitVec 2) (w : BitVec 4) : (c.wc r w).hdr = c.hdr := rfl
@[simp] theorem Ctx.wc_x (c : Ctx) (r : BitVec 2) (w : BitVec 4) : (c.wc r w).x = c.x := rfl
@[simp] theorem Ctx.wc_y0 (c : Ctx) (r : BitVec 2) (w : BitVec 4) : (c.wc r w).y0 = c.y0 := rfl
@[simp] theorem Ctx.wc_y1 (c : Ctx) (r : BitVec 2) (w : BitVec 4) : (c.wc r w).y1 = c.y1 := rfl
@[simp] theorem Ctx.wc_v (c : Ctx) (r : BitVec 2) (w : BitVec 4) : (c.wc r w).v = c.v := rfl
@[simp] theorem Ctx.wc_k (c : Ctx) (r : BitVec 2) (w : BitVec 4) : (c.wc r w).k = c.k := rfl
@[simp] theorem Ctx.wc_ld (c : Ctx) (r : BitVec 2) (w : BitVec 4) : (c.wc r w).ld = c.ld := rfl
@[simp] theorem Ctx.wc_st (c : Ctx) (r : BitVec 2) (w : BitVec 4) : (c.wc r w).st = c.st := rfl
@[simp] theorem Ctx.wc_cp (c : Ctx) (r : BitVec 2) (w : BitVec 4) : (c.wc r w).cp = c.cp := rfl
@[simp] theorem Ctx.wc_tl (c : Ctx) (r : BitVec 2) (w : BitVec 4) : (c.wc r w).tl = c.tl := rfl
@[simp] theorem Ctx.wc_tcause (c : Ctx) (r : BitVec 2) (w : BitVec 4) : (c.wc r w).tcause = c.tcause := rfl
@[simp] theorem Ctx.wc_tval (c : Ctx) (r : BitVec 2) (w : BitVec 4) : (c.wc r w).tval = c.tval := rfl
@[simp] theorem Ctx.wc_tpc (c : Ctx) (r : BitVec 2) (w : BitVec 4) : (c.wc r w).tpc = c.tpc := rfl
@[simp] theorem Ctx.wc_tyard (c : Ctx) (r : BitVec 2) (w : BitVec 4) : (c.wc r w).tyard = c.tyard := rfl
@[simp] theorem Ctx.wc_fstat (c : Ctx) (r : BitVec 2) (w : BitVec 4) : (c.wc r w).fstat = c.fstat := rfl
@[simp] theorem Ctx.wc_tinfo (c : Ctx) (r : BitVec 2) (w : BitVec 4) : (c.wc r w).tinfo = c.tinfo := rfl
@[simp] theorem Ctx.wc_cbase (c : Ctx) (r : BitVec 2) (w : BitVec 4) : (c.wc r w).cbase = c.cbase := rfl
@[simp] theorem Ctx.wc_cbound (c : Ctx) (r : BitVec 2) (w : BitVec 4) : (c.wc r w).cbound = c.cbound := rfl
@[simp] theorem Ctx.wc_inBase (c : Ctx) (r : BitVec 2) (w : BitVec 4) : (c.wc r w).inBase = c.inBase := rfl
@[simp] theorem Ctx.wc_inBound (c : Ctx) (r : BitVec 2) (w : BitVec 4) : (c.wc r w).inBound = c.inBound := rfl
@[simp] theorem Ctx.wc_buoy (c : Ctx) (r : BitVec 2) (w : BitVec 4) : (c.wc r w).buoy = c.buoy := rfl
@[simp] theorem Ctx.wc_event (c : Ctx) (r : BitVec 2) (w : BitVec 4) : (c.wc r w).event = c.event := rfl
@[simp] theorem Ctx.wc_pins (c : Ctx) (r : BitVec 2) (w : BitVec 4) : (c.wc r w).pins = c.pins := rfl
@[simp] theorem Ctx.wc_notice (c : Ctx) (r : BitVec 2) (w : BitVec 4) : (c.wc r w).notice = c.notice := rfl
@[simp] theorem Ctx.wc_mismatch (c : Ctx) (r : BitVec 2) (w : BitVec 4) : (c.wc r w).mismatch = c.mismatch := rfl
@[simp] theorem Ctx.wc_hold (c : Ctx) (r : BitVec 2) (w : BitVec 4) : (c.wc r w).hold = c.hold := rfl
@[simp] theorem Ctx.wc_ops (c : Ctx) (r : BitVec 2) (w : BitVec 4) : (c.wc r w).ops = c.ops := rfl
@[simp] theorem Ctx.wc_fences (c : Ctx) (r : BitVec 2) (w : BitVec 4) : (c.wc r w).fences = c.fences := rfl
@[simp] theorem Ctx.wc_seen (c : Ctx) (r : BitVec 2) (w : BitVec 4) : (c.wc r w).seen = c.seen := rfl
@[simp] theorem Ctx.wc_since (c : Ctx) (r : BitVec 2) (w : BitVec 4) : (c.wc r w).since = c.since := rfl
@[simp] theorem Ctx.wc_sup (c : Ctx) (r : BitVec 2) (w : BitVec 4) : (c.wc r w).sup = c.sup := rfl

end Sys2Proof.Machine
end

