-- ==== Sys2Proof/Laws/Issue.lean ====
section
/-! SUPPORT. What the checks at issue, the end of a meaning and retirement come to, once for every instruction. -/
namespace Sys2Proof.Machine

/-! ## The checks at issue (R52) -/

theorem State.hasFeature_zero (s : State) : s.hasFeature 0 = true := by
  unfold State.hasFeature State.feat0
  cases s.four <;> decide

/-- An instruction that fails a check has no effect but its trap. -/
theorem State.issue_of_trap {s : State} {i : Instr} {cause : BitVec 8} (h : s.issueTrap i = some cause) (eff : State → Eff) :
    s.issue i eff = s.takeTrap s.cur cause false (encode i) 0 := by
  simp [State.issue, h]

/-- An instruction that fits has its effect. -/
theorem State.issue_of_fit {s : State} {i : Instr} (h : s.Fit i) (eff : State → Eff) : s.issue i eff = s.finish (eff s) := by
  simp [State.issue, State.run, h.1, h.2.1, h.2.2]

/-- A retirement that no mismatch is due on stands. -/
theorem State.checked_of_none {s : State} (h : s.me.mismatch = 0) (t : State) : s.checked t = t := by
  simp [State.checked, h]

@[simp] theorem State.finish_done (s t : State) : s.finish (.done t) = t.retire s.cur := rfl
@[simp] theorem State.finish_leave (s t : State) : s.finish (.leave t) = t := rfl
@[simp] theorem State.finish_contained (s t : State) : s.finish (.contained t) = t := rfl
@[simp] theorem State.finish_stall (s t : State) : s.finish (.stall t) = t := rfl
@[simp] theorem State.finish_trap (s : State) (c : BitVec 8) (v : Word) (i : BitVec 8) :
    s.finish (.trap c v i) = s.takeTrap s.cur c false v i := rfl
@[simp] theorem State.finish_trapRead (s t : State) (c : BitVec 8) (v : Word) (i : BitVec 8) :
    s.finish (.trapRead t c v i) = (s.readBy t).takeTrap s.cur c false v i := rfl
@[simp] theorem State.finish_faultRead (s t : State) (va : Word) (r : Nat) (wr : Bool) :
    s.finish (.faultRead t va r wr) = (s.readBy t).pageFault va r wr := rfl
@[simp] theorem Eff.after_trap (t : State) (c : BitVec 8) (v : Word) (i : BitVec 8) : Eff.after t (.trap c v i) = .trapRead t c v i := rfl
@[simp] theorem Eff.after_trapRead (t u : State) (c : BitVec 8) (v : Word) (i : BitVec 8) : Eff.after t (.trapRead u c v i) = .trapRead u c v i := rfl
@[simp] theorem Eff.after_done (t u : State) : Eff.after t (.done u) = .done u := rfl
@[simp] theorem Eff.after_sleep (t u : State) (w : Wait) : Eff.after t (.sleep w u) = .sleep w u := rfl
/-- Of reads whose instruction has no other effect, no context, core, shed, gang or byte shows anything. -/
@[simp] theorem State.readBy_self (s : State) : s.readBy s = s := rfl
@[simp] theorem State.readBy_ctxs (s t : State) : (s.readBy t).ctxs = s.ctxs := rfl
@[simp] theorem State.readBy_cores (s t : State) : (s.readBy t).cores = s.cores := rfl
@[simp] theorem State.readBy_sheds (s t : State) : (s.readBy t).sheds = s.sheds := rfl
@[simp] theorem State.readBy_gangs (s t : State) : (s.readBy t).gangs = s.gangs := rfl
@[simp] theorem State.readBy_mem (s t : State) : (s.readBy t).ord.mem = s.ord.mem := rfl
@[simp] theorem State.finish_sleep (s t : State) (w : Wait) : s.finish (.sleep w t) = t.sleepMe w := rfl
@[simp] theorem State.finish_fault (s : State) (va : Word) (r : Nat) (wr : Bool) :
    s.finish (.fault va r wr) = s.pageFault va r wr := rfl

/-- Every instruction word's meaning is an effect behind the checks at issue. -/
theorem exec_word {i : Instr} (h : Instr.isWord i = true) (s : State) : ∃ eff, exec i s = .next (s.issue i eff) := by
  cases i <;> first | exact ⟨_, rfl⟩ | exact absurd (show false = true from h) (by decide)

/-- No instruction word ends in a fault or a refusal. -/
theorem exec_word_next {i : Instr} (h : Instr.isWord i = true) (s : State) : ∃ t, exec i s = .next t :=
  let ⟨_, e⟩ := exec_word h s
  ⟨_, e⟩

/-! ## Retirement (R85, R86) -/

theorem State.ctx_retire_last {s : State} {k : Nat} (h : pcIndex (s.ctx k).pc = hdrLen (s.ctx k).hdr) :
    (s.retire k).ctx k = { s.ctx k with mode := .blockEnd } := by
  simp [State.retire, h]
theorem State.ctx_retire_next {s : State} {k : Nat} (h : pcIndex (s.ctx k).pc ≠ hdrLen (s.ctx k).hdr) :
    (s.retire k).ctx k =
      { s.ctx k with mode := .ready, pc := mkPc (pcIndex (s.ctx k).pc + 1) (pcBlock (s.ctx k).pc) } := by
  simp [State.retire, h]
theorem State.ctx_retire_ne (s : State) {j k : Nat} (h : j ≠ k) : (s.retire k).ctx j = s.ctx j :=
  State.ctx_updCtx_ne _ _ h

/-- Retirement changes no register: only the mode and the location. -/
theorem State.ctx_retire (s : State) (k : Nat) :
    (s.retire k).ctx k = { s.ctx k with mode := ((s.retire k).ctx k).mode, pc := ((s.retire k).ctx k).pc } := by
  by_cases h : pcIndex (s.ctx k).pc = hdrLen (s.ctx k).hdr
  · rw [State.ctx_retire_last h]
  · rw [State.ctx_retire_next h]

/-! ## Locations (R45) -/

theorem pcIndex_mkPc {i : Nat} (h : i < 256) (b : Nat) : pcIndex (mkPc i b) = i := by
  unfold pcIndex mkPc
  simp (disch := decide) only [BitVec.extractLsb'_append_eq_of_le]
  simp [Nat.mod_eq_of_lt h]

end Sys2Proof.Machine
end

