-- ==== Sys2Proof/Laws/Memory.lean ====
section
/-! SUPPORT. What byte memories do: a read after a write, and that every operation keeps the canonical form. -/
namespace Sys2Proof.Memory

/-- An address below every cell reads as blank. -/
theorem get_of_lt {m : Memory} {lo k : Nat} (hw : wfFrom lo m = true) (hk : k < lo) : get m k = blank := by
  induction m generalizing lo with
  | nil => rfl
  | cons e t ih =>
    obtain ⟨a, c⟩ := e
    simp only [wfFrom, Bool.and_eq_true, decide_eq_true_eq] at hw
    simp only [get, show a ≠ k by omega, if_false]
    exact ih hw.2 (by omega)

theorem wfFrom_mono {m : Memory} {lo lo' : Nat} (hw : wfFrom lo m = true) (h : lo' ≤ lo) : wfFrom lo' m = true := by
  cases m with
  | nil => rfl
  | cons e t =>
    simp only [wfFrom, Bool.and_eq_true, decide_eq_true_eq] at hw ⊢
    exact ⟨⟨by omega, hw.1.2⟩, hw.2⟩

/-! ## One byte -/

theorem get_set_self {m : Memory} (hw : wf m = true) (k : Nat) (b : Byte) : get (set m k b) k = b := by
  suffices ∀ lo, wfFrom lo m = true → get (set m k b) k = b from this 0 hw
  clear hw
  induction m with
  | nil => intro lo _; by_cases hb : b = blank <;> simp [set, get, hb]
  | cons e t ih =>
    obtain ⟨a, c⟩ := e
    intro lo hw
    simp only [wfFrom, Bool.and_eq_true, decide_eq_true_eq] at hw
    unfold set
    split
    · subst_vars
      split
      · subst_vars; exact get_of_lt hw.2 (by omega)
      · simp [get]
    · split
      · split
        · subst_vars; exact get_of_lt (lo := a) (by simp [wfFrom, hw.1.2, hw.2]) ‹_›
        · simp [get]
      · simpa [get, ‹¬a = k›] using ih (a + 1) hw.2

theorem get_set_ne {m : Memory} {k j : Nat} (b : Byte) (h : j ≠ k) : get (set m k b) j = get m j := by
  induction m with
  | nil => by_cases hb : b = blank <;> simp [set, get, hb, h.symm]
  | cons e t ih =>
    obtain ⟨a, c⟩ := e
    unfold set
    split
    · subst_vars; split <;> simp [get, h.symm]
    · split
      · split <;> simp [get, h.symm]
      · simp [get, ih]

theorem wfFrom_set {m : Memory} {lo : Nat} (hw : wfFrom lo m = true) {k : Nat} (hk : lo ≤ k) (b : Byte) :
    wfFrom lo (set m k b) = true := by
  induction m generalizing lo with
  | nil => by_cases hb : b = blank <;> simp [set, wfFrom, hb, hk]
  | cons e t ih =>
    obtain ⟨a, c⟩ := e
    simp only [wfFrom, Bool.and_eq_true, decide_eq_true_eq] at hw
    unfold set
    split
    · subst_vars
      split
      · exact wfFrom_mono hw.2 (by omega)
      · simp [wfFrom, *]
    · split
      · split
        · simp [wfFrom, hw]
        · simp [wfFrom, *]
      · simp [wfFrom, hw, ih hw.2 (show a + 1 ≤ k by omega)]

theorem wf_set {m : Memory} (hw : wf m = true) (k : Nat) (b : Byte) : wf (set m k b) = true :=
  wfFrom_set hw (Nat.zero_le k) b

/-! ## Doublewords, ranges and lists -/

theorem wf_setBytes {m : Memory} (hw : wf m = true) (a : Nat) (mask : BitVec 8) (v : Word) (is : List Nat) :
    wf (setBytes m a mask v is) = true := by
  induction is generalizing m with
  | nil => exact hw
  | cons i is ih =>
    unfold setBytes
    split
    · exact ih (wf_set hw _ _)
    · exact ih hw

theorem wf_setDword {m : Memory} (hw : wf m = true) (a : Nat) (mask : BitVec 8) (v : Word) :
    wf (setDword m a mask v) = true := wf_setBytes hw a mask v _

theorem get_setBytes_out {m : Memory} {a j : Nat} (mask : BitVec 8) (v : Word) (is : List Nat)
    (h : ∀ i ∈ is, j ≠ a + i) : get (setBytes m a mask v is) j = get m j := by
  induction is generalizing m with
  | nil => rfl
  | cons i is ih =>
    unfold setBytes
    rw [ih fun x hx => h x (List.mem_cons_of_mem _ hx)]
    split
    · exact get_set_ne _ (h i (List.mem_cons_self ..))
    · rfl

/-- A write of a doubleword leaves every byte outside it alone. -/
theorem get_setDword_out {m : Memory} {a j : Nat} (mask : BitVec 8) (v : Word) (h : j < a ∨ a + 8 ≤ j) :
    get (setDword m a mask v) j = get m j :=
  get_setBytes_out mask v _ fun i hi => by have := List.mem_range.mp hi; omega

theorem get_setBytes_in {m : Memory} (hw : wf m = true) {a i : Nat} (mask : BitVec 8) (v : Word) {is : List Nat}
    (hn : is.Nodup) (hi : i ∈ is) :
    get (setBytes m a mask v is) (a + i) =
      if mask.getLsbD i then v.extractLsb' (8 * i) 8 else get m (a + i) := by
  induction is generalizing m with
  | nil => simp at hi
  | cons j is ih =>
    unfold setBytes
    obtain ⟨hj, hn'⟩ := List.nodup_cons.mp hn
    by_cases he : i = j
    · subst he
      rw [get_setBytes_out mask v is fun x hx => by intro h; exact hj (by rwa [show i = x by omega])]
      split
      · exact get_set_self hw _ _
      · rfl
    · have hm : i ∈ is := by simpa [he] using hi
      rw [ih (by split; exact wf_set hw _ _; exact hw) hn' hm]
      split
      · rfl
      · split
        · exact get_set_ne _ (by omega)
        · rfl

/-- A write of a doubleword gives each byte that its mask names the value's byte, and leaves the others. -/
theorem get_setDword_in {m : Memory} (hw : wf m = true) (a : Nat) {i : Nat} (mask : BitVec 8) (v : Word) (hi : i < 8) :
    get (setDword m a mask v) (a + i) = if mask.getLsbD i then v.extractLsb' (8 * i) 8 else get m (a + i) :=
  get_setBytes_in hw mask v List.nodup_range (List.mem_range.mpr hi)

theorem wfFrom_filter {m : Memory} {lo : Nat} (p : Host.Cell → Bool) (hw : wfFrom lo m = true) :
    wfFrom lo (m.filter p) = true := by
  induction m generalizing lo with
  | nil => rfl
  | cons e t ih =>
    simp only [wfFrom, Bool.and_eq_true, decide_eq_true_eq] at hw
    simp only [List.filter_cons]
    split
    · simp [wfFrom, hw, ih hw.2]
    · exact wfFrom_mono (ih hw.2) (by omega)

theorem wf_filter {m : Memory} (p : Host.Cell → Bool) (hw : wf m = true) : wf (m.filter p) = true :=
  wfFrom_filter p hw

theorem wf_clear {m : Memory} (hw : wf m = true) (lo hi : Nat) : wf (clear m lo hi) = true := wf_filter _ hw

theorem wf_fill {m : Memory} (hw : wf m = true) (a : Nat) (bs : List Byte) : wf (fill m a bs) = true := by
  induction bs generalizing m a with
  | nil => exact hw
  | cons b bs ih => exact ih (wf_set hw _ _) _

/-- Cells put one after another into a memory, as a save area or a lay-up is read back. -/
theorem wf_foldl_set {m : Memory} (hw : wf m = true) {α : Type} (cs : List α) (f : α → Nat) (g : α → Byte) :
    wf (cs.foldl (fun m c => set m (f c) (g c)) m) = true := by
  induction cs generalizing m with
  | nil => exact hw
  | cons c cs ih => exact ih (wf_set hw _ _)

end Sys2Proof.Memory
end

