-- ==== Sys2Proof/Laws/PerInstr.lean ====
section
/-! SUPPORT. The encoder and the decoder agree on every well-formed instruction, constructor by constructor. -/
namespace Sys2Proof

/-- No check of a list fails when none is reported. -/
theorem firstFail_none {l : List (Bool × IllFormed)} (h : firstFail l = none) : ∀ e ∈ l, e.1 = true := by
  induction l with
  | nil => simp
  | cons e l ih =>
    obtain ⟨ok, why⟩ := e
    unfold firstFail at h
    split at h
    · rename_i hok
      intro e he
      rcases List.mem_cons.mp he with rfl | he
      · exact hok
      · exact ih h e he
    · cases h

end Sys2Proof

namespace Sys2Proof.Laws.RoundTrip

/-- The bytes of a well-formed instruction's word decode to that instruction, whatever bytes follow. -/
def Statement (i : Instr) : Prop :=
  WellFormed i → ∀ rest : List Byte, decode (wordBytes (encode i) ++ rest) = .ok (i, rest)

/-- It is enough that the word decodes. -/
theorem of_word {i : Instr} (h : decodeWord (encode i) = i) : Statement i := fun _ rest => by
  rw [decode_wordBytes, h]

/-- A row that is an event of the machine, or an unassigned word, has no well-formed instruction. -/
theorem of_ill {i : Instr} {why : IllFormed} (h : WellFormed.check i = some why) : Statement i := fun hw => by
  simp [WellFormed, h] at hw

theorem yardWe (f : RR) : Statement (.yardWe f) := of_word <| by
  show decodeWord (RR.pack 0x01 0 f) = _
  rw [decodeWord, RR.major_pack, RR.func_pack, RR.ofWord_pack]; rfl
theorem yardWf (f : RR) : Statement (.yardWf f) := of_word <| by
  show decodeWord (RR.pack 0x01 1 f) = _
  rw [decodeWord, RR.major_pack, RR.func_pack, RR.ofWord_pack]; rfl
theorem yardCmt (f : RR) : Statement (.yardCmt f) := of_word <| by
  show decodeWord (RR.pack 0x01 2 f) = _
  rw [decodeWord, RR.major_pack, RR.func_pack, RR.ofWord_pack]; rfl
theorem yardRd (f : RR) : Statement (.yardRd f) := of_word <| by
  show decodeWord (RR.pack 0x01 3 f) = _
  rw [decodeWord, RR.major_pack, RR.func_pack, RR.ofWord_pack]; rfl
theorem yardPin (f : RR) : Statement (.yardPin f) := of_word <| by
  show decodeWord (RR.pack 0x01 4 f) = _
  rw [decodeWord, RR.major_pack, RR.func_pack, RR.ofWord_pack]; rfl
theorem yardUnpin (f : RR) : Statement (.yardUnpin f) := of_word <| by
  show decodeWord (RR.pack 0x01 5 f) = _
  rw [decodeWord, RR.major_pack, RR.func_pack, RR.ofWord_pack]; rfl
theorem yardGen (f : RR) : Statement (.yardGen f) := of_word <| by
  show decodeWord (RR.pack 0x01 6 f) = _
  rw [decodeWord, RR.major_pack, RR.func_pack, RR.ofWord_pack]; rfl
theorem halt (f : RR) : Statement (.halt f) := of_word <| by
  show decodeWord (RR.pack 0x01 8 f) = _
  rw [decodeWord, RR.major_pack, RR.func_pack, RR.ofWord_pack]; rfl
theorem yield (f : RR) : Statement (.yield f) := of_word <| by
  show decodeWord (RR.pack 0x01 9 f) = _
  rw [decodeWord, RR.major_pack, RR.func_pack, RR.ofWord_pack]; rfl
theorem start (f : RR) : Statement (.start f) := of_word <| by
  show decodeWord (RR.pack 0x02 0 f) = _
  rw [decodeWord, RR.major_pack, RR.func_pack, RR.ofWord_pack]; rfl
theorem startTry (f : RR) : Statement (.startTry f) := of_word <| by
  show decodeWord (RR.pack 0x02 1 f) = _
  rw [decodeWord, RR.major_pack, RR.func_pack, RR.ofWord_pack]; rfl
theorem stop (f : RR) : Statement (.stop f) := of_word <| by
  show decodeWord (RR.pack 0x02 2 f) = _
  rw [decodeWord, RR.major_pack, RR.func_pack, RR.ofWord_pack]; rfl
theorem hlive (f : RR) : Statement (.hlive f) := of_word <| by
  show decodeWord (RR.pack 0x02 3 f) = _
  rw [decodeWord, RR.major_pack, RR.func_pack, RR.ofWord_pack]; rfl
theorem sendr (f : XF) : Statement (.sendr f) := of_word <| by
  show decodeWord (XF.pack 0x03 0 f) = _
  rw [decodeWord, XF.major_pack, XF.func_pack, XF.ofWord_pack]; rfl
theorem sendrV (f : XF) : Statement (.sendrV f) := of_word <| by
  show decodeWord (XF.pack 0x03 1 f) = _
  rw [decodeWord, XF.major_pack, XF.func_pack, XF.ofWord_pack]; rfl
theorem mtake (f : RR) : Statement (.mtake f) := of_word <| by
  show decodeWord (RR.pack 0x04 0 f) = _
  rw [decodeWord, RR.major_pack, RR.func_pack, RR.ofWord_pack]; rfl
theorem mpeek (f : RR) : Statement (.mpeek f) := of_word <| by
  show decodeWord (RR.pack 0x04 1 f) = _
  rw [decodeWord, RR.major_pack, RR.func_pack, RR.ofWord_pack]; rfl
theorem mclr (f : RR) : Statement (.mclr f) := of_word <| by
  show decodeWord (RR.pack 0x04 2 f) = _
  rw [decodeWord, RR.major_pack, RR.func_pack, RR.ofWord_pack]; rfl
theorem clkRd (f : RR) : Statement (.clkRd f) := of_word <| by
  show decodeWord (RR.pack 0x05 0 f) = _
  rw [decodeWord, RR.major_pack, RR.func_pack, RR.ofWord_pack]; rfl
theorem clkReq (f : RR) : Statement (.clkReq f) := of_word <| by
  show decodeWord (RR.pack 0x05 1 f) = _
  rw [decodeWord, RR.major_pack, RR.func_pack, RR.ofWord_pack]; rfl
theorem clkAck (f : RR) : Statement (.clkAck f) := of_word <| by
  show decodeWord (RR.pack 0x05 2 f) = _
  rw [decodeWord, RR.major_pack, RR.func_pack, RR.ofWord_pack]; rfl
theorem pwrRd (f : RR) : Statement (.pwrRd f) := of_word <| by
  show decodeWord (RR.pack 0x05 3 f) = _
  rw [decodeWord, RR.major_pack, RR.func_pack, RR.ofWord_pack]; rfl
theorem srd (f : SF) : Statement (.srd f) := of_word <| by
  show decodeWord (SF.pack 0x06 f) = _
  rw [decodeWord, SF.major_pack, SF.ofWord_pack]; rfl
theorem eret (f : RR) : Statement (.eret f) := of_word <| by
  show decodeWord (RR.pack 0x08 0 f) = _
  rw [decodeWord, RR.major_pack, RR.func_pack, RR.ofWord_pack]; rfl
theorem eccInj (f : RR) : Statement (.eccInj f) := of_word <| by
  show decodeWord (RR.pack 0x08 1 f) = _
  rw [decodeWord, RR.major_pack, RR.func_pack, RR.ofWord_pack]; rfl
theorem trap (f : RI) : Statement (.trap f) := of_word <| by
  show decodeWord (RI.pack 0x09 f) = _
  rw [decodeWord, RI.major_pack, RI.ofWord_pack]; rfl
theorem icinv (f : MF) : Statement (.icinv f) := of_word <| by
  show decodeWord (MF.pack 0x0A f) = _
  rw [decodeWord, MF.major_pack, MF.ofWord_pack]; rfl
theorem tlbinv (f : MF) : Statement (.tlbinv f) := of_word <| by
  show decodeWord (MF.pack 0x0B f) = _
  rw [decodeWord, MF.major_pack, MF.ofWord_pack]; rfl
theorem add (f : RR) : Statement (.add f) := of_word <| by
  show decodeWord (RR.pack 0x10 0 f) = _
  rw [decodeWord, RR.major_pack, RR.func_pack, RR.ofWord_pack]; rfl
theorem sub (f : RR) : Statement (.sub f) := of_word <| by
  show decodeWord (RR.pack 0x10 1 f) = _
  rw [decodeWord, RR.major_pack, RR.func_pack, RR.ofWord_pack]; rfl
theorem mul (f : RR) : Statement (.mul f) := of_word <| by
  show decodeWord (RR.pack 0x10 2 f) = _
  rw [decodeWord, RR.major_pack, RR.func_pack, RR.ofWord_pack]; rfl
theorem mulh (f : RR) : Statement (.mulh f) := of_word <| by
  show decodeWord (RR.pack 0x10 3 f) = _
  rw [decodeWord, RR.major_pack, RR.func_pack, RR.ofWord_pack]; rfl
theorem div (f : RR) : Statement (.div f) := of_word <| by
  show decodeWord (RR.pack 0x10 4 f) = _
  rw [decodeWord, RR.major_pack, RR.func_pack, RR.ofWord_pack]; rfl
theorem rem (f : RR) : Statement (.rem f) := of_word <| by
  show decodeWord (RR.pack 0x10 5 f) = _
  rw [decodeWord, RR.major_pack, RR.func_pack, RR.ofWord_pack]; rfl
theorem and (f : RR) : Statement (.and f) := of_word <| by
  show decodeWord (RR.pack 0x10 6 f) = _
  rw [decodeWord, RR.major_pack, RR.func_pack, RR.ofWord_pack]; rfl
theorem or (f : RR) : Statement (.or f) := of_word <| by
  show decodeWord (RR.pack 0x10 7 f) = _
  rw [decodeWord, RR.major_pack, RR.func_pack, RR.ofWord_pack]; rfl
theorem xor (f : RR) : Statement (.xor f) := of_word <| by
  show decodeWord (RR.pack 0x10 8 f) = _
  rw [decodeWord, RR.major_pack, RR.func_pack, RR.ofWord_pack]; rfl
theorem andn (f : RR) : Statement (.andn f) := of_word <| by
  show decodeWord (RR.pack 0x10 9 f) = _
  rw [decodeWord, RR.major_pack, RR.func_pack, RR.ofWord_pack]; rfl
theorem shl (f : RR) : Statement (.shl f) := of_word <| by
  show decodeWord (RR.pack 0x10 10 f) = _
  rw [decodeWord, RR.major_pack, RR.func_pack, RR.ofWord_pack]; rfl
theorem shr (f : RR) : Statement (.shr f) := of_word <| by
  show decodeWord (RR.pack 0x10 11 f) = _
  rw [decodeWord, RR.major_pack, RR.func_pack, RR.ofWord_pack]; rfl
theorem sra (f : RR) : Statement (.sra f) := of_word <| by
  show decodeWord (RR.pack 0x10 12 f) = _
  rw [decodeWord, RR.major_pack, RR.func_pack, RR.ofWord_pack]; rfl
theorem rol (f : RR) : Statement (.rol f) := of_word <| by
  show decodeWord (RR.pack 0x10 13 f) = _
  rw [decodeWord, RR.major_pack, RR.func_pack, RR.ofWord_pack]; rfl
theorem min (f : RR) : Statement (.min f) := of_word <| by
  show decodeWord (RR.pack 0x10 14 f) = _
  rw [decodeWord, RR.major_pack, RR.func_pack, RR.ofWord_pack]; rfl
theorem max (f : RR) : Statement (.max f) := of_word <| by
  show decodeWord (RR.pack 0x10 15 f) = _
  rw [decodeWord, RR.major_pack, RR.func_pack, RR.ofWord_pack]; rfl
theorem abs (f : RR) : Statement (.abs f) := of_word <| by
  show decodeWord (RR.pack 0x10 16 f) = _
  rw [decodeWord, RR.major_pack, RR.func_pack, RR.ofWord_pack]; rfl
theorem neg (f : RR) : Statement (.neg f) := of_word <| by
  show decodeWord (RR.pack 0x10 17 f) = _
  rw [decodeWord, RR.major_pack, RR.func_pack, RR.ofWord_pack]; rfl
theorem clz (f : RR) : Statement (.clz f) := of_word <| by
  show decodeWord (RR.pack 0x10 18 f) = _
  rw [decodeWord, RR.major_pack, RR.func_pack, RR.ofWord_pack]; rfl
theorem ctz (f : RR) : Statement (.ctz f) := of_word <| by
  show decodeWord (RR.pack 0x10 19 f) = _
  rw [decodeWord, RR.major_pack, RR.func_pack, RR.ofWord_pack]; rfl
theorem popc (f : RR) : Statement (.popc f) := of_word <| by
  show decodeWord (RR.pack 0x10 20 f) = _
  rw [decodeWord, RR.major_pack, RR.func_pack, RR.ofWord_pack]; rfl
theorem bfx (f : RR) : Statement (.bfx f) := of_word <| by
  show decodeWord (RR.pack 0x10 21 f) = _
  rw [decodeWord, RR.major_pack, RR.func_pack, RR.ofWord_pack]; rfl
theorem bfi (f : RR) : Statement (.bfi f) := of_word <| by
  show decodeWord (RR.pack 0x10 22 f) = _
  rw [decodeWord, RR.major_pack, RR.func_pack, RR.ofWord_pack]; rfl
theorem lea (f : RR) : Statement (.lea f) := of_word <| by
  show decodeWord (RR.pack 0x10 23 f) = _
  rw [decodeWord, RR.major_pack, RR.func_pack, RR.ofWord_pack]; rfl
theorem mov (f : RR) : Statement (.mov f) := of_word <| by
  show decodeWord (RR.pack 0x10 24 f) = _
  rw [decodeWord, RR.major_pack, RR.func_pack, RR.ofWord_pack]; rfl
theorem cmp (f : RR) : Statement (.cmp f) := of_word <| by
  show decodeWord (RR.pack 0x11 0 f) = _
  rw [decodeWord, RR.major_pack, RR.func_pack, RR.ofWord_pack]; rfl
theorem csel (f : RR) : Statement (.csel f) := of_word <| by
  show decodeWord (RR.pack 0x11 1 f) = _
  rw [decodeWord, RR.major_pack, RR.func_pack, RR.ofWord_pack]; rfl
theorem setc (f : RR) : Statement (.setc f) := of_word <| by
  show decodeWord (RR.pack 0x11 2 f) = _
  rw [decodeWord, RR.major_pack, RR.func_pack, RR.ofWord_pack]; rfl
theorem decz (f : RR) : Statement (.decz f) := of_word <| by
  show decodeWord (RR.pack 0x11 3 f) = _
  rw [decodeWord, RR.major_pack, RR.func_pack, RR.ofWord_pack]; rfl
theorem addi (f : RI) : Statement (.addi f) := of_word <| by
  show decodeWord (RI.pack 0x12 f) = _
  rw [decodeWord, RI.major_pack, RI.ofWord_pack]; rfl
theorem andi (f : RI) : Statement (.andi f) := of_word <| by
  show decodeWord (RI.pack 0x13 f) = _
  rw [decodeWord, RI.major_pack, RI.ofWord_pack]; rfl
theorem ori (f : RI) : Statement (.ori f) := of_word <| by
  show decodeWord (RI.pack 0x14 f) = _
  rw [decodeWord, RI.major_pack, RI.ofWord_pack]; rfl
theorem xori (f : RI) : Statement (.xori f) := of_word <| by
  show decodeWord (RI.pack 0x15 f) = _
  rw [decodeWord, RI.major_pack, RI.ofWord_pack]; rfl
theorem li (f : RI) : Statement (.li f) := of_word <| by
  show decodeWord (RI.pack 0x16 f) = _
  rw [decodeWord, RI.major_pack, RI.ofWord_pack]; rfl
theorem lih (f : RI) : Statement (.lih f) := of_word <| by
  show decodeWord (RI.pack 0x17 f) = _
  rw [decodeWord, RI.major_pack, RI.ofWord_pack]; rfl
theorem cmpi (f : RI) : Statement (.cmpi f) := of_word <| by
  show decodeWord (RI.pack 0x18 f) = _
  rw [decodeWord, RI.major_pack, RI.ofWord_pack]; rfl
theorem shli (f : RI) : Statement (.shli f) := of_word <| by
  show decodeWord (RI.pack 0x19 f) = _
  rw [decodeWord, RI.major_pack, RI.ofWord_pack]; rfl
theorem shri (f : RI) : Statement (.shri f) := of_word <| by
  show decodeWord (RI.pack 0x1A f) = _
  rw [decodeWord, RI.major_pack, RI.ofWord_pack]; rfl
theorem srai (f : RI) : Statement (.srai f) := of_word <| by
  show decodeWord (RI.pack 0x1B f) = _
  rw [decodeWord, RI.major_pack, RI.ofWord_pack]; rfl
theorem fadd (f : RR) : Statement (.fadd f) := of_word <| by
  show decodeWord (RR.pack 0x20 0 f) = _
  rw [decodeWord, RR.major_pack, RR.func_pack, RR.ofWord_pack]; rfl
theorem fsub (f : RR) : Statement (.fsub f) := of_word <| by
  show decodeWord (RR.pack 0x20 1 f) = _
  rw [decodeWord, RR.major_pack, RR.func_pack, RR.ofWord_pack]; rfl
theorem fmul (f : RR) : Statement (.fmul f) := of_word <| by
  show decodeWord (RR.pack 0x20 2 f) = _
  rw [decodeWord, RR.major_pack, RR.func_pack, RR.ofWord_pack]; rfl
theorem fdiv (f : RR) : Statement (.fdiv f) := of_word <| by
  show decodeWord (RR.pack 0x20 3 f) = _
  rw [decodeWord, RR.major_pack, RR.func_pack, RR.ofWord_pack]; rfl
theorem fsqrt (f : RR) : Statement (.fsqrt f) := of_word <| by
  show decodeWord (RR.pack 0x20 4 f) = _
  rw [decodeWord, RR.major_pack, RR.func_pack, RR.ofWord_pack]; rfl
theorem fma (f : RR) : Statement (.fma f) := of_word <| by
  show decodeWord (RR.pack 0x20 5 f) = _
  rw [decodeWord, RR.major_pack, RR.func_pack, RR.ofWord_pack]; rfl
theorem fmin (f : RR) : Statement (.fmin f) := of_word <| by
  show decodeWord (RR.pack 0x20 6 f) = _
  rw [decodeWord, RR.major_pack, RR.func_pack, RR.ofWord_pack]; rfl
theorem fmax (f : RR) : Statement (.fmax f) := of_word <| by
  show decodeWord (RR.pack 0x20 7 f) = _
  rw [decodeWord, RR.major_pack, RR.func_pack, RR.ofWord_pack]; rfl
theorem fabs (f : RR) : Statement (.fabs f) := of_word <| by
  show decodeWord (RR.pack 0x20 8 f) = _
  rw [decodeWord, RR.major_pack, RR.func_pack, RR.ofWord_pack]; rfl
theorem fneg (f : RR) : Statement (.fneg f) := of_word <| by
  show decodeWord (RR.pack 0x20 9 f) = _
  rw [decodeWord, RR.major_pack, RR.func_pack, RR.ofWord_pack]; rfl
theorem fcmp (f : RR) : Statement (.fcmp f) := of_word <| by
  show decodeWord (RR.pack 0x20 10 f) = _
  rw [decodeWord, RR.major_pack, RR.func_pack, RR.ofWord_pack]; rfl
theorem fclass (f : RR) : Statement (.fclass f) := of_word <| by
  show decodeWord (RR.pack 0x20 11 f) = _
  rw [decodeWord, RR.major_pack, RR.func_pack, RR.ofWord_pack]; rfl
theorem fcvt (f : RR) : Statement (.fcvt f) := of_word <| by
  show decodeWord (RR.pack 0x20 12 f) = _
  rw [decodeWord, RR.major_pack, RR.func_pack, RR.ofWord_pack]; rfl
theorem ftoi (f : RR) : Statement (.ftoi f) := of_word <| by
  show decodeWord (RR.pack 0x20 13 f) = _
  rw [decodeWord, RR.major_pack, RR.func_pack, RR.ofWord_pack]; rfl
theorem itof (f : RR) : Statement (.itof f) := of_word <| by
  show decodeWord (RR.pack 0x20 14 f) = _
  rw [decodeWord, RR.major_pack, RR.func_pack, RR.ofWord_pack]; rfl
theorem vadd (f : RR) : Statement (.vadd f) := of_word <| by
  show decodeWord (RR.pack 0x30 0 f) = _
  rw [decodeWord, RR.major_pack, RR.func_pack, RR.ofWord_pack]; rfl
theorem vsub (f : RR) : Statement (.vsub f) := of_word <| by
  show decodeWord (RR.pack 0x30 1 f) = _
  rw [decodeWord, RR.major_pack, RR.func_pack, RR.ofWord_pack]; rfl
theorem vmul (f : RR) : Statement (.vmul f) := of_word <| by
  show decodeWord (RR.pack 0x30 2 f) = _
  rw [decodeWord, RR.major_pack, RR.func_pack, RR.ofWord_pack]; rfl
theorem vmulh (f : RR) : Statement (.vmulh f) := of_word <| by
  show decodeWord (RR.pack 0x30 3 f) = _
  rw [decodeWord, RR.major_pack, RR.func_pack, RR.ofWord_pack]; rfl
theorem vfma (f : RR) : Statement (.vfma f) := of_word <| by
  show decodeWord (RR.pack 0x30 4 f) = _
  rw [decodeWord, RR.major_pack, RR.func_pack, RR.ofWord_pack]; rfl
theorem vmin (f : RR) : Statement (.vmin f) := of_word <| by
  show decodeWord (RR.pack 0x30 5 f) = _
  rw [decodeWord, RR.major_pack, RR.func_pack, RR.ofWord_pack]; rfl
theorem vmax (f : RR) : Statement (.vmax f) := of_word <| by
  show decodeWord (RR.pack 0x30 6 f) = _
  rw [decodeWord, RR.major_pack, RR.func_pack, RR.ofWord_pack]; rfl
theorem vabs (f : RR) : Statement (.vabs f) := of_word <| by
  show decodeWord (RR.pack 0x30 7 f) = _
  rw [decodeWord, RR.major_pack, RR.func_pack, RR.ofWord_pack]; rfl
theorem vneg (f : RR) : Statement (.vneg f) := of_word <| by
  show decodeWord (RR.pack 0x30 8 f) = _
  rw [decodeWord, RR.major_pack, RR.func_pack, RR.ofWord_pack]; rfl
theorem vand (f : RR) : Statement (.vand f) := of_word <| by
  show decodeWord (RR.pack 0x30 9 f) = _
  rw [decodeWord, RR.major_pack, RR.func_pack, RR.ofWord_pack]; rfl
theorem vor (f : RR) : Statement (.vor f) := of_word <| by
  show decodeWord (RR.pack 0x30 10 f) = _
  rw [decodeWord, RR.major_pack, RR.func_pack, RR.ofWord_pack]; rfl
theorem vxor (f : RR) : Statement (.vxor f) := of_word <| by
  show decodeWord (RR.pack 0x30 11 f) = _
  rw [decodeWord, RR.major_pack, RR.func_pack, RR.ofWord_pack]; rfl
theorem vandn (f : RR) : Statement (.vandn f) := of_word <| by
  show decodeWord (RR.pack 0x30 12 f) = _
  rw [decodeWord, RR.major_pack, RR.func_pack, RR.ofWord_pack]; rfl
theorem vshl (f : RR) : Statement (.vshl f) := of_word <| by
  show decodeWord (RR.pack 0x30 13 f) = _
  rw [decodeWord, RR.major_pack, RR.func_pack, RR.ofWord_pack]; rfl
theorem vshr (f : RR) : Statement (.vshr f) := of_word <| by
  show decodeWord (RR.pack 0x30 14 f) = _
  rw [decodeWord, RR.major_pack, RR.func_pack, RR.ofWord_pack]; rfl
theorem vsra (f : RR) : Statement (.vsra f) := of_word <| by
  show decodeWord (RR.pack 0x30 15 f) = _
  rw [decodeWord, RR.major_pack, RR.func_pack, RR.ofWord_pack]; rfl
theorem vcmp (f : RR) : Statement (.vcmp f) := of_word <| by
  show decodeWord (RR.pack 0x30 16 f) = _
  rw [decodeWord, RR.major_pack, RR.func_pack, RR.ofWord_pack]; rfl
theorem vsel (f : RR) : Statement (.vsel f) := of_word <| by
  show decodeWord (RR.pack 0x30 17 f) = _
  rw [decodeWord, RR.major_pack, RR.func_pack, RR.ofWord_pack]; rfl
theorem vcvt (f : RR) : Statement (.vcvt f) := of_word <| by
  show decodeWord (RR.pack 0x30 18 f) = _
  rw [decodeWord, RR.major_pack, RR.func_pack, RR.ofWord_pack]; rfl
theorem vdiv (f : RR) : Statement (.vdiv f) := of_word <| by
  show decodeWord (RR.pack 0x30 19 f) = _
  rw [decodeWord, RR.major_pack, RR.func_pack, RR.ofWord_pack]; rfl
theorem vsqrt (f : RR) : Statement (.vsqrt f) := of_word <| by
  show decodeWord (RR.pack 0x30 20 f) = _
  rw [decodeWord, RR.major_pack, RR.func_pack, RR.ofWord_pack]; rfl
theorem vperm (f : RR) : Statement (.vperm f) := of_word <| by
  show decodeWord (RR.pack 0x31 0 f) = _
  rw [decodeWord, RR.major_pack, RR.func_pack, RR.ofWord_pack]; rfl
theorem vlut16 (f : RR) : Statement (.vlut16 f) := of_word <| by
  show decodeWord (RR.pack 0x31 1 f) = _
  rw [decodeWord, RR.major_pack, RR.func_pack, RR.ofWord_pack]; rfl
theorem vbcast (f : RR) : Statement (.vbcast f) := of_word <| by
  show decodeWord (RR.pack 0x31 2 f) = _
  rw [decodeWord, RR.major_pack, RR.func_pack, RR.ofWord_pack]; rfl
theorem vins (f : RR) : Statement (.vins f) := of_word <| by
  show decodeWord (RR.pack 0x31 3 f) = _
  rw [decodeWord, RR.major_pack, RR.func_pack, RR.ofWord_pack]; rfl
theorem vext (f : RR) : Statement (.vext f) := of_word <| by
  show decodeWord (RR.pack 0x31 4 f) = _
  rw [decodeWord, RR.major_pack, RR.func_pack, RR.ofWord_pack]; rfl
theorem vzip (f : RR) : Statement (.vzip f) := of_word <| by
  show decodeWord (RR.pack 0x31 5 f) = _
  rw [decodeWord, RR.major_pack, RR.func_pack, RR.ofWord_pack]; rfl
theorem vunzip (f : RR) : Statement (.vunzip f) := of_word <| by
  show decodeWord (RR.pack 0x31 6 f) = _
  rw [decodeWord, RR.major_pack, RR.func_pack, RR.ofWord_pack]; rfl
theorem vdot4 (f : RR) : Statement (.vdot4 f) := of_word <| by
  show decodeWord (RR.pack 0x32 0 f) = _
  rw [decodeWord, RR.major_pack, RR.func_pack, RR.ofWord_pack]; rfl
theorem vdot2 (f : RR) : Statement (.vdot2 f) := of_word <| by
  show decodeWord (RR.pack 0x32 1 f) = _
  rw [decodeWord, RR.major_pack, RR.func_pack, RR.ofWord_pack]; rfl
theorem vredAdd (f : RR) : Statement (.vredAdd f) := of_word <| by
  show decodeWord (RR.pack 0x32 2 f) = _
  rw [decodeWord, RR.major_pack, RR.func_pack, RR.ofWord_pack]; rfl
theorem vredMax (f : RR) : Statement (.vredMax f) := of_word <| by
  show decodeWord (RR.pack 0x32 3 f) = _
  rw [decodeWord, RR.major_pack, RR.func_pack, RR.ofWord_pack]; rfl
theorem vredMin (f : RR) : Statement (.vredMin f) := of_word <| by
  show decodeWord (RR.pack 0x32 4 f) = _
  rw [decodeWord, RR.major_pack, RR.func_pack, RR.ofWord_pack]; rfl
theorem kand (f : RR) : Statement (.kand f) := of_word <| by
  show decodeWord (RR.pack 0x33 0 f) = _
  rw [decodeWord, RR.major_pack, RR.func_pack, RR.ofWord_pack]; rfl
theorem kor (f : RR) : Statement (.kor f) := of_word <| by
  show decodeWord (RR.pack 0x33 1 f) = _
  rw [decodeWord, RR.major_pack, RR.func_pack, RR.ofWord_pack]; rfl
theorem kxor (f : RR) : Statement (.kxor f) := of_word <| by
  show decodeWord (RR.pack 0x33 2 f) = _
  rw [decodeWord, RR.major_pack, RR.func_pack, RR.ofWord_pack]; rfl
theorem knot (f : RR) : Statement (.knot f) := of_word <| by
  show decodeWord (RR.pack 0x33 3 f) = _
  rw [decodeWord, RR.major_pack, RR.func_pack, RR.ofWord_pack]; rfl
theorem kmov (f : RR) : Statement (.kmov f) := of_word <| by
  show decodeWord (RR.pack 0x33 4 f) = _
  rw [decodeWord, RR.major_pack, RR.func_pack, RR.ofWord_pack]; rfl
theorem kpop (f : RR) : Statement (.kpop f) := of_word <| by
  show decodeWord (RR.pack 0x33 5 f) = _
  rw [decodeWord, RR.major_pack, RR.func_pack, RR.ofWord_pack]; rfl
theorem kset (f : RR) : Statement (.kset f) := of_word <| by
  show decodeWord (RR.pack 0x33 6 f) = _
  rw [decodeWord, RR.major_pack, RR.func_pack, RR.ofWord_pack]; rfl
theorem krd (f : RR) : Statement (.krd f) := of_word <| by
  show decodeWord (RR.pack 0x33 7 f) = _
  rw [decodeWord, RR.major_pack, RR.func_pack, RR.ofWord_pack]; rfl
theorem seqBeg (f : RR) : Statement (.seqBeg f) := of_word <| by
  show decodeWord (RR.pack 0x34 0 f) = _
  rw [decodeWord, RR.major_pack, RR.func_pack, RR.ofWord_pack]; rfl
theorem seqLoop (f : RR) : Statement (.seqLoop f) := of_word <| by
  show decodeWord (RR.pack 0x34 1 f) = _
  rw [decodeWord, RR.major_pack, RR.func_pack, RR.ofWord_pack]; rfl
theorem seqEnd (f : RR) : Statement (.seqEnd f) := of_word <| by
  show decodeWord (RR.pack 0x34 2 f) = _
  rw [decodeWord, RR.major_pack, RR.func_pack, RR.ofWord_pack]; rfl
theorem seqWait (f : RR) : Statement (.seqWait f) := of_word <| by
  show decodeWord (RR.pack 0x34 3 f) = _
  rw [decodeWord, RR.major_pack, RR.func_pack, RR.ofWord_pack]; rfl
theorem ld (f : MF) : Statement (.ld f) := of_word <| by
  show decodeWord (MF.pack 0x40 f) = _
  rw [decodeWord, MF.major_pack, MF.ofWord_pack]; rfl
theorem ldu (f : MF) : Statement (.ldu f) := of_word <| by
  show decodeWord (MF.pack 0x41 f) = _
  rw [decodeWord, MF.major_pack, MF.ofWord_pack]; rfl
theorem ldAcq (f : MF) : Statement (.ldAcq f) := of_word <| by
  show decodeWord (MF.pack 0x42 f) = _
  rw [decodeWord, MF.major_pack, MF.ofWord_pack]; rfl
theorem vld (f : MF) : Statement (.vld f) := of_word <| by
  show decodeWord (MF.pack 0x43 f) = _
  rw [decodeWord, MF.major_pack, MF.ofWord_pack]; rfl
theorem vldRaw (f : MF) : Statement (.vldRaw f) := of_word <| by
  show decodeWord (MF.pack 0x44 f) = _
  rw [decodeWord, MF.major_pack, MF.ofWord_pack]; rfl
theorem st (f : MF) : Statement (.st f) := of_word <| by
  show decodeWord (MF.pack 0x45 f) = _
  rw [decodeWord, MF.major_pack, MF.ofWord_pack]; rfl
theorem stRel (f : MF) : Statement (.stRel f) := of_word <| by
  show decodeWord (MF.pack 0x46 f) = _
  rw [decodeWord, MF.major_pack, MF.ofWord_pack]; rfl
theorem vst (f : MF) : Statement (.vst f) := of_word <| by
  show decodeWord (MF.pack 0x47 f) = _
  rw [decodeWord, MF.major_pack, MF.ofWord_pack]; rfl
theorem ldF (f : MF) : Statement (.ldF f) := of_word <| by
  show decodeWord (MF.pack 0x48 f) = _
  rw [decodeWord, MF.major_pack, MF.ofWord_pack]; rfl
theorem ldFe (f : MF) : Statement (.ldFe f) := of_word <| by
  show decodeWord (MF.pack 0x49 f) = _
  rw [decodeWord, MF.major_pack, MF.ofWord_pack]; rfl
theorem stEf (f : MF) : Statement (.stEf f) := of_word <| by
  show decodeWord (MF.pack 0x4A f) = _
  rw [decodeWord, MF.major_pack, MF.ofWord_pack]; rfl
theorem stF (f : MF) : Statement (.stF f) := of_word <| by
  show decodeWord (MF.pack 0x4B f) = _
  rw [decodeWord, MF.major_pack, MF.ofWord_pack]; rfl
theorem tagSet (f : MF) : Statement (.tagSet f) := of_word <| by
  show decodeWord (MF.pack 0x4C f) = _
  rw [decodeWord, MF.major_pack, MF.ofWord_pack]; rfl
theorem tagClr (f : MF) : Statement (.tagClr f) := of_word <| by
  show decodeWord (MF.pack 0x4D f) = _
  rw [decodeWord, MF.major_pack, MF.ofWord_pack]; rfl
theorem pref (f : MF) : Statement (.pref f) := of_word <| by
  show decodeWord (MF.pack 0x4E f) = _
  rw [decodeWord, MF.major_pack, MF.ofWord_pack]; rfl
theorem flush (f : MF) : Statement (.flush f) := of_word <| by
  show decodeWord (MF.pack 0x4F f) = _
  rw [decodeWord, MF.major_pack, MF.ofWord_pack]; rfl
theorem inv (f : MF) : Statement (.inv f) := of_word <| by
  show decodeWord (MF.pack 0x50 f) = _
  rw [decodeWord, MF.major_pack, MF.ofWord_pack]; rfl
theorem amoAdd (f : MF) : Statement (.amoAdd f) := of_word <| by
  show decodeWord (MF.pack 0x58 f) = _
  rw [decodeWord, MF.major_pack, MF.ofWord_pack]; rfl
theorem amoAnd (f : MF) : Statement (.amoAnd f) := of_word <| by
  show decodeWord (MF.pack 0x59 f) = _
  rw [decodeWord, MF.major_pack, MF.ofWord_pack]; rfl
theorem amoOr (f : MF) : Statement (.amoOr f) := of_word <| by
  show decodeWord (MF.pack 0x5A f) = _
  rw [decodeWord, MF.major_pack, MF.ofWord_pack]; rfl
theorem amoXor (f : MF) : Statement (.amoXor f) := of_word <| by
  show decodeWord (MF.pack 0x5B f) = _
  rw [decodeWord, MF.major_pack, MF.ofWord_pack]; rfl
theorem amoMin (f : MF) : Statement (.amoMin f) := of_word <| by
  show decodeWord (MF.pack 0x5C f) = _
  rw [decodeWord, MF.major_pack, MF.ofWord_pack]; rfl
theorem amoMax (f : MF) : Statement (.amoMax f) := of_word <| by
  show decodeWord (MF.pack 0x5D f) = _
  rw [decodeWord, MF.major_pack, MF.ofWord_pack]; rfl
theorem amoMinu (f : MF) : Statement (.amoMinu f) := of_word <| by
  show decodeWord (MF.pack 0x5E f) = _
  rw [decodeWord, MF.major_pack, MF.ofWord_pack]; rfl
theorem amoMaxu (f : MF) : Statement (.amoMaxu f) := of_word <| by
  show decodeWord (MF.pack 0x5F f) = _
  rw [decodeWord, MF.major_pack, MF.ofWord_pack]; rfl
theorem amoSwap (f : MF) : Statement (.amoSwap f) := of_word <| by
  show decodeWord (MF.pack 0x60 f) = _
  rw [decodeWord, MF.major_pack, MF.ofWord_pack]; rfl
theorem amoCas (f : MF) : Statement (.amoCas f) := of_word <| by
  show decodeWord (MF.pack 0x61 f) = _
  rw [decodeWord, MF.major_pack, MF.ofWord_pack]; rfl
theorem redAdd (f : MF) : Statement (.redAdd f) := of_word <| by
  show decodeWord (MF.pack 0x62 f) = _
  rw [decodeWord, MF.major_pack, MF.ofWord_pack]; rfl
theorem redAnd (f : MF) : Statement (.redAnd f) := of_word <| by
  show decodeWord (MF.pack 0x63 f) = _
  rw [decodeWord, MF.major_pack, MF.ofWord_pack]; rfl
theorem redOr (f : MF) : Statement (.redOr f) := of_word <| by
  show decodeWord (MF.pack 0x64 f) = _
  rw [decodeWord, MF.major_pack, MF.ofWord_pack]; rfl
theorem redXor (f : MF) : Statement (.redXor f) := of_word <| by
  show decodeWord (MF.pack 0x65 f) = _
  rw [decodeWord, MF.major_pack, MF.ofWord_pack]; rfl
theorem redMin (f : MF) : Statement (.redMin f) := of_word <| by
  show decodeWord (MF.pack 0x66 f) = _
  rw [decodeWord, MF.major_pack, MF.ofWord_pack]; rfl
theorem redMax (f : MF) : Statement (.redMax f) := of_word <| by
  show decodeWord (MF.pack 0x67 f) = _
  rw [decodeWord, MF.major_pack, MF.ofWord_pack]; rfl
theorem redMinu (f : MF) : Statement (.redMinu f) := of_word <| by
  show decodeWord (MF.pack 0x68 f) = _
  rw [decodeWord, MF.major_pack, MF.ofWord_pack]; rfl
theorem redMaxu (f : MF) : Statement (.redMaxu f) := of_word <| by
  show decodeWord (MF.pack 0x69 f) = _
  rw [decodeWord, MF.major_pack, MF.ofWord_pack]; rfl
theorem fence (f : MF) : Statement (.fence f) := of_word <| by
  show decodeWord (MF.pack 0x70 f) = _
  rw [decodeWord, MF.major_pack, MF.ofWord_pack]; rfl
theorem fenceAcq (f : MF) : Statement (.fenceAcq f) := of_word <| by
  show decodeWord (MF.pack 0x71 f) = _
  rw [decodeWord, MF.major_pack, MF.ofWord_pack]; rfl
theorem fenceRel (f : MF) : Statement (.fenceRel f) := of_word <| by
  show decodeWord (MF.pack 0x72 f) = _
  rw [decodeWord, MF.major_pack, MF.ofWord_pack]; rfl
theorem wait (f : RI) : Statement (.wait f) := of_word <| by
  show decodeWord (RI.pack 0x73 f) = _
  rw [decodeWord, RI.major_pack, RI.ofWord_pack]; rfl
theorem waita (f : MF) : Statement (.waita f) := of_word <| by
  show decodeWord (MF.pack 0x74 f) = _
  rw [decodeWord, MF.major_pack, MF.ofWord_pack]; rfl
theorem semP (f : RR) : Statement (.semP f) := of_word <| by
  show decodeWord (RR.pack 0x75 0 f) = _
  rw [decodeWord, RR.major_pack, RR.func_pack, RR.ofWord_pack]; rfl
theorem semV (f : RR) : Statement (.semV f) := of_word <| by
  show decodeWord (RR.pack 0x75 1 f) = _
  rw [decodeWord, RR.major_pack, RR.func_pack, RR.ofWord_pack]; rfl
theorem semRd (f : RR) : Statement (.semRd f) := of_word <| by
  show decodeWord (RR.pack 0x75 2 f) = _
  rw [decodeWord, RR.major_pack, RR.func_pack, RR.ofWord_pack]; rfl
theorem bar (f : RR) : Statement (.bar f) := of_word <| by
  show decodeWord (RR.pack 0x76 0 f) = _
  rw [decodeWord, RR.major_pack, RR.func_pack, RR.ofWord_pack]; rfl
theorem copy (f : RR) : Statement (.copy f) := of_word <| by
  show decodeWord (RR.pack 0x78 0 f) = _
  rw [decodeWord, RR.major_pack, RR.func_pack, RR.ofWord_pack]; rfl
theorem copy2 (f : RR) : Statement (.copy2 f) := of_word <| by
  show decodeWord (RR.pack 0x78 1 f) = _
  rw [decodeWord, RR.major_pack, RR.func_pack, RR.ofWord_pack]; rfl
theorem get (f : RR) : Statement (.get f) := of_word <| by
  show decodeWord (RR.pack 0x78 2 f) = _
  rw [decodeWord, RR.major_pack, RR.func_pack, RR.ofWord_pack]; rfl
theorem put (f : RR) : Statement (.put f) := of_word <| by
  show decodeWord (RR.pack 0x78 3 f) = _
  rw [decodeWord, RR.major_pack, RR.func_pack, RR.ofWord_pack]; rfl
theorem puta (f : RR) : Statement (.puta f) := of_word <| by
  show decodeWord (RR.pack 0x78 4 f) = _
  rw [decodeWord, RR.major_pack, RR.func_pack, RR.ofWord_pack]; rfl
theorem wsig (f : RR) : Statement (.wsig f) := of_word <| by
  show decodeWord (RR.pack 0x78 5 f) = _
  rw [decodeWord, RR.major_pack, RR.func_pack, RR.ofWord_pack]; rfl
theorem digest (f : RR) : Statement (.digest f) := of_word <| by
  show decodeWord (RR.pack 0x78 6 f) = _
  rw [decodeWord, RR.major_pack, RR.func_pack, RR.ofWord_pack]; rfl
theorem ccntRd (f : RR) : Statement (.ccntRd f) := of_word <| by
  show decodeWord (RR.pack 0x79 0 f) = _
  rw [decodeWord, RR.major_pack, RR.func_pack, RR.ofWord_pack]; rfl
theorem ccntWait (f : RR) : Statement (.ccntWait f) := of_word <| by
  show decodeWord (RR.pack 0x79 1 f) = _
  rw [decodeWord, RR.major_pack, RR.func_pack, RR.ofWord_pack]; rfl
theorem collStart (f : RR) : Statement (.collStart f) := of_word <| by
  show decodeWord (RR.pack 0x7A 0 f) = _
  rw [decodeWord, RR.major_pack, RR.func_pack, RR.ofWord_pack]; rfl
theorem collWait (f : RR) : Statement (.collWait f) := of_word <| by
  show decodeWord (RR.pack 0x7A 1 f) = _
  rw [decodeWord, RR.major_pack, RR.func_pack, RR.ofWord_pack]; rfl
theorem buoy (f : RR) : Statement (.buoy f) := of_word <| by
  show decodeWord (RR.pack 0x7C 0 f) = _
  rw [decodeWord, RR.major_pack, RR.func_pack, RR.ofWord_pack]; rfl
theorem buoySeal (f : RR) : Statement (.buoySeal f) := of_word <| by
  show decodeWord (RR.pack 0x7C 1 f) = _
  rw [decodeWord, RR.major_pack, RR.func_pack, RR.ofWord_pack]; rfl
theorem lhSt (f : RR) : Statement (.lhSt f) := of_word <| by
  show decodeWord (RR.pack 0x7C 2 f) = _
  rw [decodeWord, RR.major_pack, RR.func_pack, RR.ofWord_pack]; rfl
theorem tzero (f : TF) : Statement (.tzero f) := of_word <| by
  show decodeWord (TF.pack 0x80 0 f) = _
  rw [decodeWord, TF.major_pack, TF.func_pack, TF.ofWord_pack]; rfl
theorem tmma (f : TF) : Statement (.tmma f) := of_word <| by
  show decodeWord (TF.pack 0x80 1 f) = _
  rw [decodeWord, TF.major_pack, TF.func_pack, TF.ofWord_pack]; rfl
theorem gmma (f : TF) : Statement (.gmma f) := of_word <| by
  show decodeWord (TF.pack 0x80 2 f) = _
  rw [decodeWord, TF.major_pack, TF.func_pack, TF.ofWord_pack]; rfl
theorem tdrain (f : TF) : Statement (.tdrain f) := of_word <| by
  show decodeWord (TF.pack 0x80 3 f) = _
  rw [decodeWord, TF.major_pack, TF.func_pack, TF.ofWord_pack]; rfl
theorem tdrainColl (f : TF) : Statement (.tdrainColl f) := of_word <| by
  show decodeWord (TF.pack 0x80 4 f) = _
  rw [decodeWord, TF.major_pack, TF.func_pack, TF.ofWord_pack]; rfl
theorem zset (f : TF) : Statement (.zset f) := of_word <| by
  show decodeWord (TF.pack 0x80 5 f) = _
  rw [decodeWord, TF.major_pack, TF.func_pack, TF.ofWord_pack]; rfl
theorem zclr (f : TF) : Statement (.zclr f) := of_word <| by
  show decodeWord (TF.pack 0x80 6 f) = _
  rw [decodeWord, TF.major_pack, TF.func_pack, TF.ofWord_pack]; rfl
theorem cvtT (f : RR) : Statement (.cvtT f) := of_word <| by
  show decodeWord (RR.pack 0x81 0 f) = _
  rw [decodeWord, RR.major_pack, RR.func_pack, RR.ofWord_pack]; rfl
theorem amaxRd (f : RR) : Statement (.amaxRd f) := of_word <| by
  show decodeWord (RR.pack 0x81 1 f) = _
  rw [decodeWord, RR.major_pack, RR.func_pack, RR.ofWord_pack]; rfl
theorem amaxClr (f : RR) : Statement (.amaxClr f) := of_word <| by
  show decodeWord (RR.pack 0x81 2 f) = _
  rw [decodeWord, RR.major_pack, RR.func_pack, RR.ofWord_pack]; rfl
theorem cbkLd (f : RR) : Statement (.cbkLd f) := of_word <| by
  show decodeWord (RR.pack 0x82 0 f) = _
  rw [decodeWord, RR.major_pack, RR.func_pack, RR.ofWord_pack]; rfl
theorem cbkRd (f : RR) : Statement (.cbkRd f) := of_word <| by
  show decodeWord (RR.pack 0x82 1 f) = _
  rw [decodeWord, RR.major_pack, RR.func_pack, RR.ofWord_pack]; rfl
theorem gmCfg (f : RR) : Statement (.gmCfg f) := of_word <| by
  show decodeWord (RR.pack 0x83 0 f) = _
  rw [decodeWord, RR.major_pack, RR.func_pack, RR.ofWord_pack]; rfl
theorem gmStep (f : RR) : Statement (.gmStep f) := of_word <| by
  show decodeWord (RR.pack 0x83 1 f) = _
  rw [decodeWord, RR.major_pack, RR.func_pack, RR.ofWord_pack]; rfl
theorem gmMask (f : RR) : Statement (.gmMask f) := of_word <| by
  show decodeWord (RR.pack 0x83 2 f) = _
  rw [decodeWord, RR.major_pack, RR.func_pack, RR.ofWord_pack]; rfl
theorem gmForce (f : RR) : Statement (.gmForce f) := of_word <| by
  show decodeWord (RR.pack 0x83 3 f) = _
  rw [decodeWord, RR.major_pack, RR.func_pack, RR.ofWord_pack]; rfl
theorem gmReset (f : RR) : Statement (.gmReset f) := of_word <| by
  show decodeWord (RR.pack 0x83 4 f) = _
  rw [decodeWord, RR.major_pack, RR.func_pack, RR.ofWord_pack]; rfl
theorem gmSt (f : RR) : Statement (.gmSt f) := of_word <| by
  show decodeWord (RR.pack 0x83 5 f) = _
  rw [decodeWord, RR.major_pack, RR.func_pack, RR.ofWord_pack]; rfl
theorem swr (f : SF) : Statement (.swr f) := fun hw => by
  refine of_word ?_ hw
  have h : isCodeBound f.sreg = false := by simpa [isCodeBound] using hw.2
  show decodeWord (SF.pack 0x07 f) = _
  rw [decodeWord, SF.major_pack, SF.sreg_pack, SF.ofWord_pack, h]; rfl
theorem swrCodeBounds (f : SF) : Statement (.swrCodeBounds f) := fun hw => by
  refine of_word ?_ hw
  have h : isCodeBound f.sreg = true := by
    have := firstFail_none hw.1 (decide (f.sreg = 0x010 || f.sreg = 0x011), .sreg) (by simp [wfChecks])
    simpa [isCodeBound] using this
  show decodeWord (SF.pack 0x07 f) = _
  rw [decodeWord, SF.major_pack, SF.sreg_pack, SF.ofWord_pack, h]; rfl
theorem unassignedEncoding (w : Word) : Statement (.unassignedEncoding w) := of_ill rfl
theorem seqRepetition (core : Nat) : Statement (.seqRepetition core) := of_ill rfl
theorem barrierEpisodeComplete (gang : Nat) : Statement (.barrierEpisodeComplete gang) := of_ill rfl
theorem collectiveComplete (coll : Nat) : Statement (.collectiveComplete coll) := of_ill rfl
theorem gmmaJoin (gang row : Nat) : Statement (.gmmaJoin gang row) := of_ill rfl
theorem tileOpRetire (core : Nat) : Statement (.tileOpRetire core) := of_ill rfl
theorem cvtRetire (core : Nat) : Statement (.cvtRetire core) := of_ill rfl
theorem blockEnd (ctx : Nat) : Statement (.blockEnd ctx) := of_ill rfl
theorem contextRetirement (ctx : Nat) : Statement (.contextRetirement ctx) := of_ill rfl
theorem coreHalted (core : Nat) : Statement (.coreHalted core) := of_ill rfl
theorem sleepWake (ctx : Nat) : Statement (.sleepWake ctx) := of_ill rfl
theorem messageAccept (core n : Nat) : Statement (.messageAccept core n) := of_ill rfl
theorem pinRevocation (gang table : Nat) : Statement (.pinRevocation gang table) := of_ill rfl
theorem yardBackgroundInvalidate (core table : Nat) : Statement (.yardBackgroundInvalidate core table) := of_ill rfl
theorem perform (ctx op : Nat) : Statement (.perform ctx op) := of_ill rfl
theorem propagate (write quarter : Nat) : Statement (.propagate write quarter) := of_ill rfl
theorem apply (write quarter : Nat) : Statement (.apply write quarter) := of_ill rfl
theorem read (ctx op part : Nat) : Statement (.read ctx op part) := of_ill rfl
theorem atomic (ctx op : Nat) : Statement (.atomic ctx op) := of_ill rfl
theorem reduce (ctx op : Nat) : Statement (.reduce ctx op) := of_ill rfl
theorem merge (line : Nat) : Statement (.merge line) := of_ill rfl
theorem engineStep (op unit : Nat) : Statement (.engineStep op unit) := of_ill rfl
theorem flag (op : Nat) : Statement (.flag op) := of_ill rfl
theorem durable (write copy : Nat) : Statement (.durable write copy) := of_ill rfl
theorem lineMigration (line : Nat) : Statement (.lineMigration line) := of_ill rfl
theorem durableWriteback (line : Nat) : Statement (.durableWriteback line) := of_ill rfl
theorem pageWalk (core : Nat) (page : WalkedPage) (sup : Bool) : Statement (.pageWalk core page sup) := of_ill rfl
theorem faultRecordWrite (vf referral : Nat) : Statement (.faultRecordWrite vf referral) := of_ill rfl
theorem referralResponse (vf slot : Nat) : Statement (.referralResponse vf slot) := of_ill rfl
theorem checkerMismatch (ctx : Nat) : Statement (.checkerMismatch ctx) := of_ill rfl
theorem checksumMismatch (core : Nat) : Statement (.checksumMismatch core) := of_ill rfl
theorem poisonConsumed (ctx : Nat) : Statement (.poisonConsumed ctx) := of_ill rfl
theorem containment (core cause : Nat) : Statement (.containment core cause) := of_ill rfl
theorem selfTestComplete (core : Nat) : Statement (.selfTestComplete core) := of_ill rfl
theorem coreRestart (core : Nat) : Statement (.coreRestart core) := of_ill rfl
theorem sweep (loc : Nat) (hard : Bool) : Statement (.sweep loc hard) := of_ill rfl
theorem eccReencode (line : Nat) : Statement (.eccReencode line) := of_ill rfl
theorem packageReset : Statement (.packageReset) := of_ill rfl
theorem dieReset (quarter : Nat) : Statement (.dieReset quarter) := of_ill rfl
theorem dieReturn (quarter : Nat) : Statement (.dieReturn quarter) := of_ill rfl
theorem masterHandover : Statement (.masterHandover) := of_ill rfl
theorem lighthouseOutOfService (quarter : Nat) : Statement (.lighthouseOutOfService quarter) := of_ill rfl
theorem lighthouseReturn (quarter : Nat) : Statement (.lighthouseReturn quarter) := of_ill rfl
theorem lighthouseResyncEnd (quarter : Nat) : Statement (.lighthouseResyncEnd quarter) := of_ill rfl
theorem capSelectChange (sel : BitVec 2) : Statement (.capSelectChange sel) := of_ill rfl
theorem arbiterEvaluate : Statement (.arbiterEvaluate) := of_ill rfl
theorem deferredEvaluation : Statement (.deferredEvaluation) := of_ill rfl
theorem clockTransitionEnd : Statement (.clockTransitionEnd) := of_ill rfl
theorem energyCharge : Statement (.energyCharge) := of_ill rfl
theorem periodRefill (vfq : Nat) : Statement (.periodRefill vfq) := of_ill rfl
theorem launch (p : Packet) : Statement (.launch p) := of_ill rfl
theorem load (p : Packet) : Statement (.load p) := of_ill rfl
theorem unload (p : Packet) : Statement (.unload p) := of_ill rfl
theorem stopCommand (p : Packet) : Statement (.stopCommand p) := of_ill rfl
theorem query (p : Packet) : Statement (.query p) := of_ill rfl
theorem gangReady (gang : Nat) : Statement (.gangReady gang) := of_ill rfl
theorem gangPlace (vf : Nat) : Statement (.gangPlace vf) := of_ill rfl
theorem gangRelease (gang : Nat) : Statement (.gangRelease gang) := of_ill rfl
theorem gangSwitchDecide (gang : Nat) : Statement (.gangSwitchDecide gang) := of_ill rfl
theorem sliceExpiry (gang : Nat) : Statement (.sliceExpiry gang) := of_ill rfl
theorem switchStop (gang : Nat) : Statement (.switchStop gang) := of_ill rfl
theorem saveComplete (gang : Nat) : Statement (.saveComplete gang) := of_ill rfl
theorem restoreRelease (gang : Nat) : Statement (.restoreRelease gang) := of_ill rfl
theorem gangComplete (gang : Nat) : Statement (.gangComplete gang) := of_ill rfl
theorem ident (m : Mgmt) (sel : Byte) : Statement (.ident m sel) := of_ill rfl
theorem attest (m : Mgmt) (nonce : List Byte) : Statement (.attest m nonce) := of_ill rfl
theorem bind (m : Mgmt) (b : BindBody) : Statement (.bind m b) := of_ill rfl
theorem paddock (m : Mgmt) (r : Option Rect) : Statement (.paddock m r) := of_ill rfl
theorem vfcfg (m : Mgmt) (c : VfCfg) : Statement (.vfcfg m c) := of_ill rfl
theorem vfreset (m : Mgmt) (release : Bool) : Statement (.vfreset m release) := of_ill rfl
theorem shedScrub (shed : Nat) : Statement (.shedScrub shed) := of_ill rfl
theorem migrate (m : Mgmt) (phase : Nat) : Statement (.migrate m phase) := of_ill rfl
theorem tables (m : Mgmt) (t : TablesBody) : Statement (.tables m t) := of_ill rfl
theorem fwstage (m : Mgmt) (f : FwImage) : Statement (.fwstage m f) := of_ill rfl
theorem fwact (m : Mgmt) (force : Byte) : Statement (.fwact m force) := of_ill rfl
theorem errlog (m : Mgmt) : Statement (.errlog m) := of_ill rfl
theorem layup (m : Mgmt) (b : LayupBody) : Statement (.layup m b) := of_ill rfl
theorem layupRestore (m : Mgmt) (b : LayupBody) : Statement (.layupRestore m b) := of_ill rfl
theorem unknownOpc (p : Packet) (opc : Byte) : Statement (.unknownOpc p opc) := of_ill rfl
theorem droppedPacket (port : Nat) : Statement (.droppedPacket port) := of_ill rfl

end Sys2Proof.Laws.RoundTrip
end

