-- ==== Sys2Proof/Tests/Slice0.lean ====
section
/-! SUPPORT. The model's own tests: ill-formed words, words from the spec's encoding tables, single steps on small states, and states
that meet the hypotheses of the claims. -/
namespace Sys2Proof.Tests
open Sys2Proof Sys2Proof.Machine

/-! ## Ill-formed words are refused, for each reason (R8, R26 to R38, R50 to R52) -/

def rr : RR := { d := 1, a := 2, b := 3, c := 0, k := 0, kn := 0, ty := 6, rnd := 0, sat := 0, moda := 0, modb := 0, narrow := 0 }
def mf : MF := { d := 1, a := 2, b := 0, c := 0, k := 0, kn := 0, scope := 0, hint := 0, size := 3, off := 0 }
def tf : TF := { d := 0, a := 0, b := 0, c := 0, k := 0, kn := 0, zp := 0, zen := 0, atype := 0, btype := 0, acc := 0, lo := 0 }
def xf : XF := { d := 0, a := 1, b := 0, c := 0, k := 0, kn := 0, dx := 0, dy := 0, role := 0, midx := 0, preg := 0, lo := 0 }

theorem test_reserved_register_field : WellFormed.check (.add { rr with c := 4 }) = some .reserved := by decide
theorem test_high_register_bits : WellFormed.check (.cmp { rr with d := 4 }) = some .regHigh := by decide
theorem test_type_not_taken : WellFormed.check (.add { rr with ty := 10 }) = some .type := by decide
theorem test_rounding_not_taken : WellFormed.check (.fadd { rr with ty := 10, rnd := 5 }) = some .rounding := by decide
theorem test_saturation_not_taken : WellFormed.check (.mulh { rr with sat := 1 }) = some .saturation := by decide
theorem test_modifier_not_live : WellFormed.check (.add { rr with moda := 8 }) = some .reserved := by decide
theorem test_modifier_too_wide : WellFormed.check (.vadd { rr with ty := 0, moda := 24 }) = some .modifier := by decide
theorem test_narrow_group_too_high : WellFormed.check (.vadd { rr with ty := 4, narrow := 10 }) = some .narrow := by decide
theorem test_scope_not_taken : WellFormed.check (.ld { mf with scope := 1 }) = some .scope := by decide
theorem test_hint_not_taken : WellFormed.check (.waita { mf with hint := 1 }) = some .hint := by decide
theorem test_size_not_taken : WellFormed.check (.ld { mf with size := 4 }) = some .size := by decide
theorem test_predicate_without_enable : WellFormed.check (.tzero { tf with zp := 1 }) = some .tilePredicate := by decide
theorem test_tile_types_of_two_classes : WellFormed.check (.tmma { tf with atype := 1, btype := 3 }) = some .tileType := by decide
theorem test_place_role_three : WellFormed.check (.sendr { xf with role := 3 }) = some .place := by decide
theorem test_shift_immediate_64 :
    WellFormed.check (.shli { d := 1, a := 2, b := 0, c := 0, k := 0, kn := 0, imm := 64 }) = some .immediate := by decide
theorem test_sreg_unassigned :
    WellFormed.check (.srd { d := 1, a := 0, b := 0, c := 0, k := 0, kn := 0, hi := 0, sreg := 0x006 }) = some .sreg := by decide
theorem test_gm_mask_destination : WellFormed.check (.gmMask { rr with d := 2, b := 0, ty := 0 }) = some .limit := by decide
theorem test_unassigned_word : WellFormed.check (decodeWord 0) = some .unassigned := by decide
theorem test_event_is_no_word : WellFormed.check (.blockEnd 0) = some .event := by decide
theorem test_short_bytes_refused : ∃ e, decode [0x00, 0x00, 0x00, 0x00, 0x00, 0x00, 0x10] = .error e := ⟨_, rfl⟩

/-! ## Words from the spec's tables decode to their instructions -/

/-- `yard.we x4, x1, x2, x3`: major 0x01, FUNC 0 (R28, R56). -/
theorem test_decode_yard_we : decodeWord (0x01#8 ++ 4#5 ++ 1#5 ++ 2#5 ++ 3#5 ++ 0#3 ++ 0#1 ++ 0#6 ++ 0#4 ++ 0#3 ++ 0#1 ++ 0#6 ++ 0#6 ++ 0#6) =
    .yardWe { rr with d := 4, a := 1, b := 2, c := 3, ty := 0 } := by decide
/-- `eret`, the word that R352 prints. -/
theorem test_decode_eret : decodeWord 0x0800000000000000 = .eret { rr with d := 0, a := 0, b := 0, ty := 0 } := by decide
/-- `sendr` to offset (-1, 2), role 1, mailbox 5: dx, dy, role, midx, preg (R38, R56). -/
theorem test_decode_sendr :
    decodeWord (0x03#8 ++ 0#5 ++ 7#5 ++ 0#5 ++ 0#5 ++ 0#3 ++ 0#1 ++ 0x3F#6 ++ 2#6 ++ 1#2 ++ 5#5 ++ 0#1 ++ 0#4 ++ 0#8) =
    .sendr { xf with a := 7, dx := 0x3F, dy := 2, role := 1, midx := 5 } := by decide
/-- `swr 0x010, x3`: a code bound is its own row (R39, R49). -/
theorem test_decode_swr_code_bound : decodeWord (0x07#8 ++ 0#5 ++ 3#5 ++ 0#5 ++ 0#5 ++ 0#3 ++ 0#1 ++ 0#20 ++ 0x010#12) =
    .swrCodeBounds { d := 0, a := 3, b := 0, c := 0, k := 0, kn := 0, hi := 0, sreg := 0x010 } := by decide
/-- `sub.si32 x1, x2, x3`: major 0x10, FUNC 1, TYPE 4 (R28, R57). -/
theorem test_decode_sub : decodeWord (0x10#8 ++ 1#5 ++ 2#5 ++ 3#5 ++ 0#5 ++ 0#3 ++ 0#1 ++ 1#6 ++ 4#4 ++ 0#3 ++ 0#1 ++ 0#6 ++ 0#6 ++ 0#6) =
    .sub { rr with ty := 4 } := by decide
/-- `fma.f32 x1, x2, x3, x4`: major 0x20, FUNC 5, TYPE 10 (R57). -/
theorem test_decode_fma : decodeWord (0x20#8 ++ 1#5 ++ 2#5 ++ 3#5 ++ 4#5 ++ 0#3 ++ 0#1 ++ 5#6 ++ 10#4 ++ 0#3 ++ 0#1 ++ 0#6 ++ 0#6 ++ 0#6) =
    .fma { rr with c := 4, ty := 10 } := by decide
/-- `vcvt`, `vlut16` and `vdot4`, words that the spec prints. -/
theorem test_decode_vector_words :
    (∃ f, decodeWord 0x300880A04A400000 = .vcvt f ∧ f.d = 1 ∧ f.a = 2 ∧ f.c = 10 ∧ f.ty = 9) ∧
    (∃ f, decodeWord 0x313A12A006400040 = .vlut16 f ∧ f.d = 7 ∧ f.a = 8) ∧
    (∃ f, decodeWord 0x32214C4001018800 = .vdot4 f ∧ f.d = 4 ∧ f.a = 5 ∧ f.b = 6 ∧ f.c = 4 ∧ f.ty = 4) :=
  ⟨⟨_, rfl, by decide⟩, ⟨_, rfl, by decide⟩, ⟨_, rfl, by decide⟩⟩
/-- `ld.d`, `ld.acq`, `st.rel`, `vld`, `ld.fe`, `st.f` and `tag.clr`, words that the spec prints. -/
theorem test_decode_memory_words :
    (∃ f, decodeWord 0x4021400003000010 = .ld f ∧ f.d = 4 ∧ f.a = 5 ∧ f.size = 3 ∧ f.off = 16) ∧
    (∃ f, decodeWord 0x424A000063000000 = .ldAcq f ∧ f.d = 9 ∧ f.a = 8 ∧ f.scope = 3) ∧
    (∃ f, decodeWord 0x4602160063000000 = .stRel f ∧ f.a = 8 ∧ f.b = 11 ∧ f.scope = 3) ∧
    (∃ f, decodeWord 0x4321400204000020 = .vld f ∧ f.d = 4 ∧ f.a = 5 ∧ f.k = 1 ∧ f.off = 32) ∧
    (∃ f, decodeWord 0x494A000003000000 = .ldFe f ∧ f.d = 9 ∧ f.a = 8) ∧
    (∃ f, decodeWord 0x4B02160003000000 = .stF f ∧ f.a = 8 ∧ f.b = 11) ∧
    (∃ f, decodeWord 0x4D02000003000000 = .tagClr f ∧ f.a = 8) :=
  ⟨⟨_, rfl, by decide⟩, ⟨_, rfl, by decide⟩, ⟨_, rfl, by decide⟩, ⟨_, rfl, by decide⟩, ⟨_, rfl, by decide⟩, ⟨_, rfl, by decide⟩,
    ⟨_, rfl, by decide⟩⟩

/-! ## Small states -/

/-- Function 0 with a range of general memory and a durable range, key slot 5 and an arena window. -/
def cfg : VfCfg where
  uroot := some 0
  sroot := some 0
  grant := [{ base := 0, len := 0x1000000, dur := false }, { base := 0x3000000000, len := 0x100000, dur := true }]
  keys := [5]
  arenaKey := 5
  abase := 0
  asize := 0x100000
  peers := []
  spBase := 0x800000
  spSize := 0x800000
  spKey := 5
  supQueue := none
  slice := 2000
  inject := true
/-- The leaf of a general page at 0x100000 and of a durable one, mapped at 0x10000 and 0x20000 (R333). -/
def leaf : Word := 0xC0A1800000100000
def durLeaf : Word := 0xC0B1803000000000
def entries : List TlbEntry :=
  [{ vf := 0, sup := false, base := 0x10000, size := 0x10000, w0 := leaf, w1 := 0 },
   { vf := 0, sup := false, base := 0x20000, size := 0x10000, w0 := durLeaf, w1 := 0 }]
/-- One resident gang on shed 0, and the control context of its core of a role issuing the one instruction of a block. -/
def st (role : Nat) : State := { State.reset with
  cur := 11 * role
  gangs := [(1, { Gang.reset with state := .resident })]
  sheds := [(0, { Shed.reset with gang := some 1 })]
  vfs := [(0, { Vf.reset with cfg := some cfg })]
  cores := [(role, { Core.reset with tlb := entries })]
  ctxs := [(11 * role, { Ctx.reset with mode := .ready, pc := 0x1000, hdr := 0xFE0100F8F8F8F800, cbound := 0x1000, inBound := 0x1000 })] }
/-- The same with x2 set. -/
def st2 (role : Nat) (w : Word) : State := (st role).wx 2 w
/-- First address of the scratchpad window, and of the two pages. -/
def pad : Word := BitVec.ofNat 64 Config.padWindow
def fits (role : Nat) (w : Word) : Bool := decide ((st role).issueTrap (decodeWord w) = none ∧ (st role).me.mismatch = 0 ∧ (st role).me.replay = false)
theorem fits_fit {role : Nat} {w : Word} (h : fits role w = true) : (st role).Fit (decodeWord w) := by
  simpa [fits, State.Fit] using h

/-! ## Every instruction word has a state that it passes the checks of R52 in -/

/-- halt, yield, yardUnpin, yardWf, yardCmt, yardRd, yardPin, yardGen, yardWe, stop, hlive, start, startTry, sendr, sendrV, mclr, mtake, mpeek, clkRd, clkReq, clkAck, pwrRd, srd, swr, swrCodeBounds, eret. -/
theorem witness_fit_control_1 : ∀ p ∈ ([
    (0, 0x0100000020000000), (0, 0x0100000024000000), (0, 0x0100800014000000), (0, 0x0108800004000000), (0,
    0x0108800008000000), (0, 0x010880000C000000), (0, 0x0108800010000000), (0, 0x0108800018000000), (0,
    0x0108864000000000), (0, 0x0200800008000000), (0, 0x020800000C000000), (0, 0x0208864000000000), (0,
    0x0208864004000000), (0, 0x0300800000000000), (0, 0x0300800000000100), (0, 0x0400800008000000), (0,
    0x0408800000000000), (0, 0x0408800004000000), (0, 0x0508800000000000), (0, 0x0508800004000000), (0,
    0x0508800008000000), (0, 0x050880000C000000), (0, 0x0608000000000000), (0, 0x0700800000000000), (0,
    0x0700800000000010), (0, 0x0800000000000000)] :
    List (Nat × Word)), fits p.1 p.2 = true := by decide

/-- eccInj, trap, icinv, tlbinv. -/
theorem witness_fit_control_2 : ∀ p ∈ ([
    (0, 0x0800860004000000), (0, 0x0900000000000000), (0, 0x0A00860020000000), (0, 0x0B00860020000000)] :
    List (Nat × Word)), fits p.1 p.2 = true := by decide

/-- abs, neg, clz, ctz, popc, mov, add, sub, mul, mulh, div, rem, and, or, xor, andn, shl, shr, sra, rol, min, max, bfx, bfi, lea, setc. -/
theorem witness_fit_scalar_integer_1 : ∀ p ∈ ([
    (0, 0x1008800040000000), (0, 0x1008800044000000), (0, 0x1008800048000000), (0, 0x100880004C000000), (0,
    0x1008800050000000), (0, 0x1008800060000000), (0, 0x1008860000000000), (0, 0x1008860004000000), (0,
    0x1008860008000000), (0, 0x100886000C000000), (0, 0x1008860010000000), (0, 0x1008860014000000), (0,
    0x1008860018000000), (0, 0x100886001C000000), (0, 0x1008860020000000), (0, 0x1008860024000000), (0,
    0x1008860028000000), (0, 0x100886002C000000), (0, 0x1008860030000000), (0, 0x1008860034000000), (0,
    0x1008860038000000), (0, 0x100886003C000000), (0, 0x1008860055800000), (0, 0x1008864059800000), (0,
    0x100886405C000000), (0, 0x1108000008000000)] :
    List (Nat × Word)), fits p.1 p.2 = true := by decide

/-- decz, cmp, csel, addi, andi, ori, xori, li, lih, cmpi, shli, shri, srai. -/
theorem witness_fit_scalar_integer_2 : ∀ p ∈ ([
    (0, 0x110880000C000000), (0, 0x1108860000000000), (0, 0x1108860004000000), (0, 0x1208800000000000), (0,
    0x1308800000000000), (0, 0x1408800000000000), (0, 0x1508800000000000), (0, 0x1608000000000000), (0,
    0x1708800000000000), (0, 0x1808800000000000), (0, 0x1908800000000000), (0, 0x1A08800000000000), (0,
    0x1B08800000000000)] :
    List (Nat × Word)), fits p.1 p.2 = true := by decide

/-- fsqrt, fabs, fneg, fclass, itof, fcvt, ftoi, fadd, fsub, fmul, fdiv, fmin, fmax, fcmp, fma. -/
theorem witness_fit_scalar_float : ∀ p ∈ ([
    (0, 0x2008800012800000), (0, 0x2008800022800000), (0, 0x2008800026800000), (0, 0x200880002E800000), (0,
    0x200880003A800000), (0, 0x200880A032000000), (0, 0x200880A034000000), (0, 0x2008860002800000), (0,
    0x2008860006800000), (0, 0x200886000A800000), (0, 0x200886000E800000), (0, 0x200886001A800000), (0,
    0x200886001E800000), (0, 0x200886002A800000), (0, 0x2008864016800000)] :
    List (Nat × Word)), fits p.1 p.2 = true := by decide

/-- vabs, vneg, vcvt, vsqrt, vadd, vsub, vmul, vmulh, vmin, vmax, vand, vor, vxor, vandn, vshl, vshr, vsra, vcmp, vdiv, vfma, vsel, vbcast, vins, vext, vzip, vunzip. -/
theorem witness_fit_vector_1 : ∀ p ∈ ([
    (0, 0x300880001C000000), (0, 0x3008800020000000), (0, 0x3008800048000000), (0, 0x3008800052800000), (0,
    0x3008860000000000), (0, 0x3008860004000000), (0, 0x3008860008000000), (0, 0x300886000C000000), (0,
    0x3008860014000000), (0, 0x3008860018000000), (0, 0x3008860024000000), (0, 0x3008860028000000), (0,
    0x300886002C000000), (0, 0x3008860030000000), (0, 0x3008860034000000), (0, 0x3008860038000000), (0,
    0x300886003C000000), (0, 0x3008860043000000), (0, 0x300886004C000000), (0, 0x3008864010000000), (0,
    0x3008864047000000), (0, 0x3108800008000000), (0, 0x310886000C000000), (0, 0x3108860010000000), (0,
    0x3108860014000000), (0, 0x3108860018000000)] :
    List (Nat × Word)), fits p.1 p.2 = true := by decide

/-- vperm, vlut16, vredAdd, vredMax, vredMin, vdot2, vdot4. -/
theorem witness_fit_vector_2 : ∀ p ∈ ([
    (0, 0x3108864000400000), (0, 0x3108864006000000), (0, 0x3208800008000000), (0, 0x320880000C000000), (0,
    0x3208800010000000), (0, 0x3208864005008200), (0, 0x32214C4001018800)] :
    List (Nat × Word)), fits p.1 p.2 = true := by decide

/-- knot, kmov, kpop, kset, krd, kand, kor, kxor, seqBeg, seqEnd, seqWait, seqLoop. -/
theorem witness_fit_mask_and_sequencer : ∀ p ∈ ([
    (0, 0x330880000C000000), (0, 0x3308800010000000), (0, 0x3308800014000000), (0, 0x3308800018000000), (0,
    0x330880001C000000), (0, 0x3308860000000000), (0, 0x3308860004000000), (0, 0x3308860008000000), (0,
    0x3400000000000000), (0, 0x3400000008000000), (0, 0x340000000C000000), (0, 0x3400860004000000)] :
    List (Nat × Word)), fits p.1 p.2 = true := by decide

/-- ld, ldu, ldAcq, vld, vldRaw, st, stRel, vst, ldF, ldFe, stEf, stF, tagSet, tagClr, pref, flush. -/
theorem witness_fit_memory : ∀ p ∈ ([
    (0, 0x4008800000000000), (0, 0x4108800000000000), (0, 0x4208800000000000), (0, 0x4321400204000020), (0,
    0x4421400204000020), (0, 0x4500860000000000), (0, 0x4600860000000000), (0, 0x4700460604000000), (0,
    0x4808800003000000), (0, 0x4908800003000000), (0, 0x4A00860003000000), (0, 0x4B00860003000000), (0,
    0x4C00800003000000), (0, 0x4D00800003000000), (0, 0x4E00800000000000), (0, 0x4F00800000000000)] :
    List (Nat × Word)), fits p.1 p.2 = true := by decide

/-- inv, amoAdd, amoAnd, amoOr, amoXor, amoMin, amoMax, amoMinu, amoMaxu, amoSwap, amoCas, redAdd, redAnd, redOr, redXor, redMin, redMax, redMinu, redMaxu, fence, fenceAcq, fenceRel, wait, waita, semP, semRd. -/
theorem witness_fit_synchronisation_engines_tiles_1 : ∀ p ∈ ([
    (0, 0x5000800000000000), (0, 0x5808860002800000), (0, 0x5908860002800000), (0, 0x5A08860002800000), (0,
    0x5B08860002800000), (0, 0x5C08860002800000), (0, 0x5D08860002800000), (0, 0x5E08860002800000), (0,
    0x5F08860002800000), (0, 0x6008860002800000), (0, 0x6108864002800000), (0, 0x6200860002800000), (0,
    0x6300860002800000), (0, 0x6400860002800000), (0, 0x6500860002800000), (0, 0x6600860002800000), (0,
    0x6700860002800000), (0, 0x6800860002800000), (0, 0x6900860002800000), (0, 0x7000000000000000), (0,
    0x7100000000000000), (0, 0x7200000000000000), (0, 0x7300000000000000), (0, 0x7408860003000000), (0,
    0x7508800000000000), (0, 0x7508800008000000)] :
    List (Nat × Word)), fits p.1 p.2 = true := by decide

/-- semV, bar, copy, copy2, get, put, puta, wsig, digest, ccntWait, ccntRd, collStart, collWait, buoy, lhSt, buoySeal, tzero, tdrain, tdrainColl, zclr, zset, tmma, gmma, amaxClr, amaxRd, cvtT. -/
theorem witness_fit_synchronisation_engines_tiles_2 : ∀ p ∈ ([
    (0, 0x7508860004000000), (0, 0x7608000000000000), (0, 0x7800800000000000), (0, 0x7800800004000000), (0,
    0x7800800008000000), (0, 0x780080000C000000), (0, 0x7800800010000000), (0, 0x7800800014000000), (0,
    0x7800800018000000), (0, 0x7900860004000000), (0, 0x7908800000000000), (0, 0x7A08800000000000), (0,
    0x7A08800004000000), (0, 0x7C00860000000000), (0, 0x7C08800008000000), (0, 0x7C08860004000000), (2,
    0x8000000000000000), (2, 0x800080000C000000), (2, 0x8000860010000000), (2, 0x8008000018000000), (2,
    0x8008800014000000), (2, 0x8008864004000000), (2, 0x8008864008000000), (1, 0x8108000008000000), (1,
    0x8108800004000000), (1, 0x8108864000000000)] :
    List (Nat × Word)), fits p.1 p.2 = true := by decide

/-- cbkLd, cbkRd, gmReset, gmCfg, gmMask, gmForce, gmStep, gmSt. -/
theorem witness_fit_synchronisation_engines_tiles_3 : ∀ p ∈ ([
    (0, 0x8200860000000000), (0, 0x8208800004000000), (1, 0x8300000010000000), (1, 0x8300800000000000), (1,
    0x8300800008000000), (1, 0x830800000C000000), (1, 0x8308800004000000), (1, 0x8308800014000000)] :
    List (Nat × Word)), fits p.1 p.2 = true := by decide

/-! ## Single steps with the results that the spec's own examples give -/

/-- The executing context after one instruction on the core of a role, from registers set by `f`. -/
def did (role : Nat) (i : Instr) (f : Ctx → Ctx) : Option Ctx :=
  match exec i ((st role).updCtx (11 * role) f) with
  | .next t => some (t.ctx (11 * role))
  | _ => none
/-- A step fetches, decodes and runs a placed word: the sum wraps at 64 bits (R198). -/
theorem test_step_add_wraps :
    (match step ((State.reset.withFetchWord 64 0x1008860006000000).updCtx 0 fun c => (c.wx 2 (BitVec.allOnes 64)).wx 3 1) with
     | .next t => some ((t.ctx 0).rx 1)
     | _ => none) = some 0 := by decide
/-- R199: a negative number over zero is the least number of the type, and a remainder is the dividend. -/
theorem test_div_by_zero : (did 0 (.div { rr with ty := 4 }) fun c => c.wx 2 0xFFFFFFFFFFFFFFF9).map (·.rx 1) = some 0xFFFFFFFF80000000 ∧
    (did 0 (.rem { rr with ty := 4 }) fun c => c.wx 2 0xFFFFFFFFFFFFFFF9).map (·.rx 1) = some 0xFFFFFFFFFFFFFFF9 := by decide
/-- R204, the clamp's rows: -7 and 0, then 100 and 250. -/
theorem test_cmp_rows : (did 0 (.cmp { rr with d := 0 }) fun c => c.wx 2 0xFFFFFFFFFFFFFFF9).map (·.c[0]) = some 0b0010 ∧
    (did 0 (.cmp { rr with d := 1 }) fun c => (c.wx 2 100).wx 3 250).map (·.c[1]) = some 0b0110 := by decide
/-- R204: `decz` of 1 reaches zero, and of the least number steps with LT alone. -/
theorem test_decz : (did 0 (.decz { rr with b := 0, c := 3, ty := 0 }) fun c => c.wx 2 1).map (fun c => (c.rx 1, c.c[3])) = some (0, 0b0001) ∧
    (did 0 (.decz { rr with b := 0, c := 3, ty := 0 }) fun c => c.wx 2 0x8000000000000000).map (·.c[3]) = some 0b0010 := by decide
/-- R210: the fused form rounds once, and the separate product raises inexact. -/
theorem test_fma_rounds_once : (did 0 (.fma { rr with c := 4, ty := 10 }) fun c => ((c.wx 2 0x3F800800).wx 3 0x3F800800).wx 4 0xBF800000).map
    (fun c => (c.rx 1, c.fstat)) = some (0x3A000400, 0) := by decide
theorem test_fcvt_overflows : (did 0 (.fcvt { rr with b := 0, c := 10, ty := 12 }) fun c => c.wx 2 0x43EB0000).map (·.rx 1) = some 0x7F ∧
    (did 0 (.fcvt { rr with b := 0, c := 10, ty := 12, sat := 1 }) fun c => c.wx 2 0x43EB0000).map (·.rx 1) = some 0x7E := by decide
theorem test_ftoi_rows : (did 0 (.ftoi { rr with b := 0, c := 10, ty := 0 }) fun c => c.wx 2 0xC3488000).map (·.rx 1) = some 0xFFFFFFFFFFFFFF80 ∧
    (did 0 (.ftoi { rr with b := 0, c := 10, ty := 0 }) fun c => c.wx 2 0x40200000).map (·.rx 1) = some 2 := by decide
theorem test_fsub_down_is_minus_zero : (did 0 (.fsub { rr with ty := 10, rnd := 3 }) fun c => (c.wx 2 0x3F800000).wx 3 0x3F800000).map
    (fun c => (c.rx 1, c.fstat)) = some (0x80000000, 0) := by decide
/-- R218, R221 and R222: the examples with their printed words. -/
theorem test_vcvt_example : (did 1 (decodeWord 0x300880A04A400000) fun c => c.wv 2 0x43EB0000BE99999A400000003F800000).map (·.rv 1)
    = some 0x43EBBE9A40003F80 := by decide
theorem test_vperm_example : (did 1 (decodeWord 0x3108864000400000) fun c =>
    (c.wv 2 0x0F0E0D0C0B0A09080706050403020100).wv 3 0x000102030405060708090A0B0C0D0E0F).map (·.rv 1)
    = some 0x000102030405060708090A0B0C0D0E0F := by decide
theorem test_vlut16_example : (did 1 (decodeWord 0x313A12A006400040) fun c =>
    ((c.wv 8 0x40E040C040A04080404040003F800000).wv 10 0xBF80C000C040C080C0A0C0C0C0E0C100).wv 9 0x1287F03B00000000).map (·.rv 7)
    = some 0x3F804000C10040E0BF8000004040C0A0 := by decide
/-- R51 and R350: a word that no row assigns goes to TVAL, with the location in TPC. -/
theorem test_unassigned_traps : (did 0 (.unassignedEncoding 0) id).map (fun c => (c.tcause, c.tval, c.tpc)) = some (1, 0, 0x1000) := by decide
/-! ## States that meet the hypotheses of the claims -/

/-- The feature, role, field and field-feature checks of R52, one word for each. -/
theorem witness_ChecksAreMadeInOrder :
    ({ st 1 with four := false }).hasFeature (majorFeature (decodeWord 0x8300800000000000)) = false ∧
    (st 0).hasFeature (majorFeature (decodeWord 0x8300800000000000)) = true ∧
    roleNeeded (decodeWord 0x8300800000000000) = some 1 ∧ (st 0).myRole = 0 ∧
    WellFormed.check (.add { rr with c := 1 }) ≠ none ∧
    WellFormed.check (.fmin { rr with ty := 11 }) = none ∧
    ({ st 0 with four := false }).hasFeature ((fieldFeatures (.fmin { rr with ty := 11 })).headD 0) = false := by decide
/-- An instruction below LEN, and one at it. -/
theorem witness_RetirementGoesToTheNextInstructionOrTheBlockEnd :
    pcIndex ((st 0).ctx 0).pc < hdrLen ((st 0).ctx 0).hdr ∧
    pcIndex ((st 0).updMe fun c => { c with pc := mkPc 1 0x1000 }).me.pc = hdrLen ((st 0).ctx 0).hdr := by decide

/-- A trap table whose fallback jumps to the block at 0x1000, whose header lies in the instruction cache. -/
def trapping : State :=
  let y : YardTable := { YardTable.reset with cur := { YardGen.vacant with fallback := 0x1000000000000200 } }
  ((st 0).updGang 1 fun g => { g with yards := [(0, y)] }).updCore 0 fun c => { c with icache := [(0x1000, 0xFE0100F8F8F8F800)] }
/-- The JUMP inside the code bounds of a legal block, and one of a helper outside them. -/
theorem witness_TrapEntrySavesAndDispatches :
    (let use := (((trapping.updCtx 0 fun v => v.trapRegs 1 false 7 v.pc 0).suspendRecording 0).yardUse 0 0 false)
     let act := use.2.1.lookup 1
     actKind act = 1 ∧ (trapping.ctx 0).inCode (trapping.arenaBase 0 + 8 * actTarget act) = true ∧
      (trapping.gang 1).gone 0x1000 = false ∧ headerOk (use.2.2.fetch 0 0x1000).1 = true) ∧
    (trapping.ctx 1).inCode 0x1000 = false ∧ ctxNo 1 ≠ 0 := by decide

/-- A word placed in the state after reset, in the next step. -/
def placed : State := State.reset.withFetchWord 64 0x10088C0001800000
theorem witness_StepRunsTheInstructionAtTheContextsLocation :
    placed.turns = [.issue 0] ∧ ({ placed with turns := [] } : State).pick 0 = some 0 ∧
    (let u := ({ placed with turns := [] } : State).begin_ 0 0
     (u.gang ((u.gangOfCore 0).getD 0)).gone (pcBlock (u.ctx 0).pc) = false ∧ (u.ctx 0).inBlockCode (pcAddr (u.ctx 0).pc) = true ∧
      u.exists_ (pcAddr (u.ctx 0).pc) = true) := by decide
theorem witness_FetchOutsideTheCodeBoundsTraps :
    let s := placed.updCtx 0 fun c => { c with inBound := 0 }
    s.turns = [.issue 0] ∧ ({ s with turns := [] } : State).pick 0 = some 0 ∧
    (let u := ({ s with turns := [] } : State).begin_ 0 0
     (u.gang ((u.gangOfCore 0).getD 0)).gone (pcBlock (u.ctx 0).pc) = false ∧
      (u.ctx 0).inBlockCode (pcAddr (u.ctx 0).pc) = false) := by decide
theorem witness_StepOfAnotherTurn :
    Instr.isWord (.coreHalted 0) = false ∧ Instr.isWord (.add rr) = true ∧
    ({ State.reset with turns := [.issue 0] } : State).pick 0 = none := by decide
theorem witness_HoldsNameOnlyReadyContexts : ∃ t, step { State.reset with turns := [.tick 5] } = .next t := ⟨_, rfl⟩
theorem witness_MemoryOperationsKeepTheCanonicalForm : State.reset.memoryWf = true := by decide

/-! ### Vectors, masks and the sequencer -/

/-- A lane-wise instruction outside a recording, with every lane active, and with none. -/
theorem witness_LaneWiseInstructionsWriteActiveLanesOnly :
    ¬Claims.Recording (st 0) ∧ active ((st 0).rk 0) 0 0 = true ∧ active ((st 0).rk 0) 1 0 = false :=
  ⟨fun h => absurd h.2.1 (by decide), by decide, by decide⟩
/-- A recording with room, and a full one. -/
def recording (n : Nat) : State := (st 0).updCore 0 fun c =>
  { c with seq := { c.seq with owner := some 0, recording := true, queue := List.replicate n { instr := .vadd { rr with ty := 4 }, pc := 0x1000 } } }
theorem witness_RecordingQueuesVectorInstructions :
    Claims.Recording (recording 15) ∧ ((recording 15).core 0).seq.queue.length < 16 ∧ Claims.Recording (recording 16) ∧
    ((recording 16).core 0).seq.queue.length = 16 ∧ (recording 15).issueTrap (.vadd { rr with ty := 4 }) = none ∧
    (recording 16).me.mismatch = 0 := by
  refine ⟨⟨?_, ?_, ?_⟩, ?_, ⟨?_, ?_, ?_⟩, ?_, ?_, ?_⟩ <;> decide
/-- The owner at the largest legal count and at the first illegal one, a legal and an illegal step, and a due repetition. -/
theorem witness_SequencerOwnershipAndRepetitions :
    ((st 0).core 0).seq.owner = none ∧ (st 0).myTurn (waitsForSeq (st 0)) = true ∧
    ((recording 1).core 0).seq.owner = some 0 ∧ ((recording 1).core 0).seq.left = 0 ∧
    (((recording 1).wx 2 65535).rx 2).toNat ≤ 65535 ∧ 65535 < (((recording 1).wx 2 65536).rx 2).toNat ∧
    ((recording 1).wx 3 0x1F1F1F1F).rx 3 &&& ~~~(0x1F1F1F1F : Word) = 0 ∧ ((recording 1).wx 3 0x20).rx 3 &&& ~~~(0x1F1F1F1F : Word) ≠ 0 ∧
    (let s := (recording 1).updCore 0 fun c => { c with seq := { c.seq with recording := false, reps := 2 } }
     (s.core 0).seq.left ≠ 0 ∧ (s.core 0).seq.queue[(s.core 0).seq.pos]?.isSome = true ∧ (s.core 0).contained = none ∧
      s.gangOfCore 0 = some 1 ∧ (s.gang 1).state = .resident ∧
      s.operandsReady 0 (stepped 0 1 (.vadd { rr with ty := 4 })) = true ∧ (s.ctx 0).mismatch < 2) := by decide

/-! ### Memory accesses -/

def byteMf : MF := { mf with size := 0 }
/-- An address of the window, one from 2^48, one that a cached leaf translates for reading and writing, and one that nothing maps. -/
theorem witness_AddressesTranslateByRangeAndLeaf :
    Config.padWindow ≤ pad.toNat ∧ (2 ^ 48 ≤ (0x1000000000000 : Word).toNat ∧ (0x1000000000000 : Word).toNat < Config.padWindow) ∧
    (((st 0).translate 0 0x10008 true).toOption.map (·.loc)) = some 0x100008 ∧ (((st 0).translate 0 0x1FFFF false).toOption.map (·.loc)) = some 0x10FFFF ∧
    (((st 0).translate 0 0x20000 true).toOption.map (·.loc)) = some 0x3000000000 ∧ ((st 0).translate 0 0x30000 false).toOption.isNone = true := by
  decide
/-- Aligned addresses in the scratchpad and in general memory, a misaligned one, counters with room and full. -/
theorem witness_accesses_translate :
    ((st2 0 pad).translate 0 ((st2 0 pad).rx 2 + (0 : BitVec 24).signExtend 64) true).toOption.isSome = true ∧
    ((st2 0 0x10000).translate 0 ((st2 0 0x10000).rx 2 + (0 : BitVec 24).signExtend 64) true).toOption.isSome = true ∧
    ((st2 0 pad).rx 2 + (0 : BitVec 24).signExtend 64).toNat % 16 = 0 ∧
    ((st2 0 (pad + 4)).rx 2 + (0 : BitVec 24).signExtend 64).toNat % 8 ≠ 0 ∧ (st2 0 pad).me.ld ≠ 255 ∧ (st2 0 pad).me.st ≠ 255 ∧
    ((st2 0 pad).updMe fun c => { c with ld := 255, st := 255 }).me.ld = 255 ∧ (st2 0 pad).laneMask { mf with size := 4 } ≠ 0 ∧
    (st2 0 pad).laneMask { mf with size := 4, kn := 1 } = 0 := by decide
/-- A page with the attributes w1, mapped at 0x10000. -/
def page (w1 : Word) : State := ((st2 0 0x10000).updCore 0 fun c =>
  { c with tlb := [{ vf := 0, sup := false, base := 0x10000, size := 0x10000, w0 := leaf, w1 := w1 }] })
/-- Pages of each kind that `vld` tells apart: plain, broken, decoding without and with scales, codebook (R191, R192). -/
theorem witness_VectorLoadsBecomePendingReads :
    (page 0).rx 2 + (0 : BitVec 24).signExtend 64 = 0x10000 ∧
    (((page 0).translate 0 0x10000 false).toOption.map (·.w1)) = some 0 ∧
    (((page 0x0A00000000000000).translate 0 0x10000 false).toOption.map (·.w1)) = some 0x0A00000000000000 ∧
    (((page 0x0150000000000000).translate 0 0x10000 false).toOption.map (·.w1)) = some 0x0150000000000000 ∧
    (((page 0x0154000000000000).translate 0 0x10000 false).toOption.map (·.w1)) = some 0x0154000000000000 ∧
    (((page 0x0950000000000000).translate 0 0x10000 false).toOption.map (·.w1)) = some 0x0950000000000000 ∧
    pageFmtOk 0 = true ∧ (pageFmt 0).g = 0 ∧ pageFmtOk 0x0A00000000000000 = false ∧
    pageFmtOk 0x0150000000000000 = true ∧ (pageFmt 0x0150000000000000).g = 5 ∧ (pageFmt 0x0150000000000000).sc = 0 ∧
    pageFmtOk 0x0154000000000000 = true ∧ (pageFmt 0x0154000000000000).g = 5 ∧ (pageFmt 0x0154000000000000).sc = 1 ∧
    pageFmtOk 0x0950000000000000 = true ∧ (pageFmt 0x0950000000000000).fmt = 9 := by
  refine ⟨?_, ?_, ?_, ?_, ?_, ?_, ?_, ?_, ?_, ?_, ?_, ?_, ?_, ?_, ?_, ?_, ?_⟩ <;> decide
/-- The scale of the first element of a scaled page is mapped, and eight lanes of the access are active. -/
theorem witness_scales_and_lanes :
    ((page 0x0154000000000000).translate 0 (scaleAddr (pageFmt 0x0154000000000000) 0x10000 0) false).toOption.isSome = true ∧
    scaleAddr (pageFmt 0x0154000000000000) 0x10000 0 = 0x10000 ∧ PageFmt.z (pageFmt 0x0154000000000000) = 2 ∧
    (page 0).laneMask { mf with size := 4 } ≠ 0 ∧ ((page 0).laneMask { mf with size := 4 }).extractLsb' 0 8 ≠ 0#8 := by decide
/-- A failed translation in a supervisor context, in a function without a supervisor gang, and in one with. -/
theorem witness_FailedTranslationsAreReferredOrTrap :
    ((st 0).updMe fun c => { c with sup := true }).me.sup = true ∧ (st 0).me.sup = false ∧ (st 0).supervisor (st 0).myVf = none ∧
    ({ st 0 with gangs := (st 0).gangs ++ [(2, { Gang.reset with state := .resident, sup := true })] } : State).supervisor 0 ≠ none := by decide
/-- A tagged access below the window, misaligned, on an empty and on a full word. -/
theorem witness_TaggedScratchpadAccesses :
    ((st2 0 0x10000).rx 2 + (0 : BitVec 24).signExtend 64).toNat < Config.padWindow ∧
    ((st2 0 (pad + 4)).rx 2 + (0 : BitVec 24).signExtend 64).toNat % 8 ≠ 0 ∧ (st2 0 pad).tag (padLoc 0 0) = false ∧
    (let s := (st2 0 pad).setTag (padLoc 0 0) true
     s.tag (padLoc 0 0) = true ∧ s.myTurn (sameTag s (padLoc 0 0) true) = true ∧ s.poisoned 0 (padLoc 0 0) = false ∧
      s.mayMove 0 { id := s.next, grp := s.next, hint := 0, key := 0, kind := .read (.x 1 0 8 false) [padLoc 0 0] [] true } = true ∧
      s.mayMove 0 { id := s.next, grp := s.next, hint := 0, key := 0, kind := .tag (padLoc 0 0) false } = true) ∧
    (let s := st2 0 pad
     s.mayMove 0 { id := s.next, grp := s.next, hint := 0, key := 0, kind := .write (padLoc 0 0) 0xFF 0 (some true) (some 2) (s.releaseSet 0) } = true ∧
      s.myTurn (sameTag s (padLoc 0 0) false) = true ∧ (s.memQ s.myQtr).wf = true) := by decide
/-- A line of the scratchpad, of general memory, and of an address that nothing maps. -/
theorem witness_CacheControlMovesNoData :
    (((st2 0 pad).translate 0 pad false).toOption.map fun h => isPad h.loc) = some true ∧
    (((st2 0 0x10000).translate 0 0x10000 false).toOption.map fun h => isPad h.loc) = some false ∧
    ((st2 0 0x30000).translate 0 0x30000 false).toOption.isNone = true := by decide

/-! ### The order machine -/

/-- The executing context with one pending operation numbered 5. -/
def pending (k : OpKind) : State := { st 0 with next := 6 }.updMe fun c => { c with ld := 1, st := 1, ops := [{ id := 5, grp := 5, hint := 0, key := 5, kind := k }] }
def op5 (k : OpKind) : Op := { id := 5, grp := 5, hint := 0, key := 5, kind := k }
def wr5 : OpKind := .write 0x100000 0xFF 7 none none []
/-- A buffered write, tag change and yard writes that may be performed. -/
theorem witness_PerformMovesABufferedWriteIntoItsQuarter :
    5 < (pending wr5).next ∧ (∀ k ∈ [wr5, .tag (padLoc 0 0) true, .yardEntry 3 1 0 0 0, .yardFallback 3 0],
      ((pending k).ctx 0).findOp 5 = some (op5 k) ∧ (pending k).mayMove 0 (op5 k) = true ∧ (pending k).performable 0 (op5 k) = true) ∧
    ((pending wr5).memQ 0).wf = true := by decide
/-- A write of quarter 0's location that stands at its own quarter. -/
def rec0 : WriteRec := { who := 0, org := 0, loc := 0x100000, mask := 0xFF, val := 7, tag := none, stamp := 1, vis := 1, inbox := 0,
                         co := some 1, cp := [], rel := none, atom := false, redn := false, merged := false, reds := [], durP := false, durM := false, poison := false }
def writes (l : List WriteRec) : State := (st 0).updOrd fun o => { o with writes := (List.range l.length).zip l }
/-- A write at its home that may go on; one that its home does not hold yet; one that comes after another; one that may be applied. -/
theorem witness_WritesReachOtherQuartersThroughTheirHome :
    (writes [rec0]).writeAt 0 = some rec0 ∧ (writes [rec0]).mayPropagate 0 1 = true ∧
    (home { rec0 with org := 1, vis := 2 }.loc ≠ 2 ∧ ({ rec0 with org := 1, vis := 2 }.vis).getLsbD (home rec0.loc) = false) ∧
    (writes [rec0, { rec0 with cp := [0], inbox := 2 }]).allVis 1 [0] = false ∧
    (writes [{ rec0 with inbox := 2 }]).mayApply 0 1 = true ∧ ((writes [rec0]).memQ 1).wf = true ∧ (writes [rec0]).memoryWf = true := by decide
/-- An atomic of the executing context whose write reaches its quarter, with the old value kept. -/
theorem witness_an_atomics_write_arrives :
    let s := (pending (.amo .add 0x4000100000 0 8 1 0 (some 3) 0 [] (some 9))).updOrd fun o =>
      { o with writes := [(5, { rec0 with loc := 0x4000100000, vis := 2, inbox := 1 })] }
    s.mayApply 5 0 = true ∧ s.ctxs.find? (fun e => qtrOfCtx e.1 = 0 && e.2.ops.any (·.id == 5)) = some (0, s.ctx 0) := by decide
def rd5 : OpKind := .read (.x 3 0 8 false) [0x100000] [] false
/-- A read of one part that may be taken, and one of two parts. -/
theorem witness_ReadsDeliverWhatTheirQuarterHolds :
    ((pending rd5).ctx 0).findOp 5 = some (op5 rd5) ∧ (pending rd5).readable 0 (op5 rd5) 0 = some 0x100000 ∧
    (pending rd5).readPoisoned 0 5 0x100000 (neededBytes (.x 3 0 8 false) 0 [0x100000]) = false ∧
    (pending (.read (.vraw 3 0xFFFF) [0x100000, 0x100008] [] false)).readable 0 (op5 (.read (.vraw 3 0xFFFF) [0x100000, 0x100008] [] false)) 0 =
      some 0x100000 := by decide
def amo5 (loc : Nat) (ret : Option (BitVec 5)) : OpKind := .amo .add loc 0 8 1 0 ret 0 [] none
def red5 : OpKind := .red .add 0x100000 0 8 1
/-- Atomics with their home near and far and without a result; reductions onto no partial, a like and an unlike one; a line to merge. -/
theorem witness_AtomicsAndReductionsCombineAtTheHome :
    (∀ k ∈ [amo5 0x100000 none, amo5 0x100000 (some 3)], ((pending k).ctx 0).findOp 5 = some (op5 k) ∧
      (pending k).atomicReady 0 (op5 k) 0x100000 = true ∧ (pending k).poisoned 0 0x100000 = false ∧ ((pending k).memQ 0).wf = true) ∧
    ((pending (amo5 0x4000100000 (some 3))).atomicReady 0 (op5 (amo5 0x4000100000 (some 3))) 0x4000100000 = true ∧ home 0x4000100000 ≠ qtrOfCtx 0) ∧
    ((pending red5).ctx 0).findOp 5 = some (op5 red5) ∧ (pending red5).mayMove 0 (op5 red5) = true ∧
    (let s := (st 0).updOrd fun o => { o with partials := o.partials.set 0 [(0x100000, { fn := .or, size := 8, dws := [], reds := [] })] }
     s.memoryWf = true ∧ ((List.range 4).any fun q => ((s.partialsQ q).get? (lineOf 0x100000)).isSome) = true) := by decide
/-- A durable write that its home holds, the lighthouse of a quarter in service, out of it, and in its resync. -/
theorem witness_DurableCopiesTakeVisibleWrites :
    (let s := writes [{ rec0 with loc := 0x3000000000 }]
     isDurable 0x3000000000 = true ∧ (s.writeAt 0).isSome = true ∧ s.memoryWf = true) ∧
    (let s := (st 0).setQuarter 1 { (st 0).quarterAt 1 with inService := false, resync := false }
     (s.quarterAt 1).inService = false ∧ (s.quarterAt 1).resync = false) ∧
    (let s := (st 0).setQuarter 1 { (st 0).quarterAt 1 with inService := false, resync := true }
     (s.quarterAt 1).resync = true ∧ s.memoryWf = true) := by decide
/-- A line that shed 5 asks for most, a page that no walk is on, a walk that has its first word and one that has none, a poisoned read. -/
theorem witness_LinesWalksAndSweepersChangeNoData :
    (({ state := .s, slice := none, asks := List.replicate 16 5, moved := none, low := false } : L2Line).mover 0 0x100000).isSome = true ∧
    (st 0).gangOfCore 0 ≠ none ∧ ((st 0).vf 0).cfg = some cfg ∧ (st 0).ord.walks.countP (fun w => qtrOfCore w.core = 0) < walkers ∧
    isPad (lineOf 0x100000) = false ∧ physLayer (lineOf 0x100000) < 3 ∧
    (let s := (pending rd5).updOrd fun o => { o with poison := [(0x100000, 5)] }
     s.readable 0 (op5 rd5) 0 = some 0x100000 ∧ s.readPoisoned 0 5 0x100000 (neededBytes (.x 3 0 8 false) 0 [0x100000]) = true ∧
      (s.core 0).contained = none) := by decide

/-! ### Engines, containment and resets -/

def partOk {α : Type} : Machine.Part α → Bool
  | .ok _ _ => true
  | _ => false
def syncOk : Sync → Bool
  | .ok _ _ => true
  | _ => false
def noDesc : EngDesc := { dst := 0x10100, src := 0x10000, len := 8, flags := 0, peer := 0, place := 0, sig := 0, sigval := 1, aux := 0, nidx := 0, elem := 0 }
def eng : EngOp := { core := 0, ctx := 0, func := 0, addr := 0x10000, desc := noDesc, far := 0, moved := [], parked := [], before := [], set := [],
                     writes := [], hash := [], bad := false, refused := false }
def engine (e : EngOp) : State := (st 0).updOrd fun o => { o with engines := [(4, e)] }
/-- A unit of a copy that may move, with its index, its reads and its destinations. -/
theorem witness_EngineUnitsMoveBytes :
    (engine eng).ord.engines.get? 4 = some eng ∧ (engine eng).memoryWf = true ∧ 0 < engUnits eng ∧ (engine eng).engReady 4 eng = true ∧
    (engine eng).refusesUnit eng = false ∧ partOk ((engine eng).engIndex 4 eng 0) = true ∧
    partOk ((engine eng).engRead 4 eng ((engine eng).srcSide eng) (unitSpan eng 0 0).1 ((unitPart eng 0).2.2 / 8)) = true ∧
    partOk ((engine eng).engDsts eng ((engine eng).dstSide eng) false (unitSpan eng 0 0).2 ((unitPart eng 0).2.2 / 8)) = true := by decide
/-- A digest before its unit and at its flag, and operations at their flag: without a signal, with an arrival, and `wsig`. -/
theorem witness_EngineUnitsMoveBytesAndSignalLast :
    (let e := { eng with func := 6 }
     0 < engUnits e ∧ partOk ((engine e).engRead 4 e .near (unitSpan e 0 0).1 ((unitPart e 0).2.2 / 8)) = true) ∧
    (let e := { eng with func := 6, moved := [0] }
     engUnits e ≤ e.moved.length ∧ partOk ((engine e).engDsts e .near false e.desc.dst 4) = true ∧
     (match (engine e).engDsts e .near false e.desc.dst 4 with
      | .ok ls t => ls.all fun l => l.all fun p => t.maySpread p.1
      | _ => false) = true ∧
     ((engine e).updOrd fun o => { o with writes := [(0, rec0)] }).maySpread 0x100000 = false) ∧
    (let e := { eng with moved := [0] }
     engUnits e ≤ e.moved.length ∧ e.set.all ((engine e).complete e.ctx 4) = true ∧ e.writes.all ((engine e).complete e.ctx 4) = true ∧ dArr e.desc = false) ∧
    (let d := { noDesc with flags := 0xFFFF }
     dArr d = true ∧ dCnt d = true) ∧
    (let e := { eng with func := 5, moved := [], desc := { noDesc with len := 0, sig := 0x10010 } }
     engUnits e ≤ e.moved.length ∧ dArr e.desc = false ∧ partOk ((engine e).engDsts e ((engine e).dstSide e) (dSigadd e.desc) e.desc.sig 1) = true) := by decide
/-- A resident gang with a supervisor gang beside it on another shed, and one open record of work 0. -/
def supervised : State := { st 0 with
  gangs := [(1, { Gang.reset with state := .resident }), (2, { Gang.reset with state := .resident, sup := true, x0 := 1 })]
  sheds := [(0, { Shed.reset with gang := some 1 }), (1, { Shed.reset with gang := some 2 })] }
def ref0 : Referral := { vf := 0, va := 0x30000, detail := 1, info := 0, work := 0, key := 0, unit := 0, slot := none, head := [], written := false, discard := false }
theorem witness_ContainmentIsReportedAndAnswered :
    (supervised.core 0).contained = none ∧ supervised.gangOfCore 0 = some 1 ∧ (supervised.gang 1).sup = false ∧
    (supervised.gang 1).openEvents = 0 ∧ supervised.supervisor 0 = some 2 ∧
    (let s := { supervised with refs := [(3, ref0)] }
     s.refs.get? 3 = some ref0 ∧ s.tag (ringLoc (s.gang 2).rank0 (s.vf 0).ring + 16) = false ∧ s.memoryWf = true ∧ (s.gang 2).state ≠ .saved) ∧
    (let s := { supervised with refs := [(3, { ref0 with slot := some 0 })] }
     ((s.refs.get? 3).map (·.slot)) = some (some 0) ∧ ([] : List Nat).all (s.complete 0 4) = true) ∧
    (let s := ({ supervised with refs := [(3, { ref0 with slot := some 0, written := true })] } : State).setTag (padLoc 1 0x1FE010) true
     s.refs.find? (fun e => e.2.vf = 0 && e.2.slot = some 0 && e.2.written) = some (3, { ref0 with slot := some 0, written := true }) ∧
      s.tag (padLoc (s.gang 2).rank0 (0x1FE000 + 32 * 0 + 16)) = true) ∧
    ((supervised.updCtx 0 fun c => { c with mode := .asleep (.fault 3) }).ctx 0).mode = .asleep (.fault 3) := by decide
/-- A contained core whose self-test is due, with a master to decide a switch, and one that may restart at its first block or with none. -/
theorem witness_self_test_and_restart :
    (let s := supervised.updCore 0 fun c => { c with contained := some 1, restart := 2 }
     s.master.ready = true ∧ (s.core 0).contained = some 1 ∧ (s.core 0).restart = 2 ∧ (s.gang 1).state = .resident ∧ (s.quarterAt 0).up = true ∧
      (s.shed 0).withdrawn = false ∧ (s.gang 1).anchor = 0 ∧ (s.gang 1).image.first 0 = 0xFFFFFFFF) ∧
    ((supervised.updCore 0 fun c => { c with contained := some 1, restart := 1 }).core 0).restart = 1 := by decide
/-- A die that is down, and a surviving quarter below which none is up. -/
theorem witness_ResetsOfTheDieAndThePackage :
    0 < (st 0).nq ∧ (st 0).memoryWf = true ∧
    (let s := (st 0).setQuarter 0 { (st 0).quarterAt 0 with up := false }
     (s.quarterAt s.master.front).up = false ∧ 1 < s.nq ∧ (s.quarterAt 1).up = true ∧ ∀ p < 1, (s.quarterAt p).up = false) := by decide

/-! ### Fences, waits, yard tables and control -/

def rr0 : RR := { rr with b := 0, ty := 0 }
/-- `waita` on an equal and on another value, at an address that translates. -/
theorem witness_waita :
    ((st2 0 0x10000).translate 0 0x10000 false).toOption.isSome = true ∧ (st2 0 0x10000).redsSettled 0 0x100000 = true ∧
    (st2 0 0x10000).mayMove 0 { id := (st2 0 0x10000).next, grp := (st2 0 0x10000).next, hint := 0, key := 5, kind := .read (.x 1 0 8 false) [0x100000] [] false } = true ∧
    (st2 0 0x10000).poisoned 0 0x100000 = false ∧ (st2 0 0x10000).readVal 0 (st2 0 0x10000).next 5 0x100000 = (st2 0 0x10000).rx 0 ∧
    (st2 0 0x10000).readVal 0 (st2 0 0x10000).next 5 0x100000 ≠ (st2 0 0x10000).rx 2 := by decide
/-- `wait` met and not met; a counter reached, not reached, and a bad amount; a semaphore at 0, above it, at its limits. -/
theorem witness_FencesWaitsSemaphoresAndBarriers :
    (st 0).me.ld ≤ (0 : BitVec 32).extractLsb' 0 8 ∧ ¬((pending wr5).me.st ≤ (0 : BitVec 32).extractLsb' 8 8) ∧
    (((st 0).core 0).cc[0] - (0 : BitVec 32)).toNat < 2 ^ 31 ∧ 2 ^ 31 ≤ (((st 0).core 0).cc[0] - (1 : BitVec 32)).toNat ∧
    (0x100000000 : Word).extractLsb' 32 32 ≠ 0#32 ∧ (st 0).sem 0 0 = 0 ∧
    (let s := (st 0).updShed 0 fun d => { d with sem := d.sem.set 0 65535 }
     s.sem 0 0 ≠ 0 ∧ s.myTurn (sameSem s 0) = true ∧ 65535 < (s.sem 0 0).toNat + 1) ∧
    ((st 0).sem 0 0).toNat + 65535 ≤ 65535 ∧ (st 0).setComplete 0 2 ((st 0).releaseSet 0) = true ∧
    (let s := pending (.write (padLoc 0 0) 0xFF 7 none none [])
     s.setComplete 0 2 (s.releaseSet 0) = false) := by decide
/-- A barrier episode whose arrivals are all there. -/
theorem witness_barrier_episode :
    let s := ((st 0).updCore 0 fun c => { c with arrivals := 1 }).updGang 1 fun g => { g with lost := [1, 2] }
    (s.gang 1).state = .resident ∧ (∃ c ∈ (s.gang 1).cores, (s.gang 1).episode + 1 ≤ (s.core c).arrivals) ∧
    (∀ c ∈ (s.gang 1).cores, (s.core c).contained = none → (s.gang 1).lcore c ∉ (s.gang 1).lost → (s.gang 1).episode + 1 ≤ (s.core c).arrivals) ∧
    ((s.gang 1).arrived.getD ((s.gang 1).episode + 1) []).all (fun e => s.complete e.1 4 e.2) = true := by decide
/-- Legal and illegal selectors; a table pinned four times; a commit that waits for its release, stands first, and is old. -/
theorem witness_YardTablesCommitAsOne :
    (0x100 : Word) &&& ~~~0xFF3F = 0 ∧ (0x40 : Word) &&& ~~~0xFF3F ≠ 0 ∧ (0x100 : Word) &&& ~~~0xFF00 = 0 ∧ (1 : Word) &&& ~~~0xFF00 ≠ 0 ∧
    selOk 0x10100 0x70000 = true ∧ (selScope 0x10100).toNat = 1 ∧ (selScope 0x50100).toNat = 5 ∧ selOk 0x1 0x70000 = false ∧
    selOk 0x101 (if selWsel 0x101 = 3 then 0xD00000 else 0xD0003F) = true ∧
    (st 0).me.ops.all (fun o => !OpKind.yard o.kind) = true ∧ (st 0).coreRuns 0 = true ∧ (st 0).setComplete 0 1 [] = true ∧
    (pending wr5).setComplete 0 1 [5] = false := by decide
/-- A commit first in its queue, and one that has waited long enough beside a retained generation. -/
theorem witness_commits :
    let m : Commit := { ctx := 0, since := 0, scope := 1, d := 1, set := [], aside := false }
    let y : YardTable := { YardTable.reset with commits := [m], stale := [0] }
    let s := (st 0).updGang 1 fun g => { g with yards := [(0, y)] }
    y.first = some m ∧ s.commitReady (s.gang 1) 0 { y with stale := [] } = true ∧ s.gangOfCore 0 = some 1 ∧ 0 ∈ ((s.gang 1).yard (BitVec.ofNat 8 0)).stale ∧
    (let t := s.updGang 1 fun g => { g with residentTicks := Config.revokeTicks, yards := [(0, { y with retained := some (1, .vacant) })] }
     ((t.gang 1).yard (BitVec.ofNat 8 0)).retained = some (1, .vacant) ∧ Config.revokeTicks ≤ (t.gang 1).residentTicks - m.since) := by decide

/-! ### Contexts, messages and system registers -/

/-- A context at its block end whose table's fallback is an action word, with the block at 0x1000 in the instruction cache. -/
def ending (act : Word) : State :=
  let y : YardTable := { YardTable.reset with cur := { YardGen.vacant with fallback := act } }
  (((st 0).updGang 1 fun g => { g with yards := [(0, y)] }).updCore 0 fun c =>
    { c with icache := [(0x1000, 0xFE0100F8F8F8F800)] }).updMe fun c => { c with mode := .blockEnd }
/-- Every kind of action of a block end (R93), its target a legal block. -/
theorem witness_ContextsEnterBlocksStartAndRetire :
    (∀ e ∈ ([(0x1000000000000200, 1), (0x2000000000000200, 2), (0x3000000000000200, 3), (0x5000000000000200, 5), (0x4000000000000000, 4), (0, 0),
        (0x6000000000000000, 6), (0x7000000000000000, 7)] : List (Word × Nat)), actKind e.1 = e.2) ∧
    (let s := ending 0x1000000000000200
     let use := s.yardUse 0 (hdrTable (s.ctx 0).hdr) (hdrP (s.ctx 0).hdr)
     let act := use.2.1.lookup (s.keyOf 0 use.1 (s.ctx 0).hdr)
     (s.ctx 0).mode = .blockEnd ∧ s.coreRuns 0 = true ∧ hdrW (s.ctx 0).hdr = false ∧ (s.ctx 0).ops = [] ∧ (s.ctx 0).pins = [] ∧
      act = 0x1000000000000200 ∧ (s.ctx 0).inCode (s.arenaBase 0 + 8 * actTarget act) = true ∧
      (s.arenaBase 0 + 8 * actTarget act) % 8 = 0 ∧ (s.gang 1).gone 0x1000 = false ∧ headerOk (use.2.2.fetch 0 0x1000).1 = true) := by decide
/-- A lookup with a first matching entry behind one that does not match, and with none. -/
theorem witness_lookup :
    (let e : Nat × Word × Word × Word := (1, 5, 0xFF, 0x1000000000000200)
     let d : Nat × Word × Word × Word := (0, 4, 0xFF, 0x1000000000000300)
     actKind e.2.2.2 ≠ 0 ∧ (5 ^^^ e.2.1) &&& e.2.2.1 = 0 ∧ (5 ^^^ d.2.1) &&& d.2.2.1 ≠ 0) := by decide
/-- A start of an idle helper at a legal block, one with no idle helper, one by a helper; a context to be stopped, and one gone. -/
theorem witness_starts :
    (let s := ending 0
     ctxNo s.cur = 0 ∧ descOkStart 0 = true ∧ descOkStart 11 = false ∧ s.me.inCode 0x1000 = true ∧ headerOk (s.fetch 0 0x1000).1 = true ∧
      s.helperFor (descHelp 0) = some 1 ∧ s.helperFor (descHelp 10) = some 10) ∧
    ((st 0).updCtx 3 fun c => { c with mode := .ready }).helperFor (descHelp 3) = none ∧
    ((st 0).updCtx 3 fun c => { c with mode := .blockEnd }).ctx 3 ≠ (st 0).ctx 3 ∧ ((st 0).ctx 3).mode = .idle := by decide
/-- A context that leaves with drained counters, and a control context that halts with every helper idle. -/
theorem witness_retirements :
    (let s := (st 0).updMe fun c => { c with mode := .exiting 0 none }
     (s.ctx 0).mode = .exiting 0 none ∧ s.coreRuns 0 = true ∧ (s.ctx 0).ld = 0 ∧ (s.ctx 0).ops = [] ∧ (s.core 0).seq.owner ≠ some 0 ∧
      (s.core 0).aside = []) ∧
    (let s := (st 0).updMe fun c => { c with mode := .halting }
     (s.ctx 0).mode = .halting ∧ ∀ n < 11, 1 ≤ n → (s.ctx n).mode = .idle) := by decide
def send : XF := { xf with a := 1 }
def msg (kind : Nat) : Message := { mbox := 0, data := 7, srcCore := 1, srcCtx := 1, order := 0, after := [], arrived := false, kind := kind, set := [], counted := true }
def boxed (p : Bool) : State := { st 0 with vfs := [(0, { Vf.reset with cfg := some cfg, paddock := some { x := 0, y := 0, w := 2, h := 2 } })] }.updCore 0 fun c =>
  { c with mbox := c.mbox.set 0 { data := 7, present := p, err := false, lastSrc := some 1, set := [] }, port := [msg 0, msg 1] }
/-- A place in the gang and one outside it; a full and an empty mailbox; a message that may be accepted, of each kind. -/
theorem witness_MessagesArriveInMailboxes :
    ((xPlace send (boxed true)).1.bind (boxed true).gangTarget).isSome = true ∧
    (xPlace { send with dx := 1 } (boxed true)).1.bind (boxed true).gangTarget = none ∧ (boxed true).me.st ≠ 255 ∧
    ((boxed true).mailbox 0 0).present = true ∧ ((boxed false).mailbox 0 0).present = false ∧
    (boxed true).sleepers.all (fun e => e.1 = 0 || !sameMailbox (boxed true) 0 false e.1 e.2.1) = true ∧
    (boxed true).myTurn (sameMailbox (boxed true) 0 true) = true ∧
    ((boxed false).core 0).port[0]? = some (msg 0) ∧ ((boxed false).gang 1).state = .resident ∧
    ((boxed false).core (((boxed false).gang 1).coreOf 1)).contained = none ∧ (boxed false).setComplete 12 (meetScope 1 0) [] = true := by decide
/-- A supervisor context, bounds inside and outside the arena window, the permission to inject, each control of `ecc.inj`. -/
theorem witness_SystemRegistersTrapsAndInvalidation :
    ((st 0).readSreg 0x00C).isSome = true ∧ (st 0).readSreg 0x030 = none ∧ (st 0).me.sup = false ∧
    ((st 0).updMe fun c => { c with sup := true }).me.sup = true ∧ (st 0).boundsOk 0 0x20000 = true ∧ (st 0).boundsOk 0 0x20001 = false ∧
    ((st 0).vf (st 0).myVf).cfg = some cfg ∧ cfg.inject = true ∧ ¬((st 1).vf 5).cfg.isSome = true ∧
    (st2 0 0x10000).me.st ≠ 255 ∧ ((st2 0 0x10000).translate 0 0x10000 true).toOption.isSome = true ∧
    (st 0).setComplete 0 1 [] = true ∧ (pending wr5).setComplete 0 1 [5] = false := by decide
/-- `eret` as the last instruction of its block: a target outside the bounds, with an illegal header, and a legal one. -/
theorem witness_eret :
    (let s := (ending 0).updMe fun c => { c with mode := .ready, pc := mkPc 0 0x1000, hdr := 0xFE0000F8F8F8F800, tpc := mkPc 0 0x1000, tcause := 28 }
     pcIndex s.me.pc = hdrLen s.me.hdr ∧ s.me.inCode (pcBlock s.me.tpc) = true ∧ headerOk (s.fetch s.myCore (pcBlock s.me.tpc)).1 = true ∧
      pcIndex s.me.tpc < hdrLen (s.fetch s.myCore (pcBlock s.me.tpc)).1) ∧
    (st 0).me.inCode 0x8000 = false ∧ headerOk ((st 0).fetch 0 0x2000).1 = false ∧ pcIndex (st 0).me.pc ≠ hdrLen (st 0).me.hdr := by decide
/-- Requests and indices in and out of range, an evaluation asked for and one deferred, a due energy charge and a due period. -/
theorem witness_ClockGrantsAndEnergyBudgets :
    reqOk 0 = true ∧ reqOk 0xFFFFFFFF = false ∧ (0x11 : Word) &&& ~~~0x11 = 0 ∧ (2 : Word) &&& ~~~0x11 ≠ 0 ∧
    (st 0).askEvaluate.power.evaluate = true ∧ (st 0).now % 1000 = 0 ∧ ((st 0).queue 0).period ≠ 0 ∧ (st 0).now % ((st 0).queue 0).period = 0 ∧
    (let p := { (st 0).power with deferred := [0], rowMove := [(rowKey 0, (0, 0))] }
     let s := { st 0 with power := p, now := 2000 }
     s.power.deferred = [0] ∧ 0 ≤ s.now ∧ (∃ e ∈ s.power.rowMove, e.1 = rowKey 0 ∧ e.2.1 + 2000 ≤ s.now) ∧
      (s.gangs.filter fun e => e.2.state = .resident).length = 1 ∧ (s.gang 1).sheds.Nodup) := by decide

/-! ### Engines, tiles, conversions and the grammar engine at issue -/

/-- A descriptor in memory at the address in x2, as `copy`, `coll.start` and `cbk.ld` read it. -/
def described (ws : List Word) : State :=
  ((List.range ws.length).zip ws).foldl (fun s e => s.setMemQ 0 (Memory.setDword (s.memQ 0) (0x100000 + 8 * e.1) 0xFF e.2)) (st2 0 0x10000)
theorem witness_EnginesCollectivesAndSealsBegin :
    (let ws : List Word := [0x10100, 0x10000, 8, 0, 0, 0, 0, 0]
     syncOk ((described ws).syncLoad 0 0x10000 8) = true ∧ descOk (described ws) 0 (engDesc ws) = true ∧
      (farShed (described ws) 0 (engDesc ws)) = some 0 ∧ descOk (described ws) 0 (engDesc [0x10101, 0x10000, 8, 0, 0, 0, 0, 0]) = false ∧
      (described ws).me.cp ≠ 255) ∧
    lowestFree ((st 0).core 0).handles = some 0 ∧ lowestFree ((List.range 16).map fun i => (i, ({ coll := 0, member := 0 } : Handle))) = none := by decide
/-- A collective that waits, one done and one whose members differ; a buoy and a seal at a durable address. -/
theorem witness_collectives_buoys_and_seals :
    (let s := (st 0).updCore 0 fun c => { c with handles := [(3, { coll := 1, member := 0 })] }
     (s.core 0).handles.get? 3 = some { coll := 1, member := 0 }) ∧
    (((st2 0 0x20000).translate 0 0x20000 true).toOption.map fun h => pteDur h.w0) = some true ∧
    (((st2 0 0x10000).translate 0 0x10000 true).toOption.map fun h => pteDur h.w0) = some false ∧
    pcIndex (st 0).me.pc ≠ hdrLen (st 0).me.hdr ∧ (0x100 : Word).extractLsb' 2 6 = 0#6 ∧ (0x100 : Word).extractLsb' 8 56 ≠ 0#56 ∧
    imageFault [1, 0x400, 0x400, 0, 0, 0, 0, 0] = none ∧ imageFault [0, 0x400, 0x400, 0, 0, 0, 0, 0] = some 0 ∧
    (st 0).setComplete 0 6 [] = true ∧ (pending (.write 0x3000000000 0xFF 7 none none [])).setComplete 0 6 [5] = false ∧
    (∀ i < 8, (st 0).copyWorks (0x3000000000 + 8 * i) false = true ∧ (st 0).copyWorks (0x3000000000 + 8 * i) true = true) := by decide
def tile : TileOp := { func := 2, ctx := 22, acc := 0, atype := 0, btype := 0, d := 16, a := 0, b := 0, c := 0, started := true, done := 0, parked := none,
                       cls := 0, fmtA := 0, fmtB := 0, flags := 0, slots := [], mismatch := 0, id := 9, before := [], carry := [], joined := false, leader := 2, abort := none }
def cvt0 : CvtOp := { ctx := 11, n := 1, scale := 0, src := 0, dst := 0, srcType := 10, ty := 9, rnd := 0, sat := false, done := 1, parked := none,
                      flags := 0, candN := false, candMag := 0, abort := none, id := 9, before := [], carry := [] }
/-- A guard that is off and one that is on; registers that pass and break R237; a gmma at the head, finished or not; a finished conversion. -/
theorem witness_TileAndConversionOperationsQueueAndRetire :
    ((st 2).core 2).z.getLsbD 0 = false ∧ drainCheck tf (st 2) = none ∧ (st 2).me.tl ≠ 255 ∧ ((st 2).core 2).tiles.length < 4 ∧
    (let s := (st 2).updCore 2 fun c => { c with tiles := [tile] }
     s.tileHead 2 = some tile ∧ (s.core 2).contained = none ∧ (s.gang 1).rowCores 0 = [2] ∧ tile.done < tile.total) ∧
    ({ tile with done := 4096 }.total ≤ { tile with done := 4096 }.done) ∧
    (((st 1).updCore 1 fun c => { c with cvt := [cvt0] }).core 1).cvt.head? = some cvt0 ∧ cvt0.n ≤ cvt0.done ∧
    ((st 1).rx 2).toNat % (typeWidth 10 / 8) = 0 ∧ ((st2 1 1).rx 2).toNat % (typeWidth 10 / 8) ≠ 0 := by decide
def gram : Grammar := { nstate := 2, start := 0, nclass := 1, vocab := 8, clstab := 0x10000, trtab := 0x10100, masktab := 0x10200, accept := 0, state := 0,
                        depth := 0, stack := Vector.replicate 8 0, cache := [] }
/-- No configuration; a token, its class and its transition; a mask that is cached and one that is not; a state word that fits. -/
theorem witness_GrammarEngineAndCodebooks :
    ((st 1).core 1).grammar = none ∧ (7 : Word).toNat < gram.vocab ∧ gram.vocab ≤ (8 : Word).toNat ∧
    syncOk ((st 1).syncByte 11 (gram.clstab + 7)) = true ∧ syncOk ((st 1).syncHalf 11 gram.trtab) = true ∧
    (0 : Word).toNat < chunks gram.vocab ∧ gram.cache.get? 0 = none ∧ syncOk ((st 1).syncLoad 11 gram.masktab 8) = true ∧
    ((st 0).rx 2).toNat ≤ 63 ∧ (0xF3F : Word) &&& ~~~0xF3F = 0 ∧ (0x40 : Word) &&& ~~~0xF3F ≠ 0 ∧
    syncOk ((st2 0 0x10000).syncLoad 0 0x10000 4) = true := by decide

/-! ### Commands, gangs and the keeper -/

def packet (body : List Byte) : Packet := { src := 9, flags := 0, vfq := 0, seq := 0, depseq := 0, depq := 0, rsv1 := 0, len := BitVec.ofNat 32 body.length,
                                            rsv2 := 0, tag := 0, body := body }
def bound (n : Nat) : State := (st 0).setQueue 0 { Queue.reset with source := some 9, cmds := (List.range n).map fun i =>
  { seq := BitVec.ofNat 32 i, flags := 0, depseq := 0, depq := 0, tag := 0, kind := .stop, started := true } }
def obj (pending : Bool) : Obj := { name := [], base := 0, size := 0, records := [some Image.reset, none], reqmask := 0, binds := [], covers := [], entry := 0,
                                    imports := none, pending := pending, loadId := 5 }
def loaded : State := (bound 0).setVf 0 { Vf.reset with cfg := some cfg, paddock := some { x := 0, y := 0, w := 2, h := 1 }, objs := [(1, obj false)] }
/-- The body of object 1 and record n of a LAUNCH. -/
def launchBody (n : Byte) : List Byte := [1, 0, 0, 0, n, 0, 0, 0] ++ List.replicate 8 0
/-- A message from the bound source and from another; a malformed one; a late SEQ; a queue with room, one short of full, and full. -/
theorem witness_CommandsAreChecked :
    (bound 0).keeper.paused = false ∧ ((bound 0).queue 0).source = some (packet []).src ∧
    ((st 0).queue 0).source ≠ some (packet []).src ∧ (packet []).wellFormed true = true ∧ { packet [] with flags := 4 }.wellFormed true = false ∧
    (packet []).seq = ((bound 0).queue 0).expected ∧ 256 < (((bound 0).queue 0).expected - { packet [] with seq := 0xFFFFFEFF }.seq).toNat := by decide
theorem bound_length (n : Nat) : ((bound n).queue 0).cmds.length = n := by
  show ((List.range n).map _).length = n
  simp
theorem witness_full_queues : ((bound 255).queue 0).cmds.length < 256 ∧ 256 ≤ ((bound 256).queue 0).cmds.length := by
  simp [bound_length]
/-- A LAUNCH of a record that fits, of a broken one and of no object; a LOAD under a free number; an UNLOAD of an object that nobody counts. -/
theorem witness_CommandsAreCheckedThenTakeEffect :
    (loaded.launchImage 0 1 0 0).toOption.isSome = true ∧ (loaded.launchImage 0 1 1 0).toOption.isNone = true ∧
    (loaded.launchImage 0 2 0 0).toOption.isNone = true ∧ (packet (launchBody 0)).field 0 4 = 1 ∧ (packet (launchBody 0)).field 4 4 = 0 ∧
    (packet (launchBody 1)).field 4 4 = 1 ∧ (packet (launchBody 0)).wellFormed (decide ((launchBody 0).length = 16)) = true ∧
    (loaded.queue 0).cmds = [] ∧ (loaded.vf 0).objs.get? 2 = none ∧ ((loaded.vf 0).objs.get? 1) = some (obj false) ∧
    loaded.refCount 0 (obj false) = 0 ∧ (packet [2, 0, 0, 0, 0, 0, 0, 0]).field 0 4 = 2 ∧
    (loaded.gangs.get? 1).isSome = true ∧ (loaded.gang 1).vfq = 0 ∧ (loaded.gang 1).state ≠ .complete := by decide
def gangs (l : List (Nat × Gang)) : State := { loaded with gangs := l }
def waiting (n : Nat) (st : GangState) : Gang := { Gang.reset with state := st, image := { Image.reset with params := 1 }, runnable := n }
/-- A waiting gang whose command may start; a READY gang of a higher class than the resident one; a slice used up. -/
theorem witness_GangsAreMadeReadyAndPreempted :
    (let s := (gangs [(1, waiting 0 .waiting)]).setQueue 0 { Queue.reset with cmds :=
        [{ seq := 0, flags := 0, depseq := 0, depq := 0, tag := 0, kind := .launch 1, started := false }] }
     (s.gang 1).state = .waiting ∧ (s.gang 1).waits = none ∧ s.master.ready = true ∧ (s.queue 0).exhausted = false ∧
      (s.queue 0).cmds.find? (fun c => c.seq = (s.gang 1).seq) = (s.queue 0).cmds.head? ∧
      ((s.queue 0).cmds.all fun c => s.mayStart 0 c) = true) ∧
    (let full : Gang := { waiting 1 .ready with image := { Image.reset with gw := 2 } }
     let s := (gangs [(1, { waiting 0 .resident with vfq := 1 }), (2, full)]).setQueue 1 { Queue.reset with cls := 2 }
     (s.preempted 0).contains 1 = true ∧ (s.gang 1).switchAt = none) ∧
    (let full : Gang := { waiting 1 .ready with image := { Image.reset with gw := 2 } }
     let s := { gangs [(1, waiting 0 .resident), (2, full)] with now := 2000000 }
     (s.gang 1).releaseTick + 1000 * cfg.slice ≤ s.now ∧ (s.runnable 0).map (·.1) = [2] ∧ (s.fits 0 (s.leavers 0) full) = none ∧
      (s.fits 0 (1 :: s.leavers 0) full).isSome = true ∧ (s.sliceLeavers 1).contains 1 = true ∧ (s.leavers 0).contains 1 = false ∧
      (∀ e ∈ s.gangs, e.1 ≠ 1 → s.sliceUsed e.2 = false)) := by decide
/-- A switch tick to come and one that has come, kept and discarded; drained accesses; a gang at its end; one that fits; one launching; one restored. -/
theorem witness_GangsPassThroughTheirStates :
    (let s := { gangs [(1, { waiting 0 .resident with switchAt := some 5, discard := true })] with now := 5 }
     (s.gang 1).switchAt = some 5 ∧ 5 ≤ s.now ∧ (s.gang 1).discard = true ∧ (4 : Nat) < 5) ∧
    (let s := gangs [(1, waiting 0 .switching)]
     (s.gang 1).state = .switching ∧ (s.gang 1).switchAt = none ∧ ∀ k ∈ (s.gang 1).ctxs, (s.ctx k).ops = []) ∧
    (let s := [0, 11, 22].foldl (fun (t : State) k => t.updCtx k fun c => { c with mode := .halted }) (gangs [(1, waiting 0 .resident)])
     (s.gang 1).discard = false ∧ s.gangDone (s.gang 1) = true ∧ s.gangPerformed 1 (s.gang 1) = true) ∧
    (let s := { gangs [(2, waiting 0 .saved)] with sheds := [] }
     (s.vf 0).resize = none ∧ s.moving 0 = false ∧ s.master.ready = true ∧ s.keeper.layAt = none ∧
      ((s.runnable 0).findSome? fun e => (s.fits 0 [] e.2).map fun p => (e.1, p)) = some (2, (0, 0))) ∧
    (let s := gangs [(1, waiting 0 .launching)]
     (s.gang 1).state = .launching ∧ s.power.evaluate = false ∧ s.diesUp (s.gang 1) = true) ∧
    (let p : SavedShed := { shed := .reset, cores := List.replicate 3 .reset, ctxs := List.replicate 33 .reset, pad := [(0, 1)], poison := [] }
     let s := gangs [(1, { waiting 0 .restoring with saved := [p] })]
     (s.gang 1).state = .restoring ∧ s.diesUp (s.gang 1) = true ∧ s.missing (s.gang 1) = [] ∧ (s.gang 1).freed = [] ∧ (s.gang 1).image.note.getLsbD 31 = false ∧
      (s.gang 1).sheds.Nodup ∧ (s.gang 1).sheds[0]? = some 0 ∧ (s.gang 1).saved[0]? = some p ∧ p.ctxs.length = 33 ∧ Memory.wf p.pad = true ∧
      (∀ z ∈ (s.gang 1).saved, ∀ c ∈ z.pad, c.1 < Config.padBytes) ∧ s.memoryWf = true) := by decide
/-- A launch whose transfer cores start at a block in bounds with a legal header, and whose other cores have no first block. -/
theorem witness_a_release_into_a_block :
    let g : Gang := { waiting 0 .launching with image := { Image.reset with firstT := 0x200, firstC := 0xFFFFFFFF, firstA := 0xFFFFFFFF, cbound := 0x1000 } }
    let s := (gangs [(1, g)]).setMemQ 0 (Memory.setDword [] 0x1000 0xFF 0xFE0100F8F8F8F800)
    pcBlock (mkPc 0 (cfg.abase + 8 * (g.image.first 0).toNat)) = 0x1000 ∧ g.image.first 0 ≠ 0xFFFFFFFF ∧
    (∀ c ∈ g.cores, roleOf c ≠ 0 → g.image.first (roleOf c) = 0xFFFFFFFF) ∧ 0x1000 < g.image.cbound.toNat * 8 ∧ isPad 0x1000 = false ∧
    g.gone 0x1000 = false ∧ headerOk (s.plain cfg.arenaKey 0 0x1000) = true ∧ (s.core 0).icache = [] := by decide
/-- A LOAD of no legal object, and one that would wait where its walk does. -/
theorem witness_loads :
    (match ((((bound 0).accept (packet [2, 0, 0, 0, 0, 0, 0, 0])).withLoad (packet [2, 0, 0, 0, 0, 0, 0, 0])).markStarted 0 0).loadObject 0 2 [] with
     | .error st => st != loadWaits
     | .ok _ => false) = true ∧
    (match ((bound 0).updOrd fun o => { o with partials := o.partials.set 0 [(0, { fn := .or, size := 8, dws := [(0, 1)], reds := [] })] }).loaderAddr cfg 0x30000 with
     | .error st => st == loadWaits
     | .ok _ => false) = true := by decide
/-- A configuration inside every limit of R331. -/
def legal : VfCfg := { cfg with
  uroot := some 0x1000000, sroot := some 0x1002000, spBase := 0x1800000
  grant := [{ base := 0x1000000, len := 0x1000000, dur := false }, { base := 0x3000000000, len := 0x100000, dur := true }] }
def mgmt : Mgmt := { src := 0, flags := 0, vfq := 0, seq := 0, depseq := 0, depq := 0, rsv1 := 0, len := 0, rsv2 := 0, tag := 0, signed := List.replicate 32 0, sig := [] }
def lay (flags : BitVec 16) : LayupBody := { tpkg := 0, tflags := flags, rsv := 0, tbase := 0, tmkey := 0, refusesAt := none, serial := 0, cells := [(0, 1)], slots := [], keyed := [] }
def tables : TablesBody := { rows := some [{ m := 4, v := 4, power := 0 }], qtrs := some [{ n := 4, y := 4, power := 0, ecc := false }], statics := none, coeffs := none,
                             caps := some (0, 0, 0), budgets := [] }
/-- The source, a good and a bad header, and the state that each command asks for. Whether a signature verifies is a free function, and the
claim says what happens where it does and where it does not. -/
theorem no_unreadable : (st 0).unreadable { noImage with layouts := [] } = [] := by
  have h : (st 0).gangs.all (fun e => !decide (e.2.state = .saved)) = true := by decide
  have h2 : ∀ e ∈ (st 0).gangs, ¬ e.2.state = .saved := by simpa using h
  have h3 : (st 0).gangs.filter (fun e => decide (e.2.state = .saved) && !([] : List Nat).contains e.2.layout) = [] :=
    List.filter_eq_nil_iff.mpr fun e he => by simp [h2 e he]
  simp only [State.unreadable, h3, List.isEmpty_nil, if_true]
theorem some_unreadable : (gangs [(1, waiting 0 .saved)]).unreadable { noImage with layouts := [] } ≠ [] := by
  refine List.ne_nil_of_mem (a := 0) (List.mem_filter.mpr ⟨List.mem_range.mpr (by omega), ?_⟩)
  decide
theorem witness_KeeperCarriesOutManagementCommands :
    mgmt.src = (st 0).keeper.source ∧ mgmt.headerOk = true ∧ { mgmt with flags := 4 }.headerOk = false ∧ { mgmt with src := 1 }.src ≠ (st 0).keeper.source ∧
    (List.replicate 32 (0 : Byte)).length = 32 ∧ loaded.busyQueue 0 = true ∧ (st 0).busyQueue 1 = false ∧
    (let p : Rect := { x := 1, y := 0, w := 1, h := 1 }
     (st 0).vfs.any (fun e => e.1 ≠ 0 && e.2.rects.any (rectsMeet p)) = false ∧ spillArea p + saveArea p.w p.h ≤ cfg.spSize ∧
      cfg.spSize < spillArea { p with w := 2, h := 2 } + saveArea 2 2 ∧
      shedsOut (some { x := 0, y := 0, w := 2, h := 1 }) (some { p with x := 0 }) = [1]) ∧ (st 0).gangOfShed 1 = none ∧
    State.reset.cfgOk 0 legal = true ∧ State.reset.cfgOk 0 { legal with slice := 499 } = false ∧
    (st 0).tablesOk ((st 0).power.with tables) tables = true ∧ (st 0).tablesOk ((st 0).power.with noTables) { noTables with budgets := [{ vfq := 0, b := 0, p := 1 }] } = false ∧
    layupOk (lay 1) = true ∧ layRestore (lay 1) = false ∧ layupOk (lay 0) = false ∧ layRestore (lay 5) = true ∧ State.reset.anyOnSheds = false ∧
    (State.reset.vfs.all fun e => e.2.clean) = true ∧ (lay 5).serial.toNat = leAt State.reset.keeper.identity 0 8 ∧ Memory.wf (lay 5).cells = true ∧
    (st 0).unreadable { noImage with layouts := [] } = [] ∧ (gangs [(1, waiting 0 .saved)]).unreadable { noImage with layouts := [] } ≠ [] ∧
    ((st 0).updShed 3 fun h => { h with scrub := true }).shed 3 ≠ (st 0).shed 3 ∧ ((st 0).shed 3).gang = none := by
  exact ⟨by decide, by decide, by decide, by decide, by decide, by decide, by decide, by decide, by decide, by decide, by decide, rfl,
    by simp [State.tablesOk, budgetOk], by decide, by decide, by decide, by decide, by decide, by decide, by decide, by decide, no_unreadable, some_unreadable, by decide, by decide⟩

/-! ### The forms that wait, and the clauses beside the plain ones -/

/-- An address whose walk cannot end while a reduction of the root entry is outstanding. -/
def held : State := (st 0).updOrd fun o => { o with partials := o.partials.set 0 [(0, { fn := .or, size := 8, dws := [(0, 1)], reds := [] })] }
theorem witness_a_walk_that_waits :
    (match held.translate 0 0x30000 false with
     | .error r => r == walkWaits
     | .ok _ => false) = true := by decide
/-- `waita` behind an acquire that is still pending, and on a doubleword with a reduction outstanding. -/
theorem witness_waita_waits :
    (pending (.read (.x 3 0 8 false) [0x100000] [] true)).mayMove 0 (readAs 9 0x100000) = false ∧
    (st 0).mayMove 0 (readAs 9 0x100000) = true ∧ (st 0).readPoisoned 0 9 0x100000 0xFF = false ∧
    ((st 0).updOrd fun o => { o with partials := o.partials.set 1 [(0x100000, { fn := .or, size := 8, dws := [(0x100000, 1)], reds := [] })] }).redsSettled 0 0x100000
      = false := by decide
/-- `bar` issued again after its episode, and issued first. -/
theorem witness_bar_again :
    ((st 0).updMe fun c => { c with passed := some 1 }).me.passed = some 1 ∧ (st 0).me.passed = none ∧ (st 0).gangRuns 1 = true := by decide
/-- `yard.rd` behind an own yard write, and of a word that is poisoned. -/
theorem witness_yard_reads :
    (pending (.yardFallback 3 0)).me.ops.all (fun o => !OpKind.yard o.kind) = false ∧
    (let y : YardTable := { YardTable.reset with cur := { YardGen.vacant with bad := [0, 64] } }
     ((((st 0).updGang 1 fun g => { g with yards := [(0, y)] }).gang 1).yard 0).cur.bad.contains 64) = true := by decide
/-- Four pins on other tables, one of them revoked or none. -/
theorem witness_yard_pins :
    let p (n : Nat) (r : Bool) : Pin := { table := BitVec.ofNat 8 n, gen := 0, revoked := r }
    ([p 1 false, p 2 false, p 3 false, p 4 true].filter (·.table ≠ 0)).countP (!·.revoked) < 4 ∧
    4 ≤ ([p 1 false, p 2 false, p 3 false, p 4 false].filter (·.table ≠ 0)).countP (!·.revoked) := by decide
/-- A poisoned generation at a block end; an owner with nothing left that retires; a helper that waits in EXIT. -/
theorem witness_block_ends_and_stops :
    (let y : YardTable := { YardTable.reset with cur := { YardGen.vacant with bad := [0] } }
     let s := ((ending 0).updGang 1 fun g => { g with yards := [(0, y)] })
     (s.yardUse 0 (hdrTable (s.ctx 0).hdr) (hdrP (s.ctx 0).hdr)).2.1.bad ≠ []) ∧
    ((recording 0).core 0).seq.owner = some 0 ∧ ((recording 0).core 0).seq.left = 0 ∧
    (Mode.exiting 0 none).live = true ∧ (0 : BitVec 3) = 0 := by decide
/-- A message of a port before which none for its mailbox comes. -/
theorem witness_first_message : ∀ e ∈ ((boxed false).core 0).port, e.mbox = (msg 0).mbox → e.order ∉ (msg 0).after := by decide
/-- A finished collective of one member whose result is still to be written, and stands. -/
def joined : Join := { ctx := 0, addr := 0x10000, buf := 0x10100, word1 := 0, contrib := some [1], id := 3, before := [], parked := none, refused := false }
def coll (done : Option Word) : Coll :=
  { group := 0, gang := 1, role := 0, index := 0, parts := [], joined := [(memberKey 1 0, joined)], drained := [], done := done, result := [],
    writes := [] }
theorem witness_collective_ends :
    (match (st 0).writeElems 0 0 (fun _ _ _ => true) 0x10100 [] with
     | .ok (t, _) => t.landed 0 []
     | _ => false) = true ∧
    ((st 0).collGangs (coll none)).all (·.isSome) = true ∧ (st 0).collMembers (coll none) ≠ [] ∧
    (∀ m ∈ (st 0).collMembers (coll none), memberLost (st 0) (coll none) m = false →
      ((coll none).joined.get? m).isSome = true ∧ (st 0).gangRuns (memberGang m) = true) := by decide
/-- A full slice queue and a full counter; an operation on a core that runs. -/
theorem witness_tiles_that_wait :
    4 ≤ (((st 2).updCore 2 fun c => { c with tiles := [tile, tile, tile, tile] }).core 2).tiles.length ∧
    ((st 2).updMe fun c => { c with tl := 255 }).me.tl = 255 ∧ (st 2).coreRuns 2 = true ∧ (st 1).coreRuns 1 = true := by decide
/-- An engine operation of a core that runs, whose destinations stand under no other key. -/
theorem witness_engine_destinations :
    (engine eng).coreRuns eng.core = true ∧ eng.refused = false ∧ (engine eng).PlainDsts [some (0x100100, 5)] ∧ imageOf (padLoc 0 0) = none ∧
    (engine eng).SameKey 0 (padLoc 0 0) := by
  refine ⟨by decide, rfl, ?_, by decide, .inl (by decide)⟩
  unfold State.PlainDsts
  simp only [List.mem_singleton, Option.some.injEq, forall_eq]
  exact ⟨⟨by decide, Or.inr fun k hk => nomatch hk⟩, fun p r hp hr _ => by rw [hp, hr]⟩
/-- A place under its page's key, and an operation that no `waita` lets read ahead. -/
theorem witness_keys : (pending wr5).SameKey 5 0x100000 ∧ ((pending rd5).ctx 0).ahead = none ∧
    (writes [{ rec0 with loc := 0x3000000000 }]).redsSettled (home 0x3000000000) 0x3000000000 = true :=
  And.intro (Or.inr fun k (hk : Table.get? [] _ = some k) => nomatch hk) (by decide)
/-- A line that may move; a walk that is served and may read its entry, with a core that joins it. -/
theorem witness_walks_and_lines :
    (st 0).movable 0 { state := .s, slice := none, asks := List.replicate 16 5, moved := none, low := false } = true ∧
    (let w : Walk := { core := 0, wr := false, joins := [], vf := 0, sup := false, va := 0x30000, table := 0, level := 0, w0 := none, discard := false, barred := [] }
     let s := (st 0).updOrd fun o => { o with walks := [w] }
     s.ord.walks.find? (fun v => v.same 0 0 false 0x30000) = some w ∧ s.served 0 w = true ∧ s.entryReady 0 w.entry = true ∧
      s.poisoned 0 w.entry = false ∧ w.core = 0 ∧ w.core ≠ 1 ∧ (1, false) ∉ w.joins ∧
      (s.updOrd fun o => { o with poison := [(w.entry, 5)] }).poisoned 0 w.entry = true ∧ (w.next cfg leaf 0).2.isSome = true) := by decide
/-- An access of a sleeping instruction that misses, with no walk on its page, and one that a cached leaf serves. -/
theorem witness_misses :
    let s (va : Word) : State := (st2 0 va).updMe fun c => { c with mode := .asleep (.again (.waita mf)) }
    ((s 0x30000).missed 0 0 false 0x30000).isSome = true ∧ (s 0x10000).missed 0 0 false 0x10000 = none ∧ (s 0x30000).ord.walks = [] ∧
    ((s 0x30000).tlbFind 0 0 false 0x30000).isNone = true ∧ (0x30000 : Word).toNat < 2 ^ 48 := by decide
/-- A decoding page without an active lane among its eight, and `pref` where a walk waits. -/
theorem witness_decoding_lanes :
    ((page 0x0150000000000000).laneMask { mf with size := 4, kn := 1 }).extractLsb' 0 8 = 0#8 ∧
    held.hasPartial 0 = true ∧ held.hasPartial 0x100000 = false := by decide
/-- A turn of the keeper's processor, a free divider, and a divider at work. -/
theorem witness_turns :
    ({ State.reset with turns := [.keeper] } : State).turns = [.keeper] ∧ State.reset.keeper.lost = false ∧
    ((recording 1).core 0).dividing (.div rr) = false ∧
    (((recording 1).updCore 0 fun c => { c with divider := some (0, []) }).core 0).dividing (.div rr) = true ∧
    (recording 1).wantsVector 0 false = false ∧ State.reset.now / 1000 = (State.reset.now + 999) / 1000 := by decide
/-- RISC-V's own encodings: `addi x1, x0, -1`, then `c.li x5, 3`, the latter at address 4. -/
theorem test_keeper_processor :
    ((KeeperCpu.boot [0x93, 0x00, 0xF0, 0xFF, 0x8D, 0x42]).next.map fun c => (c.rd 1, c.pc)) = some (0xFFFFFFFF, 4) ∧
    ((KeeperCpu.boot [0x93, 0x00, 0xF0, 0xFF, 0x8D, 0x42]).next.bind KeeperCpu.next).map (fun c => (c.rd 5, c.pc)) = some (3, 6) := by decide
/-- A level-two slice that is not full. -/
theorem witness_slices : ∀ q < 4, ((st 0).l2Q q).length < sliceLines := by decide
/-- The master's die has been reset: another survives, or none. -/
theorem witness_handover :
    let s := { st 0 with master := { (st 0).master with ready := false } }
    s.master.ready = false ∧ 1 < s.nq ∧ (s.quarterAt 1).up = true ∧ (∀ p < 1, p ≠ s.master.front → (s.quarterAt p).up = false) := by decide
/-- A LAUNCH that waits for a load, and its gang once the load has ended, failed, or left the number to another. -/
theorem witness_launches_that_wait :
    (let s := (bound 0).setVf 0 { Vf.reset with cfg := some cfg, objs := [(1, obj true)] }
     ((s.vf 0).objs.get? 1) = some (obj true) ∧ (obj true).pending = true) ∧ loaded.master.ready = true ∧
    (let g := { waiting 0 .waiting with obj := 1, waits := some 5 }
     let s := gangs [(1, g)]
     g.waits = some 5 ∧ ((s.vf 0).objs.get? g.obj) = some (obj false) ∧ (obj false).loadId = 5 ∧ (obj false).pending = false ∧
      (s.launchImage 0 g.obj g.recIdx g.params).toOption.isSome = true) ∧
    (loaded.vf 0).objs.get? 3 = none ∧ (∀ e ∈ loaded.gangs, e.2.owed = none) := by decide
/-- A lost keeper; a migration's phases at the source, early and due; at the destination in and out of order, with and without an import block. -/
theorem witness_management :
    ({ st 0 with keeper := { (st 0).keeper with lost := true } }).keeper.lost = true ∧ (st 0).keeper.lost = false ∧
    (st 0).keeper.incoming.get? 0 = none ∧ Table.getD (st 0).keeper.migrating 0 0 = 0 ∧ (st 0).stillNamed 0 = false ∧
    (let o : Outgoing := { copied := { bytes := [], slots := [], bad := [] }, writes := [], cutOver := 0 }
     (some o).any (fun o => decide (5 < o.cutOver + 100000000)) = true ∧ (some o).any (fun o => decide (100000000 < o.cutOver + 100000000)) = false) ∧
    (let i : Incoming := { pages := { bytes := [], slots := [], bad := [] }, areas := [], writes := [], applied := 0, first := 0 }
     let s := { st 0 with keeper := { (st 0).keeper with incoming := [(0, i)], migrating := [(0, 2)] } }
     s.keeper.incoming.get? 0 = some i ∧ (s.vf 0).cfg.isSome = true ∧ Table.getD s.keeper.migrating 0 0 = 2 ∧ s.lacksImport 0 = false ∧
      ({ s with gangs := [(1, { waiting 0 .saved with featLive := 0x8000000000000000 })] } : State).lacksImport 0 = true) ∧
    ((st 0).vf 1).cfg = none ∧ ((st 0).vf 0).cfg.isSome = true ∧ (st 0).anyOnSheds = true ∧ ((st 0).shed 1).scrub = false ∧
    (st 0).keeper.layAt = none ∧ (st 0).containing = false ∧
    (gangs [(1, { waiting 0 .resident with openEvents := 1 })]).containing = true := by decide
/-! ### Turns of the units, of queues and of the keeper -/

/-- An operation at the head of a core's slice, with its first-level cache and its page at 0x10000 of attributes w1. -/
def tileState (w1 : Word) (op : TileOp) : State := (st 2).updCore 2 fun c =>
  { c with tlb := [{ vf := 0, sup := false, base := 0x10000, size := 0x10000, w0 := leaf, w1 := w1 }]
           l1 := [(0x100000, { state := .e, low := false })], tiles := [op] }
/-- A `tmma` of a page of 8-bit integers, both strides 0, so that a group lies within a line. -/
def product : TileOp := { tile with func := 1, a := 0x10000, b := 0x10000 }
def int8 : State := tileState 0x0100000000000000 product
/-- Do a byte of the line and the state come out as they are? -/
def reads8 (isB : Bool) (cls n : Nat) : Bool :=
  match int8.tileElem 22 9 (0x10000 + BitVec.ofNat 64 n) 0 isB 0 cls [] with
  | .ok (_, c, t) => c = 3 && decide (t = int8)
  | .error _ => false
theorem int8_reads : ∀ b : Bool, ∀ cls ∈ [0, 3], ∀ n < 64, reads8 b cls n = true := by decide +kernel
/-- Elements of the line at 0x10000 leave the state as it is. -/
theorem int8_elems (b : Bool) : ∀ (l : List (Word × Nat)), (∀ e ∈ l, e.2 = 0 ∧ ∃ n < 64, e.1 = 0x10000 + BitVec.ofNat 64 n) → ∀ cls, cls = 0 ∨ cls = 3 →
    ∃ vs c, int8.tileElems 22 9 b 0 cls [] l = .ok (vs, c, int8) ∧ (c = 0 ∨ c = 3)
  | [], _, cls, hc => ⟨_, cls, rfl, hc⟩
  | (va, half) :: rest, h, cls, hc => by
    obtain ⟨h0, n, hn, rfl⟩ := h _ (List.mem_cons_self ..)
    subst h0
    have hr := int8_reads b cls (by simpa using hc) n hn
    unfold reads8 at hr
    split at hr
    · rename_i v c t he
      simp only [Bool.and_eq_true, decide_eq_true_eq] at hr
      obtain ⟨rfl, rfl⟩ := hr
      obtain ⟨vs, c, hrest, h3⟩ := int8_elems b rest (fun e he => h e (List.mem_cons_of_mem _ he)) 3 (.inr rfl)
      exact ⟨v :: vs, c, by rw [State.tileElems, he]; simp only [hrest], h3⟩
    · cases hr
/-- So does the format of the page. -/
def fmt8 : Bool := match int8.operandFmt 22 0x10000 0 0 with
  | .ok (f, t) => f = 1 && decide (t = int8)
  | .error _ => false
theorem int8_fmt : int8.operandFmt 22 0x10000 0 0 = .ok (1, int8) := by
  have h : fmt8 = true := by decide +kernel
  unfold fmt8 at h
  split at h
  · rename_i he
    simp only [Bool.and_eq_true, decide_eq_true_eq] at h
    rw [he, h.1, h.2]
  · cases h
/-- A group of a product that reads its operands. -/
theorem witness_tile_group :
    ∃ as cls t, int8.groupA 22 product 0 0 = .ok (as, cls, t) ∧ ∃ ms t2, t.rowB cls 0 (int8.tileMates 2 product) = .ok (ms, t2) := by
  obtain ⟨as, cls, ha, hc⟩ := int8_elems false (aAddrs 0x10000 0 1 0) (fun e he => by
    simp only [aAddrs, List.mem_map, List.mem_range] at he
    obtain ⟨n, hn, rfl⟩ := he
    exact ⟨rfl, n % 16, by omega, by simp [fmtSize]⟩) 0 (.inl rfl)
  obtain ⟨bs, k, hb, -⟩ := int8_elems true (bAddrs 0x10000 0 1 0) (fun e he => by
    simp only [bAddrs, List.mem_map, List.mem_range] at he
    obtain ⟨n, hn, rfl⟩ := he
    exact ⟨rfl, n % 64, by omega, by simp [fmtSize]⟩) cls hc
  have hsa : (product.c.extractLsb' 0 32).toNat = 0 := by decide
  have hsb : (product.c.extractLsb' 32 32).toNat = 0 := by decide
  have h1 : int8.groupA 22 product 0 0 = .ok (as, cls, int8) := by
    rw [State.groupA, show int8.operandFmt 22 product.a product.atype.toNat product.fmtA = _ from int8_fmt]
    dsimp only
    rw [if_neg (by decide), hsa]
    exact ha
  have h2 : int8.groupB 22 product cls 0 = .ok (bs, k, int8) := by
    rw [State.groupB, show int8.operandFmt 22 product.b product.btype.toNat product.fmtB = _ from int8_fmt]
    dsimp only
    rw [if_neg (by decide), hsb]
    exact hb
  have h3 : int8.tileHead 2 = some product := rfl
  refine ⟨as, cls, int8, h1, [(2, k, bs)], int8, ?_⟩
  show int8.rowB cls 0 [2] = _
  simp only [State.rowB, h3]
  rw [show product.ctx = 22 from rfl, h2]
/-- What stops a group: a format, a fault, or nothing. -/
def stops (s : State) (op : TileOp) : Nat := match s.groupA op.ctx op op.cls op.done with
  | .error (.format _) => 1
  | .error (.fault _ _) => 2
  | _ => 0
def withSup (s : State) : State := { s with gangs := s.gangs ++ [(2, { Gang.reset with state := .resident, sup := true })] }
/-- A slice's head that is abandoned, parked, not begun, a `tzero`, a joined `gmma`; pages of no format that it takes, and no page. -/
theorem witness_tile_turns :
    (∀ op ∈ [{ tile with abort := some (16, 0, 0) }, { tile with parked := some 3 }, { tile with func := 1, started := false }, { tile with func := 0 },
       { tile with joined := true }], (tileState 0 op).tileHead 2 = some op ∧ (tileState 0 op).coreRuns 2 = true ∧ (tileState 0 op).tileReady op = true ∧
       op.carry = [] ∧ op.done < op.total) ∧
    (let op := { tile with joined := true }
     (tileState 0 op).tileMates 2 op = [2] ∧ op.started = true ∧ op.parked = none ∧ op.abort = none) ∧
    stops (tileState 0 product) product = 1 ∧ stops (tileState 0 { product with a := 0x1000000000000 }) { product with a := 0x1000000000000 } = 2 ∧
    ((withSup int8).ctx 22).sup = false ∧ (withSup int8).supervisor (vfOf ((withSup int8).gang (((withSup int8).gangOfCore 2).getD 0)).vfq) ≠ none := by
  decide +kernel
/-- A drain's last row, of 4-byte elements, in the scratchpad. -/
def drain : TileOp := { tile with func := 3, a := pad, c := 256, done := 63 }
def drained : State := tileState 0 drain
def padHit (s : State) (va : Word) : Hit := { loc := padLoc 0 (va.toNat - Config.padWindow), w0 := 0, w1 := 0, page := 0, st := s }
theorem pad_translates (s : State) (k : Nat) (va : Word) (wr : Bool) (hk : shedOfCore (coreOfCtx k) = 0) (h : Config.padWindow ≤ va.toNat) :
    s.translate k va wr = .ok (padHit s va) := by
  simp only [State.translate, State.translateFor, if_pos h, hk, padHit]
def drainHit (j : Nat) : Hit := padHit drained (pad + BitVec.ofNat 64 (63 * 256) + BitVec.ofNat 64 (4 * j))
/-- Its 64 places translate one after another, lie apart and may be stored to. -/
theorem witness_tile_drain :
    drained.tileHead 2 = some drain ∧ drain.done < drain.total ∧ drain.carry = [] ∧ drained.memoryWf = true ∧
    drained.TranslateInTurn 22 4 (pad + BitVec.ofNat 64 (63 * 256)) drainHit 64 ∧ PlacesApart drainHit 64 4 ∧ drained.LetsPlaces 22 9 drainHit 64 := by
  refine ⟨rfl, by decide, rfl, by decide, fun j hj => ?_, ⟨?_, ?_⟩, ?_⟩
  · have hp : Config.padWindow ≤ (pad + BitVec.ofNat 64 (63 * 256) + BitVec.ofNat 64 (4 * j)).toNat := by
      have : ∀ j < 64, Config.padWindow ≤ (pad + BitVec.ofNat 64 (63 * 256) + BitVec.ofNat 64 (4 * j)).toNat := by decide +kernel
      exact this j hj
    cases j <;> exact pad_translates drained 22 _ true (by decide) hp
  · decide +kernel
  · have : ∀ i < 64, ∀ j < 64, i ≠ j → ((drainHit i).loc + 4 ≤ (drainHit j).loc ∨ (drainHit j).loc + 4 ≤ (drainHit i).loc) := by decide +kernel
    exact fun i j hi hj hij => ⟨this i hi j hj hij, fun _ => rfl⟩
  · have : ∀ j < 64, drained.mayMove 22 (writeAs 9 (dwordOf (drainHit j).loc)) = true ∧
        drained.redsSettled (qtrOfCtx 22) (dwordOf (drainHit j).loc) = true ∧ isPad (dwordOf (drainHit j).loc) = true := by decide +kernel
    exact fun j hj => ⟨(this j hj).1, (this j hj).2.1, .inl (this j hj).2.2⟩
/-- A drain into a collective: its handle and the collective. -/
theorem witness_tile_drain_coll :
    (let s := (tileState 0 { tile with func := 4, a := 3 }).updCore 2 fun c => { c with handles := [(3, { coll := 1, member := 0 })] }
     s.tileHead 2 = some { tile with func := 4, a := 3 } ∧ (s.core 2).handles.get? ({ tile with func := 4, a := 3 } : TileOp).a.toNat = some { coll := 1, member := 0 } ∧
     (s.updOrd fun o => { o with colls := [(1, coll none)] }).ord.colls.get? 1 = some (coll none)) := by decide +kernel
/-- Sums without and with infinities and NaNs, and an infinity against a zero. -/
theorem witness_group_sums :
    let v (x : Nat) : FVal := (fmtOf 10).value x
    Claims.finiteVal (v 0x3F800000) = true ∧ Claims.infiniteVal (v 0x7F800000) = true ∧ Claims.zeroVal (v 0) = true ∧ (v 0x7FC00000).isNan = true ∧
    (v 0x7F800000).neg? = false ∧ (v 0x3F800000).isNan = false := by decide +kernel
/-- A conversion of one element within the scratchpad, one whose operation is over, and one that is parked. -/
def cvt1 : CvtOp := { cvt0 with done := 0, src := pad, dst := pad + 0x100 }
def converting : State := (st 1).updCore 1 fun c => { c with cvt := [cvt1] }
/-- Does the read of its element leave the state as it is? -/
def readsPad : Bool := match converting.cvtRead cvt1 pad 1 with
  | .ok (_, t) => decide (t = converting)
  | .error _ => false
theorem witness_conversion_turn :
    (converting.core 1).cvt.head? = some cvt1 ∧ converting.coreRuns 1 = true ∧ cvt1.abort = none ∧ cvt1.parked = none ∧ cvt1.done < cvt1.n ∧ cvt1.carry = [] ∧
    cvt1.before = [] ∧ converting.memoryWf = true ∧ (∃ xs, converting.cvtRead cvt1 pad 1 = .ok (xs, converting)) ∧
    cvt1.n = cvt1.done + min 64 (cvt1.n - cvt1.done) ∧ (∀ t : State, t.TranslateInTurn 11 2 (pad + 0x100) (fun _ => padHit t (pad + 0x100)) 1) ∧
    PlacesApart (fun _ => padHit converting (pad + 0x100)) 1 2 ∧ converting.LetsPlaces 11 9 (fun _ => padHit converting (pad + 0x100)) 1 := by
  refine ⟨rfl, by decide, rfl, rfl, by decide, rfl, rfl, by decide, ?_, by decide, fun t j hj => ?_, ⟨by decide, fun i j hi hj h => ?_⟩, ?_⟩
  · have h : readsPad = true := by decide +kernel
    unfold readsPad at h
    split at h
    · rename_i xs t he
      exact ⟨xs, by rw [he, of_decide_eq_true h]⟩
    · cases h
  · obtain rfl : j = 0 := by omega
    exact pad_translates t 11 _ true (by decide) (by decide)
  · omega
  · have h : converting.mayMove 11 (writeAs 9 (dwordOf (padHit converting (pad + 0x100)).loc)) = true ∧
        converting.redsSettled (qtrOfCtx 11) (dwordOf (padHit converting (pad + 0x100)).loc) = true ∧
        isPad (dwordOf (padHit converting (pad + 0x100)).loc) = true := by decide +kernel
    exact fun j _ => ⟨h.1, h.2.1, .inl h.2.2⟩
/-- An integer conversion with scale 1, and one with another scale. -/
theorem witness_conversions : typeFloat 4 = false ∧ typeFloat 10 = true ∧ (0x40000000 : BitVec 32) ≠ 0x3F800000 := by decide
def cmd (seq : BitVec 32) (flags : Byte) (kind : CmdKind) (started : Bool) : Cmd :=
  { seq := seq, flags := flags, depseq := 0, depq := 1, tag := 0, kind := kind, started := started }
def queued1 (l : List Cmd) : State := loaded.setQueue 0 { Queue.reset with cmds := l, expected := 4, accepted := 4 }
/-- A queue whose head is a STOP; a LAUNCH, a LOAD or an UNLOAD that is next; one that waits for another; an UNLOAD that goes on; no master. -/
theorem witness_command_turns :
    (∀ k ∈ ([.stop, .launch 1, .load 2 [], .unload 1 false, .unload 7 true] : List CmdKind),
      let s := queued1 [cmd 1 0 k false]
      s.master.ready = true ∧ (s.queue 0).cmds.find? (fun e => !e.started) = some (cmd 1 0 k false) ∧
      (s.queue 0).cmds.find? (fun e => e.seq = 1) = some (cmd 1 0 k false) ∧ s.mayStart 0 (cmd 1 0 k false) = true ∧
      ∀ e ∈ s.gangs, e.2.vfq = 0 → (s.gang e.1).owed = none) ∧
    (queued1 [cmd 1 0 .stop true, cmd 2 1 (.load 2 []) false]).mayStart 0 (cmd 2 1 (.load 2 []) false) = false ∧
    (queued1 [cmd 1 0 .stop true]).cmdDone 0 0 = true ∧ (queued1 [cmd 1 0 .stop true]).cmdDone 0 1 = false ∧
    ((queued1 [cmd 1 0 (.unload 1 false) true]).vf 0).objs.get? 1 = some (obj false) ∧ (obj false).pending = false ∧ (obj true).pending = true ∧
    (queued1 []).refCount 0 (obj false) = 0 ∧
    (let g : Gang := { waiting 0 .resident with load := 5 }
     let s : State := { queued1 [] with gangs := [(1, g)] }
     s.refCount 0 (obj false) ≠ 0 ∧ g.isOf 0 (obj false) = true ∧ g.state = .resident) ∧
    ((queued1 []).vf 0).objs.get? 7 = none := by decide +kernel
/-- Turns of the units, of a queue and of the keeper. -/
theorem witness_turns_of_units :
    ∀ t ∈ [Turn.tile 0, .convert 0, .command 0, .keeperLost, .keeperBack], ({ State.reset with turns := [t] } : State).turns = [t] := by decide
/-- A seal whose set holds a write that a reset has lost: one that it may cover, before and after its place is written again, and one that it
does not cover; no lost write. Only what was in view is in the set. -/
theorem witness_seals_after_a_reset :
    let l : LostWrite := { loc := 0x3000000000, mask := 0xFF, co := 5, gang := 1, vis := 1 }
    let lost (s : State) : State := s.updOrd fun o => { o with lost := [(7, l)] }
    let image : List Word := [2, 0x20000, 64, 0, 0, 0, 0, 0]
    (lost held).sealReleased 0 1 [7] image = false ∧ (lost (st 0)).sealReleased 0 1 [7] image = true ∧
    (st 0).sealReleased 0 1 [7] image = true ∧ (lost (st 0)).lostSeen 1 0 = [7] ∧ (lost (st 0)).lostSeen 1 1 = [] ∧
    ((lost held).updOrd fun o => { o with writes := [(8, { rec0 with loc := 0x3000000000, mask := 0xFF, co := some 6, vis := 0xF, durP := true, durM := true })] }).sealReleased 0 1 [7] image = true := by
  decide +kernel
/-- A mismatch that meets a repetition, before and between its two issues, and one that is the owner's own instruction's. -/
theorem witness_repetitions_and_mismatches :
    let s (mine rep : Bool) : State := ((recording 1).updCore 0 fun c => { c with seq := { c.seq with recording := false, reps := 2, replay := rep } }).updCtx 0
      fun c => { c with mismatch := 1, replay := mine }
    ((s false false).ctx 0).mismatch ≠ 0 ∧ ((s false true).core 0).seq.replay = true ∧ (s false false).repetitionReplays 0 = false ∧
    (s false true).repetitionReplays 0 = true ∧ (s true true).repetitionReplays 0 = false ∧ ((s true false).ctx 0).replay = true := by decide
/-- A layer that holds the last good copy of a doubleword, as its primary and as its mirror; a mirror part whose primary is out of service. -/
theorem witness_lost_copies :
    let a := 2 ^ 38 + 3 * 2 ^ 36
    let s : State := (st 0).updOrd fun o => { o with badMirr := [a] }
    let t : State := (st 0).updOrd fun o => { o with badPrim := [3 * 2 ^ 36] }
    a ∈ s.onlyIn 1 ∧ s.poisoned (home a) a = false ∧ (st 0).onlyIn 1 = [] ∧ 3 * 2 ^ 36 ∈ t.onlyIn (partner 0) ∧
    mirrorOf (dwordOf (3 * 2 ^ 36 + Config.primaryBytes)) = some (partner 0 * 2 ^ 38 + 3 * 2 ^ 36) ∧
    (((st 0).setQuarter 1 { (st 0).quarterAt 1 with inService := false }).quarterAt (home a)).inService = false := by decide
/-- A resident gang of a function that migrates; a gang that has stopped for a switch, and a shed that no running gang holds; a helper in an
EXIT action; peer entries with a kind and a reserved bit that R340 does not give. -/
theorem witness_late_gangs_and_bodies :
    (let s : State := { st 0 with keeper := { (st 0).keeper with migrating := [(0, 2)] } }
     s.moving 0 = true ∧ (s.preempted 0).contains 1 = false ∧ s.master.ready = true) ∧
    (let g := { waiting 0 .switching with switchAt := none }
     (g.state = .resident || (g.state = .switching && g.switchAt.isSome)) = false ∧ ∀ e ∈ (gangs [(1, g)]).gangs,
       (e.2.state = .resident || (e.2.state = .switching && e.2.switchAt.isSome)) = true → 0 ∉ e.2.sheds) ∧
    (((st 0).updCtx 1 fun c => { c with mode := .exiting 0 none }).ctx 1).mode = .exiting 0 none ∧
    legal.peers.all (fun p => p.2.entryOk) = true ∧
    (let p : Peer := { kind := 1, perm := 1, vf := 1, pkg := 0, members := [], queue := 0, rsv := 0 }
     p.entryOk = true ∧ { p with kind := 3 }.entryOk = false ∧ { p with rsv := 1 }.entryOk = false) := by decide
/-- IDENT and FWACT take 0 or 1 in body byte 0 and call any other value malformed (R8, R367). -/
theorem test_body_flags : bodyFlag 0 = true ∧ bodyFlag 1 = true ∧ bodyFlag 2 = false ∧ bodyFlag 0x81 = false := by decide

end Sys2Proof.Tests
end

/-! SUPPORT. The operations that write the order machine's memories keep them in canonical form (R6, R284, R288). -/
namespace Sys2Proof.Machine

/-! ## The canonical form, part by part -/

theorem State.memoryWf_iff {s : State} :
    s.memoryWf = true ↔ (∀ q, (s.memQ q).wf = true) ∧ Memory.wf s.ord.prim = true ∧ Memory.wf s.ord.mirr = true := by
  have quarters : ((List.range 4).all fun q => (s.memQ q).wf) = true ↔ ∀ q, (s.memQ q).wf = true := by
    simp only [List.all_eq_true, List.mem_range]
    refine ⟨fun h q => ?_, fun h q _ => h q⟩
    have := h (q % 4) (Nat.mod_lt _ (by decide))
    simpa [State.memQ] using this
  simp only [State.memoryWf, Bool.and_eq_true, quarters, and_assoc]

/-- The canonical form depends only on the quarter memories and the two sets of copies. -/
theorem State.memoryWf_of_same {s t : State} (hs : s.memoryWf = true) (hm : t.ord.mem = s.ord.mem)
    (hp : t.ord.prim = s.ord.prim) (hr : t.ord.mirr = s.ord.mirr) : t.memoryWf = true := by
  have same : t.memoryWf = s.memoryWf := by simp only [State.memoryWf, State.memQ, hm, hp, hr]
  rw [same, hs]

theorem State.memoryWf_setMemQ {s : State} (hs : s.memoryWf = true) (q : Nat) {m : Memory} (hm : m.wf = true) :
    (s.setMemQ q m).memoryWf = true := by
  obtain ⟨hq, hcopies⟩ := State.memoryWf_iff.mp hs
  refine State.memoryWf_iff.mpr ⟨fun p => ?_, hcopies⟩
  by_cases h : p % 4 = q % 4
  · have : (s.setMemQ q m).memQ p = m := by simp [State.memQ, State.setMemQ, h]
    rwa [this]
  · rw [State.memQ_setMemQ_ne s m h]
    exact hq p

theorem State.wf_memQ {s : State} (hs : s.memoryWf = true) (q : Nat) : (s.memQ q).wf = true :=
  (State.memoryWf_iff.mp hs).1 q

theorem State.wf_prim {s : State} (hs : s.memoryWf = true) : Memory.wf s.ord.prim = true := (State.memoryWf_iff.mp hs).2.1

theorem State.wf_mirr {s : State} (hs : s.memoryWf = true) : Memory.wf s.ord.mirr = true := (State.memoryWf_iff.mp hs).2.2

/-- A write of a doubleword into a quarter's memory. -/
theorem State.memoryWf_setMemQ_setDword {s : State} (hs : s.memoryWf = true) (q loc : Nat) (mask : BitVec 8) (v : Word) :
    (s.setMemQ q ((s.memQ q).setDword loc mask v)).memoryWf = true :=
  State.memoryWf_setMemQ hs q (Memory.wf_setDword (State.wf_memQ hs q) loc mask v)

/-- An update of the order machine that leaves its quarter memories and whose copies are canonical. -/
theorem State.memoryWf_updOrd {s : State} (hs : s.memoryWf = true) {f : Order → Order} (hm : (f s.ord).mem = s.ord.mem)
    (hp : Memory.wf (f s.ord).prim = true) (hr : Memory.wf (f s.ord).mirr = true) : (s.updOrd f).memoryWf = true := by
  obtain ⟨hq, -, -⟩ := State.memoryWf_iff.mp hs
  refine State.memoryWf_iff.mpr ⟨fun q => ?_, hp, hr⟩
  have : (s.updOrd f).memQ q = s.memQ q := by simp only [State.memQ, State.updOrd, hm]
  rw [this]
  exact hq q

/-- Steps that each keep the canonical form keep it together. -/
theorem State.memoryWf_foldl {α : Type} {f : State → α → State} (hf : ∀ t a, t.memoryWf = true → (f t a).memoryWf = true)
    {s : State} (hs : s.memoryWf = true) (l : List α) : (l.foldl f s).memoryWf = true :=
  List.foldlRecOn l f hs fun t ht a _ => hf t a ht

/-! ## PERFORM and APPLY -/

theorem State.memoryWf_setWrite {s : State} (hs : s.memoryWf = true) (id : Nat) (w : WriteRec) :
    (s.setWrite id w).memoryWf = true := State.memoryWf_of_same hs rfl rfl rfl

theorem State.memoryWf_recode {s : State} (hs : s.memoryWf = true) (loc : Nat) : (s.recode loc).memoryWf = true := by
  unfold State.recode
  dsimp only
  split
  · exact hs
  · exact State.memoryWf_of_same hs rfl rfl rfl

theorem State.memoryWf_tagWrite {s : State} (hs : s.memoryWf = true) (loc : Nat) (tag : Option Bool) (rel : Option (List Nat)) :
    (s.tagWrite loc tag rel).memoryWf = true := by
  cases tag with
  | none => exact hs
  | some full => exact State.memoryWf_of_same hs rfl rfl rfl

theorem State.memoryWf_tickNext {s : State} (hs : s.memoryWf = true) : s.tickNext.memoryWf = true :=
  State.memoryWf_of_same hs rfl rfl rfl

theorem State.memoryWf_perform {s : State} (hs : s.memoryWf = true) (who id q loc : Nat) (mask : BitVec 8) (val : Word)
    (tag : Option Bool) (rel : Option (List Nat)) (atom merged bad : Bool) :
    (s.perform who id q loc mask val tag rel atom merged bad).memoryWf = true := by
  unfold State.perform
  have written := State.memoryWf_setWrite (State.memoryWf_setMemQ_setDword hs q loc mask val) id
    (s.newWrite who q loc mask val tag rel atom merged bad)
  refine State.memoryWf_tickNext (State.memoryWf_tagWrite ?_ loc tag rel)
  split
  · exact State.memoryWf_recode written loc
  · exact written

theorem State.memoryWf_applyWrite {s : State} (hs : s.memoryWf = true) (id q : Nat) : (s.applyWrite id q).memoryWf = true := by
  unfold State.applyWrite
  split
  · exact hs
  · refine State.memoryWf_tickNext ?_
    have written {mask : BitVec 8} {w v : WriteRec} := State.memoryWf_setWrite (State.memoryWf_setMemQ_setDword hs q w.loc mask w.val) id v
    split
    · exact State.memoryWf_recode written _
    · exact written

/-! ## DURABLE and the copies -/

theorem State.memoryWf_copyTakes {s : State} (hs : s.memoryWf = true) (id : Nat) (mirror : Bool) :
    (s.copyTakes id mirror).memoryWf = true := by
  obtain ⟨-, hp, hr⟩ := State.memoryWf_iff.mp hs
  unfold State.copyTakes
  split
  · exact hs
  · split
    · exact hs
    · refine State.memoryWf_setWrite ?_ id _
      split
      · exact hs
      · cases mirror
        · exact State.memoryWf_updOrd hs rfl (Memory.wf_setDword hp ..) hr
        · exact State.memoryWf_updOrd hs rfl hp (Memory.wf_setDword hr ..)

theorem State.memoryWf_durable {s : State} (hs : s.memoryWf = true) (id : Nat) (mirror : Bool) :
    (s.durable id mirror).memoryWf = true := by
  unfold State.durable
  split
  · exact hs
  · split
    · exact hs
    · exact State.memoryWf_copyTakes hs id mirror

/-! ## MERGE and the stores that stand everywhere -/

theorem State.memoryWf_correct {s : State} (hs : s.memoryWf = true) (loc : Nat) : (s.correct loc).memoryWf = true := by
  unfold State.correct
  split
  · exact State.memoryWf_of_same hs rfl rfl rfl
  · exact hs

theorem State.memoryWf_mergeDword {s : State} (hs : s.memoryWf = true) (loc : Nat) : (s.mergeDword loc).memoryWf = true := by
  unfold State.mergeDword
  split
  · exact hs
  · refine State.memoryWf_correct ?_ loc
    have merged {v : Word} {bad : Bool} :=
      State.memoryWf_perform (State.memoryWf_tickNext hs) noWriter s.next (home loc) loc 0xFF v none none false true bad
    split
    · exact State.memoryWf_setWrite merged _ _
    · exact merged

theorem State.memoryWf_mergeLine {s : State} (hs : s.memoryWf = true) (line : Nat) : (s.mergeLine line).memoryWf = true := by
  unfold State.mergeLine
  refine State.memoryWf_foldl (fun t q ht => ?_) (State.memoryWf_foldl (fun t i ht => State.memoryWf_mergeDword ht _) hs _) _
  have cleared : (t.setPartials q ((t.partialsQ q).del line)).memoryWf = true := State.memoryWf_of_same ht rfl rfl rfl
  dsimp only
  split
  · split
    · exact State.memoryWf_of_same cleared rfl rfl rfl
    · exact cleared
  · exact cleared

/-- A doubleword written at every quarter but one. -/
theorem State.memoryWf_spread {s : State} (hs : s.memoryWf = true) (q loc : Nat) (mask : BitVec 8) (v : Word) (qs : List Nat) :
    (qs.foldl (fun t p => if p = q then t else t.setMemQ p ((t.memQ p).setDword loc mask v)) s).memoryWf = true := by
  refine State.memoryWf_foldl (fun t p ht => ?_) hs qs
  split
  · exact ht
  · exact State.memoryWf_setMemQ_setDword ht p loc mask v

theorem State.memoryWf_writeEverywhere {s : State} (hs : s.memoryWf = true) (loc : Nat) (mask : BitVec 8) (v : Word) (bad : Bool) :
    (s.writeEverywhere loc mask v bad).memoryWf = true := by
  unfold State.writeEverywhere
  have merged := State.memoryWf_mergeLine hs (lineOf loc)
  generalize s.mergeLine (lineOf loc) = u at merged ⊢
  have stands := State.memoryWf_spread (State.memoryWf_perform (State.memoryWf_tickNext merged) noWriter u.next (home loc) loc
    mask v none none false false bad) (home loc) loc mask v (List.range u.nq)
  dsimp only
  generalize List.foldl _ _ (List.range u.nq) = t at stands ⊢
  split
  · exact stands
  · split
    · exact State.memoryWf_setWrite stands u.next _
    · have primWritten := Memory.wf_setDword (State.wf_prim stands) loc mask v
      have mirrWritten := Memory.wf_setDword (State.wf_mirr stands) loc mask v
      refine State.memoryWf_updOrd (State.memoryWf_setWrite stands u.next _) ?_ ?_ ?_
      · cases u.copyWorks loc true <;> cases u.copyWorks loc false <;> rfl
      · cases u.copyWorks loc true <;> cases u.copyWorks loc false
        exacts [State.wf_prim stands, primWritten, State.wf_prim stands, primWritten]
      · cases u.copyWorks loc true <;> cases u.copyWorks loc false
        exacts [State.wf_mirr stands, State.wf_mirr stands, mirrWritten, mirrWritten]

/-! ## What a die reset takes back (R299) -/

theorem State.memoryWf_undo {s : State} (hs : s.memoryWf = true) (w : WriteRec) : (s.undo w).memoryWf = true := by
  unfold State.undo
  refine State.memoryWf_foldl (fun t q ht => ?_) hs _
  split
  · exact ht
  · exact State.memoryWf_setMemQ_setDword ht q w.loc w.mask _

theorem State.memoryWf_durableReread {s : State} (hs : s.memoryWf = true) (q : Nat) : (s.durableReread q).memoryWf = true := by
  unfold State.durableReread
  exact State.memoryWf_foldl (fun t p ht => State.memoryWf_setMemQ ht p
    (Memory.wf_foldl_set (Memory.wf_filter _ (State.wf_memQ ht p)) _ _ _)) hs _

/-- Settles O16, move by move: each writes doublewords, which keeps a canonical memory canonical. -/
theorem memoryOperationsKeepTheCanonicalForm : Obligations.MemoryOperationsKeepTheCanonicalForm := by
  intro s hs
  exact ⟨State.memoryWf_perform hs, State.memoryWf_applyWrite hs, State.memoryWf_durable hs, State.memoryWf_copyTakes hs,
    fun loc mask v => State.memoryWf_writeEverywhere hs loc mask v false, State.memoryWf_writeEverywhere hs,
    State.memoryWf_undo hs, State.memoryWf_durableReread hs⟩

end Sys2Proof.Machine

/-! SUPPORT. The state after reset, part by part (R9, R46, R48, R106, R119, R153, R284). -/
namespace Sys2Proof.Machine

/-! ## A context that nothing has run on (R48) -/

theorem Ctx.rx_reset (r : BitVec 5) : Ctx.reset.rx r = 0 := by
  unfold Ctx.rx
  split
  · rfl
  · simp [Ctx.reset]

theorem Ctx.rv_reset (r : BitVec 5) : Ctx.reset.rv r = 0 := by simp [Ctx.rv, Ctx.reset]

theorem Ctx.rk_reset {r : BitVec 3} (h : r ≠ 0) : Ctx.reset.rk r = 0 := by
  have hn : ¬ 0 = r.toNat := fun e => h (BitVec.eq_of_toNat_eq e.symm)
  unfold Ctx.rk
  rw [if_neg h]
  simp [Ctx.reset, hn]

theorem Ctx.rc_reset (r : BitVec 2) : Ctx.reset.rc r = 0 := by simp [Ctx.rc, Ctx.reset]

/-- A context that nothing has run on differs from the reset context in its mode alone. -/
theorem Ctx.start_eq (k : Nat) : Ctx.start k = { Ctx.reset with mode := if k % 11 = 0 then .halted else .idle } := by
  unfold Ctx.start
  split <;> rfl

theorem State.ctx_reset (k : Nat) : State.reset.ctx k = { Ctx.reset with mode := if k % 11 = 0 then .halted else .idle } :=
  Ctx.start_eq k

/-! ## Cores, sheds and memory -/

theorem State.mailbox_reset (core : Nat) (n : BitVec 5) : State.reset.mailbox core n = .reset := by
  have : State.reset.core core = .reset := rfl
  simp [State.mailbox, this, Core.reset]

theorem State.byteQ_reset (q a : Nat) : State.reset.byteQ q a = Memory.blank := by
  simp [State.byteQ, State.memQ, State.reset, Order.reset, Memory.get]

theorem State.sem_reset (d : Nat) (n : Fin 8) : State.reset.sem d n = 0 := by
  have : State.reset.shed d = .reset := rfl
  simp [State.sem, this, Shed.reset]

/-- Settles O14: every part of the reset state has the value its definition gives an absent entry. -/
theorem resetStateIsWhatTheSpecGives : Obligations.ResetStateIsWhatTheSpecGives := by
  unfold Obligations.ResetStateIsWhatTheSpecGives
  refine ⟨rfl, fun k => ?_, fun core n => ?_, fun d => ⟨rfl, State.sem_reset d⟩, rfl, by decide, rfl, State.byteQ_reset, rfl, rfl, rfl⟩
  · rw [State.ctx_reset]
    exact ⟨rfl, Ctx.rx_reset, Ctx.rv_reset, rfl, fun r => Ctx.rk_reset, Ctx.rc_reset, rfl, rfl⟩
  · rw [State.mailbox_reset]
    rfl

end Sys2Proof.Machine

/-! SUPPORT. System registers, traps, error injection and invalidation (R8, R45, R49, R50, R343, R345, R349, R352 to R354, R365). -/
namespace Sys2Proof.Machine

/-! ## From an instruction's effect to its outcome (R52, R85, R350) -/

/-- An instruction that fits comes to what its effect comes to. -/
theorem exec_of_fit {i : Instr} {s : State} {eff : State → Eff} (he : exec i s = .next (s.issue i eff)) (hf : s.Fit i) {e : Eff}
    (h : eff s = e) : exec i s = .next (s.finish e) := by
  rw [he, State.issue_of_fit hf, h]

theorem completes_of_done {i : Instr} {s t : State} {eff : State → Eff} (he : exec i s = .next (s.issue i eff)) (hf : s.Fit i)
    (h : eff s = .done t) : Completes i s t := exec_of_fit he hf h

theorem traps_of_trap {i : Instr} {s : State} {eff : State → Eff} (he : exec i s = .next (s.issue i eff)) (hf : s.Fit i)
    {cause : BitVec 8} {tval : Word} {tinfo : BitVec 8} (h : eff s = .trap cause tval tinfo) : Traps i s cause tval tinfo :=
  exec_of_fit he hf h

theorem trapsAfter_of_trapRead {i : Instr} {s t : State} {eff : State → Eff} (he : exec i s = .next (s.issue i eff)) (hf : s.Fit i)
    {cause : BitVec 8} {tval : Word} {tinfo : BitVec 8} (h : eff s = .trapRead t cause tval tinfo) :
    TrapsAfter i s t cause tval tinfo :=
  exec_of_fit he hf h

theorem sleeps_of_sleep {i : Instr} {s t : State} {eff : State → Eff} (he : exec i s = .next (s.issue i eff)) (hf : s.Fit i)
    {w : Wait} (h : eff s = .sleep w t) : Sleeps i s w t :=
  exec_of_fit he hf h

/-! ## srd and swr (R8, R49, R50, R354) -/

theorem effSrd_of_some {f : SF} {s : State} {w : Word} (h : s.readSreg f.sreg.toNat = some w) : effSrd f s = .done (s.wx f.d w) := by
  simp [effSrd, h]

theorem effSrd_of_none {f : SF} {s : State} (h : s.readSreg f.sreg.toNat = none) : effSrd f s = .trap 1 (encode (.srd f)) 0 := by
  simp [effSrd, h]

/-- The registers that `swr` writes outside the code bounds, with their bits that are not reserved. -/
def plainSregs : List (Nat × Word) :=
  [(0x000, 0x80FF), (0x001, ~~~0), (0x002, ~~~7), (0x003, 0xFF), (0x004, 0x1F), (0x005, 7), (0x008, ~~~0), (0x009, ~~~0),
    (0x050, ~~~7), (0x051, ~~~7), (0x052, ~~~7), (0x053, ~~~7)]

/-- Case analysis over the registers that `swr` writes. -/
theorem forall_mem_plainSregs {P : Nat × Word → Prop} (h0 : P (0x000, 0x80FF)) (h1 : P (0x001, ~~~0)) (h2 : P (0x002, ~~~7))
    (h3 : P (0x003, 0xFF)) (h4 : P (0x004, 0x1F)) (h5 : P (0x005, 7)) (h8 : P (0x008, ~~~0)) (h9 : P (0x009, ~~~0))
    (b0 : P (0x050, ~~~7)) (b1 : P (0x051, ~~~7)) (b2 : P (0x052, ~~~7)) (b3 : P (0x053, ~~~7)) : ∀ e ∈ plainSregs, P e := by
  simp only [plainSregs, List.forall_mem_cons, List.not_mem_nil, false_imp_iff, implies_true, and_true]
  exact ⟨h0, h1, h2, h3, h4, h5, h8, h9, b0, b1, b2, b3⟩

/-- `swr` leaves every other register as it reads. -/
theorem readSreg_writeSreg_ne (s : State) (w : Word) : ∀ e ∈ plainSregs, ∀ n, n ≠ e.1 →
    (s.updMe fun c => c.writeSreg e.1 w).readSreg n = s.readSreg n := by
  apply forall_mem_plainSregs
  all_goals
    intro n hn
    simp only [Ctx.writeSreg, State.readSreg, State.me_updMe, Vector.getElem_set]
    split
    any_goals exact absurd rfl hn
    all_goals rfl

end Sys2Proof.Machine
namespace Sys2Proof.Machine
/-- Cutting a word to n bits and widening it again keeps its low n bits. -/
theorem setWidth_low (n : Nat) (w : Word) (hn : n ≤ 64) : (w.setWidth n).setWidth 64 = w &&& BitVec.ofNat 64 (2 ^ n - 1) := by
  apply BitVec.eq_of_toNat_eq
  have small : 2 ^ n ≤ 2 ^ 64 := Nat.pow_le_pow_right (by decide) hn
  have pos : 0 < 2 ^ n := Nat.two_pow_pos n
  have cut : w.toNat % 2 ^ n < 2 ^ n := Nat.mod_lt _ pos
  rw [BitVec.toNat_setWidth, BitVec.toNat_setWidth, BitVec.toNat_and, BitVec.toNat_ofNat, Nat.mod_eq_of_lt (show _ < 2 ^ 64 by omega),
    Nat.mod_eq_of_lt (show 2 ^ n - 1 < 2 ^ 64 by omega), Nat.and_two_pow_sub_one_eq_mod]

/-- The same under a mask that lies within the low n bits. -/
theorem setWidth_and_low (n : Nat) (w m : Word) (hn : n ≤ 64) (hm : BitVec.ofNat 64 (2 ^ n - 1) &&& m = m) :
    (w.setWidth n &&& m.setWidth n).setWidth 64 = w &&& m := by
  rw [BitVec.setWidth_and, setWidth_low n w hn, setWidth_low n m hn, BitVec.and_comm m, hm, BitVec.and_assoc, hm]

/-- `swr` cuts what it writes to the register's width, its reserved bits 0. -/
theorem readSreg_writeSreg_self (s : State) (w : Word) : ∀ e ∈ plainSregs,
    (s.updMe fun c => c.writeSreg e.1 w).readSreg e.1 = some (w &&& e.2) := by
  apply forall_mem_plainSregs
  all_goals simp only [Ctx.writeSreg, State.readSreg, State.me_updMe, tcauseMask, tinfoMask, locMask, Vector.getElem_set_self]
  case h0 => exact congrArg some (setWidth_and_low 16 w 0x80FF (by decide) (by decide))
  case h3 => exact congrArg some (setWidth_low 8 w (by decide))
  case h4 => exact congrArg some (setWidth_low 5 w (by decide))
  case h5 => exact congrArg some (setWidth_and_low 8 w 7 (by decide) (by decide))
  all_goals exact congrArg some BitVec.and_allOnes.symm

/-- `swr` moves no scalar register. -/
theorem rx_writeSreg (c : Ctx) (w : Word) : ∀ e ∈ plainSregs, (c.writeSreg e.1 w).x = c.x := by
  apply forall_mem_plainSregs <;> rfl

/-- An update of the executing context changes nothing else. -/
theorem onlyMe_updMe (s : State) (f : Ctx → Ctx) : OnlyMe s (s.updMe f) :=
  ⟨rfl, fun _ hk => State.ctx_updMe_ne s f hk⟩

/-- `swr` of a register outside the code bounds. -/
theorem swr_writes {f : SF} {s : State} (hf : s.Fit (.swr f)) {e : Nat × Word} (he : e ∈ plainSregs) (hn : f.sreg.toNat = e.1) :
    ∃ t, Completes (.swr f) s t ∧ t.readSreg e.1 = some (s.rx f.a &&& e.2) ∧ (∀ n, n ≠ e.1 → t.readSreg n = s.readSreg n) ∧
      (∀ r, t.rx r = s.rx r) ∧ OnlyMe s t := by
  refine ⟨s.updMe fun c => c.writeSreg e.1 (s.rx f.a), ?_, readSreg_writeSreg_self s _ e he, readSreg_writeSreg_ne s _ e he,
    fun r => ?_, onlyMe_updMe s _⟩
  · rw [← hn]
    exact completes_of_done rfl hf rfl
  · simp only [State.rx, State.me_updMe, Ctx.rx, rx_writeSreg _ _ e he]

/-! ## The code bounds (R50, R343) -/

theorem effSwrCodeBounds_user {f : SF} {s : State} (h : s.me.sup = false) :
    effSwrCodeBounds f s = .trap 3 (encode (.swrCodeBounds f)) 0 := by
  simp [effSwrCodeBounds, h]

section
variable {f : SF} {s : State} {base bound : Word} (hbase : base = if f.sreg = 0x010 then s.rx f.a else s.me.cbase)
  (hbound : bound = if f.sreg = 0x010 then s.me.cbound else s.rx f.a) (hsup : s.me.sup = true)
include hbase hbound hsup

theorem effSwrCodeBounds_outside (h : s.boundsOk base bound = false) : effSwrCodeBounds f s = .trap 5 (s.rx f.a) 0 := by
  subst hbase hbound
  simp only [effSwrCodeBounds, hsup, h]
  rfl

theorem effSwrCodeBounds_inside (h : s.boundsOk base bound = true) :
    effSwrCodeBounds f s = .done (s.updMe fun c => { c with cbase := base, cbound := bound }) := by
  subst hbase hbound
  simp only [effSwrCodeBounds, hsup, h]
  rfl
end

/-! ## Fetch (R54, R343) -/

@[simp] theorem State.correct_ctxs (s : State) (loc : Nat) : (s.correct loc).ctxs = s.ctxs := by
  unfold State.correct
  split <;> rfl
@[simp] theorem State.correct_cur (s : State) (loc : Nat) : (s.correct loc).cur = s.cur := by
  unfold State.correct
  split <;> rfl
@[simp] theorem State.correct_mem (s : State) (loc : Nat) : (s.correct loc).ord.mem = s.ord.mem := by
  unfold State.correct
  split <;> rfl
@[simp] theorem State.fetch_ctxs (s : State) (core a : Nat) : (s.fetch core a).2.ctxs = s.ctxs := by
  unfold State.fetch
  split
  · rfl
  · exact State.correct_ctxs s a
@[simp] theorem State.fetch_cur (s : State) (core a : Nat) : (s.fetch core a).2.cur = s.cur := by
  unfold State.fetch
  split
  · rfl
  · exact State.correct_cur s a
@[simp] theorem State.fetch_mem (s : State) (core a : Nat) : (s.fetch core a).2.ord.mem = s.ord.mem := by
  unfold State.fetch
  split
  · rfl
  · exact State.correct_mem s a

theorem sameBytes_of_mem {s t : State} (h : t.ord.mem = s.ord.mem) : SameBytes s t := by
  intro q a
  simp only [State.byteQ, State.memQ, h]

/-! ## Locations (R45) -/

theorem pcBlock_mkPc_pcBlock (i : Nat) (w : Word) : pcBlock (mkPc i (pcBlock w)) = pcBlock w := by
  have bound : (w.extractLsb' 3 53).toNat < 2 ^ 53 := (w.extractLsb' 3 53).isLt
  unfold pcBlock mkPc
  simp (disch := decide) only [BitVec.extractLsb'_append_eq_of_le, BitVec.extractLsb'_append_eq_of_add_le, extract_all]
  rw [BitVec.extractLsb'_toNat, BitVec.toNat_ofNat]
  omega

theorem hdrLen_lt (h : Word) : hdrLen h < 256 := (h.extractLsb' 48 8).isLt

/-! ## `eret` (R349, R352) -/

theorem resumesNext_iff {cause : BitVec 16} :
    resumesNext cause = true ↔ cause.extractLsb' 0 8 = 2#8 ∨ cause.extractLsb' 0 8 = 28#8 := by
  simp [resumesNext]

/-- Where a return places its context: the instruction and the mode (R352). -/
def returnPlace (c : Ctx) (h : Word) : Nat × Mode :=
  let idx := pcIndex c.tpc
  if c.tcause.getLsbD 15 then (hdrLen h, .blockEnd)
  else if resumesNext c.tcause then if idx < hdrLen h then (idx + 1, .ready) else (hdrLen h, .blockEnd)
  else (idx, .ready)

/-- A context once it has returned to the block with a header. -/
def Ctx.returned (c : Ctx) (h : Word) : Ctx :=
  { c.entered with pc := mkPc (returnPlace c h).1 (pcBlock c.tpc), hdr := h, mode := (returnPlace c h).2 }

section
variable {s : State} {k : Nat}

theorem trapReturn_outside (h : (s.ctx k).inCode (pcBlock (s.ctx k).tpc) = false) :
    s.trapReturn k = .error (5, BitVec.ofNat 64 (pcBlock (s.ctx k).tpc), s) := by
  simp [State.trapReturn, h]

variable (hin : (s.ctx k).inCode (pcBlock (s.ctx k).tpc) = true)
include hin

theorem trapReturn_noHeader (h : headerOk (s.fetch (coreOfCtx k) (pcBlock (s.ctx k).tpc)).1 = false) :
    s.trapReturn k = .error (1, BitVec.ofNat 64 (pcBlock (s.ctx k).tpc), (s.fetch (coreOfCtx k) (pcBlock (s.ctx k).tpc)).2) := by
  simp [State.trapReturn, hin, h]

/-- A return that passes its checks places the context and changes its core's count of suspended recordings. -/
theorem trapReturn_ok (hh : headerOk (s.fetch (coreOfCtx k) (pcBlock (s.ctx k).tpc)).1 = true)
    (hlen : pcIndex (s.ctx k).tpc ≤ hdrLen (s.fetch (coreOfCtx k) (pcBlock (s.ctx k).tpc)).1) :
    ∃ g : Core → Core, s.trapReturn k = .ok (((s.fetch (coreOfCtx k) (pcBlock (s.ctx k).tpc)).2.updCore (coreOfCtx k) g).setCtx k
      ((s.ctx k).returned (s.fetch (coreOfCtx k) (pcBlock (s.ctx k).tpc)).1)) := by
  refine ⟨fun v => if v.seq.owner = some k then { v with seq := { v.seq with suspended := v.seq.suspended - 1 } } else v, ?_⟩
  have same (g : Core → Core) : ((s.fetch (coreOfCtx k) (pcBlock (s.ctx k).tpc)).2.updCore (coreOfCtx k) g).ctx k = s.ctx k := by
    simp [State.ctx]
  unfold State.trapReturn Ctx.returned returnPlace
  dsimp only
  rw [hin, hh, if_neg (by simp), if_neg (by simp), if_neg (by omega)]
  simp only [State.updCtx, same]
  split
  · rfl
  · split
    · split <;> rfl
    · rfl
end

theorem effEret_early {f : RR} {s : State} (h : pcIndex s.me.pc ≠ hdrLen s.me.hdr) :
    effEret f s = .trap 1 (encode (.eret f)) 0 := by
  rw [effEret, if_pos h]

theorem effEret_of_ok {f : RR} {s t : State} (hlast : pcIndex s.me.pc = hdrLen s.me.hdr) (h : s.trapReturn s.cur = .ok t) :
    effEret f s = .leave t := by
  rw [effEret, if_neg (by simpa using hlast), h]

theorem effEret_of_error {f : RR} {s t : State} {cause : BitVec 8} {v : Word} (hlast : pcIndex s.me.pc = hdrLen s.me.hdr)
    (h : s.trapReturn s.cur = .error (cause, v, t)) : effEret f s = .trapRead t cause v 0 := by
  rw [effEret, if_neg (by simpa using hlast), h]

/-- `eret` at the end of a block whose target passes the checks of R352. -/
theorem eret_returns {f : RR} {s : State} (hf : s.Fit (.eret f)) (hlast : pcIndex s.me.pc = hdrLen s.me.hdr)
    (hin : s.me.inCode (pcBlock s.me.tpc) = true) (hh : headerOk (s.fetch s.myCore (pcBlock s.me.tpc)).1 = true)
    (hlen : pcIndex s.me.tpc ≤ hdrLen (s.fetch s.myCore (pcBlock s.me.tpc)).1) :
    ∃ t, exec (.eret f) s = .next t ∧ SameBytes s t ∧ t.me = s.me.returned (s.fetch s.myCore (pcBlock s.me.tpc)).1 := by
  obtain ⟨g, hreturn⟩ := trapReturn_ok hin hh hlen
  have here : (((s.fetch s.myCore (pcBlock s.me.tpc)).2.updCore s.myCore g).setCtx s.cur
      (s.me.returned (s.fetch s.myCore (pcBlock s.me.tpc)).1)).cur = s.cur := State.fetch_cur ..
  refine ⟨_, exec_of_fit rfl hf (effEret_of_ok hlast hreturn), sameBytes_of_mem (State.fetch_mem ..), ?_⟩
  exact (congrArg _ here).trans (State.ctx_setCtx_self ..)

/-- `eret` resumes where R352 says for each cause. -/
theorem eret_resumes (c : Ctx) (h : Word) :
    let p := returnPlace c h
    let idx := pcIndex c.tpc
    let past := c.tcause.extractLsb' 0 8 = 2#8 ∨ c.tcause.extractLsb' 0 8 = 28#8
    (c.tcause.getLsbD 15 = true → p.2 = .blockEnd) ∧
    (c.tcause.getLsbD 15 = false → past → idx < hdrLen h → p.2 = .ready ∧ p.1 = idx + 1) ∧
    (c.tcause.getLsbD 15 = false → past → idx = hdrLen h → p.2 = .blockEnd) ∧
    (c.tcause.getLsbD 15 = false → ¬past → p.2 = .ready ∧ p.1 = idx) := by
  simp only [← resumesNext_iff, returnPlace]
  refine ⟨fun hb => ?_, fun hb hp hi => ?_, fun hb hp hi => ?_, fun hb hp => ?_⟩
  · simp [hb]
  · simp only [hb, hp, hi, if_true, and_self, Bool.false_eq_true, if_false]
  · simp only [hb, hp, hi, if_true, lt_irrefl, Bool.false_eq_true, if_false]
  · simp only [hb, hp, Bool.false_eq_true, if_false, and_self]

/-- `eret` as a block's last instruction: the checks of its target in their order, and the return. -/
theorem eret_last {f : RR} {s : State} (hf : s.Fit (.eret f)) (hlast : pcIndex s.me.pc = hdrLen s.me.hdr) :
    let c := s.me
    let blk := pcBlock c.tpc
    let idx := pcIndex c.tpc
    let h := (s.fetch s.myCore blk).1
    (c.inCode blk = false → Traps (.eret f) s 5 (BitVec.ofNat 64 blk) 0) ∧
    (c.inCode blk = true → headerOk h = false → TrapsAfter (.eret f) s (s.fetch s.myCore blk).2 1 (BitVec.ofNat 64 blk) 0) ∧
    (c.inCode blk = true → headerOk h = true → idx ≤ hdrLen h → ∃ t, exec (.eret f) s = .next t ∧ SameBytes s t ∧ t.me.x = c.x ∧
      t.me.v = c.v ∧ t.me.k = c.k ∧ t.me.c = c.c ∧ t.me.hdr = h ∧ pcBlock t.me.pc = blk ∧
      let past := c.tcause.extractLsb' 0 8 = 2#8 ∨ c.tcause.extractLsb' 0 8 = 28#8
      (c.tcause.getLsbD 15 = true → t.me.mode = .blockEnd) ∧
      (c.tcause.getLsbD 15 = false → past → idx < hdrLen h → t.me.mode = .ready ∧ pcIndex t.me.pc = idx + 1) ∧
      (c.tcause.getLsbD 15 = false → past → idx = hdrLen h → t.me.mode = .blockEnd) ∧
      (c.tcause.getLsbD 15 = false → ¬past → t.me.mode = .ready ∧ pcIndex t.me.pc = idx)) := by
  refine ⟨fun hout => ?_, fun hin hh => ?_, fun hin hh hlen => ?_⟩
  · exact exec_of_fit rfl hf (effEret_of_error hlast (trapReturn_outside hout))
  · exact trapsAfter_of_trapRead rfl hf (effEret_of_error hlast (trapReturn_noHeader hin hh))
  · obtain ⟨t, ht, hbytes, hme⟩ := eret_returns hf hlast hin hh hlen
    obtain ⟨hbend, hpast, hpastLast, hat⟩ := eret_resumes s.me (s.fetch s.myCore (pcBlock s.me.tpc)).1
    have small := hdrLen_lt (s.fetch s.myCore (pcBlock s.me.tpc)).1
    refine ⟨t, ht, hbytes, ?_⟩
    simp only [hme]
    refine ⟨rfl, rfl, rfl, rfl, rfl, pcBlock_mkPc_pcBlock .., hbend, fun hb hp hi => ?_, hpastLast, fun hb hp => ?_⟩
    · obtain ⟨hmode, hidx⟩ := hpast hb hp hi
      exact ⟨hmode, by rw [Ctx.returned, hidx, pcIndex_mkPc (by omega)]⟩
    · obtain ⟨hmode, hidx⟩ := hat hb hp
      exact ⟨hmode, by rw [Ctx.returned, hidx, pcIndex_mkPc (by omega)]⟩

/-! ## `ecc.inj` (R365) -/

/-- The function may inject errors (R365). -/
def State.mayInject (s : State) : Prop := ∃ c, (s.vf s.myVf).cfg = some c ∧ c.inject = true

section
variable {f : RR} {s : State}

theorem effEccInj_forbidden (h : ¬s.mayInject) : effEccInj f s = .trap 3 (encode (.eccInj f)) 0 := by
  unfold effEccInj
  cases hc : (s.vf s.myVf).cfg with
  | none => rfl
  | some c =>
    have : c.inject = false := by simpa [State.mayInject, hc] using h
    simp [this]

theorem effEccInj_permitted (h : s.mayInject) : effEccInj f s =
    if 3 < (s.rx f.b).toNat then .trap 29 (s.rx f.b) 0
    else if 2 ≤ (s.rx f.b).toNat then .done (s.updMe fun c => { c with mismatch := (s.rx f.b).toNat - 1 })
    else counted (.eccInj f) s (·.st) <| aligned (s.rx f.a) 8 <| withHit s (s.rx f.a) true fun h =>
      .done ((h.st.pushOp (pteKey h.w0) 0 (.inject (s.rx f.b = 1) h.loc)).updMe Ctx.incSt) := by
  obtain ⟨c, hc, hi⟩ := h
  simp only [effEccInj, hc, hi]
  rfl

theorem eccInj_control (hf : s.Fit (.eccInj f)) (hp : s.mayInject) :
    (3 < (s.rx f.b).toNat → Traps (.eccInj f) s 29 (s.rx f.b) 0) ∧
    (s.rx f.b = 2 → Completes (.eccInj f) s (s.updMe fun c => { c with mismatch := 1 })) ∧
    (s.rx f.b = 3 → Completes (.eccInj f) s (s.updMe fun c => { c with mismatch := 2 })) := by
  refine ⟨fun h => traps_of_trap rfl hf ?_, fun h => completes_of_done rfl hf ?_, fun h => completes_of_done rfl hf ?_⟩
  · rw [effEccInj_permitted hp, if_pos h]
  · rw [effEccInj_permitted hp, h]
    rfl
  · rw [effEccInj_permitted hp, h]
    rfl

theorem eccInj_schedules (hf : s.Fit (.eccInj f)) (hp : s.mayInject) (hctl : (s.rx f.b).toNat < 2) (hst : s.me.st ≠ 255) :
    ((s.rx f.a).toNat % 8 ≠ 0 → Traps (.eccInj f) s 13 (s.rx f.a) 0) ∧
    ((s.rx f.a).toNat % 8 = 0 → ∀ h, s.translate s.cur (s.rx f.a) true = .ok h → Completes (.eccInj f) s
      ((h.st.pushOp (pteKey h.w0) 0 (.inject (decide (s.rx f.b = 1)) h.loc)).updMe fun c => { c with st := c.st + 1 })) := by
  have issued : effEccInj f s = aligned (s.rx f.a) 8 (withHit s (s.rx f.a) true fun h =>
      .done ((h.st.pushOp (pteKey h.w0) 0 (.inject (s.rx f.b = 1) h.loc)).updMe Ctx.incSt)) := by
    rw [effEccInj_permitted hp, if_neg (by omega), if_neg (by omega), counted, if_neg hst]
  refine ⟨fun hal => traps_of_trap rfl hf ?_, fun hal h hh => completes_of_done rfl hf ?_⟩
  · rw [issued, aligned, if_neg hal]
  · rw [issued, aligned, if_pos hal, withHit, hh]
    rfl
end

/-! ## `icinv` and `tlbinv` (R345) -/

/-- A core after every core was changed by a rule that leaves a reset core's part alone. -/
theorem core_mapVals (s : State) (f : Nat → Core → Core) (j : Nat) :
    ({ s with cores := Table.mapVals f s.cores } : State).core j = ((s.cores.get? j).map (f j)).getD .reset := by
  simp only [State.core, Table.getD, Table.get?_mapVals]

theorem shed_mapVals (s : State) (f : Nat → Shed → Shed) (j : Nat) :
    ({ s with sheds := Table.mapVals f s.sheds } : State).shed j = ((s.sheds.get? j).map (f j)).getD .reset := by
  simp only [State.shed, Table.getD, Table.get?_mapVals]

/-- The cached words that `icinv` drops: those of the range within the arena window (R345). -/
def icinvHits (cfg : VfCfg) (a n addr : Nat) : Bool :=
  decide (cfg.abase ≤ addr) && decide (addr < cfg.abase + cfg.asize) && overlaps (lineOf addr) 64 a n

theorem icinvHits_iff {cfg : VfCfg} {a n addr : Nat} : icinvHits cfg a n addr = true ↔
    cfg.abase ≤ addr ∧ addr < cfg.abase + cfg.asize ∧ overlaps (lineOf addr) 64 a n = true := by
  simp [icinvHits, and_assoc]

/-- A core once `icinv` of a context on core `mine` has reached it. -/
def icinvCore (cfg : VfCfg) (scope : BitVec 3) (mine a n core : Nat) (c : Core) : Core :=
  if inScope scope mine core then { c with icache := c.icache.filter fun e => !icinvHits cfg a n e.1 } else c

theorem effIcinv_of_cfg {f : MF} {s : State} {cfg : VfCfg} (hcfg : (s.vf s.myVf).cfg = some cfg) : effIcinv f s =
    .done { s with cores := Table.mapVals (icinvCore cfg f.scope s.myCore (MF.ea f s).toNat (s.rx f.b).toNat) s.cores } := by
  simp only [effIcinv, hcfg]
  rfl

theorem icinv_drops {f : MF} {s : State} {cfg : VfCfg} (hf : s.Fit (.icinv f)) (hcfg : (s.vf s.myVf).cfg = some cfg) :
    ∃ t, Completes (.icinv f) s t ∧ t.ctxs = s.ctxs ∧ SameBytes s t ∧ ∀ core e, e ∈ (t.core core).icache ↔
      e ∈ (s.core core).icache ∧
        ¬(inScope f.scope s.myCore core = true ∧ icinvHits cfg (s.rx f.a + f.off.signExtend 64).toNat (s.rx f.b).toNat e.1 = true) := by
  refine ⟨_, completes_of_done rfl hf (effIcinv_of_cfg hcfg), rfl, fun _ _ => rfl, fun core e => ?_⟩
  rw [core_mapVals]
  cases hc : s.cores.get? core with
  | none => simp [State.core, Table.getD, hc, Core.reset]
  | some c =>
    simp only [State.core, Table.getD, hc, Option.map_some, Option.getD_some, icinvCore]
    split
    · next hs => simp [hs, MF.ea]
    · next hs => simp [hs]


/-! ## `tlbinv` (R345) -/

/-- The cached translations that `tlbinv` drops: those of its function in the range (R345). -/
def tlbinvHits (vf a n : Nat) (e : TlbEntry) : Bool := e.vf = vf && overlaps e.base e.size a n

theorem tlbinvHits_iff {vf a n : Nat} {e : TlbEntry} :
    tlbinvHits vf a n e = true ↔ e.vf = vf ∧ overlaps e.base e.size a n = true := by
  simp [tlbinvHits]

/-- The entries that `tlbinv` of the executing context leaves of a cache. -/
def State.tlbKept (s : State) (f : MF) (l : List TlbEntry) : List TlbEntry :=
  l.filter fun e => !tlbinvHits s.myVf (MF.ea f s).toNat (s.rx f.b).toNat e

theorem State.mem_tlbKept {s : State} {f : MF} {l : List TlbEntry} {e : TlbEntry} : e ∈ s.tlbKept f l ↔
    e ∈ l ∧ ¬(e.vf = s.myVf ∧ overlaps e.base e.size (MF.ea f s).toNat (s.rx f.b).toNat = true) := by
  rw [State.tlbKept, List.mem_filter, ← tlbinvHits_iff, Bool.not_eq_true', Bool.not_eq_true]

@[simp] theorem invalidateTlb_ctx (s : State) (f : MF) (k : Nat) : (s.invalidateTlb f).ctx k = s.ctx k := rfl
@[simp] theorem invalidateTlb_mem (s : State) (f : MF) : (s.invalidateTlb f).ord.mem = s.ord.mem := rfl

theorem invalidateTlb_shed (s : State) (f : MF) :
    ((s.invalidateTlb f).shed s.myShed).tlb = s.tlbKept f (s.shed s.myShed).tlb := by
  unfold State.invalidateTlb
  simp only [State.shed, Table.getD, Table.get?_mapVals]
  cases s.sheds.get? s.myShed with
  | none => rfl
  | some d =>
    have here : qtrOfShed s.myShed = s.myQtr := rfl
    simp only [here, decide_true, ite_self, if_true, Option.map_some, Option.getD_some]
    rfl

theorem invalidateTlb_core (s : State) (f : MF) {core : Nat} (hs : inScope f.scope s.myCore core = true) :
    ((s.invalidateTlb f).core core).tlb = s.tlbKept f (s.core core).tlb := by
  unfold State.invalidateTlb
  simp only [State.core, Table.getD, Table.get?_mapVals]
  cases s.cores.get? core with
  | none => rfl
  | some c =>
    simp only [hs, if_true, Option.map_some, Option.getD_some]
    rfl

theorem OnlyMe.cur {s t : State} (h : OnlyMe s t) : t.cur = s.cur := by rw [h.1]
theorem OnlyMe.core {s t : State} (h : OnlyMe s t) (j : Nat) : t.core j = s.core j := by rw [h.1]; rfl
theorem OnlyMe.shed {s t : State} (h : OnlyMe s t) (j : Nat) : t.shed j = s.shed j := by rw [h.1]; rfl
theorem OnlyMe.gang {s t : State} (h : OnlyMe s t) (j : Nat) : t.gang j = s.gang j := by rw [h.1]; rfl
theorem OnlyMe.ord {s t : State} (h : OnlyMe s t) : t.ord = s.ord := by rw [h.1]

/-- An effect that retires, where no mismatch is due, is that of the state, be it the first issue or the second (R110, R359). -/
theorem run_done {s : State} (h : s.me.mismatch = 0) (g : State → State) :
    ∃ u, s.run (fun v => .done (g v)) = (g u).retire s.cur ∧ OnlyMe s u ∧ u.me = { s.me with replay := false } := by
  cases hr : s.me.replay with
  | false =>
    refine ⟨s, ?_, ⟨rfl, fun _ _ => rfl⟩, ?_⟩
    · rw [State.run, if_pos ⟨h, hr⟩]
      rfl
    · rw [← hr]
  | true =>
    refine ⟨s.updMe fun c => { c with mismatch := 0, replay := false }, ?_, onlyMe_updMe s _, ?_⟩
    · rw [State.run, if_neg (by simp [hr])]
      exact State.checked_of_none h _
    · rw [State.me_updMe, ← h]

/-- The mode in which retirement leaves a context (R85, R86). -/
theorem mode_retire (s : State) (k : Nat) :
    ((s.retire k).ctx k).mode = if pcIndex (s.ctx k).pc = hdrLen (s.ctx k).hdr then .blockEnd else .ready := by
  split
  · next h => rw [State.ctx_retire_last h]
  · next h => rw [State.ctx_retire_next h]

theorem gangOfCore_coreOfCtx (s : State) (k : Nat) : s.gangOfCore (coreOfCtx k) = s.gangOfShed (shedOfCtx k) := by
  simp only [State.gangOfCore, shedOfCore, coreOfCtx, shedOfCtx, Nat.div_div_eq_div_mul]

section
variable {f : MF} {s : State} {k : Nat} {ids : List Nat} (hm : (s.ctx k).mode = .asleep (.tlbinv f ids))
  (hrun : s.coreRuns (coreOfCtx k) = true)
include hm hrun

theorem sleepWake_tlbinv : exec (.sleepWake k) s = if s.setComplete k f.scope ids then
    .next (({ s with cur := k } : State).run fun u => .done (u.invalidateTlb f)) else .next s := by
  have arm : exec (.sleepWake k) s = execSleepWake k s := rfl
  simp only [arm, execSleepWake, hrun, hm, Bool.not_true, Bool.false_eq_true, if_false]

/-- A `tlbinv` whose release is complete retires, and its range is gone from the caches of its scope. -/
theorem tlbinv_invalidates (hno : (s.ctx k).mismatch = 0) (hready : s.setComplete k f.scope ids = true) :
    ∃ t, exec (.sleepWake k) s = .next t ∧ SameBytes s t ∧ (t.ctx k).x = (s.ctx k).x ∧
      (t.ctx k).mode = (if pcIndex (s.ctx k).pc = hdrLen (s.ctx k).hdr then .blockEnd else .ready) ∧
      let hit (e : TlbEntry) : Prop := e.vf = vfOf (s.gang ((s.gangOfCore (coreOfCtx k)).getD 0)).vfq ∧ overlaps e.base e.size
        ((s.ctx k).rx f.a + f.off.signExtend 64).toNat ((s.ctx k).rx f.b).toNat = true
      (∀ e ∈ (t.shed (shedOfCtx k)).tlb, e ∈ (s.shed (shedOfCtx k)).tlb ∧ ¬hit e) ∧
      ∀ core, inScope f.scope (coreOfCtx k) core = true → ∀ e ∈ (t.core core).tlb, e ∈ (s.core core).tlb ∧ ¬hit e := by
  obtain ⟨u, hu, honly, hme⟩ := run_done (s := { s with cur := k }) hno fun v => v.invalidateTlb f
  have hcur : u.cur = k := honly.cur
  have hctx : u.ctx k = { s.ctx k with replay := false } := by rw [State.me, hcur] at hme; exact hme
  have hvf : u.myVf = vfOf (s.gang ((s.gangOfCore (coreOfCtx k)).getD 0)).vfq := by
    simp only [State.myVf, State.myGang, State.myShed, State.gangOfShed, hcur, honly.gang, honly.shed, gangOfCore_coreOfCtx]
    rfl
  have hrx (r : BitVec 5) : u.rx r = (s.ctx k).rx r := by rw [State.rx, hme]; rfl
  have hshed : u.myShed = shedOfCtx k := congrArg shedOfCtx hcur
  have hcore : u.myCore = coreOfCtx k := congrArg coreOfCtx hcur
  refine ⟨(u.invalidateTlb f).retire k, ?_, ?_, ?_, ?_, ?_, ?_⟩
  · rw [sleepWake_tlbinv hm hrun, if_pos hready, hu]
  · apply sameBytes_of_mem
    rw [State.retire_ord, invalidateTlb_mem, honly.ord]
  · rw [State.ctx_retire, invalidateTlb_ctx, hctx]
  · rw [mode_retire, invalidateTlb_ctx, hctx]
  · intro e he
    rw [State.retire_shed, ← hshed, invalidateTlb_shed, State.mem_tlbKept, honly.shed, hvf, MF.ea, hrx, hrx, hshed] at he
    exact he
  · intro core hs e he
    rw [State.retire_core, invalidateTlb_core u f (by rwa [hcore]), State.mem_tlbKept, honly.core, hvf, MF.ea, hrx, hrx] at he
    exact he
end

/-! ## The obligation -/

theorem swrCodeBounds_checks {f : SF} {s : State} (hf : s.Fit (.swrCodeBounds f)) :
    let w := s.rx f.a
    let base := if f.sreg = 0x010 then w else s.me.cbase
    let bound := if f.sreg = 0x010 then s.me.cbound else w
    (s.me.sup = false → Traps (.swrCodeBounds f) s 3 (encode (.swrCodeBounds f)) 0) ∧
    (s.me.sup = true → s.boundsOk base bound = false → Traps (.swrCodeBounds f) s 5 w 0) ∧
    (s.me.sup = true → s.boundsOk base bound = true →
      Completes (.swrCodeBounds f) s (s.updMe fun c => { c with cbase := base, cbound := bound })) :=
  ⟨fun h => traps_of_trap rfl hf (effSwrCodeBounds_user h),
    fun hs h => traps_of_trap rfl hf (effSwrCodeBounds_outside rfl rfl hs h),
    fun hs h => completes_of_done rfl hf (effSwrCodeBounds_inside rfl rfl hs h)⟩

/-- Settles O52, instruction by instruction. -/
theorem systemRegistersTrapsAndInvalidation : Obligations.SystemRegistersTrapsAndInvalidation := by
  refine ⟨fun f s => ⟨fun hf => ⟨fun w h => completes_of_done rfl hf (effSrd_of_some h), fun h => traps_of_trap rfl hf (effSrd_of_none h)⟩,
      fun hf e he hn => swr_writes hf he hn, swrCodeBounds_checks⟩, ?reads, fun f s hf => traps_of_trap rfl hf rfl,
    ?eret, ?eccInj, ?icinv, ?tlbinv, ?wake⟩
  case reads =>
    intro s
    refine ⟨rfl, rfl, rfl, rfl, ?_, rfl⟩
    cases h : s.four <;> simp [State.readSreg, State.feat0, h]
  case eret =>
    exact fun f s hf => ⟨fun h => traps_of_trap rfl hf (effEret_early h), eret_last hf⟩
  case eccInj =>
    intro f s hf
    refine ⟨fun hp => traps_of_trap rfl hf (effEccInj_forbidden hp), fun hp => ?_⟩
    obtain ⟨hbad, hcheck, hcontain⟩ := eccInj_control hf hp
    exact ⟨hbad, hcheck, hcontain, fun hc hst => (eccInj_schedules hf hp hc hst).1, fun hc hst => (eccInj_schedules hf hp hc hst).2⟩
  case icinv =>
    intro f s cfg hf hcfg
    simpa only [icinvHits_iff] using icinv_drops hf hcfg
  case tlbinv =>
    intro f s hf
    refine ⟨fun h => traps_of_trap rfl hf ?_, fun h => sleeps_of_sleep rfl hf ?_⟩
    · simp [effTlbinv, h]
    · simp [effTlbinv, h]
  case wake =>
    intro f s k ids hm hno hrun
    refine ⟨fun h => ?_, tlbinv_invalidates hm hrun hno⟩
    rw [sleepWake_tlbinv hm hrun, h]
    rfl

end Sys2Proof.Machine

/-! SUPPORT. What the loader's writes of memory leave unchanged (R83, R279, R288, R339). -/
namespace Sys2Proof.Machine

/-! ## Updates of memory alone -/

/-- Only the order machine, the tags of scratchpads, the error log and the count of numbers given may differ. -/
def OnlyMemory (s t : State) : Prop := { t with ord := s.ord, next := s.next, sheds := s.sheds, keeper := s.keeper } = s

theorem OnlyMemory.refl (s : State) : OnlyMemory s s := rfl

theorem OnlyMemory.trans {s t u : State} (hst : OnlyMemory s t) (htu : OnlyMemory t u) : OnlyMemory s u := by
  unfold OnlyMemory at htu
  rw [← htu] at hst
  exact hst

theorem OnlyMemory.queues {s t : State} (h : OnlyMemory s t) : t.queues = s.queues := by
  have same := congrArg State.queues h
  exact same

theorem onlyMemory_updOrd (s : State) (f : Order → Order) : OnlyMemory s (s.updOrd f) := rfl
theorem onlyMemory_setMemQ (s : State) (q : Nat) (m : Memory) : OnlyMemory s (s.setMemQ q m) := rfl
theorem onlyMemory_setWrite (s : State) (id : Nat) (w : WriteRec) : OnlyMemory s (s.setWrite id w) := rfl
theorem onlyMemory_tickNext (s : State) : OnlyMemory s s.tickNext := rfl

/-- Steps that each change memory alone change memory alone together. -/
theorem OnlyMemory.foldl {α : Type} {f : State → α → State} (hf : ∀ t a, OnlyMemory t (f t a)) (s : State) (l : List α) :
    OnlyMemory s (l.foldl f s) :=
  List.foldlRecOn l f (motive := OnlyMemory s) (OnlyMemory.refl s) fun t ht a _ => ht.trans (hf t a)

theorem onlyMemory_recode (s : State) (loc : Nat) : OnlyMemory s (s.recode loc) := by
  unfold State.recode
  dsimp only
  split <;> rfl

theorem onlyMemory_tagWrite (s : State) (loc : Nat) (tag : Option Bool) (rel : Option (List Nat)) :
    OnlyMemory s (s.tagWrite loc tag rel) := by
  cases tag <;> rfl

theorem onlyMemory_perform (s : State) (who id q loc : Nat) (mask : BitVec 8) (val : Word) (tag : Option Bool)
    (rel : Option (List Nat)) (atom merged bad : Bool) : OnlyMemory s (s.perform who id q loc mask val tag rel atom merged bad) := by
  unfold State.perform
  dsimp only
  generalize hw : (s.setMemQ q ((s.memQ q).setDword loc mask val)).setWrite id _ = t
  have written : OnlyMemory s t := by rw [← hw]; rfl
  have coded : OnlyMemory s (if home loc = q then t.recode loc else t) := by
    split
    · exact written.trans (onlyMemory_recode t loc)
    · exact written
  exact (coded.trans (onlyMemory_tagWrite _ loc tag rel)).trans (onlyMemory_tickNext _)

theorem onlyMemory_correct (s : State) (loc : Nat) : OnlyMemory s (s.correct loc) := by
  unfold State.correct
  split <;> rfl

theorem onlyMemory_mergeDword (s : State) (loc : Nat) : OnlyMemory s (s.mergeDword loc) := by
  unfold State.mergeDword
  split
  · exact OnlyMemory.refl s
  · refine OnlyMemory.trans ?_ (onlyMemory_correct _ loc)
    have merged {v : Word} {bad : Bool} : OnlyMemory s (s.tickNext.perform noWriter s.next (home loc) loc 0xFF v none none false true bad) :=
      (onlyMemory_tickNext _).trans (onlyMemory_perform ..)
    split
    · exact merged.trans (onlyMemory_setWrite ..)
    · exact merged

theorem onlyMemory_mergeLine (s : State) (line : Nat) : OnlyMemory s (s.mergeLine line) := by
  unfold State.mergeLine
  refine (OnlyMemory.foldl (fun t i => onlyMemory_mergeDword t _) s _).trans (OnlyMemory.foldl (fun t q => ?_) _ _)
  dsimp only
  split
  · split <;> rfl
  · rfl

theorem onlyMemory_writeEverywhere (s : State) (loc : Nat) (mask : BitVec 8) (v : Word) (bad : Bool) :
    OnlyMemory s (s.writeEverywhere loc mask v bad) := by
  unfold State.writeEverywhere
  have merged := onlyMemory_mergeLine s (lineOf loc)
  generalize s.mergeLine (lineOf loc) = u at merged ⊢
  have performed : OnlyMemory u (u.tickNext.perform noWriter u.next (home loc) loc mask v none none false false bad) :=
    (onlyMemory_tickNext _).trans (onlyMemory_perform ..)
  have stands := performed.trans (OnlyMemory.foldl (f := fun t q => if q = home loc then t
    else t.setMemQ q ((t.memQ q).setDword loc mask v)) (fun t q => by
      split
      · exact OnlyMemory.refl t
      · exact onlyMemory_setMemQ ..) _ (List.range u.nq))
  dsimp only
  generalize List.foldl _ _ (List.range u.nq) = t at stands ⊢
  refine merged.trans (stands.trans ?_)
  split
  · exact OnlyMemory.refl t
  · split
    · exact onlyMemory_setWrite ..
    · exact (onlyMemory_setWrite ..).trans (onlyMemory_updOrd ..)

theorem onlyMemory_writeBytes (s : State) (a : Nat) (l : List Byte) : OnlyMemory s (s.writeBytes a l) := by
  induction l generalizing s a with
  | nil => exact OnlyMemory.refl s
  | cons b bs ih =>
    unfold State.writeBytes
    exact (onlyMemory_writeEverywhere ..).trans (ih _ _)

theorem onlyMemory_encrypt (s : State) (slot loc : Nat) : OnlyMemory s (s.encrypt slot loc) := by
  unfold State.encrypt
  dsimp only
  split
  · rfl
  · refine OnlyMemory.trans ?_ (onlyMemory_updOrd ..)
    split
    · exact OnlyMemory.refl s
    · split
      · exact OnlyMemory.refl s
      · split
        · exact (OnlyMemory.foldl (fun t q => onlyMemory_setMemQ ..) s _).trans (onlyMemory_updOrd ..)
        · exact OnlyMemory.foldl (fun t q => onlyMemory_setMemQ ..) s _

theorem onlyMemory_writeKeyed (s : State) (slot a : Nat) (l : List Byte) : OnlyMemory s (s.writeKeyed slot a l) :=
  (OnlyMemory.foldl (fun t _ => onlyMemory_encrypt t slot _) s _).trans (onlyMemory_writeBytes ..)

/-! ## Results of the loader -/

/-- Whatever a computation answers without a refusal has a property. -/
def EveryResult {α : Type} (P : α → Prop) (x : Except Nat α) : Prop := ∀ a, x = .ok a → P a

theorem everyResult_error {α : Type} {P : α → Prop} (n : Nat) : EveryResult P (.error n) := fun _ h => nomatch h

theorem everyResult_ok {α : Type} {P : α → Prop} {a : α} (h : P a) : EveryResult P (.ok a) := fun _ e => by
  cases e
  exact h

theorem everyResult_bind {α β : Type} {P : β → Prop} {x : Except Nat α} {f : α → Except Nat β}
    (h : ∀ a, x = .ok a → EveryResult P (f a)) : EveryResult P (x >>= f) := by
  cases x with
  | error n => exact everyResult_error n
  | ok a => exact h a rfl

theorem onlyMemory_writeVirtual (s : State) (c : VfCfg) (va : Nat) (l : List Byte) :
    EveryResult (OnlyMemory s) (s.writeVirtual c va l) := by
  induction l generalizing s va with
  | nil => exact everyResult_ok (OnlyMemory.refl s)
  | cons b bs ih =>
    unfold State.writeVirtual
    split
    · exact everyResult_error _
    · next a slot _ => exact fun u hu => (onlyMemory_writeKeyed s slot a [b]).trans (ih _ _ u hu)

theorem onlyMemory_foldlM {α : Type} {f : State → α → Except Nat State} (hf : ∀ t a, EveryResult (OnlyMemory t) (f t a))
    (s : State) (l : List α) : EveryResult (OnlyMemory s) (l.foldlM f s) := by
  induction l generalizing s with
  | nil => exact everyResult_ok (OnlyMemory.refl s)
  | cons a l ih =>
    rw [List.foldlM_cons]
    exact everyResult_bind fun t ht u hu => (hf s a t ht).trans (ih t u hu)

/-- A LOAD that loads an object changes no queue. -/
theorem loadObject_queues (s : State) (vf obj : Nat) (b : List Byte) :
    EveryResult (fun u => u.queues = s.queues) (s.loadObject vf obj b) := by
  unfold State.loadObject
  refine everyResult_bind fun o _ => ?_
  dsimp only
  split
  · exact everyResult_error 2
  · refine everyResult_bind fun _ _ => everyResult_bind fun c _ => everyResult_bind fun base _ => everyResult_bind fun bytes _ =>
      everyResult_bind fun data _ => everyResult_bind fun t ht => everyResult_ok ?_
    have data := onlyMemory_foldlM (fun t e => onlyMemory_writeVirtual t c e.1 e.2) s data t ht
    exact (onlyMemory_writeKeyed t _ _ _).queues.trans data.queues

end Sys2Proof.Machine

/-! SUPPORT. What the passage of global ticks changes (R9, R169 to R172). -/
namespace Sys2Proof

/-! ## Numbers of a table -/

theorem Table.get?_isSome_iff {α : Type} (t : Table α) (k : Nat) : (t.get? k).isSome = true ↔ k ∈ t.map (·.1) := by
  induction t with
  | nil => simp [Table.get?]
  | cons e t ih =>
    obtain ⟨j, a⟩ := e
    by_cases h : j = k
    · simp [Table.get?, h]
    · simp [Table.get?, h, ih, Ne.symm h]

theorem Table.mem_of_get? {α : Type} {t : Table α} {k : Nat} {a : α} (h : t.get? k = some a) : (k, a) ∈ t := by
  induction t with
  | nil => simp [Table.get?] at h
  | cons e t ih =>
    obtain ⟨j, b⟩ := e
    unfold Table.get? at h
    split at h
    · next hj => simp_all
    · exact List.mem_cons_of_mem _ (ih h)

end Sys2Proof

namespace Sys2Proof.Machine

/-! ## What every part of a tick leaves (R9, R170, R172) -/

/-- A context that differs at most in event bit 4. -/
def Ctx.SameButWarning (c d : Ctx) : Prop := ∃ e : BitVec 5, d = { c with event := e } ∧ e &&& 0b01111 = c.event &&& 0b01111

theorem Ctx.SameButWarning.refl (c : Ctx) : c.SameButWarning c := ⟨c.event, rfl, rfl⟩

theorem Ctx.SameButWarning.trans {c d e : Ctx} (hcd : c.SameButWarning d) (hde : d.SameButWarning e) : c.SameButWarning e := by
  obtain ⟨x, rfl, hx⟩ := hcd
  obtain ⟨y, rfl, hy⟩ := hde
  exact ⟨y, rfl, hy.trans hx⟩

theorem Ctx.sameButWarning_setEvent (c : Ctx) : c.SameButWarning (c.setEvent 0b10000) := by
  unfold Ctx.setEvent
  split
  · refine ⟨_, rfl, ?_⟩
    generalize c.event = e
    revert e
    decide
  · exact Ctx.SameButWarning.refl c

theorem Ctx.sameButWarning_clear (c : Ctx) : c.SameButWarning { c with event := c.event &&& 0b01111 } :=
  ⟨_, rfl, by rw [BitVec.and_assoc]; rfl⟩

/-- Time, memory, master and what the contexts show but their warning are the same. -/
structure KeepsWork (s t : State) : Prop where
  now : t.now = s.now
  ord : t.ord = s.ord
  ctx : ∀ k, (s.ctx k).SameButWarning (t.ctx k)

theorem KeepsWork.refl (s : State) : KeepsWork s s := ⟨rfl, rfl, fun _ => Ctx.SameButWarning.refl _⟩

theorem KeepsWork.trans {s t u : State} (hst : KeepsWork s t) (htu : KeepsWork t u) : KeepsWork s u :=
  ⟨htu.now.trans hst.now, htu.ord.trans hst.ord, fun k => (hst.ctx k).trans (htu.ctx k)⟩

/-- A change of other parts of the state. -/
theorem KeepsWork.of_same {s t : State} (hn : t.now = s.now) (ho : t.ord = s.ord) (hc : t.ctxs = s.ctxs) : KeepsWork s t :=
  ⟨hn, ho, fun k => by rw [State.ctx, State.ctx, hc]; exact Ctx.SameButWarning.refl _⟩

theorem KeepsWork.foldl {α : Type} {f : State → α → State} (hf : ∀ t a, KeepsWork t (f t a)) (s : State) (l : List α) :
    KeepsWork s (l.foldl f s) :=
  List.foldlRecOn l f (motive := KeepsWork s) (KeepsWork.refl s) fun t ht a _ => ht.trans (hf t a)

theorem keepsWork_updCtx (s : State) (k : Nat) {f : Ctx → Ctx} (hf : ∀ c : Ctx, c.SameButWarning (f c)) :
    KeepsWork s (s.updCtx k f) := by
  refine ⟨rfl, rfl, fun j => ?_⟩
  by_cases h : j = k
  · subst h
    rw [State.ctx_updCtx_self]
    exact hf _
  · rw [State.ctx_updCtx_ne s f h]
    exact Ctx.SameButWarning.refl _

theorem keepsWork_eachCtx (s : State) (cores : List Nat) {f : Ctx → Ctx} (hf : ∀ c : Ctx, c.SameButWarning (f c)) :
    KeepsWork s (s.eachCtx cores f) := by
  unfold State.eachCtx
  refine KeepsWork.foldl (fun t c => ?_) s cores
  have shown := KeepsWork.foldl (fun u k => keepsWork_updCtx u k hf) t (ctxsOfCore c)
  exact shown.trans (KeepsWork.of_same rfl rfl rfl)

theorem keepsWork_warnQueue (s : State) (n : Nat) (set : Bool) : KeepsWork s (s.warnQueue n set) := by
  unfold State.warnQueue
  refine keepsWork_eachCtx s _ fun c => ?_
  cases set
  · exact c.sameButWarning_clear
  · exact c.sameButWarning_setEvent

/-- The journal's records change nothing but the quarters. -/
theorem journal_frame (s : State) (kind subject value : Nat) :
    s.journal kind subject value = { s with quarters := (s.journal kind subject value).quarters } := by
  have one (t : State) (q : Nat) (r : Nat × Nat × Nat) : t.journalAt q r = { t with quarters := (t.journalAt q r).quarters } := by
    unfold State.journalAt
    dsimp only
    split <;> rfl
  unfold State.journal
  dsimp only
  rw [one (s.journalAt _ _), one s]

theorem leaveAt_frame (s : State) (g t : Nat) (drop : Bool) :
    s.leaveAt g t drop = { s with gangs := (s.leaveAt g t drop).gangs, quarters := (s.leaveAt g t drop).quarters } := by
  unfold State.leaveAt
  dsimp only
  split
  · rfl
  · split
    · rfl
    · rw [journal_frame]
      rfl

/-- What decides switches changes only gangs, the journal and the count of free values. -/
theorem decideSwitches_frame (s : State) (gs : List Nat) (drop : Bool) : s.decideSwitches gs drop = { s with
    gangs := (s.decideSwitches gs drop).gangs, quarters := (s.decideSwitches gs drop).quarters, free := s.free + 1 } := by
  unfold State.decideSwitches
  dsimp only
  refine List.foldlRecOn gs _ (motive := fun t : State => t = { s with gangs := t.gangs, quarters := t.quarters, free := s.free + 1 })
    rfl fun t ht g _ => ?_
  rw [leaveAt_frame, ht]

theorem keepsWork_decideSwitches (s : State) (gs : List Nat) (drop : Bool) : KeepsWork s (s.decideSwitches gs drop) := by
  rw [decideSwitches_frame]
  exact KeepsWork.of_same rfl rfl rfl

theorem keepsWork_setQueue (s : State) (n : Nat) (q : Queue) : KeepsWork s (s.setQueue n q) := KeepsWork.of_same rfl rfl rfl
theorem keepsWork_askEvaluate (s : State) : KeepsWork s s.askEvaluate := KeepsWork.of_same rfl rfl rfl

theorem keepsWork_dueSwitch (s : State) (n : Nat) : KeepsWork s (s.dueSwitch n) := by
  unfold State.dueSwitch
  dsimp only
  split
  · exact KeepsWork.refl s
  · exact (keepsWork_setQueue s n _).trans (keepsWork_decideSwitches ..)

theorem keepsWork_levels (s : State) (n : Nat) : KeepsWork s (s.levels n) := by
  unfold State.levels
  dsimp only
  generalize hw : (if (!(s.queue n).warned && (s.queue n).atLevel) = true then _ else s) = t
  have warned : KeepsWork s t := by
    rw [← hw]
    split
    · exact ((keepsWork_setQueue s n _).trans (keepsWork_warnQueue ..)).trans (keepsWork_askEvaluate _)
    · exact KeepsWork.refl s
  split
  · exact warned.trans ((keepsWork_setQueue t n _).trans (keepsWork_dueSwitch ..))
  · exact warned

theorem keepsWork_chargeEnergy (s : State) : KeepsWork s s.chargeEnergy := by
  unfold State.chargeEnergy
  refine KeepsWork.foldl (fun t e => ?_) s _
  refine KeepsWork.trans ?_ (keepsWork_levels ..)
  exact KeepsWork.of_same rfl rfl rfl

theorem keepsWork_refill (s : State) (n : Nat) : KeepsWork s (s.refill n) := by
  unfold State.refill
  exact ((keepsWork_setQueue s n _).trans (keepsWork_warnQueue ..)).trans (keepsWork_askEvaluate _)

theorem keepsWork_refillSince (s : State) (before : Nat) : KeepsWork s (s.refillSince before) :=
  KeepsWork.foldl keepsWork_refill s _

/-! ## Periods of queues (R169, R172) -/

/-- A queue at the beginning of the period that a tick lies in. -/
def Queue.begun (q : Queue) (now : Nat) : Queue :=
  { q with charge := 0, periodStart := now / q.period * q.period, warned := false, exhausted := false, switchDue := false }

/-- Has the queue run into a multiple of its period between two ticks? -/
def Queue.passes (q : Queue) (before now : Nat) : Bool := q.period ≠ 0 && before / q.period ≠ now / q.period

/-- A queue after ticks that make no charge. -/
def Queue.over (q : Queue) (before now : Nat) : Queue := if q.passes before now then q.begun now else q

theorem Queue.over_over (q : Queue) {a b c : Nat} (hab : a ≤ b) (hbc : b ≤ c) : (q.over a b).over b c = q.over a c := by
  have first : a / q.period ≤ b / q.period := Nat.div_le_div_right hab
  have rest : b / q.period ≤ c / q.period := Nat.div_le_div_right hbc
  unfold Queue.over Queue.passes
  by_cases hp : q.period = 0
  · simp [hp]
  · by_cases hfirst : a / q.period = b / q.period
    · simp [hp, hfirst]
    · have all : ¬a / q.period = c / q.period := by omega
      by_cases hrest : b / q.period = c / q.period
      · simp [hp, all, hrest, Queue.begun]
      · simp [hp, hfirst, all, hrest, Queue.begun]

theorem eachCtx_queues (s : State) (cores : List Nat) (f : Ctx → Ctx) : (s.eachCtx cores f).queues = s.queues := by
  unfold State.eachCtx
  refine List.foldlRecOn cores _ (motive := fun t : State => t.queues = s.queues) rfl fun t ht c _ => ?_
  exact List.foldlRecOn (ctxsOfCore c) _ (motive := fun u : State => u.queues = s.queues) ht fun u hu k _ => hu

theorem refill_queues (s : State) (n : Nat) : (s.refill n).queues = s.queues.put n ((s.queue n).begun s.now) := by
  unfold State.refill
  exact eachCtx_queues ..

theorem queue_refill (s : State) (n j : Nat) :
    (s.refill n).queue j = if j = n then (s.queue n).begun s.now else s.queue j := by
  rw [State.queue, refill_queues, Table.getD_put]
  rfl

/-- Queues that begin a period at one tick, each as often as it is named. -/
theorem queue_foldl_refill (l : List Nat) (s : State) (j : Nat) :
    (l.foldl (fun t n => t.refill n) s).queue j = if j ∈ l then (s.queue j).begun s.now else s.queue j := by
  induction l generalizing s with
  | nil => simp
  | cons n l ih =>
    rw [List.foldl_cons, ih, (keepsWork_refill s n).now, queue_refill]
    by_cases hj : j = n
    · subst hj
      have again : ((s.queue j).begun s.now).begun s.now = (s.queue j).begun s.now := rfl
      simp [again]
    · simp [hj]

theorem isSome_foldl_refill (l : List Nat) (s : State) (hl : ∀ n ∈ l, (s.queues.get? n).isSome = true) (j : Nat) :
    ((l.foldl (fun t n => t.refill n) s).queues.get? j).isSome = (s.queues.get? j).isSome := by
  induction l generalizing s with
  | nil => rfl
  | cons n l ih =>
    have one (i : Nat) : ((s.refill n).queues.get? i).isSome = (s.queues.get? i).isSome := by
      rw [refill_queues]
      by_cases hi : i = n
      · rw [hi, Table.get?_put_self, hl n (List.mem_cons_self ..)]
        rfl
      · rw [Table.get?_put_ne _ _ hi]
    rw [List.foldl_cons, ih _ fun m hm => (one m).trans (hl m (List.mem_cons_of_mem n hm)), one]

theorem periodBegan_ne (q : Queue) (before now : Nat) :
    (q.period ≠ 0 && q.periodBegan before ≠ q.periodBegan now) = q.passes before now := by
  unfold Queue.passes Queue.periodBegan
  by_cases hp : q.period = 0
  · simp [hp]
  · simp [hp]

theorem mem_periodsBegun (s : State) (before j : Nat) :
    j ∈ (s.queues.map (·.1)).filter (fun n => (s.queue n).period ≠ 0 && (s.queue n).periodBegan before ≠ (s.queue n).periodBegan s.now) ↔
      (s.queues.get? j).isSome = true ∧ (s.queue j).passes before s.now = true := by
  rw [List.mem_filter, periodBegan_ne, Table.get?_isSome_iff]

theorem queue_refillSince (s : State) (before j : Nat) : (s.refillSince before).queue j =
    if (s.queues.get? j).isSome then (s.queue j).over before s.now else s.queue j := by
  unfold State.refillSince Queue.over
  rw [queue_foldl_refill]
  simp only [mem_periodsBegun, ite_and]

theorem isSome_refillSince (s : State) (before j : Nat) :
    ((s.refillSince before).queues.get? j).isSome = (s.queues.get? j).isSome :=
  isSome_foldl_refill _ s (fun n hn => ((mem_periodsBegun s before n).mp hn).1) j

/-! ## One tick and many -/

theorem oneTick_eq (s : State) :
    s.oneTick = (if (s.now + 1) % 1000 = 0 then s.elapse.chargeEnergy else s.elapse).refillSince s.now := rfl

theorem keepsWork_oneTick (s : State) : s.oneTick.now = s.now + 1 ∧ s.oneTick.ord = s.ord ∧
    ∀ k, (s.ctx k).SameButWarning (s.oneTick.ctx k) := by
  have elapsed : s.elapse.ord = s.ord ∧ ∀ k, s.elapse.ctx k = s.ctx k := ⟨rfl, fun _ => rfl⟩
  have tick : KeepsWork s.elapse s.oneTick := by
    rw [oneTick_eq]
    split
    · exact (keepsWork_chargeEnergy _).trans (keepsWork_refillSince ..)
    · exact keepsWork_refillSince ..
  exact ⟨tick.now, tick.ord, tick.ctx⟩

/-- A tick that is no multiple of 1,000 brings the periods that begin at it and nothing else to the queues. -/
theorem oneTick_of_not_charge {s : State} (h : (s.now + 1) % 1000 ≠ 0) : s.oneTick = s.elapse.refillSince s.now := by
  rw [oneTick_eq, if_neg h]

theorem queue_oneTick {s : State} (h : (s.now + 1) % 1000 ≠ 0) (j : Nat) : s.oneTick.queue j =
    if (s.queues.get? j).isSome then (s.queue j).over s.now (s.now + 1) else s.queue j := by
  rw [oneTick_of_not_charge h]
  exact queue_refillSince s.elapse s.now j

theorem isSome_oneTick {s : State} (h : (s.now + 1) % 1000 ≠ 0) (j : Nat) :
    (s.oneTick.queues.get? j).isSome = (s.queues.get? j).isSome := by
  rw [oneTick_of_not_charge h]
  exact isSome_refillSince s.elapse s.now j

theorem keepsWork_pass (s : State) (n : Nat) : (s.pass n).now = s.now + n ∧ (s.pass n).ord = s.ord ∧
    ∀ k, (s.ctx k).SameButWarning ((s.pass n).ctx k) := by
  induction n generalizing s with
  | zero => exact ⟨rfl, rfl, fun _ => Ctx.SameButWarning.refl _⟩
  | succ n ih =>
    obtain ⟨hnow, hord, hctx⟩ := keepsWork_oneTick s
    obtain ⟨inow, iord, ictx⟩ := ih s.oneTick
    exact ⟨by rw [State.pass, inow, hnow]; omega, iord.trans hord, fun k => (hctx k).trans (ictx k)⟩

/-- Ticks that pass no multiple of 1,000 change exactly the queues that run into a multiple of their period. -/
theorem queue_pass {s : State} {n : Nat} (h : s.now / 1000 = (s.now + n) / 1000) (j : Nat) : (s.pass n).queue j =
    if (s.queues.get? j).isSome then (s.queue j).over s.now (s.now + n) else s.queue j := by
  induction n generalizing s with
  | zero => simp [Queue.over, Queue.passes, State.pass]
  | succ n ih =>
    have noCharge : (s.now + 1) % 1000 ≠ 0 := by omega
    obtain ⟨hnow, -, -⟩ := keepsWork_oneTick s
    rw [State.pass, ih (by rw [hnow]; omega), isSome_oneTick noCharge, queue_oneTick noCharge, hnow]
    split
    · rw [Queue.over_over _ (by omega) (by omega), Nat.add_assoc, Nat.add_comm 1 n]
    · rfl

end Sys2Proof.Machine

/-! SUPPORT. The command queues' own progress (R131, R134, R136, R137, R344). -/
namespace Sys2Proof.Machine

/-! ## The end of a command (R134, R137) -/

theorem journal_queues (s : State) (kind subject value : Nat) : (s.journal kind subject value).queues = s.queues := by
  rw [journal_frame]

theorem journal_queue (s : State) (kind subject value n : Nat) : (s.journal kind subject value).queue n = s.queue n := by
  rw [State.queue, State.queue, journal_queues]

theorem journal_gang (s : State) (kind subject value g : Nat) : (s.journal kind subject value).gang g = s.gang g := by
  rw [journal_frame]
  rfl

theorem completeNaming_frame (s : State) (n : Nat) (seq : BitVec 32) (st : Nat) (info : Word) (names : Option Nat) :
    s.completeNaming n seq st info names = { s with
      queues := (s.completeNaming n seq st info names).queues, quarters := (s.completeNaming n seq st info names).quarters } := by
  unfold State.completeNaming
  dsimp only
  split
  · rfl
  · rw [journal_frame]
    rfl

theorem completeNaming_vfs (s : State) (n : Nat) (seq : BitVec 32) (st : Nat) (info : Word) (names : Option Nat) :
    (s.completeNaming n seq st info names).vfs = s.vfs := by
  rw [completeNaming_frame]

theorem completeNaming_ord (s : State) (n : Nat) (seq : BitVec 32) (st : Nat) (info : Word) (names : Option Nat) :
    (s.completeNaming n seq st info names).ord = s.ord := by
  rw [completeNaming_frame]

/-- A queue after a command of it has ended: the command is dropped and its record is the newest. -/
def Ended (q v : Queue) (seq : BitVec 32) (tag : Word) (st : Nat) (info : Word) : Prop :=
  v.cmds = q.cmds.filter (fun e => e.seq ≠ seq) ∧
    ∃ r, v.sent = r :: q.sent ∧ r.seq = seq ∧ r.tag = tag ∧ r.status = BitVec.ofNat 16 st ∧ r.info = info

theorem ended_completeNaming {s : State} {n : Nat} {seq : BitVec 32} {c : Cmd}
    (h : (s.queue n).cmds.find? (fun e => e.seq = seq) = some c) (st : Nat) (info : Word) (names : Option Nat) :
    Ended (s.queue n) ((s.completeNaming n seq st info names).queue n) seq c.tag st info := by
  simp only [State.completeNaming, h, journal_queue, State.queue_setQueue_self]
  exact ⟨rfl, _, rfl, rfl, rfl, rfl, rfl⟩

/-- A queue that has only dropped commands and sent records. -/
def Queue.Progressed (q v : Queue) : Prop := (∀ e ∈ v.cmds, e ∈ q.cmds) ∧ ∀ r ∈ q.sent, r ∈ v.sent

theorem Queue.Progressed.refl (q : Queue) : q.Progressed q := ⟨fun _ h => h, fun _ h => h⟩

theorem Queue.Progressed.trans {q v w : Queue} (hqv : q.Progressed v) (hvw : v.Progressed w) : q.Progressed w :=
  ⟨fun e h => hqv.1 e (hvw.1 e h), fun r h => hvw.2 r (hqv.2 r h)⟩

theorem progressed_of_queues {s t : State} (h : t.queues = s.queues) (n : Nat) : (s.queue n).Progressed (t.queue n) := by
  rw [State.queue, State.queue, h]
  exact Queue.Progressed.refl _

theorem progressed_completeNaming (s : State) (n : Nat) (seq : BitVec 32) (st : Nat) (info : Word) (names : Option Nat) :
    (s.queue n).Progressed ((s.completeNaming n seq st info names).queue n) := by
  cases h : (s.queue n).cmds.find? (fun e => e.seq = seq) with
  | none =>
    have : s.completeNaming n seq st info names = s := by simp only [State.completeNaming, h]
    rw [this]
    exact Queue.Progressed.refl _
  | some c =>
    obtain ⟨hcmds, r, hsent, -⟩ := ended_completeNaming h st info names
    rw [Queue.Progressed, hcmds, hsent]
    exact ⟨fun e he => List.mem_of_mem_filter he, fun x hx => List.mem_cons_of_mem r hx⟩

/-! ## Decided switches (R144) -/

theorem leaveAt_gang_ne (s : State) {g j : Nat} (t : Nat) (drop : Bool) (h : j ≠ g) : (s.leaveAt g t drop).gang j = s.gang j := by
  unfold State.leaveAt
  dsimp only
  split
  · exact State.gang_updGang_ne s _ h
  · split
    · rfl
    · rw [journal_gang]
      exact State.gang_updGang_ne s _ h

theorem leaveAt_gang_self (s : State) (g t : Nat) (drop : Bool)
    (h : (s.gang g).switchAt.isSome = true ∨ (s.gang g).state = .resident) : ((s.leaveAt g t drop).gang g).switchAt.isSome = true := by
  unfold State.leaveAt
  dsimp only
  split
  · next _ hsw => rw [State.gang_updGang_self, hsw]; rfl
  · next hsw =>
    have resident : (s.gang g).state = .resident := h.resolve_left (by simp [hsw])
    rw [if_neg (by simp [resident]), journal_gang, State.gang_updGang_self]
    rfl

theorem leaveAt_gang_decided (s : State) {g j : Nat} (t : Nat) (drop : Bool) (h : (s.gang j).switchAt.isSome = true) :
    ((s.leaveAt g t drop).gang j).switchAt.isSome = true := by
  by_cases hj : j = g
  · subst hj
    exact leaveAt_gang_self s j t drop (.inl h)
  · rw [leaveAt_gang_ne s t drop hj]
    exact h

/-- Every resident gang that is named gets a timestamp. -/
theorem foldl_leaveAt_decides (t : Nat) (drop : Bool) (gs : List Nat) (s : State) {g : Nat} (hg : g ∈ gs)
    (h : (s.gang g).switchAt.isSome = true ∨ (s.gang g).state = .resident) :
    ((gs.foldl (fun u g => u.leaveAt g t drop) s).gang g).switchAt.isSome = true := by
  induction gs generalizing s with
  | nil => simp at hg
  | cons j gs ih =>
    by_cases hj : g = j
    · subst hj
      exact List.foldlRecOn gs _ (motive := fun u : State => (u.gang g).switchAt.isSome = true) (leaveAt_gang_self s g t drop h)
        fun u hu j _ => leaveAt_gang_decided u t drop hu
    · exact ih _ ((List.mem_cons.mp hg).resolve_left hj) (by rwa [leaveAt_gang_ne s t drop hj])

theorem decideSwitches_decides (s : State) (gs : List Nat) (drop : Bool) {g : Nat} (hg : g ∈ gs) (h : (s.gang g).state = .resident) :
    ((s.decideSwitches gs drop).gang g).switchAt.isSome = true :=
  foldl_leaveAt_decides _ drop gs { s with free := s.free + 1 } hg (.inr h)

/-! ## UNLOAD (R344) -/

theorem freeObj_queues (s : State) (vf obj : Nat) (o : Obj) (force : Bool) : (s.freeObj vf obj o force).queues = s.queues := by
  cases force <;> rfl

theorem freeObj_frees (s : State) (vf obj : Nat) (o : Obj) (force : Bool) :
    (((s.freeObj vf obj o force).vf vf).objs.get? obj) = none := by
  have freed : (((s.updVf vf fun v => { v with objs := v.objs.del obj }).vf vf).objs.get? obj) = none := by
    rw [State.vf_updVf_self]
    exact Table.get?_del_self ..
  cases force <;> exact freed

section
variable {s : State} {n obj : Nat} {seq : BitVec 32}

theorem tryUnload_of_none (h : (s.vf (vfOf n)).objs.get? obj = none) (force : Bool) :
    s.tryUnload n seq obj force = s.completeCmd n seq 2 0 := by
  simp only [State.tryUnload, h]

variable {o : Obj} (h : (s.vf (vfOf n)).objs.get? obj = some o)
include h

theorem tryUnload_counted (hc : s.refCount (vfOf n) o ≠ 0) : s.tryUnload n seq obj false = s := by
  simp only [State.tryUnload, h, Bool.not_false, if_true, hc, if_false]

theorem tryUnload_uncounted (hc : s.refCount (vfOf n) o = 0) :
    s.tryUnload n seq obj false = (s.freeObj (vfOf n) obj o false).completeCmd n seq 0 0 := by
  simp only [State.tryUnload, h, Bool.not_false, if_true, hc]

/-- Does the gang run code of the object on its sheds, or is it on its way there? -/
def Gang.stands (g : Gang) (vf : Nat) (o : Obj) : Bool :=
  g.isOf vf o && (g.state = .resident || g.state = .switching || g.state = .launching || g.state = .restoring)

theorem tryUnload_forced : s.tryUnload n seq obj true =
    let here := s.gangs.filter fun e => e.2.stands (vfOf n) o
    let on := here.filter fun e => e.2.state = .resident && e.2.switchAt.isNone
    if here.isEmpty then (s.freeObj (vfOf n) obj o true).completeCmd n seq 0 0
    else if on.isEmpty then s
    else s.decideSwitches (on.map (·.1)) false := by
  simp only [State.tryUnload, h, Bool.not_true, Bool.false_eq_true, if_false]
  rfl
end

theorem decideSwitches_queues (s : State) (gs : List Nat) (drop : Bool) : (s.decideSwitches gs drop).queues = s.queues := by
  rw [decideSwitches_frame]

/-- An UNLOAD that goes on ends, or leaves every queue as it was. -/
theorem tryUnload_cases (s : State) (n : Nat) (seq : BitVec 32) (obj : Nat) (force : Bool) :
    ∃ v : State, v.queues = s.queues ∧ (s.tryUnload n seq obj force = v ∨ ∃ st, s.tryUnload n seq obj force = v.completeCmd n seq st 0) := by
  cases h : (s.vf (vfOf n)).objs.get? obj with
  | none => exact ⟨s, rfl, .inr ⟨2, tryUnload_of_none h force⟩⟩
  | some o =>
    cases force with
    | false =>
      by_cases hc : s.refCount (vfOf n) o = 0
      · exact ⟨_, freeObj_queues .., .inr ⟨0, tryUnload_uncounted h hc⟩⟩
      · exact ⟨s, rfl, .inl (tryUnload_counted h hc)⟩
    | true =>
      rw [tryUnload_forced h]
      dsimp only
      split
      · exact ⟨_, freeObj_queues .., .inr ⟨0, rfl⟩⟩
      · split
        · exact ⟨s, rfl, .inl rfl⟩
        · exact ⟨_, decideSwitches_queues .., .inl rfl⟩

theorem progressed_tryUnload (s : State) (n : Nat) (seq : BitVec 32) (obj : Nat) (force : Bool) :
    (s.queue n).Progressed ((s.tryUnload n seq obj force).queue n) := by
  obtain ⟨v, hv, h | ⟨st, h⟩⟩ := tryUnload_cases s n seq obj force
  · rw [h]
    exact progressed_of_queues hv n
  · rw [h]
    exact (progressed_of_queues hv n).trans (progressed_completeNaming v n seq st 0 none)

/-- By force, an object whose gangs stand on sheds has their switches decided; the others' time has come already. -/
theorem tryUnload_switches {s : State} {n obj : Nat} {seq : BitVec 32} {o : Obj} (h : (s.vf (vfOf n)).objs.get? obj = some o)
    (here : ∃ e ∈ s.gangs, e.2.stands (vfOf n) o = true) : let u := s.tryUnload n seq obj true
    u.queues = s.queues ∧ u.vfs = s.vfs ∧ ∀ g x, s.gangs.get? g = some x → x.isOf (vfOf n) o = true → x.state = .resident →
      (u.gang g).switchAt.isSome = true := by
  obtain ⟨e, he, hstands⟩ := here
  have some_ : ¬(s.gangs.filter fun e => e.2.stands (vfOf n) o).isEmpty = true := by
    rw [List.isEmpty_iff]
    exact List.ne_nil_of_mem (List.mem_filter.mpr ⟨he, hstands⟩)
  rw [tryUnload_forced h]
  dsimp only
  rw [if_neg some_]
  have known {g : Nat} {x : Gang} (hx : s.gangs.get? g = some x) : s.gang g = x := by rw [State.gang, Table.getD, hx]; rfl
  have listed {g : Nat} {x : Gang} (hx : s.gangs.get? g = some x) (hof : x.isOf (vfOf n) o = true) (hr : x.state = .resident)
      (hsw : x.switchAt.isNone = true) : (g, x) ∈ (s.gangs.filter fun e => e.2.stands (vfOf n) o).filter fun e =>
        e.2.state = .resident && e.2.switchAt.isNone := by
    have stands : x.stands (vfOf n) o = true := by simp [Gang.stands, hof, hr]
    have waits : (decide (x.state = .resident) && x.switchAt.isNone) = true := by simp only [hr, hsw, decide_true, Bool.and_self]
    exact List.mem_filter.mpr ⟨List.mem_filter.mpr ⟨Table.mem_of_get? hx, stands⟩, waits⟩
  split
  · next hon =>
    refine ⟨rfl, rfl, fun g x hx hof hr => ?_⟩
    rw [known hx]
    by_contra hsw
    have := listed hx hof hr (by simpa using hsw)
    rw [List.isEmpty_iff.mp hon] at this
    simp at this
  · refine ⟨decideSwitches_queues .., ?_, fun g x hx hof hr => ?_⟩
    · rw [decideSwitches_frame]
    · cases hsw : x.switchAt with
      | none => exact decideSwitches_decides s _ false (List.mem_map.mpr ⟨_, listed hx hof hr (by rw [hsw]; rfl), rfl⟩) (by rw [known hx, hr])
      | some t =>
        unfold State.decideSwitches
        refine List.foldlRecOn _ _ (motive := fun u : State => (u.gang g).switchAt.isSome = true) ?_
          fun u hu j _ => leaveAt_gang_decided u _ false hu
        exact (congrArg (fun v : Gang => v.switchAt.isSome) (known hx)).trans (congrArg Option.isSome hsw)

/-! ## The start of a command (R136) -/

/-- A command with its mark, where it has the SEQ. -/
def Cmd.markIf (seq : BitVec 32) (c : Cmd) : Cmd := if c.seq = seq then { c with started := true } else c

theorem Cmd.markIf_seq (seq : BitVec 32) (c : Cmd) : (c.markIf seq).seq = c.seq := by
  unfold Cmd.markIf
  split <;> rfl

theorem Cmd.markIf_tag (seq : BitVec 32) (c : Cmd) : (c.markIf seq).tag = c.tag := by
  unfold Cmd.markIf
  split <;> rfl

theorem queue_markStarted (s : State) (n : Nat) (seq : BitVec 32) :
    (s.markStarted n seq).queue n = { s.queue n with cmds := (s.queue n).cmds.map (·.markIf seq) } := by
  unfold State.markStarted
  rw [journal_queue, State.queue_updQueue_self]
  rfl

theorem markStarted_vf (s : State) (n : Nat) (seq : BitVec 32) (v : Nat) : (s.markStarted n seq).vf v = s.vf v := by
  unfold State.markStarted
  rw [journal_frame]
  rfl

theorem find?_markIf (l : List Cmd) (x seq : BitVec 32) :
    (l.map (·.markIf x)).find? (fun e => e.seq = seq) = (l.find? fun e => e.seq = seq).map (·.markIf x) := by
  rw [List.find?_map]
  congr 2
  funext e
  simp only [Function.comp, Cmd.markIf_seq]

/-- Marking a command does not matter once it is dropped. -/
theorem filter_markIf (l : List Cmd) (seq : BitVec 32) :
    (l.map (·.markIf seq)).filter (fun e => e.seq ≠ seq) = l.filter fun e => e.seq ≠ seq := by
  induction l with
  | nil => rfl
  | cons c l ih =>
    by_cases h : c.seq = seq
    · simpa [List.filter_cons, Cmd.markIf_seq, h] using ih
    · simpa [List.filter_cons, Cmd.markIf_seq, h, Cmd.markIf] using ih

/-- A started command that ends, in a state whose queue the mark alone has changed. -/
theorem ended_of_markStarted {s u : State} {n : Nat} {c : Cmd} (hc : (s.queue n).cmds.find? (fun e => e.seq = c.seq) = some c)
    (hu : u.queues = (s.markStarted n c.seq).queues) (st : Nat) (info : Word) (names : Option Nat) :
    Ended (s.queue n) ((u.completeNaming n c.seq st info names).queue n) c.seq c.tag st info := by
  have hq : u.queue n = { s.queue n with cmds := (s.queue n).cmds.map (·.markIf c.seq) } := by
    rw [← queue_markStarted, State.queue, State.queue, hu]
  have found : (u.queue n).cmds.find? (fun e => e.seq = c.seq) = some (c.markIf c.seq) := by
    rw [hq]
    exact (find?_markIf ..).trans (by rw [hc]; rfl)
  obtain ⟨hcmds, r, hsent, hseq, htag, hst, hinfo⟩ := ended_completeNaming found st info names
  rw [hq] at hcmds hsent
  exact ⟨hcmds.trans (filter_markIf ..), r, hsent, hseq, htag.trans (Cmd.markIf_tag ..), hst, hinfo⟩

theorem progressed_sent_markStarted (s : State) (n : Nat) (seq : BitVec 32) :
    ((s.markStarted n seq).queue n).sent = (s.queue n).sent := by
  rw [queue_markStarted]

section
variable {s : State} {n : Nat} {c : Cmd}

theorem startCommand_loaded {obj : Nat} {image : List Byte} (hk : c.kind = .load obj image) {u : State}
    (h : (s.markStarted n c.seq).loadObject (vfOf n) obj image = .ok u) : s.startCommand n c = u.completeCmd n c.seq 0 0 := by
  simp only [State.startCommand, hk, h]

theorem startCommand_waits {obj : Nat} {image : List Byte} (hk : c.kind = .load obj image)
    (h : (s.markStarted n c.seq).loadObject (vfOf n) obj image = .error loadWaits) : s.startCommand n c = s := by
  simp only [State.startCommand, hk, h, if_true]

theorem startCommand_refused {obj : Nat} {image : List Byte} (hk : c.kind = .load obj image) {st : Nat}
    (h : (s.markStarted n c.seq).loadObject (vfOf n) obj image = .error st) (hst : st ≠ loadWaits) : ∃ names : Option Nat, s.startCommand n c =
      ((s.markStarted n c.seq).updVf (vfOf n) fun v => { v with objs := v.objs.del obj }).completeNaming n c.seq 0 (BitVec.ofNat 64 st) names := by
  simp only [State.startCommand, hk, h, hst, if_false]
  exact ⟨_, rfl⟩

theorem startCommand_unload_absent {obj : Nat} {force : Bool} (hk : c.kind = .unload obj force)
    (h : ∀ o, (s.vf (vfOf n)).objs.get? obj = some o → o.pending = true) :
    s.startCommand n c = (s.markStarted n c.seq).completeCmd n c.seq 2 0 := by
  simp only [State.startCommand, hk, markStarted_vf]
  cases ho : (s.vf (vfOf n)).objs.get? obj with
  | none => rfl
  | some o => simp only [h o ho, if_true]

theorem startCommand_unload {obj : Nat} {force : Bool} (hk : c.kind = .unload obj force) {o : Obj}
    (h : (s.vf (vfOf n)).objs.get? obj = some o) (hp : o.pending = false) :
    s.startCommand n c = (s.markStarted n c.seq).tryUnload n c.seq obj force := by
  simp only [State.startCommand, hk, markStarted_vf, h, hp, Bool.false_eq_true, if_false]

/-- Records that were sent stay sent when a command starts. -/
theorem sent_startCommand (s : State) (n : Nat) (c : Cmd) : ∀ r ∈ (s.queue n).sent, r ∈ ((s.startCommand n c).queue n).sent := by
  intro r hr
  rw [← progressed_sent_markStarted s n c.seq] at hr
  cases hk : c.kind with
  | launch g => simpa only [State.startCommand, hk, progressed_sent_markStarted] using hr
  | stop => simpa only [State.startCommand, hk, progressed_sent_markStarted] using hr
  | load obj image =>
    cases hl : (s.markStarted n c.seq).loadObject (vfOf n) obj image with
    | ok u =>
      rw [startCommand_loaded hk hl]
      refine (progressed_completeNaming u n c.seq 0 0 none).2 r ?_
      exact (progressed_of_queues (loadObject_queues _ _ _ _ u hl) n).2 r hr
    | error st =>
      by_cases hst : st = loadWaits
      · rw [startCommand_waits hk (hst ▸ hl)]
        rwa [progressed_sent_markStarted] at hr
      · obtain ⟨names, h⟩ := startCommand_refused hk hl hst
        rw [h]
        exact (progressed_completeNaming _ n c.seq 0 _ names).2 r hr
  | unload obj force =>
    by_cases hp : ∀ o, (s.vf (vfOf n)).objs.get? obj = some o → o.pending = true
    · rw [startCommand_unload_absent hk hp]
      exact (progressed_completeNaming _ n c.seq 2 0 none).2 r hr
    · push Not at hp
      obtain ⟨o, ho, hp⟩ := hp
      rw [startCommand_unload hk ho (by simpa using hp)]
      exact (progressed_tryUnload _ n c.seq obj force).2 r hr
end

end Sys2Proof.Machine

/-! SUPPORT. A queue's turn (R131, R136, R154). -/
namespace Sys2Proof.Machine

theorem settleStop_of_stop {s : State} {n : Nat} {c : Cmd} (h : (s.queue n).cmds.head? = some c) (hk : c.kind = .stop) :
    s.settleStop n = s.completeCmd n c.seq 0 0 := by
  simp only [State.settleStop, h, hk, if_true]

theorem settleStop_of_other {s : State} {n : Nat} (h : ∀ c, (s.queue n).cmds.head? = some c → c.kind ≠ .stop) : s.settleStop n = s := by
  unfold State.settleStop
  split
  · next c hc => rw [if_neg (h c hc)]
  · rfl

/-- A queue none of whose gangs owes a record pays none. -/
theorem payQueue_of_none {s : State} {n : Nat} (h : ∀ e ∈ s.gangs, e.2.vfq = n → (s.gang e.1).owed = none) : s.payQueue n = s := by
  unfold State.payQueue
  refine List.foldlRecOn _ _ (motive := fun t : State => t = s) rfl fun t ht e he => ?_
  obtain ⟨hmem, hq⟩ := List.mem_filter.mp he
  rw [ht, State.payGang, h e hmem (by simpa using hq)]

/-- A started UNLOAD of a queue goes on. -/
def State.goOn (s : State) (n : Nat) (c : Cmd) : State :=
  match c.kind with
  | .unload obj force => if c.started then s.tryUnload n c.seq obj force else s
  | _ => s

theorem goOn_of_other {s : State} {n : Nat} {c : Cmd} (h : ∀ obj force, c.started = true → c.kind ≠ .unload obj force) : s.goOn n c = s := by
  unfold State.goOn
  split
  · next obj force hk => rw [if_neg fun hs => h obj force hs hk]
  · rfl

theorem progressed_goOn (s : State) (n : Nat) (c : Cmd) : (s.queue n).Progressed ((s.goOn n c).queue n) := by
  unfold State.goOn
  split
  · split
    · exact progressed_tryUnload ..
    · exact Queue.Progressed.refl _
  · exact Queue.Progressed.refl _

/-- The oldest command of a queue that has not started starts where it may, be it a LOAD or an UNLOAD. -/
def State.startNext (s : State) (n : Nat) : State :=
  match (s.queue n).cmds.find? (fun c => !c.started) with
  | none => s
  | some c => match c.kind with
    | .load _ _ => if s.mayStart n c then s.startCommand n c else s
    | .unload _ _ => if s.mayStart n c then s.startCommand n c else s
    | _ => s

theorem startNext_of_none {s : State} {n : Nat} (h : (s.queue n).cmds.find? (fun c => !c.started) = none) : s.startNext n = s := by
  simp only [State.startNext, h]

section
variable {s : State} {n : Nat} {c : Cmd} (h : (s.queue n).cmds.find? (fun c => !c.started) = some c)
include h

theorem startNext_launch {g : Nat} (hk : c.kind = .launch g) : s.startNext n = s := by
  simp only [State.startNext, h, hk]

theorem startNext_held (hm : s.mayStart n c = false) : s.startNext n = s := by
  simp only [State.startNext, h, hm, Bool.false_eq_true, if_false]
  cases c.kind <;> rfl

theorem startNext_load {obj : Nat} {image : List Byte} (hk : c.kind = .load obj image) (hm : s.mayStart n c = true) :
    s.startNext n = s.startCommand n c := by
  simp only [State.startNext, h, hk, hm, if_true]

theorem startNext_unload {obj : Nat} {force : Bool} (hk : c.kind = .unload obj force) (hm : s.mayStart n c = true) :
    s.startNext n = s.startCommand n c := by
  simp only [State.startNext, h, hk, hm, if_true]
end

theorem sent_startNext (s : State) (n : Nat) : ∀ r ∈ (s.queue n).sent, r ∈ ((s.startNext n).queue n).sent := by
  intro r hr
  unfold State.startNext
  split
  · exact hr
  · split
    · split
      · exact sent_startCommand s n _ r hr
      · exact hr
    · split
      · exact sent_startCommand s n _ r hr
      · exact hr
    · exact hr

theorem commandTurn_of_away {s : State} {n : Nat} (h : s.master.ready = false) : s.commandTurn n = s := by
  simp only [State.commandTurn, h, Bool.not_false, if_true]

/-- A turn with a master: the records owed, the STOP at the head, the started UNLOADs, and the next start. -/
theorem commandTurn_eq {s : State} {n : Nat} (h : s.master.ready = true) (howed : ∀ e ∈ s.gangs, e.2.vfq = n → (s.gang e.1).owed = none) :
    s.commandTurn n =
      (((s.settleStop n).queue n).cmds.foldl (fun t c => t.goOn n c) (s.settleStop n)).startNext n := by
  simp only [State.commandTurn, h, Bool.not_true, Bool.false_eq_true, if_false, payQueue_of_none howed]
  rfl

section
variable {s : State} {n : Nat} (hready : s.master.ready = true) (howed : ∀ e ∈ s.gangs, e.2.vfq = n → (s.gang e.1).owed = none)
include hready howed

/-- A queue with no STOP at its head and no UNLOAD under way starts the next command. -/
theorem commandTurn_starts (hstop : ∀ c, (s.queue n).cmds.head? = some c → c.kind ≠ .stop)
    (hunload : ∀ c ∈ (s.queue n).cmds, ∀ obj force, c.started = true → c.kind ≠ .unload obj force) : s.commandTurn n = s.startNext n := by
  rw [commandTurn_eq hready howed, settleStop_of_other hstop]
  congr 1
  exact List.foldlRecOn _ _ (motive := fun t : State => t = s) rfl fun t ht c hc => by rw [ht, goOn_of_other (hunload c hc)]

theorem commandTurn_stops {c : Cmd} (hc : (s.queue n).cmds.head? = some c) (hk : c.kind = .stop) :
    ∃ r ∈ ((s.commandTurn n).queue n).sent, r.seq = c.seq ∧ r.tag = c.tag ∧ r.status = 0 := by
  have found : (s.queue n).cmds.find? (fun e => e.seq = c.seq) = some c := by
    obtain ⟨rest, hrest⟩ := List.head?_eq_some_iff.mp hc
    rw [hrest, List.find?_cons_of_pos (by simp)]
  obtain ⟨-, r, hsent, hseq, htag, hst, -⟩ := ended_completeNaming found 0 0 none
  refine ⟨r, ?_, hseq, htag, hst⟩
  rw [commandTurn_eq hready howed, settleStop_of_stop hc hk]
  apply sent_startNext
  refine List.foldlRecOn _ _ (motive := fun t : State => r ∈ (t.queue n).sent) ?_ fun t ht e _ => (progressed_goOn t n e).2 r ht
  exact hsent ▸ List.mem_cons_self ..

theorem commandTurn_unloads {c : Cmd} {obj : Nat} {force : Bool} (hc : (s.queue n).cmds = [c]) (hs : c.started = true)
    (hk : c.kind = .unload obj force) : s.commandTurn n = s.tryUnload n c.seq obj force := by
  have other : ∀ e, (s.queue n).cmds.head? = some e → e.kind ≠ .stop := by
    intro e he
    rw [hc] at he
    cases he
    rw [hk]
    exact nofun
  have goes : s.goOn n c = s.tryUnload n c.seq obj force := by simp only [State.goOn, hk, hs, if_true]
  have noneLeft : ((s.tryUnload n c.seq obj force).queue n).cmds.find? (fun e => !e.started) = none := by
    refine List.find?_eq_none.mpr fun e he => ?_
    have : e = c := by simpa [hc] using (progressed_tryUnload s n c.seq obj force).1 e he
    simp [this, hs]
  rw [commandTurn_eq hready howed, settleStop_of_other other, hc, List.foldl_cons, List.foldl_nil, goes, startNext_of_none noneLeft]
end

/-! ## What may start (R136) -/

theorem cmdDone_iff (s : State) (m : Nat) (seq : BitVec 32) : s.cmdDone m seq = true ↔ ∃ back, back < 2 ^ 31 ∧ back < (s.queue m).accepted ∧
    seq = (s.queue m).expected - 1 - BitVec.ofNat 32 back ∧ ∀ e ∈ (s.queue m).cmds, e.seq ≠ seq := by
  unfold State.cmdDone
  simp only [Bool.and_eq_true, decide_eq_true_eq, Bool.not_eq_true', List.any_eq_false]
  constructor
  · rintro ⟨⟨hnear, hacc⟩, hnone⟩
    refine ⟨_, hnear, hacc, ?_, hnone⟩
    rw [BitVec.ofNat_toNat, BitVec.setWidth_eq]
    bv_omega
  · rintro ⟨back, hnear, hacc, rfl, hnone⟩
    have hback : ((s.queue m).expected - 1 - ((s.queue m).expected - 1 - BitVec.ofNat 32 back)).toNat = back := by bv_omega
    rw [hback]
    exact ⟨⟨hnear, hacc⟩, hnone⟩

theorem mayStart_iff (s : State) (n : Nat) {pre post : List Cmd} {c : Cmd} (hq : (s.queue n).cmds = pre ++ c :: post)
    (hpre : ∀ e ∈ pre, e.seq ≠ c.seq) : s.mayStart n c = true ↔ (∀ e ∈ pre, e.started = true) ∧ (c.flags.getLsbD 0 = true → pre = []) ∧
      (c.flags.getLsbD 1 = true → s.cmdDone (4 * vfOf n + c.depq.toNat % 4) c.depseq = true) := by
  have earlier : (s.queue n).cmds.takeWhile (·.seq ≠ c.seq) = pre := by
    rw [hq, List.takeWhile_append_of_pos (by simpa using hpre), List.takeWhile_cons_of_neg (by simp), List.append_nil]
  unfold State.mayStart
  rw [earlier]
  simp only [Bool.and_eq_true, List.all_eq_true, Bool.or_eq_true, Bool.not_eq_true', List.isEmpty_iff, and_assoc, ← Bool.not_eq_true, ← imp_iff_not_or]

end Sys2Proof.Machine

/-! SUPPORT. The turns that are no issue of an instruction (R9, R136, R154, R169, R170, R285, R369). -/
namespace Sys2Proof.Machine

/-- The step of a listed turn is that turn of the state whose schedule has given it. -/
theorem step_of_turn {s : State} {t : Turn} {rest : List Turn} (h : s.turns = t :: rest) : step s = stepTurn t { s with turns := rest } := by
  simp only [step, State.takeTurn, h]

theorem step_event {s : State} {i : Instr} {rest : List Turn} (h : s.turns = .event i :: rest) (hi : Instr.isWord i = false) :
    step s = settled none (exec i { s with turns := rest }) := by
  simp only [step_of_turn h, stepTurn, hi, Bool.false_eq_true, if_false]

theorem step_event_word {s : State} {i : Instr} {rest : List Turn} (h : s.turns = .event i :: rest) (hi : Instr.isWord i = true) :
    step s = settled none (.next { s with turns := rest }) := by
  simp only [step_of_turn h, stepTurn, hi, if_true]

theorem step_issue_idle {s : State} {core : Nat} {rest : List Turn} (h : s.turns = .issue core :: rest)
    (hp : ({ s with turns := rest } : State).pick core = none) :
    step s = settled none (.next (({ s with turns := rest } : State).queueMisses core)) := by
  simp only [step_of_turn h, stepTurn, stepIssue, State.prepare, hp]

theorem step_keeper {s : State} {rest : List Turn} (h : s.turns = .keeper :: rest) : ∃ c : KeeperCpu, (s.keeper.lost = true → c = s.keeper.cpu) ∧
    step s = settled none (.next { s with turns := rest, keeper := { s.keeper with cpu := c } }) := by
  rw [step_of_turn h]
  simp only [stepTurn, State.keeperTurn]
  split
  · exact ⟨s.keeper.cpu, fun _ => rfl, rfl⟩
  · next hl =>
    split
    · exact ⟨s.keeper.cpu, fun _ => rfl, rfl⟩
    · next c _ => exact ⟨c, fun hlost => absurd hlost hl, rfl⟩

/-- A management command that has waited runs as the row of the same name (R369). -/
theorem runManaged_eq_exec (m : Mgmt) (full force : Byte) (release : Bool) (nonce : List Byte) (b : BindBody) (r : Option Rect) (c : VfCfg)
    (phase : Nat) (tb : TablesBody) (f : FwImage) (l : LayupBody) (s : State) :
    ∀ e ∈ ([(.ident m full, .ident m full), (.attest m nonce, .attest m nonce), (.bind m b, .bind m b), (.paddock m r, .paddock m r),
      (.vfcfg m c, .vfcfg m c), (.vfreset m release, .vfreset m release), (.migrate m phase, .migrate m phase), (.tables m tb, .tables m tb),
      (.fwstage m f, .fwstage m f), (.fwact m force, .fwact m force), (.errlog m, .errlog m), (.layup m l, .layup m l),
      (.layupRestore m l, .layupRestore m l)] : List (Managed × Instr)), s.runManaged e.1 = exec e.2 s := by
  simp only [List.forall_mem_cons, List.not_mem_nil, false_imp_iff, implies_true, and_true]
  exact ⟨rfl, rfl, rfl, rfl, rfl, rfl, rfl, rfl, rfl, rfl, rfl, rfl, rfl⟩

/-- What ticks do, all together (R9, R169). -/
theorem pass_changes (s : State) (n : Nat) : (s.pass n).now = s.now + n ∧ (s.pass n).ord = s.ord ∧
    (∀ k, ∃ e : BitVec 5, (s.pass n).ctx k = { s.ctx k with event := e } ∧ e &&& 0b01111 = (s.ctx k).event &&& 0b01111) ∧
    (s.now / 1000 = (s.now + n) / 1000 → ∀ v, let q := s.queue v
      (s.pass n).queue v = if (s.queues.get? v).isSome = true ∧ q.period ≠ 0 ∧ s.now / q.period ≠ (s.now + n) / q.period then
        { q with charge := 0, periodStart := (s.now + n) / q.period * q.period, warned := false, exhausted := false, switchDue := false } else q) := by
  obtain ⟨hnow, hord, hctx⟩ := keepsWork_pass s n
  refine ⟨hnow, hord, hctx, fun h v => ?_⟩
  dsimp only
  rw [queue_pass h, ite_and]
  simp only [Queue.over, Queue.passes, Bool.and_eq_true, decide_eq_true_eq]
  rfl

/-- UNLOAD goes on (R344). -/
theorem tryUnload_outcomes (s : State) (n : Nat) {c : Cmd} (obj : Nat) (force : Bool)
    (hc : (s.queue n).cmds.find? (fun e => e.seq = c.seq) = some c) :
    let u := s.tryUnload n c.seq obj force
    let ended (st : Nat) : Prop := Ended (s.queue n) (u.queue n) c.seq c.tag st 0
    ((s.vf (vfOf n)).objs.get? obj = none → ended 2) ∧
    ∀ o, (s.vf (vfOf n)).objs.get? obj = some o →
      let here : Prop := ∃ e ∈ s.gangs, e.2.stands (vfOf n) o = true
      let freed : Prop := (u.vf (vfOf n)).objs.get? obj = none
      (force = false → s.refCount (vfOf n) o ≠ 0 → u = s) ∧
      (force = false → s.refCount (vfOf n) o = 0 → ended 0 ∧ freed) ∧
      (force = true → ¬here → ended 0 ∧ freed) ∧
      (force = true → here → u.queues = s.queues ∧ u.vfs = s.vfs ∧ ∀ g x, s.gangs.get? g = some x →
        x.isOf (vfOf n) o = true → x.state = .resident → (u.gang g).switchAt.isSome = true) := by
  have frees (o : Obj) : let t := (s.freeObj (vfOf n) obj o force).completeCmd n c.seq 0 0
      Ended (s.queue n) (t.queue n) c.seq c.tag 0 0 ∧ (t.vf (vfOf n)).objs.get? obj = none := by
    have same (m : Nat) : (s.freeObj (vfOf n) obj o force).queue m = s.queue m := by rw [State.queue, State.queue, freeObj_queues]
    refine ⟨?_, ?_⟩
    · rw [← same]
      exact ended_completeNaming (by rw [same]; exact hc) 0 0 none
    · have freed := freeObj_frees s (vfOf n) obj o force
      rw [State.completeCmd, State.vf, completeNaming_vfs]
      exact freed
  dsimp only
  refine ⟨fun h => ?_, fun o h => ⟨fun hf hcount => ?_, fun hf hcount => ?_, fun hf hhere => ?_, fun hf hhere => ?_⟩⟩
  · rw [tryUnload_of_none h]
    exact ended_completeNaming hc 2 0 none
  · rw [hf, tryUnload_counted h hcount]
  · subst hf
    rw [tryUnload_uncounted h hcount]
    exact frees o
  · subst hf
    have noneHere : (s.gangs.filter fun e => e.2.stands (vfOf n) o).isEmpty = true := by
      simpa [List.isEmpty_iff, List.filter_eq_nil_iff] using hhere
    rw [tryUnload_forced h]
    simp only [noneHere, if_true]
    exact frees o
  · subst hf
    exact tryUnload_switches h hhere

/-- A LOAD or UNLOAD that starts (R83, R344). -/
theorem startCommand_outcomes (s : State) (n : Nat) {c : Cmd} (hc : (s.queue n).cmds.find? (fun e => e.seq = c.seq) = some c) :
    let t := s.startCommand n c
    let ended (st : Nat) (info : Word) : Prop := Ended (s.queue n) (t.queue n) c.seq c.tag st info
    (∀ obj image, c.kind = .load obj image →
      let loads := (s.markStarted n c.seq).loadObject (vfOf n) obj image
      (∀ u, loads = .ok u → ended 0 0 ∧ t.vfs = u.vfs ∧ SameBytes u t) ∧
      (loads = .error loadWaits → t = s) ∧
      ∀ st, loads = .error st → st ≠ loadWaits → ended 0 (BitVec.ofNat 64 st) ∧ (t.vf (vfOf n)).objs.get? obj = none) ∧
    ∀ obj force, c.kind = .unload obj force →
      ((∀ o, (s.vf (vfOf n)).objs.get? obj = some o → o.pending = true) → ended 2 0) ∧
      ∀ o, (s.vf (vfOf n)).objs.get? obj = some o → o.pending = false → t = (s.markStarted n c.seq).tryUnload n c.seq obj force := by
  dsimp only
  refine ⟨fun obj image hk => ⟨fun u hu => ?_, startCommand_waits hk, fun st hst hne => ?_⟩,
    fun obj force hk => ⟨fun hp => ?_, fun o ho hp => startCommand_unload hk ho hp⟩⟩
  · rw [startCommand_loaded hk hu]
    exact ⟨ended_of_markStarted hc (loadObject_queues _ _ _ _ u hu) 0 0 none, completeNaming_vfs ..,
      sameBytes_of_mem (congrArg Order.mem (completeNaming_ord ..))⟩
  · obtain ⟨names, h⟩ := startCommand_refused hk hst hne
    rw [h]
    refine ⟨ended_of_markStarted hc ?_ 0 _ names, ?_⟩
    · rfl
    · rw [State.vf, completeNaming_vfs]
      exact (congrArg (fun v : Vf => v.objs.get? obj) (State.vf_updVf_self ..)).trans (Table.get?_del_self ..)
  · rw [startCommand_unload_absent hk hp]
    exact ended_of_markStarted hc rfl 2 0 none

theorem stands_iff (g : Gang) (vf : Nat) (o : Obj) : g.stands vf o = true ↔
    g.isOf vf o = true ∧ (g.state = .resident ∨ g.state = .switching ∨ g.state = .launching ∨ g.state = .restoring) := by
  simp only [Gang.stands, Bool.and_eq_true, Bool.or_eq_true, decide_eq_true_eq, or_assoc]

/-- Settles O10, turn by turn. -/
theorem stepOfAnotherTurn : Obligations.StepOfAnotherTurn := by
  intro s rest
  refine ⟨fun i => step_event, fun i => step_event_word, fun n h => ⟨step_of_turn h, pass_changes s n⟩, fun core => step_issue_idle,
    fun n => rfl, oneTick_eq s, step_keeper, fun core => step_of_turn, fun core => step_of_turn, fun n => step_of_turn,
    step_of_turn, step_of_turn, ?managed, ?queue⟩
  case managed =>
    intro m full force release nonce b r c phase tb f l e he h
    rw [step_of_turn h]
    exact congrArg (settled none) (runManaged_eq_exec m full force release nonce b r c phase tb f l _ e he)
  case queue =>
    intro n
    refine ⟨commandTurn_of_away, cmdDone_iff s, fun pre c post hq hpre => mayStart_iff s n hq hpre, fun c obj force hc => ?unload,
      fun hready howed => ⟨fun c => commandTurn_stops hready howed, fun c obj force => commandTurn_unloads hready howed, ?starts⟩⟩
    case unload =>
      have outcomes := tryUnload_outcomes s n obj force hc
      simp only [stands_iff] at outcomes
      exact outcomes
    case starts =>
      intro hstop hunload
      rw [commandTurn_starts hready howed hstop hunload]
      refine ⟨startNext_of_none, fun c hc => ⟨⟨fun g => startNext_launch hc.1, startNext_held hc.1⟩, fun hm => ?_⟩⟩
      obtain ⟨hload, hunl⟩ := startCommand_outcomes s n hc.2
      refine ⟨fun obj image hk => ?_, fun obj force hk => ?_⟩
      · rw [startNext_load hc.1 hk hm]
        exact hload obj image hk
      · rw [startNext_unload hc.1 hk hm]
        exact hunl obj force hk

end Sys2Proof.Machine

/-! SUPPORT. Messages on their way, their acceptance, and what an instruction reads from a mailbox (R17, R18, R119 to R124). -/
namespace Sys2Proof.Machine

/-! ## Mailboxes: read after write (R119) -/

@[simp] theorem mailbox_setMailbox_self (s : State) (core : Nat) (n : BitVec 5) (m : Mailbox) :
    (s.setMailbox core n m).mailbox core n = m := by
  simp [State.mailbox, State.setMailbox]

theorem mailbox_setMailbox_ne (s : State) {core c : Nat} {n i : BitVec 5} (m : Mailbox) (h : c ≠ core ∨ i ≠ n) :
    (s.setMailbox core n m).mailbox c i = s.mailbox c i := by
  by_cases hc : c = core
  · have hne : n.toNat ≠ i.toNat := fun e => h.elim (· hc) (· (BitVec.eq_of_toNat_eq e.symm))
    simp [State.mailbox, State.setMailbox, hc, hne]
  · simp only [State.mailbox, State.setMailbox, State.core_updCore_ne s _ hc]

theorem mailbox_of_cores {s t : State} (h : t.cores = s.cores) (c : Nat) (n : BitVec 5) : t.mailbox c n = s.mailbox c n := by
  simp only [State.mailbox, State.core, h]

/-- An update of a core that leaves its mailboxes. -/
theorem mailbox_updCore (s : State) (core : Nat) {f : Core → Core} (h : ∀ c, (f c).mbox = c.mbox) (c : Nat) (n : BitVec 5) :
    (s.updCore core f).mailbox c n = s.mailbox c n := by
  simp only [State.mailbox, State.core_updCore]
  split
  · next hc =>
    subst hc
    simp only [h]
  · rfl

/-- A mailbox is written; of no core anything else changes. -/
theorem setMailbox_core (s : State) (core c : Nat) (n : BitVec 5) (m : Mailbox) :
    ∃ mbox, (s.setMailbox core n m).core c = { s.core c with mbox := mbox } := by
  rw [State.setMailbox, State.core_updCore]
  split
  · next hc =>
    subst hc
    exact ⟨_, rfl⟩
  · exact ⟨_, rfl⟩

/-! ## A message on its way (R120, R121) -/

theorem post_port_self (s : State) (core : Nat) (m : Message) : ((s.post core m).core core).port =
    (s.core core).port ++ [{ m with order := s.next, after := portBefore (s.core core).port m }] := by
  simp [State.post]
theorem post_core_ne (s : State) {core c : Nat} (m : Message) (h : c ≠ core) : (s.post core m).core c = s.core c := by
  rw [State.post, State.tickNext_core, State.core_updCore_ne s _ h]
theorem post_mailbox (s : State) (core : Nat) (m : Message) (c : Nat) (n : BitVec 5) : (s.post core m).mailbox c n = s.mailbox c n := by
  rw [State.post, mailbox_of_cores (State.tickNext_cores _), mailbox_updCore]
  exact fun _ => rfl

/-- The message that the executing context sends, before the port of its target numbers it. -/
def State.messageOf (s : State) (f : XF) (data : Quad) : Message :=
  { mbox := f.midx, data := data, srcCore := (s.gang s.myGang).lcore s.myCore, srcCtx := ctxNo s.cur, order := 0, after := [],
    arrived := false, kind := 0, set := s.releaseSet s.cur, counted := true }

section
variable {i : Instr} {f : XF} {data : Quad} {s : State} {target : Nat}

theorem sendEff_outside (h : (xPlace f s).1.bind s.gangTarget = none) : sendEff i f data s = .trap 4 (xPlace f s).2 0 := by
  simp only [sendEff, h]

theorem sendEff_full (h : (xPlace f s).1.bind s.gangTarget = some target) (hst : s.me.st = 255) :
    sendEff i f data s = .sleep (.again i) s := by
  simp only [sendEff, h, counted, if_pos hst]

theorem sendEff_inside (h : (xPlace f s).1.bind s.gangTarget = some target) (hst : s.me.st ≠ 255) :
    sendEff i f data s = .done ((s.updMe Ctx.incSt).post target (s.messageOf f data)) := by
  simp only [sendEff, h, counted, if_neg hst]
  rfl

/-- What `sendr` and `sendr.v` come to, whatever register their data comes from. -/
theorem send_outcomes {eff : State → Eff} (he : exec i s = .next (s.issue i eff)) (hf : s.Fit i) (hsend : eff s = sendEff i f data s) :
    ((xPlace f s).1.bind s.gangTarget = none → Traps i s 4 (xPlace f s).2 0) ∧
    (∀ target, (xPlace f s).1.bind s.gangTarget = some target → (s.me.st = 255 → Sleeps i s (.again i) s) ∧
      (s.me.st ≠ 255 → ∃ t m, Completes i s t ∧ (t.core target).port = (s.core target).port ++ [m] ∧ m.mbox = f.midx ∧
        m.data = data ∧ m.srcCore = (s.gang s.myGang).lcore s.myCore ∧ m.srcCtx = ctxNo s.cur ∧ m.kind = 0 ∧ m.counted = true ∧
        m.set = s.releaseSet s.cur ∧ t.me = { s.me with st := s.me.st + 1 } ∧ SameBytes s t ∧
        (∀ c, c ≠ target → (t.core c).port = (s.core c).port) ∧ ∀ c n, t.mailbox c n = s.mailbox c n)) := by
  refine ⟨fun h => traps_of_trap he hf (hsend.trans (sendEff_outside h)), fun target h =>
    ⟨fun hst => sleeps_of_sleep he hf (hsend.trans (sendEff_full h hst)), fun hst => ?_⟩⟩
  refine ⟨_, _, completes_of_done he hf (hsend.trans (sendEff_inside h hst)), post_port_self .., rfl, rfl, rfl, rfl, rfl, rfl, rfl,
    State.me_updMe s Ctx.incSt, sameBytes_of_mem rfl, fun c hc => congrArg Core.port (post_core_ne _ _ hc), post_mailbox _ _ _⟩
end

/-! ## What `mtake` and `mpeek` deliver (R123) -/

theorem rx_wx (s : State) (r q : BitVec 5) (w : Word) : (s.wx r w).rx q = if q = r then if r = 0 then 0 else w else s.rx q := by
  simp only [State.rx, State.wx, State.me_updMe]
  split
  · next hq =>
    subst hq
    split
    · next hr =>
      rw [hr]
      exact Ctx.rx_zero _
    · next hr => exact Ctx.rx_wx_self _ _ hr
  · next hq => exact Ctx.rx_wx_ne _ _ hq

theorem rx_see (c : Ctx) (op : Nat) (acq : Bool) (set : List Nat) (r : BitVec 5) : (c.see op acq set).rx r = c.rx r := by
  unfold Ctx.see
  split <;> rfl

@[simp] theorem acquireBox_cores (s : State) (m : Mailbox) : (s.acquireBox m).cores = s.cores := rfl
theorem acquireBox_rx (s : State) (m : Mailbox) (r : BitVec 5) : (s.acquireBox m).rx r = s.rx r := by
  have here : (s.acquireBox m).me = s.me.see s.next true m.set := State.me_updMe s fun c => c.see s.next true m.set
  rw [State.rx, here, rx_see, State.rx]

@[simp] theorem takeRegs_cores (f : RR) (m : Mailbox) (s : State) : (takeRegs f m s).cores = s.cores := by
  unfold takeRegs
  split <;> rfl
@[simp] theorem takeRegs_ord (f : RR) (m : Mailbox) (s : State) : (takeRegs f m s).ord = s.ord := by
  unfold takeRegs
  split <;> rfl

/-- D and C name two registers: D takes the low half and C the high one. -/
theorem takeRegs_of_ne {f : RR} (h : f.c ≠ f.d) (m : Mailbox) (s : State) :
    takeRegs f m s = (s.wx f.c (m.data.extractLsb' 64 64)).wx f.d (m.data.extractLsb' 0 64) := if_neg h

/-- D and C name one register: which half it takes is left open (assumption 10). -/
theorem takeRegs_of_eq {f : RR} (h : f.c = f.d) (m : Mailbox) (s : State) : ∃ w,
    (w = m.data.extractLsb' 0 64 ∨ w = m.data.extractLsb' 64 64) ∧ takeRegs f m s = { s.wx f.d w with free := s.free + 1 } :=
  ⟨_, ite_eq_or_eq .., if_pos h⟩

/-- A read of a mailbox with message m delivers both halves; of what it shows besides, at most that mailbox changes (R123). -/
def Delivers (f : RR) (m : Mailbox) (s t : State) : Prop :=
  (∀ r, r ≠ f.d → r ≠ f.c → t.rx r = s.rx r) ∧
  (f.c ≠ f.d → t.rx f.d = (if f.d = 0 then 0 else m.data.extractLsb' 0 64) ∧
    t.rx f.c = (if f.c = 0 then 0 else m.data.extractLsb' 64 64)) ∧
  (f.c = f.d → f.d ≠ 0 → t.rx f.d = m.data.extractLsb' 0 64 ∨ t.rx f.d = m.data.extractLsb' 64 64) ∧ SameBytes s t ∧
  ∀ c n, (c ≠ s.myCore ∨ n ≠ f.a) → t.mailbox c n = s.mailbox c n

/-- The halves come to the registers of a state that differs from s, of what shows, at most in the mailbox read. -/
theorem delivers_takeRegs {f : RR} {m : Mailbox} {s u : State} (hrx : ∀ r, u.rx r = s.rx r) (hord : u.ord = s.ord)
    (hbox : ∀ c n, (c ≠ s.myCore ∨ n ≠ f.a) → u.mailbox c n = s.mailbox c n) : Delivers f m s (takeRegs f m u) := by
  refine ⟨fun r hd hc => ?_, fun hne => ?_, fun heq hd => ?_, sameBytes_of_mem ?_, fun c n h => ?_⟩
  · by_cases heq : f.c = f.d
    · obtain ⟨w, -, htake⟩ := takeRegs_of_eq heq m u
      rw [htake, ← hrx r]
      exact (rx_wx u f.d r w).trans (if_neg hd)
    · rw [takeRegs_of_ne heq, rx_wx, if_neg hd, rx_wx, if_neg hc, hrx]
  · simp only [takeRegs_of_ne hne, rx_wx, if_true, if_neg hne, and_self]
  · obtain ⟨w, hw, htake⟩ := takeRegs_of_eq heq m u
    have delivered : (takeRegs f m u).rx f.d = w := by
      rw [htake]
      exact (rx_wx u f.d f.d w).trans ((if_pos rfl).trans (if_neg hd))
    rwa [delivered]
  · rw [takeRegs_ord, hord]
  · rw [mailbox_of_cores (takeRegs_cores ..), hbox c n h]

/-! ## `mtake`, `mpeek` and `mclr` (R123, R124) -/

/-- A mailbox once it is emptied: the data stays, presence and the error tag go. -/
def Mailbox.emptied (m : Mailbox) : Mailbox := { m with present := false, err := false }

section
variable {f : RR} {s : State}

theorem effMtake_empty (h : (s.mailbox s.myCore f.a).present = false) : effMtake f s = .sleep (.again (.mtake f)) s := by
  simp only [effMtake, holdUnless, h, Bool.false_and, Bool.false_eq_true, if_false]

theorem effMtake_taken (h : (s.mailbox s.myCore f.a).present = true)
    (hpeek : ∀ e ∈ s.sleepers, e.1 ≠ s.cur → sameMailbox s f.a false e.1 e.2.1 = false)
    (hturn : s.myTurn (sameMailbox s f.a true) = true) : effMtake f s = .done (takeRegs f (s.mailbox s.myCore f.a)
      ((s.setMailbox s.myCore f.a (s.mailbox s.myCore f.a).emptied).acquireBox (s.mailbox s.myCore f.a))) := by
  have nobody : (s.sleepers.any fun e => e.1 != s.cur && sameMailbox s f.a false e.1 e.2.1) = false := by
    simpa only [List.any_eq_false, Bool.and_eq_true, bne_iff_ne, not_and, Bool.not_eq_true] using hpeek
  simp only [effMtake, holdUnless, h, nobody, hturn, Bool.not_false, Bool.and_self, if_true]
  rfl

theorem effMpeek_empty (h : (s.mailbox s.myCore f.a).present = false) : effMpeek f s = .sleep (.again (.mpeek f)) s := by
  simp only [effMpeek, holdUnless, h, Bool.false_eq_true, if_false]

theorem effMpeek_present (h : (s.mailbox s.myCore f.a).present = true) : effMpeek f s =
    .done (takeRegs f (s.mailbox s.myCore f.a) (s.acquireBox (s.mailbox s.myCore f.a))) := by
  simp only [effMpeek, holdUnless, h, if_true]

theorem mtake_takes (hf : s.Fit (.mtake f)) (h : (s.mailbox s.myCore f.a).present = true)
    (hpeek : ∀ e ∈ s.sleepers, e.1 ≠ s.cur → sameMailbox s f.a false e.1 e.2.1 = false)
    (hturn : s.myTurn (sameMailbox s f.a true) = true) : ∃ t, Completes (.mtake f) s t ∧ Delivers f (s.mailbox s.myCore f.a) s t ∧
      t.mailbox s.myCore f.a = (s.mailbox s.myCore f.a).emptied := by
  refine ⟨_, completes_of_done rfl hf (effMtake_taken h hpeek hturn), delivers_takeRegs (fun r => ?_) rfl fun c n hn => ?_, ?_⟩
  · rw [acquireBox_rx]
    rfl
  · rw [mailbox_of_cores (acquireBox_cores ..), mailbox_setMailbox_ne s _ hn]
  · rw [mailbox_of_cores (takeRegs_cores ..), mailbox_of_cores (acquireBox_cores ..), mailbox_setMailbox_self]

theorem mpeek_reads (hf : s.Fit (.mpeek f)) (h : (s.mailbox s.myCore f.a).present = true) : ∃ t, Completes (.mpeek f) s t ∧
    Delivers f (s.mailbox s.myCore f.a) s t ∧ t.mailbox s.myCore f.a = s.mailbox s.myCore f.a := by
  refine ⟨_, completes_of_done rfl hf (effMpeek_present h), delivers_takeRegs (acquireBox_rx s _) rfl fun c n _ => ?_, ?_⟩
  · rw [mailbox_of_cores (acquireBox_cores ..)]
  · rw [mailbox_of_cores (takeRegs_cores ..), mailbox_of_cores (acquireBox_cores ..)]

theorem mclr_empties (hf : s.Fit (.mclr f)) : ∃ t, Completes (.mclr f) s t ∧ t.ctxs = s.ctxs ∧ SameBytes s t ∧
    t.mailbox s.myCore f.a = (s.mailbox s.myCore f.a).emptied ∧
    ∀ c n, (c ≠ s.myCore ∨ n ≠ f.a) → t.mailbox c n = s.mailbox c n :=
  ⟨s.setMailbox s.myCore f.a (s.mailbox s.myCore f.a).emptied, completes_of_done rfl hf rfl, rfl, sameBytes_of_mem rfl,
    mailbox_setMailbox_self .., fun _ _ => mailbox_setMailbox_ne s _⟩
end

/-! ## The order in which a port's messages are accepted (R121) -/

theorem blockedBy_eq_false {m : Message} {port : List Message} (h : ∀ e ∈ port, e.mbox = m.mbox → e.order ∉ m.after) :
    blockedBy m port = false := by
  simpa [blockedBy] using h

/-- A message for the mailbox of an accepted one is known to come after all that the accepted one came after. -/
theorem after_of_mem_acceptedFirst {m : Message} {port : List Message} :
    ∀ e ∈ acceptedFirst m port, e.mbox = m.mbox → ∀ o ∈ m.after, o ∈ e.after := by
  intro e he hbox o ho
  obtain ⟨d, hd, rfl⟩ := List.mem_map.mp he
  dsimp only at hbox ⊢
  have hdbox : d.mbox = m.mbox := by
    rw [← hbox]
    split <;> split <;> rfl
  have later : ((port.filter (·.mbox = m.mbox)).map (·.order)).contains d.order = true := by
    rw [List.contains_iff_mem]
    exact List.mem_map_of_mem (List.mem_filter.mpr ⟨hd, decide_eq_true hdbox⟩)
  rw [later, Bool.true_or, if_pos rfl, List.mem_eraseDups]
  exact List.mem_append_right _ ho

/-! ## Acceptance (R121, R122) -/

/-- The sender's count of its message falls (R120); of no context anything else changes. -/
theorem sentAccepted_ctx (s : State) (g : Gang) (m : Message) (k : Nat) :
    ∃ n, (s.sentAccepted g m).ctx k = { s.ctx k with st := n } := by
  unfold State.sentAccepted
  split
  · rw [State.ctx_updCtx]
    split
    · next hk =>
      subst hk
      unfold Ctx.decSt
      split
      · exact ⟨_, rfl⟩
      · exact ⟨_, rfl⟩
    · exact ⟨_, rfl⟩
  · exact ⟨_, rfl⟩

theorem sentAccepted_st (s : State) (g : Gang) {m : Message} (hk : m.kind = 0) (hc : m.counted = true) :
    ((s.sentAccepted g m).ctx (11 * g.coreOf m.srcCore + m.srcCtx)).st =
      if (s.ctx (11 * g.coreOf m.srcCore + m.srcCtx)).st = 0 then 0 else (s.ctx (11 * g.coreOf m.srcCore + m.srcCtx)).st - 1 := by
  simp only [State.sentAccepted, hk, hc, decide_true, Bool.and_self, if_true, State.ctx_updCtx_self, Ctx.decSt]
  split
  · assumption
  · rfl

theorem sentAccepted_frame (s : State) (g : Gang) (m : Message) :
    (s.sentAccepted g m).cores = s.cores ∧ (s.sentAccepted g m).ord = s.ord := by
  unfold State.sentAccepted
  split <;> exact ⟨rfl, rfl⟩

/-- The acceptance of a helper's notice ends its retirement (R117). -/
def State.endRetiring (s : State) (core : Nat) (m : Message) : State :=
  if m.kind = 1 && m.srcCtx ≠ 0 then s.updCtx (11 * core + m.srcCtx) fun v => if v.mode = .retiring then { v with mode := .idle } else v
  else s

theorem endRetiring_ctx (s : State) (core : Nat) (m : Message) (k : Nat) :
    ∃ mode, (s.endRetiring core m).ctx k = { s.ctx k with mode := mode } := by
  unfold State.endRetiring
  split
  · rw [State.ctx_updCtx]
    split
    · next hk =>
      subst hk
      split
      · exact ⟨_, rfl⟩
      · exact ⟨_, rfl⟩
    · exact ⟨_, rfl⟩
  · exact ⟨_, rfl⟩

theorem endRetiring_mode (s : State) (core : Nat) {m : Message} (hk : m.kind = 1) (hn : m.srcCtx ≠ 0)
    (h : (s.ctx (11 * core + m.srcCtx)).mode = .retiring) : ((s.endRetiring core m).ctx (11 * core + m.srcCtx)).mode = .idle := by
  simp only [State.endRetiring, hk, decide_true, decide_eq_true hn, Bool.and_self, if_true, State.ctx_updCtx_self, if_pos h]

theorem endRetiring_frame (s : State) (core : Nat) (m : Message) :
    (s.endRetiring core m).cores = s.cores ∧ (s.endRetiring core m).ord = s.ord := by
  unfold State.endRetiring
  split <;> exact ⟨rfl, rfl⟩

/-- The mailbox that has accepted message m. -/
def Mailbox.accepted (box : Mailbox) (m : Message) : Mailbox :=
  { data := m.data, present := true, err := m.kind = 2, lastSrc := if m.kind = 0 then some m.srcCore else box.lastSrc, set := m.set }

/-- Message n of a core's port leaves it for its mailbox. -/
def State.boxed (s : State) (core n : Nat) (m : Message) : State :=
  (s.updCore core fun c => { c with port := acceptedFirst m (c.port.eraseIdx n) }).setMailbox core m.mbox
    ((s.mailbox core m.mbox).accepted m)

section
variable (s : State) (core n : Nat) (m : Message)

theorem boxed_port : ((s.boxed core n m).core core).port = acceptedFirst m ((s.core core).port.eraseIdx n) := by
  obtain ⟨mbox, h⟩ := setMailbox_core (s.updCore core fun c => { c with port := acceptedFirst m (c.port.eraseIdx n) }) core core
    m.mbox ((s.mailbox core m.mbox).accepted m)
  rw [State.boxed, h, State.core_updCore_self]

theorem boxed_contained (c : Nat) : ((s.boxed core n m).core c).contained = (s.core c).contained := by
  obtain ⟨mbox, h⟩ := setMailbox_core (s.updCore core fun c => { c with port := acceptedFirst m (c.port.eraseIdx n) }) core c
    m.mbox ((s.mailbox core m.mbox).accepted m)
  rw [State.boxed, h, State.core_updCore]
  split
  · next hc =>
    subst hc
    rfl
  · rfl

theorem boxed_mailbox_self : (s.boxed core n m).mailbox core m.mbox = (s.mailbox core m.mbox).accepted m :=
  mailbox_setMailbox_self ..

theorem boxed_mailbox_ne {c : Nat} {i : BitVec 5} (h : c ≠ core ∨ i ≠ m.mbox) : (s.boxed core n m).mailbox c i = s.mailbox c i := by
  rw [State.boxed, mailbox_setMailbox_ne _ _ h, mailbox_updCore]
  exact fun _ => rfl
end

/-- Message n of a core's port is accepted: it goes into its mailbox, is no longer counted by its sender, and ends the retirement that it
reports. -/
def State.acceptedAs (s : State) (core n : Nat) (m : Message) (g : Gang) : State :=
  ((s.boxed core n m).sentAccepted g m).endRetiring core m

/-- A message of a contained core that becomes the mailbox's last brings the core's error entry (R372). -/
def State.bringEntry (s : State) (core : Nat) (m : Message) (src : Core) (last : Option Nat) : State :=
  if m.kind = 0 && last ≠ some m.srcCore then match src.contained with
    | some cause => s.post core {
        mbox := m.mbox, data := containRecord src.containedAt cause m.srcCore, srcCore := m.srcCore, srcCtx := 0,
        order := 0, after := [], arrived := false, kind := 2, set := [], counted := false }
    | none => s
  else s

theorem bringEntry_of_none {s : State} {core : Nat} {m : Message} {src : Core} {last : Option Nat}
    (h : m.kind = 0 → src.contained = none) : s.bringEntry core m src last = s := by
  unfold State.bringEntry
  split
  · next hk =>
    rw [Bool.and_eq_true, decide_eq_true_eq] at hk
    rw [h hk.1]
  · rfl

section
variable {s : State} {core n : Nat} {m : Message} {g : Gang} (hg : g = s.gang ((s.gangOfCore core).getD 0))
  (hm : (s.core core).port[n]? = some m) (hruns : s.gangRuns ((s.gangOfCore core).getD 0) = true)
  (hcore : (s.core core).contained = none) (hsrc : m.kind = 0 → (s.core (g.coreOf m.srcCore)).contained = none)
  (hempty : (s.mailbox core m.mbox).present = false) (hfirst : ∀ e ∈ (s.core core).port, e.mbox = m.mbox → e.order ∉ m.after)
  (hset : s.setComplete (11 * g.coreOf m.srcCore + m.srcCtx) (meetScope (g.coreOf m.srcCore) core) m.set = true)
include hg hm hruns hcore hempty hfirst hset

/-- MESSAGE_ACCEPT once the conditions of R121 and R122 hold. -/
theorem execMessageAccept_eq : execMessageAccept core n s =
    let t := (s.boxed core n m).sentAccepted g m
    .next ((t.bringEntry core m (t.core (g.coreOf m.srcCore)) (s.mailbox core m.mbox).lastSrc).endRetiring core m) := by
  subst hg
  have free : ((s.mailbox core m.mbox).present || blockedBy m (s.core core).port || !s.setComplete
      (11 * (s.gang ((s.gangOfCore core).getD 0)).coreOf m.srcCore + m.srcCtx)
      (meetScope ((s.gang ((s.gangOfCore core).getD 0)).coreOf m.srcCore) core) m.set) = false := by
    rw [hempty, blockedBy_eq_false hfirst, hset]
    rfl
  unfold execMessageAccept
  rw [hm]
  dsimp only
  rw [if_neg (by simp [hruns]), if_neg (by simp [hcore]), if_neg (by simp [free])]
  rfl

include hsrc in
/-- A message whose conditions hold is accepted, and the sender, which is not contained, leaves no error entry behind it. -/
theorem messageAccept_accepts : exec (.messageAccept core n) s = .next (s.acceptedAs core n m g) := by
  have noEntry : m.kind = 0 → (((s.boxed core n m).sentAccepted g m).core (g.coreOf m.srcCore)).contained = none := by
    intro hk
    rw [State.core, (sentAccepted_frame ..).1]
    exact (boxed_contained ..).trans (hsrc hk)
  have arm : exec (.messageAccept core n) s = execMessageAccept core n s := rfl
  rw [arm, execMessageAccept_eq hg hm hruns hcore hempty hfirst hset]
  exact congrArg (fun t : State => Host.Outcome.next (t.endRetiring core m)) (bringEntry_of_none noEntry)
end

/-! ## What an acceptance comes to (R117, R119 to R121) -/

section
variable (s : State) (core n : Nat) (m : Message) (g : Gang)

theorem acceptedAs_cores : (s.acceptedAs core n m g).cores = (s.boxed core n m).cores :=
  (endRetiring_frame ..).1.trans (sentAccepted_frame ..).1

theorem acceptedAs_ord : (s.acceptedAs core n m g).ord = s.ord :=
  (endRetiring_frame ..).2.trans (sentAccepted_frame ..).2

theorem acceptedAs_port : ((s.acceptedAs core n m g).core core).port = acceptedFirst m ((s.core core).port.eraseIdx n) := by
  rw [State.core, acceptedAs_cores]
  exact boxed_port ..

theorem acceptedAs_mailbox_self : (s.acceptedAs core n m g).mailbox core m.mbox = (s.mailbox core m.mbox).accepted m := by
  rw [mailbox_of_cores (acceptedAs_cores ..), boxed_mailbox_self]

theorem acceptedAs_mailbox_ne {c : Nat} {i : BitVec 5} (h : c ≠ core ∨ i ≠ m.mbox) :
    (s.acceptedAs core n m g).mailbox c i = s.mailbox c i := by
  rw [mailbox_of_cores (acceptedAs_cores ..), boxed_mailbox_ne _ _ _ _ h]

/-- Of a context an acceptance changes at most the count of stores and the mode. -/
theorem acceptedAs_ctx (k : Nat) : ∃ st mode, (s.acceptedAs core n m g).ctx k = { s.ctx k with st := st, mode := mode } := by
  obtain ⟨mode, hmode⟩ := endRetiring_ctx ((s.boxed core n m).sentAccepted g m) core m k
  obtain ⟨st, hst⟩ := sentAccepted_ctx (s.boxed core n m) g m k
  exact ⟨st, mode, by rw [State.acceptedAs, hmode, hst]; rfl⟩

variable {m}

theorem acceptedAs_st (hk : m.kind = 0) (hc : m.counted = true) :
    ((s.acceptedAs core n m g).ctx (11 * g.coreOf m.srcCore + m.srcCtx)).st =
      if (s.ctx (11 * g.coreOf m.srcCore + m.srcCtx)).st = 0 then 0 else (s.ctx (11 * g.coreOf m.srcCore + m.srcCtx)).st - 1 := by
  obtain ⟨mode, hmode⟩ := endRetiring_ctx ((s.boxed core n m).sentAccepted g m) core m (11 * g.coreOf m.srcCore + m.srcCtx)
  rw [State.acceptedAs, hmode]
  exact sentAccepted_st (s.boxed core n m) g hk hc

theorem acceptedAs_idle (hk : m.kind = 1) (hn : m.srcCtx ≠ 0) (h : (s.ctx (11 * core + m.srcCtx)).mode = .retiring) :
    ((s.acceptedAs core n m g).ctx (11 * core + m.srcCtx)).mode = .idle := by
  obtain ⟨st, hst⟩ := sentAccepted_ctx (s.boxed core n m) g m (11 * core + m.srcCtx)
  refine endRetiring_mode _ _ hk hn ?_
  rw [hst]
  exact h
end

/-- Settles O51: the sends, the reads of a mailbox, and acceptance. -/
theorem messagesArriveInMailboxes : Obligations.MessagesArriveInMailboxes := by
  refine ⟨fun f s => ?sends, fun f s => ?mailbox, ?accepts⟩
  case sends =>
    simp only [List.forall_mem_cons, List.not_mem_nil, false_imp_iff, implies_true, and_true]
    exact ⟨fun hf => send_outcomes rfl hf rfl, fun hf => send_outcomes rfl hf rfl⟩
  case mailbox =>
    exact ⟨fun hf => ⟨fun h => sleeps_of_sleep rfl hf (effMtake_empty h), mtake_takes hf⟩,
      fun hf => ⟨fun h => sleeps_of_sleep rfl hf (effMpeek_empty h), mpeek_reads hf⟩, mclr_empties⟩
  case accepts =>
    intro s core n m hm g sender hruns hcore hsrc hempty hfirst hset
    refine ⟨s.acceptedAs core n m g, messageAccept_accepts rfl hm hruns hcore hsrc hempty hfirst hset,
      sameBytes_of_mem (congrArg Order.mem (acceptedAs_ord ..)), acceptedAs_port .., ?after, ?present, ?data, ?err,
      fun c i => acceptedAs_mailbox_ne s core n m g, acceptedAs_st s core n g, acceptedAs_idle s core n g, fun k => ?regs⟩
    case after =>
      rw [acceptedAs_port]
      exact after_of_mem_acceptedFirst
    case present | data | err =>
      rw [acceptedAs_mailbox_self]
      rfl
    case regs =>
      obtain ⟨st, mode, h⟩ := acceptedAs_ctx s core n m g k
      rw [h]
      exact ⟨rfl, rfl⟩

end Sys2Proof.Machine

/-! SUPPORT. Words that the spec writes out, retirement and lane masks (R26, R28, R45, R85, R86, R227). -/
namespace Sys2Proof.Machine

/-- Settles O3: each word is decoded by evaluation. -/
theorem specWordsDecodeAsWritten : Obligations.SpecWordsDecodeAsWritten := by
  unfold Obligations.SpecWordsDecodeAsWritten
  decide

/-! ## Retirement (R85, R86) -/

/-- Settles O6: the two cases of retirement, and their frame. -/
theorem retirementGoesToTheNextInstructionOrTheBlockEnd : Obligations.RetirementGoesToTheNextInstructionOrTheBlockEnd := by
  intro s k
  refine ⟨State.ctx_retire_last, fun h => ?_, fun j hj => State.ctx_retire_ne s hj, rfl⟩
  have small := hdrLen_lt (s.ctx k).hdr
  rw [State.ctx_retire_next (by omega)]
  exact ⟨rfl, pcIndex_mkPc (by omega) _, pcBlock_mkPc_pcBlock ..⟩

/-! ## Lane masks (R26, R227) -/

/-- A count of one bits is that of the bits of the vector. -/
theorem popCount_toNat {n : Nat} (l : Nat) (m : BitVec n) : popCount l m.toNat = (List.range l).countP fun i => m.getLsbD i := rfl

/-- Settles O27: each instruction's effect is its row of R227; the register laws are those of x0 and k0. -/
theorem maskInstructions : Obligations.MaskInstructions := by
  refine ⟨fun f s => ⟨?kand, ?kor, ?kxor, ?knot, ?kmov, ?kset, ?kpop, ?krd⟩, fun c w m => ⟨?wx0, ?wk0, ?rx0, ?rk0⟩,
    fun c r q w hq => Ctx.rx_wx_ne c w hq, fun c r w hr => Ctx.rx_wx_self c w hr, fun c r q m hq => Ctx.rk_wk_ne c m hq⟩
  case kand | kor | kxor | knot | kmov | kset | krd => exact fun hf => completes_of_done rfl hf rfl
  case kpop =>
    intro hf
    rw [← popCount_toNat]
    exact completes_of_done rfl hf rfl
  case wx0 => exact Ctx.wx_zero c w
  case wk0 => exact Ctx.wk_zero c m
  case rx0 => exact Ctx.rx_zero c
  case rk0 => exact Ctx.rk_zero c

end Sys2Proof.Machine

/-! SUPPORT. What an access to memory comes to at its issue (R46, R300, R303 to R305, R337, R355). -/
namespace Sys2Proof.Machine

/-! ## The checks of an access, one after another -/

section
variable {i : Instr} {s : State} {count : Ctx → BitVec 8} {ea : Word} {n : Nat} {wr : Bool} {eff : Eff} {k : Hit → Eff}

theorem counted_of_full (h : count s.me = 255) : counted i s count eff = .sleep (.again i) s := if_pos h
theorem counted_of_room (h : count s.me ≠ 255) : counted i s count eff = eff := if_neg h
theorem aligned_of_dvd (h : ea.toNat % n = 0) : aligned ea n eff = eff := if_pos h
theorem aligned_of_not_dvd (h : ea.toNat % n ≠ 0) : aligned ea n eff = .trap 13 ea 0 := if_neg h
theorem withHit_of_ok {h : Hit} (ht : s.translate s.cur ea wr = .ok h) : withHit s ea wr k = k h := by
  simp only [withHit, ht]
theorem withHit_of_error {r : Nat} (ht : s.translate s.cur ea wr = .error r) :
    withHit s ea wr k = if r = walkWaits then .stall (s.missOf s.cur ea wr) else .fault ea r wr := by
  simp only [withHit, ht]

/-- An access that is counted, aligned and translates has its own effect. -/
theorem access_of_hit (hc : count s.me ≠ 255) (ha : ea.toNat % n = 0) {h : Hit} (ht : s.translate s.cur ea wr = .ok h) :
    counted i s count (aligned ea n (withHit s ea wr k)) = k h := by
  rw [counted_of_room hc, aligned_of_dvd ha, withHit_of_ok ht]

/-- What an access of n bytes comes to where a check of it fails, `c` being its counter. -/
def AccessFails (i : Instr) (s : State) (c : BitVec 8) (ea : Word) (n : Nat) (wr : Bool) : Prop :=
  (c ≠ 255 → ea.toNat % n ≠ 0 → Traps i s 13 ea 0) ∧
  (c ≠ 255 → ea.toNat % n = 0 → ∀ r, s.translate s.cur ea wr = .error r →
    exec i s = .next (if r = walkWaits then s.missOf s.cur ea wr else s.pageFault ea r wr)) ∧
  (c = 255 → Sleeps i s (.again i) s)

theorem access_fails {f : State → Eff} (he : exec i s = .next (s.issue i f)) (hf : s.Fit i)
    (h : f s = counted i s count (aligned ea n (withHit s ea wr k))) : AccessFails i s (count s.me) ea n wr := by
  refine ⟨fun hc ha => traps_of_trap he hf ?_, fun hc ha r hr => ?_, fun hc => sleeps_of_sleep he hf ?_⟩
  · rw [h, counted_of_room hc, aligned_of_not_dvd ha]
  · rw [exec_of_fit he hf (h.trans (by rw [counted_of_room hc, aligned_of_dvd ha, withHit_of_error hr]))]
    split <;> rfl
  · rw [h, counted_of_full hc]
end

/-! ## What a translation changes (R335) -/

/-- The translation caches alone may differ. -/
def OnlyCaches (s t : State) : Prop := t = { s with cores := t.cores, sheds := t.sheds }

theorem onlyCaches_tlbFind {s t : State} {core vf : Nat} {sup : Bool} {a : Nat} {e : TlbEntry}
    (h : s.tlbFind core vf sup a = some (e, t)) : OnlyCaches s t := by
  unfold State.tlbFind at h
  split at h
  · cases h
    rfl
  · obtain ⟨_, -, he⟩ := Option.map_eq_some_iff.mp h
    cases he
    rfl

theorem onlyCaches_leafFor {s : State} {core vf : Nat} {sup : Bool} {c : VfCfg} {a : Nat} {wr : Bool} {h : Hit}
    (ht : s.leafFor core vf sup c a wr = .ok h) : OnlyCaches s h.st := by
  unfold State.leafFor at ht
  split at ht
  · next e t hfind =>
    split at ht
    · cases ht
      exact onlyCaches_tlbFind hfind
    · cases ht
  · dsimp only at ht
    generalize s.walkFrom (qtrOfCore core) c a (some wr) 4 0 _ = r at ht
    cases r with
    | error r => cases ht
    | ok leaf =>
      cases ht
      rfl

/-- A translation moves the entries of the translation caches and nothing else. -/
theorem onlyCaches_translate {s : State} {k : Nat} {va : Word} {wr : Bool} {h : Hit} (ht : s.translate k va wr = .ok h) :
    OnlyCaches s h.st := by
  simp only [State.translate, State.translateFor] at ht
  split at ht
  · rw [← Except.ok.inj ht]
    rfl
  · split at ht
    · cases ht
    · split at ht
      · cases ht
      · split at ht
        · cases ht
        · exact onlyCaches_leafFor ht

theorem OnlyCaches.cur {s t : State} (h : OnlyCaches s t) : t.cur = s.cur := by rw [h]
theorem OnlyCaches.ctx {s t : State} (h : OnlyCaches s t) (k : Nat) : t.ctx k = s.ctx k := by rw [h]; rfl
theorem OnlyCaches.ord {s t : State} (h : OnlyCaches s t) : t.ord = s.ord := by rw [h]
theorem OnlyCaches.sameBytes {s t : State} (h : OnlyCaches s t) : SameBytes s t := sameBytes_of_mem (by rw [h.ord])

/-! ## Scalar accesses (R304) -/

section
variable {i : Instr} {f : MF} {s : State} {h : Hit}

theorem loadEff_of_hit {sext acq : Bool} (ht : s.translate s.cur (MF.ea f s) false = .ok h)
    (ha : (MF.ea f s).toNat % 2 ^ f.size.toNat = 0) (hc : s.me.ld ≠ 255) : loadEff i f sext acq s =
      .done ((h.st.pushOp (pteKey h.w0) (pageHint f.hint h.w0)
        (.read (.x f.d (h.loc % 8) (2 ^ f.size.toNat) sext) [h.loc / 8 * 8] [] acq)).updMe fun c => { c with ld := c.ld + 1 }) :=
  access_of_hit hc ha ht

theorem storeEff_of_hit {rel : Option (BitVec 3)} (ht : s.translate s.cur (MF.ea f s) true = .ok h)
    (ha : (MF.ea f s).toNat % 2 ^ f.size.toNat = 0) (hc : s.me.st ≠ 255) : storeEff i f rel s =
      .done ((h.st.pushOp (pteKey h.w0) (pageHint f.hint h.w0)
        (.write (h.loc / 8 * 8) (byteMask (h.loc % 8) (2 ^ f.size.toNat)) (s.rx f.b <<< (8 * (h.loc % 8))) none rel
          (if rel.isSome then h.st.releaseSet s.cur else []))).updMe fun c => { c with st := c.st + 1 }) :=
  access_of_hit hc ha ht
end

/-- Settles O31: one effect serves the three loads. -/
theorem scalarLoadsBecomePendingReads : Obligations.ScalarLoadsBecomePendingReads := by
  intro f s h ht ha hc
  simp only [List.forall_mem_cons, List.not_mem_nil, false_imp_iff, implies_true, and_true]
  exact ⟨fun hf => completes_of_done rfl hf (loadEff_of_hit ht ha hc), fun hf => completes_of_done rfl hf (loadEff_of_hit ht ha hc),
    fun hf => completes_of_done rfl hf (loadEff_of_hit ht ha hc)⟩

/-! ## Vector stores (R305) -/

/-- The half of a 16-byte store from byte `lo` on: its place, its bytes and their values, where a lane of it is active. -/
def vstHalf (loc : Nat) (m : BitVec 16) (v : Quad) (lo : Nat) : List (Nat × BitVec 8 × Word) :=
  if m.extractLsb' lo 8 = 0#8 then [] else [(loc + lo, m.extractLsb' lo 8, v.extractLsb' (8 * lo) 64)]

/-- A half enters the write buffer as an operation of group `grp`. -/
def pushHalf (hint : BitVec 2) (key grp : Nat) (t : State) (w : Nat × BitVec 8 × Word) : State :=
  (t.updMe fun c => { c with ops := c.ops ++ [{ id := t.next, grp := grp, hint := hint, key := key,
                                                kind := .write w.1 w.2.1 w.2.2 none none [] }] }).tickNext

theorem sameBytes_pushHalves (hint : BitVec 2) (key grp : Nat) (l : List (Nat × BitVec 8 × Word)) (s : State) :
    SameBytes s (l.foldl (pushHalf hint key grp) s) :=
  List.foldlRecOn l _ (motive := SameBytes s) (fun _ _ => rfl) fun _ ht _ _ => ht

/-- The operations of a context after halves have entered its write buffer one after another. -/
theorem ops_pushHalves (hint : BitVec 2) (key grp : Nat) (l : List (Nat × BitVec 8 × Word)) (s : State) :
    (l.foldl (pushHalf hint key grp) s).cur = s.cur ∧
    ((l.foldl (pushHalf hint key grp) s).ctx s.cur).ops.map (·.kind) =
      (s.ctx s.cur).ops.map (·.kind) ++ l.map fun w => .write w.1 w.2.1 w.2.2 none none [] := by
  induction l generalizing s with
  | nil => simp
  | cons w l ih =>
    have one : ((pushHalf hint key grp s w).ctx s.cur).ops.map (·.kind) =
        (s.ctx s.cur).ops.map (·.kind) ++ [.write w.1 w.2.1 w.2.2 none none []] := by
      simp [pushHalf, State.updMe]
    obtain ⟨hcur, hops⟩ := ih (pushHalf hint key grp s w)
    refine ⟨hcur, hops.trans ?_⟩
    have same : (pushHalf hint key grp s w).cur = s.cur := rfl
    rw [same, one, List.map_cons, List.append_assoc]
    rfl

theorem vstEff_of_none {i : Instr} {f : MF} {s : State} (h : s.laneMask f = 0) : vstEff i f s = .done s := by
  simp only [vstEff, h, if_true]

theorem vstEff_of_hit {i : Instr} {f : MF} {s : State} {h : Hit} (hm : s.laneMask f ≠ 0) (ht : s.translate s.cur (MF.ea f s) true = .ok h)
    (ha : (MF.ea f s).toNat % 16 = 0) (hc : s.me.st ≠ 255) : vstEff i f s =
      .done (((vstHalf h.loc (s.laneMask f) (s.rv f.b) 0 ++ vstHalf h.loc (s.laneMask f) (s.rv f.b) 8).foldl
        (pushHalf (pageHint f.hint h.w0) (pteKey h.w0) s.next) h.st).updMe fun c => { c with st := c.st + 1 }) := by
  unfold vstEff
  rw [if_neg hm]
  exact access_of_hit hc ha ht

/-- The kinds of the writes of a half. -/
theorem kinds_vstHalf (loc : Nat) (m : BitVec 16) (v : Quad) (lo : Nat) :
    (vstHalf loc m v lo).map (fun w => OpKind.write w.1 w.2.1 w.2.2 none none []) =
      if m.extractLsb' lo 8 = 0#8 then [] else [.write (loc + lo) (m.extractLsb' lo 8) (v.extractLsb' (8 * lo) 64) none none []] := by
  unfold vstHalf
  exact apply_ite ..

/-- Settles O33: the stores by their effects; a vector store's halves enter the buffer one after another. -/
theorem storesEnterTheWriteBuffer : Obligations.StoresEnterTheWriteBuffer := by
  intro f s h ea n count ht hc
  refine ⟨fun ha hf => completes_of_done rfl hf (storeEff_of_hit ht ha hc),
    fun ha hf => completes_of_done rfl hf (storeEff_of_hit ht ha hc),
    fun hm hf => completes_of_done rfl hf (vstEff_of_none hm), fun hm ha hf => ?vst⟩
  refine ⟨_, completes_of_done rfl hf (vstEff_of_hit hm ht ha hc), ?_, ?_⟩
  · exact fun q a => (sameBytes_pushHalves _ _ _ _ h.st q a).trans ((onlyCaches_translate ht).sameBytes q a)
  · obtain ⟨-, hops⟩ := ops_pushHalves (pageHint f.hint h.w0) (pteKey h.w0) s.next
      (vstHalf h.loc (s.laneMask f) (s.rv f.b) 0 ++ vstHalf h.loc (s.laneMask f) (s.rv f.b) 8) h.st
    rw [(onlyCaches_translate ht).cur, List.map_append, kinds_vstHalf, kinds_vstHalf] at hops
    rw [hops, List.append_assoc]
    rfl

end Sys2Proof.Machine

/-! SUPPORT. Accesses that trap or wait, vector loads and tagged accesses (R46, R191 to R194, R273, R303, R305, R306). -/
namespace Sys2Proof.Machine

/-! ## Misaligned accesses and full counters (R300, R303) -/

theorem vldRawEff_of_some {i : Instr} {f : MF} {s : State} (h : s.laneMask f ≠ 0) : vldRawEff i f s =
    counted i s (·.ld) (aligned (MF.ea f s) 16 (withHit s (MF.ea f s) false fun h => rawLoad f (s.laneMask f) s h)) := if_neg h

/-- Settles O34: every form makes the same three checks before its own effect. -/
theorem misalignedAccessesTrapAndFullCountersWait : Obligations.MisalignedAccessesTrapAndFullCountersWait := by
  intro f s ea ldForms stForms vecForms count
  have loadsCount : ∀ e ∈ ldForms, count e = s.me.ld := by
    intro e he
    refine if_neg ?_
    revert e
    simp [ldForms, stForms, or_imp, forall_and]
  have loads : ∀ e ∈ ldForms, s.Fit e.1 → AccessFails e.1 s s.me.ld ea e.2.1 e.2.2 := by
    simp only [ldForms, List.map_cons, List.map_nil, List.cons_append, List.nil_append, List.forall_mem_cons, List.not_mem_nil,
      false_imp_iff, implies_true, and_true]
    and_intros <;> exact fun hf => access_fails (count := (·.ld)) rfl hf rfl
  have stores : ∀ e ∈ stForms, s.Fit e.1 → AccessFails e.1 s s.me.st ea e.2.1 e.2.2 := by
    simp only [stForms, List.map_cons, List.map_nil, List.cons_append, List.nil_append, List.forall_mem_cons, List.not_mem_nil,
      false_imp_iff, implies_true, and_true]
    and_intros <;> exact fun hf => access_fails (count := (·.st)) rfl hf rfl
  intro e he hf hm
  rcases List.mem_append.mp he with he' | hvec
  · rcases List.mem_append.mp he' with hld | hst
    · rw [loadsCount e hld]
      exact loads e hld hf
    · rw [show count e = s.me.st from if_pos (.inl hst)]
      exact stores e hst hf
  · specialize hm hvec
    rcases List.mem_cons.mp hvec with rfl | hlast
    · rw [show count (.vldRaw f, 16, false) = s.me.ld from if_neg (by simp [stForms])]
      exact access_fails (count := (·.ld)) rfl hf (if_neg hm)
    · obtain rfl := List.mem_singleton.mp hlast
      rw [show count (.vst f, 16, true) = s.me.st from if_pos (.inr rfl)]
      exact access_fails (count := (·.st)) rfl hf (if_neg hm)

/-! ## Vector loads (R191 to R194, R305) -/

/-- Decoding codebook pages is a feature of both variants (R2, R3). -/
theorem State.hasFeature_five (s : State) : s.hasFeature 5 = true := by
  unfold State.hasFeature State.feat0
  cases s.four <;> decide

section
variable {i : Instr} {f : MF} {s : State} {h : Hit}

theorem vldRawEff_of_hit (hm : s.laneMask f ≠ 0) (ht : s.translate s.cur (MF.ea f s) false = .ok h)
    (ha : (MF.ea f s).toNat % 16 = 0) (hc : s.me.ld ≠ 255) : vldRawEff i f s = rawLoad f (s.laneMask f) s h := by
  rw [vldRawEff_of_some hm, access_of_hit hc ha ht]

variable (hm : s.laneMask f ≠ 0) (hc : s.me.ld ≠ 255) (ht : s.translate s.cur (MF.ea f s) false = .ok h)
include hm hc ht

theorem vldEff_of_badPage (hp : pageFmtOk h.w1 = false) : vldEff i f s = .trap 16 (MF.ea f s) 0 := by
  simp only [vldEff, if_neg hm, counted_of_room hc, withHit_of_ok ht, hp, Bool.not_false, if_true]

/-- On a page that R192 lets stand, `vld` goes by the page's groups. -/
theorem vldEff_of_page (hp : pageFmtOk h.w1 = true) : vldEff i f s =
    if PageFmt.decodes (pageFmt h.w1) then
      if (s.laneMask f).extractLsb' 0 8 = 0#8 then .done h.st
      else aligned (MF.ea f s) (if (pageFmt h.w1).fmt = 9 then 4 else 8) (decLoad f (s.laneMask f) (MF.ea f s) (pageFmt h.w1) s h)
    else aligned (MF.ea f s) 16 (rawLoad f (s.laneMask f) s h) := by
  simp only [vldEff, if_neg hm, counted_of_room hc, withHit_of_ok ht, hp, State.hasFeature_five, Bool.not_true, Bool.and_false,
    Bool.false_eq_true, if_false]
  rfl

variable (hp : pageFmtOk h.w1 = true)
include hp

theorem vldEff_ungrouped (hg : (pageFmt h.w1).g = 0) :
    vldEff i f s = aligned (MF.ea f s) 16 (rawLoad f (s.laneMask f) s h) := by
  rw [vldEff_of_page hm hc ht hp, if_neg (by simp [PageFmt.decodes, hg])]

variable (hg : (pageFmt h.w1).g ≠ 0)
include hg

theorem vldEff_noLane (hl : (s.laneMask f).extractLsb' 0 8 = 0#8) : vldEff i f s = .done h.st := by
  rw [vldEff_of_page hm hc ht hp, if_pos (by simp [PageFmt.decodes, hg]), if_pos hl]

theorem vldEff_decoding (hl : (s.laneMask f).extractLsb' 0 8 ≠ 0#8) : vldEff i f s =
    aligned (MF.ea f s) (if (pageFmt h.w1).fmt = 9 then 4 else 8) (decLoad f (s.laneMask f) (MF.ea f s) (pageFmt h.w1) s h) := by
  rw [vldEff_of_page hm hc ht hp, if_pos (by simp [PageFmt.decodes, hg]), if_neg hl]
end

section
variable {f : MF} {m : BitVec 16} {ea : Word} {p : PageFmt} {s : State} {h : Hit}

theorem decLoad_unscaled (hs : p.sc = 0) : decLoad f m ea p s h = .done ((h.st.pushOp (pteKey h.w0) (pageHint f.hint h.w0)
    (.read (.vdec f.d m p.fmt p.sc p.g (h.loc % 8) 0 (s.slotOf s.myShed p.slot) []) [h.loc / 8 * 8] [] false)).updMe fun c =>
      { c with ld := c.ld + 1 }) := by
  simp only [decLoad, PageFmt.scaled, hs, ne_eq, not_true_eq_false, decide_false, Bool.false_eq_true, if_false]
  rfl

theorem decLoad_scaled (hs : p.sc ≠ 0) {g : Hit}
    (ht : h.st.translate h.st.cur (scaleAddr p h.page (ea.toNat - h.page)) false = .ok g)
    (hin : (scaleAddr p h.page (ea.toNat - h.page)).toNat % 8 + PageFmt.z p ≤ 8) :
    decLoad f m ea p s h = .done ((g.st.pushOp (pteKey h.w0) (pageHint f.hint h.w0)
      (.read (.vdec f.d m p.fmt p.sc p.g (h.loc % 8) (g.loc % 8) (s.slotOf s.myShed p.slot) [(pageHint f.hint g.w0, pteKey g.w0)])
        [h.loc / 8 * 8, g.loc / 8 * 8] [] false)).updMe fun c => { c with ld := c.ld + 1 }) := by
  simp only [decLoad, PageFmt.scaled, hs, ne_eq, not_false_eq_true, decide_true, if_true, withHit_of_ok ht, hin]
  rfl
end

/-- Settles O32: by the page's format and groups, and by the active lanes. -/
theorem vectorLoadsBecomePendingReads : Obligations.VectorLoadsBecomePendingReads := by
  intro f s h ea m p raw
  refine ⟨fun hm => ⟨fun hf => completes_of_done rfl hf (if_pos hm), fun hf => completes_of_done rfl hf (if_pos hm)⟩,
    fun hm hc ht => ⟨fun hf ha => completes_of_done rfl hf (vldRawEff_of_hit hm ht ha hc), fun hf =>
      ⟨fun hp => traps_of_trap rfl hf (vldEff_of_badPage hm hc ht hp), fun hp => ?page⟩⟩⟩
  refine ⟨fun hg hl => ?noLane, fun hg ha => ?raw, fun hg ha => ?rawTrap, fun hg hl ha => ?decTrap, fun hg ha hl hs => ?unscaled,
    fun hg ha hl hs g hs' hin => ?scaled⟩
  case noLane => exact completes_of_done rfl hf (vldEff_noLane hm hc ht hp hg hl)
  case raw => exact completes_of_done rfl hf ((vldEff_ungrouped hm hc ht hp hg).trans (aligned_of_dvd ha))
  case rawTrap => exact traps_of_trap rfl hf ((vldEff_ungrouped hm hc ht hp hg).trans (aligned_of_not_dvd ha))
  case decTrap => exact traps_of_trap rfl hf ((vldEff_decoding hm hc ht hp hg hl).trans (aligned_of_not_dvd ha))
  case unscaled =>
    exact completes_of_done rfl hf ((vldEff_decoding hm hc ht hp hg hl).trans ((aligned_of_dvd ha).trans (decLoad_unscaled hs)))
  case scaled =>
    exact completes_of_done rfl hf ((vldEff_decoding hm hc ht hp hg hl).trans ((aligned_of_dvd ha).trans (decLoad_scaled hs hs' hin)))

end Sys2Proof.Machine

/-! SUPPORT. Tagged accesses to a scratchpad (R46, R273, R292, R306). -/
namespace Sys2Proof.Machine

theorem OnlyMemory.ctxs {s t : State} (h : OnlyMemory s t) : t.ctxs = s.ctxs := by
  have same := congrArg State.ctxs h
  exact same

theorem OnlyMemory.cur {s t : State} (h : OnlyMemory s t) : t.cur = s.cur := by
  have same := congrArg State.cur h
  exact same

/-! ## What PERFORM leaves in memory and in tags (R273, R288) -/

@[simp] theorem State.correct_sheds (s : State) (loc : Nat) : (s.correct loc).sheds = s.sheds := by
  unfold State.correct
  split <;> rfl

theorem mem_natInsert (l : List Nat) (k : Nat) : k ∈ natInsert l k := by
  induction l with
  | nil => simp [natInsert]
  | cons j l ih =>
    unfold natInsert
    split
    · next h => simp [h]
    · split
      · simp
      · exact List.mem_cons_of_mem j ih

theorem tag_of_sheds {s t : State} (h : t.sheds = s.sheds) (loc : Nat) : t.tag loc = s.tag loc := by
  rw [State.tag, State.tag, State.shed, State.shed, h]

theorem tag_tagWrite (s : State) (loc : Nat) (full : Bool) (rel : Option (List Nat)) :
    (s.tagWrite loc (some full) rel).tag loc = full := by
  simp only [State.tagWrite, State.tag, State.shed_updShed_self, State.setTag]
  cases full
  · simp
  · simpa using mem_natInsert (s.shed (padShed loc)).full (padIndex loc)

theorem tagWrite_mem (s : State) (loc : Nat) (tag : Option Bool) (rel : Option (List Nat)) :
    (s.tagWrite loc tag rel).ord.mem = s.ord.mem := by
  cases tag <;> rfl

theorem recode_mem (s : State) (loc : Nat) : (s.recode loc).ord.mem = s.ord.mem := by
  unfold State.recode
  dsimp only
  split <;> rfl

section
variable (s : State) (who id q loc : Nat) (mask : BitVec 8) (val : Word) (rel : Option (List Nat)) (atom merged bad : Bool)

/-- PERFORM writes one doubleword of one quarter's memory. -/
theorem perform_mem (tag : Option Bool) : (s.perform who id q loc mask val tag rel atom merged bad).ord.mem =
    (s.setMemQ q ((s.memQ q).setDword loc mask val)).ord.mem := by
  unfold State.perform
  dsimp only
  rw [State.tickNext_ord, tagWrite_mem]
  split
  · rw [recode_mem]
    rfl
  · rfl

theorem tag_perform (full : Bool) : (s.perform who id q loc mask val (some full) rel atom merged bad).tag loc = full := by
  unfold State.perform
  exact tag_tagWrite ..

/-- The bytes of memory after PERFORM: in the quarter those that the mask names are the value's, and all others are as they were. -/
theorem stores_perform (tag : Option Bool) (hw : (s.memQ q).wf = true) :
    Stores s (s.perform who id q loc mask val tag rel atom merged bad) q loc mask val := by
  intro p a
  rw [State.byteQ, State.memQ, perform_mem, ← State.memQ]
  by_cases hp : p % 4 = q % 4
  · have same : (s.setMemQ q ((s.memQ q).setDword loc mask val)).memQ p = (s.memQ q).setDword loc mask val := by
      simp [State.memQ, State.setMemQ, hp]
    have here : s.byteQ p a = (s.memQ q).get a := by simp [State.byteQ, State.memQ, hp]
    rw [same, here]
    by_cases ha : loc ≤ a ∧ a < loc + 8
    · have split : a = loc + (a - loc) := by omega
      have := Memory.get_setDword_in hw loc (i := a - loc) mask val (by omega)
      rw [← split] at this
      simp [this, hp, ha]
    · rw [Memory.get_setDword_out mask val (by omega), if_neg (fun h => ha ⟨h.2.1, h.2.2.1⟩)]
  · rw [State.memQ_setMemQ_ne s _ hp, if_neg (fun h => hp h.1)]
    rfl
end

/-! ## The accesses (R306) -/

section
variable {i : Instr} {f : MF} {s : State} {count : Ctx → BitVec 8} {k : Nat → Eff}

theorem tagged_below (h : (MF.ea f s).toNat < Config.padWindow) : tagged i f s count k = .trap 14 (MF.ea f s) 0 := if_pos h

theorem tagged_misaligned (h : Config.padWindow ≤ (MF.ea f s).toNat) (ha : (MF.ea f s).toNat % 8 ≠ 0) :
    tagged i f s count k = .trap 13 (MF.ea f s) 0 := by
  rw [tagged, if_neg (by omega), aligned_of_not_dvd ha]

theorem consumeEff_tagged (empty : Bool) : ∃ k, consumeEff i f empty s = tagged i f s (·.ld) k := ⟨_, rfl⟩
theorem fillEff_tagged : ∃ k, fillEff i f s = tagged i f s (·.st) k := ⟨_, rfl⟩
theorem setFullEff_tagged : ∃ k, setFullEff i f s = tagged i f s (·.st) k := ⟨_, rfl⟩
theorem tagEff_tagged (full : Bool) : ∃ k, tagEff i f full s = tagged i f s (·.st) k := ⟨_, rfl⟩

theorem tagged_fails {eff : State → Eff} (he : exec i s = .next (s.issue i eff)) (hf : s.Fit i) (h : ∃ k, eff s = tagged i f s count k) :
    ((MF.ea f s).toNat < Config.padWindow → Traps i s 14 (MF.ea f s) 0) ∧
    (Config.padWindow ≤ (MF.ea f s).toNat → (MF.ea f s).toNat % 8 ≠ 0 → Traps i s 13 (MF.ea f s) 0) :=
  let ⟨_, h⟩ := h
  ⟨fun hlow => traps_of_trap he hf (h.trans (tagged_below hlow)),
    fun hin ha => traps_of_trap he hf (h.trans (tagged_misaligned hin ha))⟩

theorem tagged_word (h : Config.padWindow ≤ (MF.ea f s).toNat) (ha : (MF.ea f s).toNat % 8 = 0) (hc : count s.me ≠ 255) :
    tagged i f s count k = k (padLoc s.myShed ((MF.ea f s).toNat - Config.padWindow)) := by
  rw [tagged, if_neg (by omega), aligned_of_dvd ha, counted_of_room hc]
end

/-- The state once context's read of a full word is done: the word's value is in x_d, and an emptying read clears the tag. -/
def State.consumed (s : State) (loc : Nat) (d : BitVec 5) (empty : Bool) : State :=
  let set := (s.observed s.myQtr loc ++ (s.shed (padShed loc)).tagSet.getD (padIndex loc) []).eraseDups
  let t := ((s.correct loc).updMe fun c => c.see s.next true set).wx d (s.readVal s.cur s.next 0 loc)
  (if empty then t.tagWrite loc (some false) none else t).tickNext

/-- The move that a consuming read makes. -/
def consumeMove (s : State) (loc : Nat) (d : BitVec 5) (empty : Bool) : Op :=
  { moveAs s.next with kind := if empty then .tag loc false else .read (.x d 0 8 false) [loc] [] true }

section
variable {i : Instr} {f : MF} {s : State} (h : Config.padWindow ≤ (MF.ea f s).toNat) (ha : (MF.ea f s).toNat % 8 = 0)
  {loc : Nat} (hloc : loc = padLoc s.myShed ((MF.ea f s).toNat - Config.padWindow))
include h ha hloc

theorem consumeEff_ofEmpty (hc : s.me.ld ≠ 255) (ht : s.tag loc = false) (empty : Bool) : consumeEff i f empty s = .sleep (.again i) s := by
  rw [consumeEff, tagged_word h ha hc, ← hloc]
  simp only [ht, Bool.false_and, holdUnless, Bool.false_eq_true, if_false]

theorem consumeEff_ofFull (hc : s.me.ld ≠ 255) (ht : s.tag loc = true) (hturn : s.myTurn (sameTag s loc true) = true)
    (hpoison : s.readPoisoned s.cur s.next loc 0xFF = false) {empty : Bool}
    (hmay : (s.mayMove s.cur (consumeMove s loc f.d empty) && s.mayMove s.cur (readAs s.next loc)) = true) :
    consumeEff i f empty s = .done (s.consumed loc f.d empty) := by
  rw [consumeEff, tagged_word h ha hc, ← hloc]
  have may : (s.tag loc && s.mayMove s.cur (consumeMove s loc f.d empty) && s.mayMove s.cur (readAs s.next loc) &&
      s.myTurn (sameTag s loc true)) = true := by rw [ht, Bool.true_and, hmay, hturn, Bool.true_and]
  exact (if_pos may).trans (if_neg (by rw [hpoison]; decide))

theorem fillEff_ofFull (hc : s.me.st ≠ 255) (ht : s.tag loc = true) : fillEff i f s = .sleep (.again i) s := by
  rw [fillEff, tagged_word h ha hc, ← hloc]
  simp only [ht, Bool.not_true, Bool.false_and, holdUnless, Bool.false_eq_true, if_false]

theorem fillEff_ofEmpty (hc : s.me.st ≠ 255) (ht : s.tag loc = false)
    (hmay : s.mayMove s.cur { moveAs s.next with kind := .write loc 0xFF (s.rx f.b) (some true) (some 2) (s.releaseSet s.cur) } = true)
    (hturn : s.myTurn (sameTag s loc false) = true) : fillEff i f s =
      .done (s.tickNext.perform s.cur s.next s.myQtr loc 0xFF (s.rx f.b) (some true) (some (s.releaseSet s.cur)) true false false) := by
  rw [fillEff, tagged_word h ha hc, ← hloc]
  exact if_pos (by rw [ht, hmay, hturn]; rfl)

theorem setFullEff_word (hc : s.me.st ≠ 255) : setFullEff i f s =
    .done ((s.pushOp 0 0 (.write loc 0xFF (s.rx f.b) (some true) (some 2) (s.releaseSet s.cur))).updMe Ctx.incSt) := by
  rw [setFullEff, tagged_word h ha hc, ← hloc]

theorem tagEff_word (hc : s.me.st ≠ 255) (full : Bool) : tagEff i f full s =
    .done ((s.pushOp 0 0 (.tag loc full)).updMe Ctx.incSt) := by
  rw [tagEff, tagged_word h ha hc, ← hloc]
end

/-- What a consuming read leaves: the value in its register, the tag, and nothing else of memory or registers. -/
theorem consumed_changes {s : State} {loc : Nat} (d : BitVec 5) (empty : Bool) (ht : s.tag loc = true) :
    let t := s.consumed loc d empty
    t.rx d = (if d = 0 then 0 else s.readVal s.cur s.next 0 loc) ∧ t.tag loc = !empty ∧ SameBytes s t ∧ ∀ r, r ≠ d → t.rx r = s.rx r := by
  generalize hset : (s.observed s.myQtr loc ++ (s.shed (padShed loc)).tagSet.getD (padIndex loc) []).eraseDups = set
  generalize hu : (s.correct loc).updMe (fun c => c.see s.next true set) = u
  have urx (r : BitVec 5) : u.rx r = s.rx r := by
    rw [← hu, State.rx, State.me_updMe, rx_see, State.me, State.ctx, State.correct_ctxs, State.correct_cur]
    rfl
  have umem : u.ord.mem = s.ord.mem := by
    rw [← hu]
    exact State.correct_mem s loc
  have usheds : u.sheds = s.sheds := by
    rw [← hu]
    exact State.correct_sheds s loc
  have eq : s.consumed loc d empty = (if empty then (u.wx d (s.readVal s.cur s.next 0 loc)).tagWrite loc (some false) none
      else u.wx d (s.readVal s.cur s.next 0 loc)).tickNext := by rw [← hu, ← hset]; rfl
  have trx (r : BitVec 5) : (s.consumed loc d empty).rx r = (u.wx d (s.readVal s.cur s.next 0 loc)).rx r := by
    rw [eq]
    cases empty <;> rfl
  refine ⟨?_, ?_, sameBytes_of_mem ?_, fun r hr => ?_⟩
  · rw [trx, rx_wx, if_pos rfl]
  · rw [eq]
    cases empty
    · exact (tag_of_sheds usheds loc).trans ht
    · exact tag_tagWrite (u.wx d _) loc false none
  · rw [eq, ← umem]
    cases empty <;> rfl
  · rw [trx, rx_wx, if_neg hr, urx]

/-- What the fill of an empty word leaves (R306). -/
theorem filled_changes {s : State} {loc : Nat} {w : Word} (who id : Nat) (rel : Option (List Nat)) (hw : (s.memQ s.myQtr).wf = true) :
    let t := s.tickNext.perform who id s.myQtr loc 0xFF w (some true) rel true false false
    t.tag loc = true ∧ (∀ i < 8, t.byteQ s.myQtr (loc + i) = w.extractLsb' (8 * i) 8) ∧
    (∀ q a, (q % 4 ≠ s.myQtr % 4 ∨ a < loc ∨ loc + 8 ≤ a) → t.byteQ q a = s.byteQ q a) ∧ ∀ r, t.rx r = s.rx r := by
  intro t
  have stored : Stores s.tickNext t s.myQtr loc 0xFF w :=
    stores_perform s.tickNext who id s.myQtr loc 0xFF w rel true false false (some true) hw
  have only : OnlyMemory s.tickNext t := onlyMemory_perform ..
  have contexts : t.ctxs = s.ctxs := only.ctxs
  have current : t.cur = s.cur := only.cur
  refine ⟨tag_perform .., fun i hi => ?_, fun q a hout => ?_, fun r => ?_⟩
  · have full : (0xFF#8).getLsbD i = true := by interval_cases i <;> rfl
    rw [stored, if_pos ⟨rfl, by omega, by omega, by simpa using full⟩, Nat.add_sub_cancel_left]
  · rw [stored, if_neg (by rintro ⟨hq, hlo, hhi, -⟩; omega)]
    rfl
  · simp only [State.rx, State.me, State.ctx, contexts, current]

/-- Settles O36: the address checks, and each form on a full and on an empty word. -/
theorem taggedScratchpadAccesses : Obligations.TaggedScratchpadAccesses := by
  intro f s ea loc o may wr
  have hloc : loc = padLoc s.myShed ((MF.ea f s).toNat - Config.padWindow) := rfl
  refine ⟨?checks, fun hw ha => ⟨fun hf hc => ?stF, fun hf hc => ?tagSet, fun hf hc => ?tagClr, fun hc ht => ?sleeps,
    fun hc ht hturn hpoison => ⟨fun hf hmay => ?ldF, fun hf hmay => ?ldFe⟩, fun hc ht hf => ?stEfSleeps,
    fun hc ht hmay hturn hf hwf => ?stEf⟩⟩
  case checks =>
    simp only [List.forall_mem_cons, List.not_mem_nil, false_imp_iff, implies_true, and_true]
    exact ⟨fun hf => tagged_fails rfl hf (consumeEff_tagged false), fun hf => tagged_fails rfl hf (consumeEff_tagged true),
      fun hf => tagged_fails rfl hf fillEff_tagged, fun hf => tagged_fails rfl hf setFullEff_tagged,
      fun hf => tagged_fails rfl hf (tagEff_tagged true), fun hf => tagged_fails rfl hf (tagEff_tagged false)⟩
  case stF => exact completes_of_done rfl hf (setFullEff_word hw ha hloc hc)
  case tagSet => exact completes_of_done rfl hf (tagEff_word hw ha hloc hc true)
  case tagClr => exact completes_of_done rfl hf (tagEff_word hw ha hloc hc false)
  case sleeps =>
    exact ⟨fun hf => sleeps_of_sleep rfl hf (consumeEff_ofEmpty hw ha hloc hc ht false),
      fun hf => sleeps_of_sleep rfl hf (consumeEff_ofEmpty hw ha hloc hc ht true)⟩
  case ldF => exact ⟨_, completes_of_done rfl hf (consumeEff_ofFull hw ha hloc hc ht hturn hpoison hmay), consumed_changes f.d false ht⟩
  case ldFe => exact ⟨_, completes_of_done rfl hf (consumeEff_ofFull hw ha hloc hc ht hturn hpoison hmay), consumed_changes f.d true ht⟩
  case stEfSleeps => exact sleeps_of_sleep rfl hf (fillEff_ofFull hw ha hloc hc ht)
  case stEf => exact ⟨_, completes_of_done rfl hf (fillEff_ofEmpty hw ha hloc hc ht hmay hturn), filled_changes _ _ _ hwf⟩

end Sys2Proof.Machine

/-! SUPPORT. Taking a trap and its dispatch (R45, R348, R350, R351, R360). -/
namespace Sys2Proof.Machine

/-! ## What a lookup leaves (R96, R100) -/

/-- A lookup moves the yard cache and adds to what its context has observed. -/
def OnlyLookup (k : Nat) (s t : State) : Prop :=
  t = { s with ctxs := t.ctxs, cores := t.cores, next := t.next } ∧ ∃ seen, t.ctx k = { s.ctx k with seen := seen }

theorem onlyLookup_acquireYard (s : State) (k : Nat) (rel : Option YardRel) : OnlyLookup k s (s.acquireYard k rel) := by
  unfold State.acquireYard
  split
  · split
    · refine ⟨rfl, ?_⟩
      rw [State.tickNext_ctx, State.ctx_updCtx_self, Ctx.see]
      split <;> exact ⟨_, rfl⟩
    · exact ⟨rfl, _, rfl⟩
  · exact ⟨rfl, _, rfl⟩

theorem onlyLookup_yardUse (s : State) (k : Nat) (t : BitVec 8) (pinned : Bool) : OnlyLookup k s (s.yardUse k t pinned).2.2 := by
  have cached (core : Nat) (f : Core → Core) (rel : Option YardRel) : OnlyLookup k s ((s.updCore core f).acquireYard k rel) := by
    obtain ⟨hframe, hctx⟩ := onlyLookup_acquireYard (s.updCore core f) k rel
    exact ⟨by rw [hframe]; rfl, hctx⟩
  simp only [State.yardUse]
  split <;> exact cached ..

theorem OnlyLookup.mem {k : Nat} {s t : State} (h : OnlyLookup k s t) : t.ord.mem = s.ord.mem := by rw [h.1]
theorem OnlyLookup.arenaBase {k : Nat} {s t : State} (h : OnlyLookup k s t) (j : Nat) : t.arenaBase j = s.arenaBase j := by
  rw [h.1]
  rfl
theorem OnlyLookup.gone {k : Nat} {s t : State} (h : OnlyLookup k s t) (core a : Nat) :
    (t.gang ((t.gangOfCore core).getD 0)).gone a = (s.gang ((s.gangOfCore core).getD 0)).gone a := by
  rw [h.1]
  rfl

/-! ## The end of a dispatch (R94, R351) -/

/-- A context at the first instruction of the block with a header. -/
def Ctx.placed (c : Ctx) (addr : Nat) (h : Word) : Ctx := { c.entered with pc := mkPc 0 addr, hdr := h, mode := .ready }

section
variable {s : State} {k addr : Nat}

theorem enterBlock_outside (h : (s.ctx k).inCode addr = false) : s.enterBlock k addr = .error (5, BitVec.ofNat 64 addr, s) := by
  simp [State.enterBlock, h]

theorem enterBlock_enters (hin : (s.ctx k).inCode addr = true) (hal : addr % 8 = 0)
    (hgone : (s.gang ((s.gangOfCore (coreOfCtx k)).getD 0)).gone addr = false) (hh : headerOk (s.fetch (coreOfCtx k) addr).1 = true) :
    s.enterBlock k addr = .ok ((s.fetch (coreOfCtx k) addr).2.updCtx k (·.placed addr (s.fetch (coreOfCtx k) addr).1)) := by
  simp only [State.enterBlock, hin, hal, hgone, hh]
  rfl

theorem applyAction_jump {key act : Word} (h : actKind act = 1) :
    s.applyAction k key act = s.enterBlock k (s.arenaBase k + 8 * actTarget act) := by
  simp only [State.applyAction, h]

theorem exitCtx_ctx (s : State) (k : Nat) (reason : BitVec 3) (notice : Option (BitVec 5)) :
    (s.exitCtx k reason notice).ctx k = { s.ctx k with mode := .exiting reason notice, hold := [] } := by
  simp [State.exitCtx, State.endSeq]

theorem failDispatch_helper (h : ctxNo k ≠ 0) : s.failDispatch k = s.exitCtx k 3 none := if_neg h
end

/-- What the outcome of a trap's action comes to (R351). -/
def afterAction (k : Nat) : Except (BitVec 8 × Word × State) State → State
  | .ok t => t
  | .error e => e.2.2.failDispatch k

/-! ## The dispatch of a trap -/

/-- The state in which a trap is looked up: its registers are written and its recording is suspended (R350). -/
def State.trapped (s : State) (k : Nat) (cause : BitVec 8) (bend : Bool) (tval : Word) (tinfo : BitVec 8) : State :=
  (s.updCtx k fun v => v.trapRegs cause bend tval v.pc tinfo).suspendRecording k

section
variable (s : State) (k : Nat) (cause : BitVec 8) (bend : Bool) (tval : Word) (tinfo : BitVec 8)

theorem trapped_ctx : (s.trapped k cause bend tval tinfo).ctx k = (s.ctx k).trapRegs cause bend tval (s.ctx k).pc tinfo := by
  simp [State.trapped, State.suspendRecording]

theorem takeTrap_eq {use : BitVec 16 × YardGen × State} (huse : use = (s.trapped k cause bend tval tinfo).yardUse k (s.ctx k).tyard false)
    {key : Word} (hkey : key = ((if bend then 0x8000 else 0) ||| cause.zeroExtend 16 : BitVec 16).zeroExtend 64) :
    s.takeTrap k cause bend tval tinfo =
      if !use.2.1.bad.isEmpty then use.2.2.containEvent (coreOfCtx k) 3
      else afterAction k (use.2.2.applyAction k key (use.2.1.lookup key)) := by
  have trapTable : ((s.trapped k cause bend tval tinfo).ctx k).tyard = (s.ctx k).tyard := by rw [trapped_ctx]; rfl
  have trapCause : ((s.trapped k cause bend tval tinfo).ctx k).tcause = ((if bend then 0x8000 else 0) ||| cause.zeroExtend 16) := by
    rw [trapped_ctx]
    rfl
  have dispatched : s.takeTrap k cause bend tval tinfo = (s.trapped k cause bend tval tinfo).dispatch k := rfl
  rw [dispatched, State.dispatch, trapTable, trapCause, huse, hkey]
  rfl
end

/-- Settles O7: the lookup, and the block or the retirement that its action gives. -/
theorem trapEntrySavesAndDispatches : Obligations.TrapEntrySavesAndDispatches := by
  intro s k cause bend tval tinfo c s1 use act addr t
  have taken := takeTrap_eq s k cause bend tval tinfo (use := use) rfl rfl
  have lookup : OnlyLookup k s1 use.2.2 := onlyLookup_yardUse ..
  obtain ⟨seen, hctx⟩ := lookup.2
  rw [show s1.ctx k = c.trapRegs cause bend tval c.pc tinfo from trapped_ctx ..] at hctx
  have inCode : (use.2.2.ctx k).inCode addr = c.inCode addr := by rw [hctx]; rfl
  have base : use.2.2.arenaBase k = s.arenaBase k := lookup.arenaBase k
  refine ⟨fun hbad => taken.trans (if_pos (by simpa using hbad)), fun hbad hjump => ?_⟩
  have jumped : t = afterAction k (use.2.2.enterBlock k addr) := by
    refine (taken.trans (if_neg (by simp [hbad]))).trans ?_
    rw [applyAction_jump hjump, base]
  refine ⟨fun hin hal hgone hh => ?_, fun hout hhelper => ?_⟩
  · have there : t = (use.2.2.fetch (coreOfCtx k) addr).2.updCtx k (·.placed addr (use.2.2.fetch (coreOfCtx k) addr).1) := by
      rw [jumped, enterBlock_enters (inCode.trans hin) hal ((lookup.gone ..).trans hgone) hh]
      rfl
    have placed : t.ctx k = (use.2.2.ctx k).placed addr (use.2.2.fetch (coreOfCtx k) addr).1 := by
      rw [there, State.ctx_updCtx_self, State.ctx, State.fetch_ctxs]
      rfl
    have mem : t.ord.mem = s.ord.mem := by
      rw [there, State.updCtx_ord, State.fetch_mem, lookup.mem]
      rfl
    rw [placed, hctx]
    exact ⟨rfl, rfl, rfl, rfl, rfl, rfl, rfl, rfl, rfl, rfl, rfl, rfl, rfl, rfl, rfl, sameBytes_of_mem mem⟩
  · rw [jumped, enterBlock_outside (inCode.trans hout), afterAction, failDispatch_helper hhelper, exitCtx_ctx, hctx]
    exact ⟨rfl, rfl⟩

end Sys2Proof.Machine

/-! SUPPORT. An issue turn: the choice of a context, the fetch of its instruction and its meaning (R40, R45, R54, R109, R111, R343). -/
namespace Sys2Proof.Machine

/-! ## What the beginning of a turn leaves (R106, R109, R336) -/

/-- Misses that join the queue change the walks alone. -/
theorem queueMisses_frame (s : State) (core : Nat) :
    s.queueMisses core = { s with ord := { s.ord with walks := (s.queueMisses core).ord.walks } } := by
  unfold State.queueMisses
  refine List.foldlRecOn _ _ (motive := fun t : State => t = { s with ord := { s.ord with walks := t.ord.walks } }) rfl fun t ht k _ => ?_
  split
  · rw [ht]
    rfl
  · exact ht

/-- The count of an issue is in the gang's record alone. -/
theorem countIssue_frame (s : State) (core : Nat) : s.countIssue core = { s with gangs := (s.countIssue core).gangs } := by
  unfold State.countIssue
  split <;> rfl

theorem countIssue_core (s : State) (core c : Nat) : (s.countIssue core).core c = s.core c := by
  rw [countIssue_frame]
  rfl

theorem begin_cur (s : State) (core k : Nat) : (s.begin_ core k).cur = k := by
  unfold State.begin_
  rw [countIssue_frame]
  rfl

theorem begin_ptr (s : State) (core k : Nat) : ((s.begin_ core k).core core).ptr = ctxNo k := by
  rw [State.begin_, countIssue_core, State.core_updCore_self]

/-! ## The fetch (R45, R54, R343) -/

theorem fetchNext_instr {s : State} {k : Nat} {a : Nat} (ha : a = pcAddr (s.ctx k).pc)
    (hgone : (s.gang ((s.gangOfCore (coreOfCtx k)).getD 0)).gone (pcBlock (s.ctx k).pc) = false)
    (hin : (s.ctx k).inBlockCode a = true) (hex : s.exists_ a = true) :
    s.fetchNext k = .instr (decodeWord (s.fetch (coreOfCtx k) a).1) (s.fetch (coreOfCtx k) a).2 := by
  subst ha
  have decoded := decode_wordBytes (s.fetch (coreOfCtx k) (pcAddr (s.ctx k).pc)).1 []
  rw [List.append_nil] at decoded
  simp only [State.fetchNext, hgone, hin, hex, decoded, Bool.not_true, Bool.false_eq_true, if_false]

/-! ## The units that an instruction takes (R111, R211, R314) -/

@[simp] theorem useUnits_cur (s : State) (core k : Nat) (i : Instr) : (s.useUnits core k i).cur = s.cur := by
  unfold State.useUnits
  split
  · rfl
  · split <;> rfl
@[simp] theorem useUnits_ctxs (s : State) (core k : Nat) (i : Instr) : (s.useUnits core k i).ctxs = s.ctxs := by
  unfold State.useUnits
  split
  · rfl
  · split <;> rfl
@[simp] theorem narrowAhead_cur (s : State) (k : Nat) (i : Instr) : (s.narrowAhead k i).cur = s.cur := by
  unfold State.narrowAhead
  split
  · rfl
  · split <;> rfl

/-- The issue turn of a core whose chosen context's location can be fetched. -/
theorem step_issue {s : State} {core k : Nat} {rest : List Turn} (hturns : s.turns = .issue core :: rest)
    (hpick : ({ s with turns := rest } : State).pick core = some k) {u : State} (hu : u = ({ s with turns := rest } : State).begin_ core k)
    {i : Instr} {t : State} (hfetch : u.fetchNext k = .instr i t) :
    step s = settled (some ((t.useUnits core k i).narrowAhead k i).cur) (exec i ((t.useUnits core k i).narrowAhead k i)) := by
  have prepared : ({ s with turns := rest } : State).prepare core = .run i ((t.useUnits core k i).narrowAhead k i) := by
    rw [State.prepare, hpick]
    dsimp only
    rw [← hu, hfetch]
  rw [step_of_turn hturns, stepTurn, stepIssue, prepared]

/-- Settles O8: the turn begins, the location is fetched, and the instruction runs. -/
theorem stepRunsTheInstructionAtTheContextsLocation : Obligations.StepRunsTheInstructionAtTheContextsLocation := by
  intro s core rest hturns k hpick u a
  refine ⟨begin_cur .., begin_ptr .., fun hgone hin hex => ?_⟩
  have current : (((u.fetch (coreOfCtx k) a).2.useUnits core k (decodeWord (u.fetch (coreOfCtx k) a).1)).narrowAhead k
      (decodeWord (u.fetch (coreOfCtx k) a).1)).cur = k := by
    rw [narrowAhead_cur, useUnits_cur, State.fetch_cur]
    exact begin_cur ..
  have ran := step_issue hturns hpick (u := u) rfl (fetchNext_instr rfl hgone hin hex)
  rwa [current] at ran

end Sys2Proof.Machine

/-! SUPPORT. An instruction placed in the state after reset is the next that issues. -/
namespace Sys2Proof.Machine

/-! ## Nothing stalls before anything has run -/

/-- Does an effect leave its context STALLED? -/
def Eff.stalls : Eff → Bool
  | .stall _ => true
  | _ => false

/-- Nothing has run yet in the executing context: its registers read 0, no function is configured, and no unit of its core holds work. -/
structure Fresh (s : State) : Prop where
  regs : ∀ r, s.rx r = 0
  cfg : ∀ v, (s.vf v).cfg = none
  ops : s.me.ops = []
  tiles : (s.core s.myCore).tiles = []
  grammar : (s.core s.myCore).grammar = none

section
variable {i : Instr} {s : State} {eff : Eff}

theorem stalls_ite {p : Prop} [Decidable p] {e : Eff} (h : eff.stalls = false) (he : e.stalls = false) :
    (if p then eff else e).stalls = false := by
  split
  · exact h
  · exact he
theorem stalls_counted {count : Ctx → BitVec 8} (h : eff.stalls = false) : (counted i s count eff).stalls = false := by
  rw [counted]; split
  · rfl
  · exact h
theorem stalls_aligned {ea : Word} {n : Nat} (h : eff.stalls = false) : (aligned ea n eff).stalls = false := by
  rw [aligned]; split
  · exact h
  · rfl
theorem stalls_holdUnless {ok : Bool} (h : eff.stalls = false) : (holdUnless ok i s eff).stalls = false := by
  rw [holdUnless]; split
  · exact h
  · rfl
theorem stalls_stallUnless {ok : Bool} (hok : ok = true) (h : eff.stalls = false) : (stallUnless ok s eff).stalls = false := by
  rw [stallUnless, if_pos hok]; exact h

variable (F : Fresh s)
include F

/-- No walk begins where no function has tables. -/
theorem Fresh.translate_error {k : Nat} {va : Word} {wr : Bool} {r : Nat} (h : s.translate k va wr = .error r) : r ≠ walkWaits := by
  rw [State.translate, State.translateFor, F.cfg] at h
  rintro rfl
  split at h
  · cases h
  · split at h <;> cases h
theorem Fresh.translate_zero (k : Nat) (wr : Bool) : s.translate k 0 wr = .error 1 := by
  rw [State.translate, State.translateFor, F.cfg, if_neg (by decide), if_neg (by decide)]
/-- What translates lies in the scratchpad window, and fills no cache. -/
theorem Fresh.hit_st {k : Nat} {va : Word} {wr : Bool} {h : Hit} (ht : s.translate k va wr = .ok h) : h.st = s := by
  rw [State.translate, State.translateFor, F.cfg] at ht
  by_cases hp : Config.padWindow ≤ va.toNat
  · rw [if_pos hp] at ht
    exact congrArg Hit.st (Except.ok.inj ht).symm
  · rw [if_neg hp] at ht
    split at ht <;> cases ht
theorem Fresh.withHit {va : Word} {wr : Bool} {k : Hit → Eff} (h : ∀ g, g.st = s → (k g).stalls = false) :
    (withHit s va wr k).stalls = false := by
  rcases ht : s.translate s.cur va wr with r | g
  · rw [withHit_of_error ht, if_neg (F.translate_error ht)]; rfl
  · rw [withHit_of_ok ht]; exact h g (F.hit_st ht)
theorem Fresh.syncLoad (k n : Nat) : s.syncLoad k 0 (n + 1) = .fault 0 1 s := by
  rw [State.syncLoad, State.syncPart, F.translate_zero]; rfl
theorem Fresh.bind {n k : Nat} {va : Word} (hva : va = 0) {f : List Word → State → Eff} :
    (Sync.bind s (s.syncLoad k va (n + 1)) f).stalls = false := by
  rw [hva, F.syncLoad]; rfl

theorem Fresh.tileRun {n : Nat} {check : State → Option Word} {f : TF} : (tileRun n i check f s).stalls = false := by
  rw [Machine.tileRun]
  split
  · rfl
  · split
    · rfl
    · refine stalls_counted (stalls_stallUnless ?_ rfl)
      rw [F.tiles]; rfl
theorem Fresh.engineRun {n : Nat} {f : RR} : (engineRun n i f s).stalls = false :=
  stalls_counted (stalls_aligned (F.bind (F.regs _)))
theorem Fresh.withGrammar {k : Grammar → Eff} : withGrammar s k = .trap 20 0 0 := by
  rw [Machine.withGrammar, F.grammar]

theorem Fresh.load {f : MF} {sext acq : Bool} : (loadEff i f sext acq s).stalls = false :=
  stalls_counted (stalls_aligned (F.withHit fun _ _ => rfl))
theorem Fresh.store {f : MF} {rel : Option (BitVec 3)} : (storeEff i f rel s).stalls = false :=
  stalls_counted (stalls_aligned (F.withHit fun _ _ => rfl))
theorem Fresh.amo {fn : AmoFn} {f : MF} : (amoEff fn i f s).stalls = false :=
  stalls_counted (stalls_aligned (F.withHit fun _ _ => rfl))
theorem Fresh.red {fn : AmoFn} {f : MF} : (redRun fn i f s).stalls = false :=
  stalls_counted (stalls_aligned (F.withHit fun _ _ => rfl))
theorem Fresh.vldRaw {f : MF} : (vldRawEff i f s).stalls = false := by
  rw [vldRawEff]; split
  · rfl
  · exact stalls_counted (stalls_aligned (F.withHit fun _ _ => rfl))
theorem Fresh.vst {f : MF} : (vstEff i f s).stalls = false := by
  rw [vstEff]; split
  · rfl
  · exact stalls_counted (stalls_aligned (F.withHit fun _ _ => rfl))
theorem Fresh.decLoad {f : MF} {m : BitVec 16} {ea : Word} {p : PageFmt} {h : Hit} (hst : h.st = s) : (decLoad f m ea p s h).stalls = false := by
  rw [Machine.decLoad, hst]; split
  · refine F.withHit fun g hg => ?_
    rw [hg]; split
    · rfl
    · exact F.withHit fun _ _ => rfl
  · rfl
theorem Fresh.vld {f : MF} : (vldEff i f s).stalls = false := by
  rw [vldEff]; split
  · rfl
  · refine stalls_counted (F.withHit fun g hg => ?_)
    dsimp only
    split
    · rfl
    · split
      · rfl
      · split
        · split
          · rfl
          · exact stalls_aligned (F.decLoad hg)
        · exact stalls_aligned rfl
theorem Fresh.line {f : MF} {inval : Bool} : (lineEff i f inval s).stalls = false := by
  refine stalls_counted ?_
  rcases ht : s.translate s.cur (MF.ea f s) false with r | g
  · dsimp only; rw [if_neg (F.translate_error ht)]; rfl
  · dsimp only; split <;> rfl
theorem Fresh.pref {f : MF} : (prefEff f s).stalls = false := by
  rw [prefEff]
  rcases ht : s.translate s.cur (MF.ea f s) false with r | g
  · dsimp only; rw [if_neg (F.translate_error ht)]; rfl
  · rfl
omit F in
theorem stalls_tagged {f : MF} {count : Ctx → BitVec 8} {k : Nat → Eff} (h : ∀ loc, (k loc).stalls = false) :
    (tagged i f s count k).stalls = false := by
  rw [tagged]; split
  · rfl
  · exact stalls_aligned (stalls_counted (h _))
omit F in
theorem stalls_consume {f : MF} {empty : Bool} : (consumeEff i f empty s).stalls = false := by
  refine stalls_tagged fun loc => stalls_holdUnless ?_
  split <;> rfl
omit F in
theorem stalls_fill {f : MF} : (fillEff i f s).stalls = false := stalls_tagged fun _ => stalls_holdUnless rfl
omit F in
theorem stalls_setFull {f : MF} : (setFullEff i f s).stalls = false := stalls_tagged fun _ => rfl
omit F in
theorem stalls_tag {f : MF} {full : Bool} : (tagEff i f full s).stalls = false := stalls_tagged fun _ => rfl
omit F in
theorem stalls_send {f : XF} {data : Quad} : (sendEff i f data s).stalls = false := by
  rw [sendEff]; dsimp only; split
  · rfl
  · exact stalls_counted rfl
omit F in
theorem stalls_start {tries : Bool} {f : RR} : (startEff i tries f s).stalls = false := by
  rw [startEff]; dsimp only; repeat' split
  all_goals rfl
end

/-- No instruction stalls there: no unit is busy and no walk begins, so it completes, traps or sleeps. -/
theorem Fresh.no_stall {s : State} (F : Fresh s) (i : Instr) : (sleepingEff i s).stalls = false := by
  cases i with
  | gmStep f | gmMask f | gmForce f | gmReset f | gmSt f => exact congrArg Eff.stalls F.withGrammar
  | tzero f => exact F.tileRun (n := 0) (i := .tzero f) (check := fun _ => none) (f := f)
  | tmma f | gmma f | tdrain f | tdrainColl f => exact F.tileRun
  | copy f | copy2 f | get f | put f | puta f | wsig f | digest f => exact F.engineRun
  | ld f | ldu f | ldAcq f => exact F.load
  | st f | stRel f => exact F.store
  | vld f => exact F.vld
  | vldRaw f => exact F.vldRaw
  | vst f => exact F.vst
  | ldF f | ldFe f => exact stalls_consume
  | stEf f => exact stalls_fill
  | stF f => exact stalls_setFull
  | tagSet f | tagClr f => exact stalls_tag
  | pref f => exact F.pref
  | flush f | inv f => exact F.line
  | amoAdd f | amoAnd f | amoOr f | amoXor f | amoMin f | amoMax f | amoMinu f | amoMaxu f | amoSwap f | amoCas f => exact F.amo
  | redAdd f | redAnd f | redOr f | redXor f | redMin f | redMax f | redMinu f | redMaxu f => exact F.red
  | sendr f | sendrV f => exact stalls_send
  | start f | startTry f => exact stalls_start
  | yardRd f =>
    refine stalls_ite rfl (stalls_stallUnless ?_ (stalls_ite rfl rfl))
    rw [F.ops]; rfl
  | waita f =>
    refine stalls_counted (stalls_aligned (F.withHit fun _ _ => ?_))
    dsimp only
    repeat' split
    all_goals rfl
  | eccInj f =>
    dsimp only [sleepingEff, effEccInj]
    rw [F.cfg]; rfl
  | collStart f => exact stalls_counted (stalls_aligned (F.bind (F.regs _)))
  | buoy f =>
    dsimp only [sleepingEff, effBuoy]
    repeat' split
    · rfl
    · rfl
    · rfl
    · refine stalls_holdUnless (F.withHit fun _ _ => ?_)
      split <;> rfl
  | buoySeal f =>
    dsimp only [sleepingEff, effBuoySeal]
    rw [F.regs f.a, if_neg (by decide), withHit_of_error (F.translate_zero ..)]; rfl
  | cvtT f =>
    dsimp only [sleepingEff, effCvtT]
    repeat' split
    · rfl
    · rfl
    · rfl
    · exact stalls_counted rfl
  | cbkLd f =>
    dsimp only [sleepingEff, effCbkLd]
    rw [F.regs f.b, if_neg (by decide), F.regs f.a, if_neg (by decide)]
    exact F.bind rfl
  | gmCfg f =>
    dsimp only [sleepingEff, effGmCfg]
    rw [F.regs f.a, if_neg (by decide)]
    exact F.bind rfl
  | yardWe f | yardWf f | yardCmt f | yardPin f | yardUnpin f | yardGen f | halt f | stop f | mtake f | mpeek f | mclr f | clkRd f 
  | clkReq f | clkAck f | pwrRd f | tlbinv f | icinv f | semP f | semV f | semRd f | seqBeg f | seqLoop f | seqEnd f | seqWait f | srd f 
  | eret f | wait f | bar f | ccntRd f | ccntWait f | collWait f | lhSt f | zset f | zclr f | amaxRd f | amaxClr f | cbkRd f => 
    dsimp only [sleepingEff, counted, holdUnless, effYardWe, effYardWf, effYardCmt, effYardPin, effYardUnpin, effYardGen, effHalt, effStop,
      effMtake, effMpeek, effMclr, effClkRd, effClkReq, effClkAck, effPwrRd, effTlbinv, effIcinv, effSemP, effSemV, effSemRd, effSeqBeg,
      effSeqLoop, effSeqEnd, effSeqWait, effSrd, effEret, effWait, effBar, effCcntRd, effCcntWait, effCollWait, effLhSt, effZset, effZclr,
      effAmaxRd, effAmaxClr, effCbkRd]
    repeat' split
    all_goals rfl
  | _ => rfl

/-! ## The placed instruction (assumption 3) -/

/-- The state in which an instruction is placed on a core, with its word and its block's header, and no turn listed. -/
def placedOn (core : Nat) (hdr word : Word) : State :=
  let put (m : Memory) : Memory := Memory.setDword (Memory.setDword m placedBlock 0xFF hdr) (placedBlock + 8) 0xFF word
  let s1 := State.reset.setMemQ 0 (put (State.reset.memQ 0))
  let s2 := (s1.updShed 0 fun d => { d with gang := some 1, withdrawn := false }).setQuarter 0 { s1.quarterAt 0 with up := true }
  let s3 := s2.setGang 1 { Gang.reset with state := .resident }
  let s4 := s3.updCore core fun c => { c with
    ptr := 10, contained := none, seq := .reset, divider := none, vecDivider := none
    icache := Table.put (c.icache.del placedBlock) (placedBlock + 8) word }
  s4.updCtx (11 * core) fun c => { c with
    mode := .ready, pc := mkPc 0 placedBlock, hdr := hdr, cbase := 0, cbound := 0x1000, inBase := 0, inBound := 0x1000, hold := [], ops := []
    fences := [], seen := [], mismatch := 0, replay := false, passed := none, ahead := none }

/-- The context at a placed instruction. -/
def placedCtx (hdr : Word) : Ctx :=
  { Ctx.reset with
    mode := .ready, pc := mkPc 0 placedBlock, hdr := hdr, cbase := 0, cbound := 0x1000, inBase := 0, inBound := 0x1000, hold := [], ops := []
    fences := [], seen := [], mismatch := 0, replay := false, passed := none, ahead := none }

/-- The core on which an instruction is placed. -/
def placingCore (i : Instr) : Nat := (roleNeeded i).getD 0

theorem withFetchWord_reset (w : Word) : State.reset.withFetchWord 64 w.toNat =
    { placedOn (placingCore (decodeWord w)) (placedHeader (decodeWord w)) w with turns := [.issue (placingCore (decodeWord w))] } := by
  have word : BitVec.ofNat 64 (w.toNat % 2 ^ 64) = w := by
    rw [Nat.mod_eq_of_lt w.isLt]; exact BitVec.ofNat_toNat ..
  have decoded : decodeTableWord 64 w.toNat = some (decodeWord w) := by
    have h := decode_wordBytes w []
    rw [List.append_nil] at h
    rw [decodeTableWord, word, h]
  rw [State.withFetchWord, decoded]
  dsimp only
  rw [word]
  rfl

theorem roleNeeded_le (i : Instr) : placingCore i ≤ 2 := by
  unfold placingCore roleNeeded
  split <;> decide

section
variable {core : Nat} (hcore : core ≤ 2) (hdr word : Word)
include hcore

theorem placedOn_ctx : (placedOn core hdr word).ctx (11 * core) = placedCtx hdr := by
  interval_cases core <;> rfl
theorem placedOn_core : (placedOn core hdr word).core core = { State.reset.core core with
    ptr := 10, contained := none, seq := .reset, divider := none, vecDivider := none
    icache := Table.put ((State.reset.core core).icache.del placedBlock) (placedBlock + 8) word } := by
  interval_cases core <;> rfl

theorem placedOn_idle : ((placedOn core hdr word).core core).tiles = [] ∧ ((placedOn core hdr word).core core).grammar = none := by
  rw [placedOn_core hcore]
  interval_cases core <;> exact ⟨rfl, rfl⟩

omit hcore in
theorem coreOfCtx_control : coreOfCtx (11 * core) = core := Nat.mul_div_cancel_left core (by decide)

/-- A context with no work before it in an idle core. -/
theorem placedOn_fresh : Fresh { placedOn core hdr word with cur := 11 * core } where
  regs r := by
    show ((placedOn core hdr word).ctx (11 * core)).rx r = 0
    rw [placedOn_ctx hcore, Ctx.rx]
    split
    · rfl
    · exact Vector.getElem_replicate _
  cfg v := by
    have h : (placedOn core hdr word).vfs = State.reset.vfs := by interval_cases core <;> rfl
    show (Table.getD (placedOn core hdr word).vfs v _).cfg = none
    rw [h]; rfl
  ops := by
    show ((placedOn core hdr word).ctx (11 * core)).ops = []
    rw [placedOn_ctx hcore]; rfl
  tiles := by
    show ((placedOn core hdr word).core (coreOfCtx (11 * core))).tiles = []
    rw [coreOfCtx_control]; exact (placedOn_idle hcore hdr word).1
  grammar := by
    show ((placedOn core hdr word).core (coreOfCtx (11 * core))).grammar = none
    rw [coreOfCtx_control]; exact (placedOn_idle hcore hdr word).2

theorem placedOn_runs : (placedOn core hdr word).coreRuns core = true := by interval_cases core <;> rfl
theorem placedOn_next : (placedOn core hdr word).next = 1 := by interval_cases core <;> rfl
theorem placedOn_mayMove (o : Op) (h : o = lookAs 1 ∨ o = moveAs 1) : (placedOn core hdr word).mayMove (11 * core) o = true := by
  rcases h with rfl | rfl <;> interval_cases core <;> rfl
theorem placedOn_sleepers : (placedOn core hdr word).sleepers = [] := by interval_cases core <;> rfl

theorem placedOn_mayIssue (i : Instr) : (placedOn core hdr word).mayIssue (11 * core) i = true := by
  unfold State.mayIssue
  rw [placedOn_next hcore]
  split
  · rfl
  · exact placedOn_mayMove hcore hdr word _ (.inl rfl)
  · exact placedOn_mayMove hcore hdr word _ (.inr rfl)

theorem placedOn_operandsReady (i : Instr) : (placedOn core hdr word).operandsReady (11 * core) i = true := by
  rw [State.operandsReady, coreOfCtx_control, placedOn_ctx hcore, placedOn_core hcore]
  simp [placedCtx, Ctx.operandsReady, Ctx.awaited, Core.computing]

theorem placedOn_stalls (i : Instr) : (placedOn core hdr word).stalls (11 * core) i = false := by
  have h := (placedOn_fresh hcore hdr word).no_stall i
  rw [State.stalls, State.stallOf]
  split
  · rfl
  · split
    · rename_i hs
      rw [hs] at h; cases h
    · rfl

omit hcore in
theorem fetch_of_hit {s : State} {core a : Nat} {w : Word} (h : (s.core core).icache.get? a = some w) : s.fetch core a = (w, s) := by
  rw [State.fetch, h]
omit hcore in
theorem placedCtx_at : pcAddr (placedCtx hdr).pc = placedBlock + 8 := by
  show pcAddr (mkPc 0 placedBlock) = placedBlock + 8
  decide
omit hcore in
theorem placedCtx_inBlockCode : (placedCtx hdr).inBlockCode (placedBlock + 8) = true := by
  rw [Ctx.inBlockCode]
  show (decide ((0 : Word).toNat * 8 ≤ placedBlock + 8) && decide (placedBlock + 8 < (0x1000 : Word).toNat * 8)) = true
  decide

omit hcore in
/-- The fetch of the placed instruction, from any state with its context, its line in the cache and nothing freed. -/
theorem fetchNext_placed {s : State} (hctx : s.ctx (11 * core) = placedCtx hdr)
    (hline : (s.core core).icache.get? (placedBlock + 8) = some word)
    (hgone : (s.gang ((s.gangOfCore core).getD 0)).freed = []) (hex : s.exists_ (placedBlock + 8) = true) :
    s.fetchNext (11 * core) = .instr (decodeWord word) s := by
  have at_ : placedBlock + 8 = pcAddr (s.ctx (11 * core)).pc := by rw [hctx, placedCtx_at]
  have h := fetchNext_instr at_ (by rw [coreOfCtx_control, Gang.gone, hgone]; rfl) (by rw [hctx, placedCtx_inBlockCode]) hex
  rwa [coreOfCtx_control, fetch_of_hit hline] at h

theorem placedOn_fetchNext : (placedOn core hdr word).fetchNext (11 * core) = .instr (decodeWord word) (placedOn core hdr word) := by
  refine fetchNext_placed hdr word (placedOn_ctx hcore hdr word) ?_ ?_ ?_ <;> interval_cases core <;> rfl

theorem placedOn_isReady : (placedOn core hdr word).isReady (11 * core) = true := by
  have idle : (State.reset.core core).vecLast = none := by interval_cases core <;> rfl
  have quiet : ∀ i, (placedOn core hdr word).sleeperFirst core i = false := fun i => by
    unfold State.sleeperFirst
    rw [placedOn_sleepers hcore]
    split <;> simp
  have undivided : ∀ i, ((placedOn core hdr word).core core).dividing i = false := fun i => by
    rw [placedOn_core hcore, Core.dividing]
    split <;> rfl
  rw [State.isReady, placedOn_fetchNext hcore, coreOfCtx_control]
  dsimp only
  rw [placedOn_mayIssue hcore, placedOn_operandsReady hcore, placedOn_stalls hcore, placedOn_runs hcore, quiet, undivided, placedOn_ctx hcore,
    placedOn_core hcore]
  dsimp only
  rw [idle]
  simp [placedCtx, Sequencer.reset]

theorem placedOn_pick : (placedOn core hdr word).pick core = some (11 * core) := by
  have first : (placedOn core hdr word).canIssue (11 * core) = true := by
    rw [State.canIssue, placedOn_isReady hcore, placedOn_ctx hcore]
    rfl
  have ptr : ((placedOn core hdr word).core core).ptr = 10 := by rw [placedOn_core hcore]
  have order : List.range 11 = 0 :: (List.range 10).map (· + 1) := rfl
  have next : 11 * core + (10 + 1 + 0) % 11 = 11 * core := rfl
  rw [State.pick, ptr, order, List.map_cons, next]
  exact List.find?_cons_of_pos first

/-! ## The turn of the placed instruction -/

/-- What the beginning of a turn changes of the placed state. -/
def placedBegun (core : Nat) (hdr word : Word) (walks : List Walk) : State :=
  let p := placedOn core hdr word
  (({ p with ord := { p.ord with walks := walks }, cur := 11 * core } : State).updCore core fun c => { c with ptr := ctxNo (11 * core) }).countIssue core

omit hcore in
theorem begin_placedOn : ∃ walks, (placedOn core hdr word).begin_ core (11 * core) = placedBegun core hdr word walks := by
  obtain ⟨walks, h⟩ : ∃ walks, (placedOn core hdr word).queueMisses core =
      { placedOn core hdr word with ord := { (placedOn core hdr word).ord with walks := walks } } := ⟨_, queueMisses_frame ..⟩
  refine ⟨walks, ?_⟩
  rw [State.begin_, h]
  rfl

theorem placedBegun_fetchNext (walks : List Walk) :
    (placedBegun core hdr word walks).fetchNext (11 * core) = .instr (decodeWord word) (placedBegun core hdr word walks) := by
  refine fetchNext_placed hdr word ?_ ?_ ?_ ?_ <;> interval_cases core <;> rfl

omit hcore in
@[simp] theorem useUnits_turns (s : State) (k : Nat) (i : Instr) : (s.useUnits core k i).turns = s.turns := by
  unfold State.useUnits
  split
  · rfl
  · split <;> rfl
omit hcore in
theorem narrowAhead_of_none {s : State} {k : Nat} {i : Instr} (h : (s.ctx k).ahead = none) : s.narrowAhead k i = s := by
  rw [State.narrowAhead, h]

theorem placedBegun_ctx (walks : List Walk) : (placedBegun core hdr word walks).ctx (11 * core) = placedCtx hdr := by
  interval_cases core <;> rfl
theorem placedBegun_turns (walks : List Walk) : (placedBegun core hdr word walks).turns = [] := by interval_cases core <;> rfl
omit hcore in
theorem placedBegun_cur (walks : List Walk) : (placedBegun core hdr word walks).cur = 11 * core := by
  rw [placedBegun, countIssue_frame]; rfl
omit hcore in
theorem placedCtx_index : pcIndex (placedCtx hdr).pc = 0 := by
  show pcIndex (mkPc 0 placedBlock) = 0
  decide
end

/-- Settles O15: the placed context is the first that may issue, its fetch delivers the word, and no other turn is listed. -/
theorem placedInstructionIsTheOneThatRuns : Obligations.PlacedInstructionIsTheOneThatRuns := by
  intro w s
  obtain ⟨core, hc⟩ : ∃ core, placingCore (decodeWord w) = core := ⟨_, rfl⟩
  obtain ⟨hdr, hh⟩ : ∃ hdr, placedHeader (decodeWord w) = hdr := ⟨_, rfl⟩
  have hcore : core ≤ 2 := hc ▸ roleNeeded_le _
  have hs : s = { placedOn core hdr w with turns := [.issue core] } := by rw [← hc, ← hh]; exact withFetchWord_reset w
  have rest : ({ s with turns := [] } : State) = placedOn core hdr w := by
    rw [hs]
    interval_cases core <;> rfl
  obtain ⟨walks, begun⟩ := begin_placedOn (core := core) hdr w
  have ctx : (((placedBegun core hdr w walks).useUnits core (11 * core) (decodeWord w))).ctx (11 * core) = placedCtx hdr := by
    rw [← placedBegun_ctx hcore hdr w walks, State.ctx, useUnits_ctxs]; rfl
  have ran := step_issue (by rw [hs]) (rest ▸ placedOn_pick hcore hdr w) rfl (by rw [rest, begun]; exact placedBegun_fetchNext hcore hdr w walks)
  rw [narrowAhead_of_none (by rw [ctx]; rfl)] at ran
  refine ⟨_, ran, ?_, ?_, ?_, ?_⟩
  · rw [State.me, useUnits_cur, placedBegun_cur, ctx]; rfl
  · rw [State.me, useUnits_cur, placedBegun_cur, ctx]; rfl
  · rw [useUnits_turns, placedBegun_turns hcore]
  · rw [State.me, useUnits_cur, placedBegun_cur, ctx, placedCtx_index]
end Sys2Proof.Machine

/-! SUPPORT. Lanes of a vector register: what a write of some lanes leaves, and the effects built on it (R214 to R227). -/
namespace Sys2Proof.Machine
open Sys2Proof.Claims

/-! ## Bits -/

/-- Bits [lo+n-1:lo] come from the number put there, every other bit is the register's own. -/
theorem getLsbD_putBits (v : Quad) (lo n x j : Nat) (hj : j < 128) :
    (putBits v lo n x).getLsbD j = if lo ≤ j ∧ j < lo + n then x.testBit (j - lo) else v.getLsbD j := by
  have mask : ((2 ^ n - 1) * 2 ^ lo).testBit j = decide (lo ≤ j ∧ j < lo + n) := by
    rw [Nat.testBit_mul_two_pow, Nat.testBit_two_pow_sub_one]
    by_cases h : lo ≤ j <;> simp [h]; omega
  have value : (x % 2 ^ n * 2 ^ lo).testBit j = (decide (lo ≤ j ∧ j < lo + n) && x.testBit (j - lo)) := by
    rw [Nat.testBit_mul_two_pow, Nat.testBit_mod_two_pow]
    by_cases h : lo ≤ j
    · have : (j - lo < n) ↔ (j < lo + n) := by omega
      simp [h, this]
    · simp [h]
  rw [putBits, BitVec.getLsbD_or, BitVec.getLsbD_and, BitVec.getLsbD_not, BitVec.getLsbD_ofNat, BitVec.getLsbD_ofNat, mask, value]
  by_cases h : lo ≤ j ∧ j < lo + n <;> simp [h, hj]

/-- Bit i of a sum of the powers of two that a test picks out. -/
theorem testBit_bitsOf (f : Nat → Bool) (n i : Nat) : (bitsOf n f).testBit i = (decide (i < n) && f i) := by
  have bound : ∀ n, bitsOf n f < 2 ^ n ∧ ∀ i, (bitsOf n f).testBit i = (decide (i < n) && f i) := fun n => by
    induction n with
    | zero => exact ⟨Nat.one_pos, fun i => by simp [bitsOf]⟩
    | succ n ih =>
      obtain ⟨small, bits⟩ := ih
      have step : bitsOf (n + 1) f = if f n then bitsOf n f + 2 ^ n else bitsOf n f := by
        rw [bitsOf, List.range_succ, List.foldl_append]; rfl
      rw [step]
      split
      case isTrue hf =>
        have wide : 2 ^ n + bitsOf n f < 2 ^ (n + 1) := by rw [Nat.pow_succ]; omega
        rw [Nat.add_comm]
        refine ⟨wide, fun i => ?_⟩
        rcases Nat.lt_trichotomy i n with hi | hi | hi
        · rw [Nat.testBit_two_pow_add_gt hi, bits]
          simp [hi, Nat.lt_succ_of_lt hi]
        · rw [hi, Nat.testBit_two_pow_add_eq, bits]
          simp [hf]
        · rw [Nat.testBit_lt_two_pow (Nat.lt_of_lt_of_le wide (Nat.pow_le_pow_right (by decide) hi))]
          simp [Nat.not_lt.mpr hi]
      case isFalse hf =>
        refine ⟨by rw [Nat.pow_succ]; omega, fun i => ?_⟩
        rw [bits]
        by_cases hi : i = n
        · subst hi; simp [hf]
        · have : (i < n + 1) ↔ i < n := by omega
          simp [this]
  exact (bound n).2 i

/-! ## Lanes written one after another (R214) -/

/-- Lanes of n bits from bit `base` up, and the bit j lies in lane i. -/
def inLane (base n i j : Nat) : Prop := base + n * i ≤ j ∧ j < base + n * i + n
theorem inLane_unique {base n i k j : Nat} (hi : inLane base n i j) (hk : inLane base n k j) : i = k := by
  obtain ⟨hi1, hi2⟩ := hi
  obtain ⟨hk1, hk2⟩ := hk
  by_contra h
  rcases Nat.lt_or_gt_of_ne h with h | h
  · have := Nat.mul_le_mul_left n h
    rw [Nat.mul_succ] at this; omega
  · have := Nat.mul_le_mul_left n h
    rw [Nat.mul_succ] at this; omega

/-- The register after lanes have been written one after another. -/
def putLanes (base n : Nat) (x : Nat → Nat) (ls : List Nat) (v : Quad) : Quad := ls.foldl (fun v i => putBits v (base + n * i) n (x i)) v

theorem getLsbD_putLanes_out {base n : Nat} {x : Nat → Nat} {j : Nat} (hj : j < 128) {ls : List Nat} (h : ∀ i ∈ ls, ¬inLane base n i j) (v : Quad) :
    (putLanes base n x ls v).getLsbD j = v.getLsbD j := by
  induction ls generalizing v with
  | nil => rfl
  | cons i ls ih =>
    rw [putLanes, List.foldl_cons]
    refine (ih (fun k hk => h k (List.mem_cons_of_mem _ hk)) _).trans ?_
    rw [getLsbD_putBits _ _ _ _ _ hj]; exact if_neg (h i List.mem_cons_self)
theorem getLsbD_putLanes_in {base n : Nat} {x : Nat → Nat} {j i : Nat} (hj : j < 128) (hin : inLane base n i j) {ls : List Nat} (h : i ∈ ls)
    (v : Quad) : (putLanes base n x ls v).getLsbD j = (x i).testBit (j - (base + n * i)) := by
  induction ls generalizing v with
  | nil => cases h
  | cons k ls ih =>
    rw [putLanes, List.foldl_cons]
    by_cases hls : i ∈ ls
    · exact ih hls _
    · have hk : i = k := (List.mem_cons.mp h).resolve_right hls
      subst hk
      refine (getLsbD_putLanes_out hj (fun m hm hjm => hls ?_) _).trans ?_
      · rwa [inLane_unique hin hjm]
      · rw [getLsbD_putBits _ _ _ _ _ hj]; exact if_pos hin

/-- The flags that some lanes raise. -/
def laneFlags (fl : Nat → BitVec 5) (ls : List Nat) : BitVec 5 := ls.foldl (fun z i => z ||| fl i) 0
theorem getLsbD_foldl_or (fl : Nat → BitVec 5) (ls : List Nat) (z : BitVec 5) (b : Nat) :
    (ls.foldl (fun z i => z ||| fl i) z).getLsbD b = true ↔ z.getLsbD b = true ∨ ∃ i ∈ ls, (fl i).getLsbD b = true := by
  induction ls generalizing z with
  | nil => simp
  | cons i ls ih => rw [List.foldl_cons, ih]; simp [or_assoc]

/-- A map over the active lanes writes them one after another and collects their flags. -/
theorem vmap_eq (f : RR) (l base n : Nat) (g : State → Nat → Nat × BitVec 5) {put : Quad → Nat → Nat → Quad}
    (hput : ∀ v i x, put v i x = putBits v (base + n * i) n x) (s : State) :
    vmap f l g put s = .done ((s.wv f.d (putLanes base n (fun i => (g s i).1) (s.lanes f l) (s.rv f.d))).orFlags
      (laneFlags (fun i => (g s i).2) (s.lanes f l))) := by
  have pair : ∀ (ls : List Nat) (v : Quad) (z : BitVec 5),
      ls.foldl (fun (acc : Quad × BitVec 5) i => (put acc.1 i (g s i).1, acc.2 ||| (g s i).2)) (v, z) =
        (putLanes base n (fun i => (g s i).1) ls v, ls.foldl (fun z i => z ||| (g s i).2) z) := fun ls => by
    induction ls with
    | nil => exact fun v z => rfl
    | cons i ls ih =>
      intro v z
      rw [List.foldl_cons, ih, hput]
      rfl
  rw [vmap]
  dsimp only
  rw [pair]
  rfl

theorem mem_lanes {s : State} {f : RR} {l i : Nat} : i ∈ s.lanes f l ↔ i < l ∧ active (s.rk f.k) f.kn i = true := by
  rw [State.lanes, activeLanes, List.mem_filter, List.mem_range]

/-! ## Lane-wise rows -/

/-- A row's slots are lanes of one width from one bit up. -/
def EvenSlots (e : LaneSpec) (f : RR) (base n : Nat) : Prop := ∀ i, e.slot f i = (base + n * i, n)

theorem lanesWritten_putLanes {e : LaneSpec} {f : RR} {base n : Nat} (he : EvenSlots e f base n) (s : State) :
    LanesWritten e f s (putLanes base n (fun i => (e.val f s i).1) (s.lanes f (e.lanes f)) (s.rv f.d)) := by
  refine ⟨fun i hi j hj hlo hhi => ?_, fun j hout => ?_⟩
  · rw [he] at hlo hhi
    rw [he]
    have hin : inLane base n i j := ⟨hlo, hhi⟩
    split
    case isTrue ha => exact getLsbD_putLanes_in hj hin (mem_lanes.mpr ⟨hi, ha⟩) _
    case isFalse ha =>
      refine getLsbD_putLanes_out hj (fun k hk hjk => ha ?_) _
      rw [inLane_unique hin hjk]
      exact (mem_lanes.mp hk).2
  · rcases Nat.lt_or_ge j 128 with hj | hj
    · refine getLsbD_putLanes_out hj (fun k hk hjk => hout k (mem_lanes.mp hk).1 ?_) _
      rw [he]; exact hjk
    · rw [BitVec.getLsbD_of_ge _ _ hj, BitVec.getLsbD_of_ge _ _ hj]

theorem laneFlags_lanes (e : LaneSpec) (f : RR) (s : State) :
    LaneFlags e f s (laneFlags (fun i => (e.val f s i).2) (s.lanes f (e.lanes f))) := by
  intro b
  rw [laneFlags, getLsbD_foldl_or]
  have zero : (0 : BitVec 5).getLsbD b = false := BitVec.getLsbD_zero
  simp only [zero, Bool.false_eq_true, false_or, mem_lanes, and_assoc]

/-- Outside a recording a vector instruction has its effect alone (R229). -/
theorem recorded_of_not {i : Instr} {eff : State → Eff} {s : State} (h : ¬Recording s) : recorded i eff s = eff s := by
  rw [recorded]
  refine if_neg fun hr => h ?_
  simpa [Recording, and_assoc] using hr

/-- What a row's effect is: its lanes, placed in its slots. -/
theorem laneWise_completes {e : LaneSpec} {f : RR} {s : State} {base n : Nat} {put : Quad → Nat → Nat → Quad} {eff : State → Eff}
    (he : exec (e.instr f) s = .next (s.issue (e.instr f) (recorded (e.instr f) eff))) (heff : eff s = vmap f (e.lanes f) (e.val f) put s)
    (hslot : EvenSlots e f base n) (hput : ∀ v i x, put v i x = putBits v (base + n * i) n x) (hf : s.Fit (e.instr f)) (hr : ¬Recording s) :
    ∃ (v : Quad) (fl : BitVec 5), exec (e.instr f) s = .next (((s.wv f.d v).orFlags fl).retire s.cur) ∧
      LanesWritten e f s v ∧ LaneFlags e f s fl :=
  ⟨_, _, completes_of_done he hf (by rw [recorded_of_not hr, heff, vmap_eq f _ base n (e.val f) hput]), lanesWritten_putLanes hslot s,
    laneFlags_lanes e f s⟩

/-- The slots of a row of R216 are where PLACE puts its lanes. -/
theorem narrowSlot_even (f : RR) : ∃ base n, (∀ i, narrowSlot f i = (base + n * i, n)) ∧
    ∀ v i x, placeLane v f.narrow f.ty.toNat i x = putBits v (base + n * i) n x := by
  by_cases h : modNfmt f.narrow = 0
  · refine ⟨0, typeWidth f.ty.toNat, fun i => ?_, fun v i x => ?_⟩
    · rw [narrowSlot, if_pos h, Nat.zero_add, plainSlot]
    · rw [placeLane, if_pos h, Nat.zero_add, putLane]
  · refine ⟨modGrp f.narrow * plainLanes f * containerBits (typeFloat f.ty.toNat) (modNfmt f.narrow),
      containerBits (typeFloat f.ty.toNat) (modNfmt f.narrow), fun i => ?_, fun v i x => ?_⟩
    · rw [narrowSlot, if_neg h]; dsimp only; rw [Nat.mul_comm i]
    · rw [placeLane, if_neg h]; dsimp only; rw [Nat.mul_comm i]; rfl

section
variable {f : RR} {s : State}

theorem arith_completes {instr : RR → Instr} {gi : RR → Nat → Nat → Nat → Int × BitVec 5} {gf : RR → Nat → Nat → Nat → Nat × BitVec 5}
    (he : exec (instr f) s = .next (s.issue (instr f) (recorded (instr f) (lanewise f (gi f) (gf f))))) (hf : s.Fit (instr f)) (hr : ¬Recording s) :
    ∃ (v : Quad) (fl : BitVec 5), exec (instr f) s = .next (((s.wv f.d v).orFlags fl).retire s.cur) ∧
      LanesWritten (arith instr gi gf) f s v ∧ LaneFlags (arith instr gi gf) f s fl := by
  obtain ⟨base, n, hslot, hput⟩ := narrowSlot_even f
  exact laneWise_completes (e := arith instr gi gf) he rfl hslot hput hf hr

theorem plainSlot_even (f : RR) (i : Nat) : plainSlot f i = (0 + typeWidth f.ty.toNat * i, typeWidth f.ty.toNat) := by
  rw [Nat.zero_add, plainSlot]
theorem putLane_eq (v : Quad) (w i x : Nat) : putLane v w i x = putBits v (0 + w * i) w x := by rw [Nat.zero_add, putLane]

theorem moves_completes {instr : RR → Instr} {lanes : RR → Nat} {val : RR → State → Nat → Nat}
    (he : exec (instr f) s = .next (s.issue (instr f) (recorded (instr f) (vmove f (lanes f) (val f))))) (hf : s.Fit (instr f)) (hr : ¬Recording s) :
    ∃ (v : Quad) (fl : BitVec 5), exec (instr f) s = .next (((s.wv f.d v).orFlags fl).retire s.cur) ∧
      LanesWritten (moves instr lanes val) f s v ∧ LaneFlags (moves instr lanes val) f s fl :=
  laneWise_completes (e := moves instr lanes val) (put := fun v i x => putLane v (typeWidth f.ty.toNat) i x) he rfl (plainSlot_even f)
    (fun v i x => putLane_eq v _ i x) hf hr

/-- A dot product of m narrow elements a lane (R225). -/
def dotRow (m : Nat) (instr : RR → Instr) : LaneSpec where
  instr := instr
  lanes := plainLanes
  slot := plainSlot
  val := dotLane m

theorem dotEff_row (m : Nat) (instr : RR → Instr) (f : RR) (s : State) :
    dotEff m f s = vmap f ((dotRow m instr).lanes f) ((dotRow m instr).val f) (fun v i x => putLane v (typeWidth f.ty.toNat) i x) s := rfl

theorem dot_completes {m : Nat} {instr : RR → Instr} (he : exec (instr f) s = .next (s.issue (instr f) (recorded (instr f) (dotEff m f))))
    (hf : s.Fit (instr f)) (hr : ¬Recording s) : ∃ (v : Quad) (fl : BitVec 5), exec (instr f) s = .next (((s.wv f.d v).orFlags fl).retire s.cur) ∧
      LanesWritten (dotRow m instr) f s v ∧ LaneFlags (dotRow m instr) f s fl :=
  laneWise_completes (e := dotRow m instr) he (dotEff_row m instr f s) (plainSlot_even f) (fun v i x => putLane_eq v _ i x) hf hr
end

/-- The row of `vcvt`: lanes of TYPE from its own group up (R218). -/
def vcvtRow : LaneSpec where
  instr := .vcvt
  lanes f := lanesOf (max (typeWidth f.ty.toNat) (typeWidth f.c.toNat))
  slot f i := (typeWidth f.ty.toNat * (i + lanesOf (max (typeWidth f.ty.toNat) (typeWidth f.c.toNat)) * modGrp f.narrow), typeWidth f.ty.toNat)
  val f s i := convert f.c.toNat f.ty.toNat f.rnd.toNat (f.sat = 1) typeWidth
    (bits (s.rv f.a) (typeWidth f.c.toNat * (i + lanesOf (max (typeWidth f.ty.toNat) (typeWidth f.c.toNat)) * modGrp f.moda)) (typeWidth f.c.toNat))

theorem vcvt_completes {f : RR} {s : State} (hf : s.Fit (.vcvt f)) (hr : ¬Recording s) :
    ∃ (v : Quad) (fl : BitVec 5), exec (.vcvt f) s = .next (((s.wv f.d v).orFlags fl).retire s.cur) ∧
      LanesWritten vcvtRow f s v ∧ LaneFlags vcvtRow f s fl := by
  refine laneWise_completes (e := vcvtRow) (eff := effVcvt f) rfl (put := fun v i x => putBits v (vcvtRow.slot f i).1 (typeWidth f.ty.toNat) x) rfl
    (base := typeWidth f.ty.toNat * (vcvtRow.lanes f * modGrp f.narrow)) (n := typeWidth f.ty.toNat) (fun i => ?_) (fun v i x => ?_) hf hr
  · rw [← Nat.mul_add, Nat.add_comm]; rfl
  · rw [← Nat.mul_add, Nat.add_comm]; rfl

/-- Settles O25: every row is a map over its active lanes, whose slots lie apart from one another. -/
theorem laneWiseInstructionsWriteActiveLanesOnly : Obligations.LaneWiseInstructionsWriteActiveLanesOnly := by
  intro e he f s hf hr
  simp only [laneSpecs, intRow, List.mem_cons, List.not_mem_nil, or_false] at he
  rcases he with rfl | rfl | rfl | rfl | rfl | rfl | rfl | rfl | rfl | rfl | rfl | rfl | rfl | rfl | rfl | rfl | rfl | rfl | rfl | rfl | rfl |
    rfl | rfl | rfl | rfl | rfl | rfl
  iterate 18 exact arith_completes rfl hf hr
  · exact moves_completes rfl hf hr
  · exact vcvt_completes hf hr
  iterate 5 exact moves_completes rfl hf hr
  iterate 2 exact dot_completes rfl hf hr

end Sys2Proof.Machine

/-! SUPPORT. Compares, single lanes and reductions of a vector register (R217, R223, R226). -/
namespace Sys2Proof.Machine
open Sys2Proof.Claims

section
variable {f : RR} {s : State}

theorem lanesOf_typeWidth_le (t : Nat) : lanesOf (typeWidth t) ≤ 16 := by
  unfold typeWidth
  split <;> decide

/-- No lane is active exactly where the list of active lanes is empty. -/
theorem lanes_isEmpty (f : RR) (s : State) (l : Nat) :
    (s.lanes f l).isEmpty = !(List.range l).any fun i => active (s.rk f.k) f.kn i := by
  rw [State.lanes, activeLanes, Bool.eq_iff_iff]
  simp

theorem getLsbD_vcmpBits (f : RR) (s : State) (i : Nat) : (vcmpBits f s).getLsbD i =
    (decide (i < lanesOf (typeWidth f.ty.toNat)) && if active (s.rk f.k) f.kn i then
      (laneCond f s i).getLsbD f.rnd.toNat != decide (f.sat = 1) else (s.rk (low3 f.d)).getLsbD i) := by
  have few := lanesOf_typeWidth_le f.ty.toNat
  rw [vcmpBits, BitVec.getLsbD_ofNat, testBit_bitsOf]
  by_cases hi : i < lanesOf (typeWidth f.ty.toNat)
  · have : i < 16 := by omega
    simp only [hi, this, decide_true, Bool.true_and]
    rfl
  · simp only [hi, decide_false, Bool.false_and, Bool.and_false]

theorem vcmpEff_none (h : ((List.range (lanesOf (typeWidth f.ty.toNat))).any fun i => active (s.rk f.k) f.kn i) = false) :
    effVcmp f s = .done s := by
  rw [effVcmp, lanes_isEmpty, h]; rfl
theorem vcmpEff_some (h : ((List.range (lanesOf (typeWidth f.ty.toNat))).any fun i => active (s.rk f.k) f.kn i) = true) :
    effVcmp f s = .done (s.wk (low3 f.d) (vcmpBits f s)) := by
  rw [effVcmp, lanes_isEmpty, h]; rfl

theorem redEff_none {g : State → List Nat → Nat × BitVec 5}
    (h : ((List.range (lanesOf (typeWidth f.ty.toNat))).any fun i => active (s.rk f.k) f.kn i) = false) : redEff f g s = .done s := by
  rw [redEff, lanes_isEmpty, h]; rfl
theorem redEff_some {g : State → List Nat → Nat × BitVec 5}
    (h : ((List.range (lanesOf (typeWidth f.ty.toNat))).any fun i => active (s.rk f.k) f.kn i) = true) : redEff f g s =
    let r := g s ((List.range (lanesOf (typeWidth f.ty.toNat))).filter fun i => active (s.rk f.k) f.kn i)
    .done ((s.wx f.d (laneOut f.ty.toNat r.1)).orFlags r.2) := by
  rw [redEff, lanes_isEmpty, h]; rfl

/-- The lane that `vins` writes: x_A's low bits, of an F6 value six (R180, R223). -/
def insLane (f : RR) (s : State) : Quad :=
  let w := typeWidth f.ty.toNat
  putLane (s.rv f.d) w (laneIndex f s) (if f.ty = 14 then (s.rx f.a).toNat % 2 ^ w % 64 else (s.rx f.a).toNat % 2 ^ w)

theorem getLsbD_insLane (b : Nat) (hb : b < 128) : let w := typeWidth f.ty.toNat; let j := laneIndex f s
    (insLane f s).getLsbD b = if w * j ≤ b ∧ b < w * j + w then (s.rx f.a).getLsbD (b - w * j) && !(f.ty = 14 && decide (w * j + 6 ≤ b))
      else (s.rv f.d).getLsbD b := by
  intro w j
  have six : ∀ x, x % 64 = x % 2 ^ 6 := fun _ => rfl
  rw [insLane, putLane, getLsbD_putBits _ _ _ _ _ hb]
  refine if_ctx_congr Iff.rfl (fun hin => ?_) fun _ => rfl
  have inside : b - w * j < w := by omega
  have bit : ((s.rx f.a).toNat % 2 ^ w).testBit (b - w * j) = (s.rx f.a).getLsbD (b - w * j) := by
    rw [Nat.testBit_mod_two_pow]; simp [inside]; rfl
  by_cases h14 : f.ty = 14
  · have low : decide (b - w * j < 6) = !decide (w * j + 6 ≤ b) := by
      rw [← decide_not]; exact decide_eq_decide.mpr (by omega)
    have own : (decide (f.ty = 14)) = true := decide_eq_true h14
    rw [if_pos h14, six, Nat.testBit_mod_two_pow]
    refine (congrArg₂ _ low bit).trans ?_
    rw [own, Bool.true_and, Bool.and_comm]
  · rw [if_neg h14, bit]
    have other : (decide (f.ty = 14)) = false := decide_eq_false h14
    rw [other, Bool.false_and, Bool.not_false, Bool.and_true]

theorem vinsEff_inactive (h : active (s.rk f.k) f.kn (laneIndex f s) = false) : effVins f s = .done s := by
  rw [effVins, h]; rfl
theorem vinsEff_active (h : active (s.rk f.k) f.kn (laneIndex f s) = true) : effVins f s = .done (s.wv f.d (insLane f s)) := by
  rw [effVins, h]; rfl
end

/-- Settles O26: each effect is its row's, with nothing where no lane is active. -/
theorem vectorCompareInsertExtractReduce : Obligations.VectorCompareInsertExtractReduce := by
  intro f s hr w l act some_ j
  have alone : ∀ {i : Instr} {eff : State → Eff} {t : State}, exec i s = .next (s.issue i (recorded i eff)) → s.Fit i →
      eff s = .done t → Completes i s t := fun he hf h => completes_of_done he hf ((recorded_of_not hr).trans h)
  refine ⟨fun hf => ⟨fun h => ?_, fun h => ?_⟩, fun hf => ⟨fun h => ?_, fun h => ?_⟩, fun hf => ?_, fun e he hf => ?_⟩
  · exact alone rfl hf (vcmpEff_none h)
  · refine ⟨vcmpBits f s, alone rfl hf (vcmpEff_some h), fun i hi => ?_, fun i hi => ?_⟩
    · rw [getLsbD_vcmpBits, decide_eq_true hi, Bool.true_and]
    · rw [getLsbD_vcmpBits, decide_eq_false (Nat.not_lt.mpr hi), Bool.false_and]
  · exact alone rfl hf (vinsEff_inactive h)
  · exact ⟨insLane f s, alone rfl hf (vinsEff_active h), fun b hb => getLsbD_insLane b hb⟩
  · exact alone rfl hf rfl
  · simp only [List.mem_cons, List.not_mem_nil, or_false] at he
    rcases he with rfl | rfl | rfl
    all_goals exact ⟨fun h => alone rfl hf (redEff_none h), fun h => alone rfl hf (redEff_some h)⟩

end Sys2Proof.Machine

/-! SUPPORT. Resets of a die and of the package, and the handover of the master (R48, R154, R160, R299, R364, R387). -/
namespace Sys2Proof.Machine

/-! ## Cells taken out of a memory, and put into it -/

theorem get_filter_key (p : Nat → Bool) (m : Memory) (a : Nat) :
    Memory.get (m.filter fun c => p c.1) a = if p a then m.get a else Memory.blank := by
  induction m with
  | nil => split <;> rfl
  | cons c m ih =>
    obtain ⟨k, b⟩ := c
    by_cases hk : k = a
    · subst hk
      by_cases hp : p k = true
      · simp [hp, Memory.get]
      · simp only [List.filter_cons, hp, Bool.false_eq_true, if_false] at ih ⊢
        exact ih
    · by_cases hp : p k = true
      · simp only [List.filter_cons, hp, if_true, Memory.get, if_neg hk, ih]
      · simp only [List.filter_cons, hp, Memory.get, if_neg hk, Bool.false_eq_true, if_false, ih]

/-- Cells put one after another: the last word on an address that they list is theirs. -/
theorem get_foldl_cells {cells m : Memory} (hc : ∃ lo, Memory.wfFrom lo cells = true) (hm : m.wf = true) (a : Nat) :
    (cells.foldl (fun m c => m.set c.1 c.2) m).get a = if cells.get a = Memory.blank then m.get a else cells.get a := by
  induction cells generalizing m with
  | nil => rfl
  | cons c cells ih =>
    obtain ⟨k, b⟩ := c
    obtain ⟨lo, hlo⟩ := hc
    simp only [Memory.wfFrom, Bool.and_eq_true, decide_eq_true_eq] at hlo
    obtain ⟨⟨-, hb⟩, hrest⟩ := hlo
    rw [List.foldl_cons, ih ⟨_, hrest⟩ (Memory.wf_set hm k b)]
    by_cases hk : k = a
    · subst hk
      rw [Memory.get_of_lt hrest (Nat.lt_succ_self k), if_pos rfl, Memory.get_set_self hm, Memory.get, if_pos rfl, if_neg hb]
    · rw [Memory.get_set_ne b (Ne.symm hk), Memory.get, if_neg hk]

/-! ## What every quarter reads of the reset one's durable locations (R299, R389) -/

/-- A memory whose durable cells of quarter q are those of a copy. -/
def rereadFrom (q : Nat) (src m : Memory) : Memory :=
  (src.filter fun c => physQtr c.1 = q).foldl (fun m c => m.set c.1 c.2) (m.filter fun c => !(isDurable c.1 && home c.1 = q))

theorem get_rereadFrom {q a : Nat} {src m : Memory} (hs : src.wf = true) (hm : m.wf = true) (hd : isDurable a = true) (hh : home a = q) :
    (rereadFrom q src m).get a = src.get a := by
  have phys : physQtr a = q := by
    rw [← hh, home, if_neg]
    intro hp
    rw [isDurable, hp] at hd
    cases hd
  have kept : Memory.get (src.filter fun c => physQtr c.1 = q) a = src.get a := by
    rw [get_filter_key (fun k => decide (physQtr k = q)), if_pos (decide_eq_true phys)]
  have cleared : Memory.get (m.filter fun c => !(isDurable c.1 && home c.1 = q)) a = Memory.blank := by
    rw [get_filter_key (fun k => !(isDurable k && decide (home k = q))), hd, decide_eq_true hh]
    rfl
  rw [rereadFrom, get_foldl_cells ⟨0, Memory.wf_filter _ hs⟩ (Memory.wf_filter _ hm), kept, cleared]
  split
  case isTrue h => exact h.symm
  case isFalse h => rfl

theorem memQ_durableReread (s : State) (q p : Nat) : (s.durableReread q).memQ p =
    rereadFrom q (if (s.quarterAt q).inService then s.ord.prim else s.ord.mirr) (s.memQ p) := by
  have four : List.range 4 = [0, 1, 2, 3] := rfl
  have same : ∀ t : State, t.memQ p = t.memQ (p % 4) := fun t => by simp [State.memQ]
  rw [same, same s, State.durableReread, four]
  have lt : p % 4 < 4 := Nat.mod_lt _ (by decide)
  generalize p % 4 = r at lt
  interval_cases r <;> simp [State.memQ_setMemQ_ne, rereadFrom]

theorem durableReread_frame (s : State) (q : Nat) :
    s.durableReread q = { s with ord := { s.ord with mem := (s.durableReread q).ord.mem } } := by
  unfold State.durableReread
  dsimp only
  exact List.foldlRecOn (List.range 4) _ (motive := fun t : State => t = { s with ord := { s.ord with mem := t.ord.mem } }) rfl
    fun t ht p _ => by rw [ht]; rfl

/-! ## Work that is discarded -/

/-- A context without pending operations stays so. -/
def OpsGone (s t : State) : Prop := ∀ k, (s.ctx k).ops = [] → (t.ctx k).ops = []
theorem OpsGone.of_same {s t : State} (h : t.ctxs = s.ctxs) : OpsGone s t := fun k hk => by rwa [State.ctx, h]
theorem opsGone_updCtx (s : State) (j : Nat) {f : Ctx → Ctx} (hf : ∀ c : Ctx, c.ops = [] → (f c).ops = []) : OpsGone s (s.updCtx j f) := by
  intro k hk
  rw [State.ctx_updCtx]
  split
  case isTrue h => subst h; exact hf _ hk
  case isFalse h => exact hk

/-- What a step of a die reset keeps: the quarters' records, the canonical form of the memories, and contexts without work. -/
structure Resetting (s t : State) : Prop where
  quarters : t.quarters = s.quarters
  wf : s.memoryWf = true → t.memoryWf = true
  ops : OpsGone s t

theorem Resetting.refl (s : State) : Resetting s s := ⟨rfl, id, fun _ => id⟩
theorem Resetting.trans {s t u : State} (hst : Resetting s t) (htu : Resetting t u) : Resetting s u :=
  ⟨htu.quarters.trans hst.quarters, fun h => htu.wf (hst.wf h), fun k h => htu.ops k (hst.ops k h)⟩
theorem Resetting.foldl {α : Type} {f : State → α → State} (hf : ∀ t a, Resetting t (f t a)) (s : State) (l : List α) : Resetting s (l.foldl f s) :=
  List.foldlRecOn l f (motive := Resetting s) (Resetting.refl s) fun t ht a _ => ht.trans (hf t a)
/-- A step that leaves the contexts and the memories with their copies. -/
theorem Resetting.of_same {s t : State} (hq : t.quarters = s.quarters) (hc : t.ctxs = s.ctxs) (hm : t.ord.mem = s.ord.mem)
    (hp : t.ord.prim = s.ord.prim) (hr : t.ord.mirr = s.ord.mirr) : Resetting s t :=
  ⟨hq, fun h => State.memoryWf_of_same h hm hp hr, OpsGone.of_same hc⟩

theorem resetting_updCtx (s : State) (k : Nat) {f : Ctx → Ctx} (hf : ∀ c : Ctx, c.ops = [] → (f c).ops = []) : Resetting s (s.updCtx k f) :=
  ⟨rfl, fun h => State.memoryWf_of_same h rfl rfl rfl, opsGone_updCtx s k hf⟩
theorem resetting_copyTakes (s : State) (id : Nat) (mirror : Bool) : Resetting s (s.copyTakes id mirror) := by
  refine ⟨?_, fun h => State.memoryWf_copyTakes h id mirror, OpsGone.of_same ?_⟩
  all_goals
    unfold State.copyTakes
    split
    · rfl
    · split
      · rfl
      · dsimp only
        split <;> rfl
theorem ops_decLd (c : Ctx) : c.decLd.ops = c.ops := by unfold Ctx.decLd; split <;> rfl
theorem ops_wx (c : Ctx) (r : BitVec 5) (w : Word) : (c.wx r w).ops = c.ops := by unfold Ctx.wx; split <;> rfl
theorem resetting_completeAmo (s : State) (id quarter : Nat) : Resetting s (s.completeAmo id quarter) := by
  unfold State.completeAmo
  split
  · exact Resetting.refl s
  · split
    · split
      · refine (resetting_updCtx s _ fun c hc => ?_).trans (resetting_updCtx _ _ fun c hc => ?_)
        · rw [hc]; rfl
        · rw [ops_decLd, ops_wx]; exact hc
      · exact Resetting.refl s
    · exact Resetting.refl s
theorem undo_frame (s : State) (w : WriteRec) : s.undo w = { s with ord := { s.ord with mem := (s.undo w).ord.mem } } := by
  unfold State.undo
  refine List.foldlRecOn (List.range 4) _ (motive := fun t : State => t = { s with ord := { s.ord with mem := t.ord.mem } }) rfl fun t ht p _ => ?_
  split
  · exact ht
  · rw [ht]; rfl
theorem resetting_undo (s : State) (w : WriteRec) : Resetting s (s.undo w) :=
  ⟨by rw [undo_frame], fun h => State.memoryWf_undo h w, OpsGone.of_same (by rw [undo_frame])⟩

/-- The order machine of a die reset before the durable locations are read again. -/
theorem resetOrder_eq (s : State) (q : Nat) : ∃ u, Resetting s u ∧ s.resetOrder q = u.durableReread q ∧ ∀ e ∈ u.ord.engines, qtrOfCore e.2.core ≠ q := by
  unfold State.resetOrder
  dsimp only
  generalize hs1 : List.foldl _ s (performed _) = s1
  generalize hs2 : State.updOrd s1 _ = s2
  generalize hs2a : List.foldl _ s2 (List.filter _ _) = s2a
  generalize hs2b : List.foldl _ s2a (List.filter _ _) = s2b
  generalize hs3 : State.updOrd s2b _ = s3
  refine ⟨s3.tickNext, ?_, rfl, ?_⟩
  · have kept : Resetting s s1 := by
      rw [← hs1]
      refine Resetting.foldl (fun t e => ?_) s _
      refine Resetting.trans ?_ (resetting_copyTakes ..)
      refine Resetting.trans ?_ (resetting_copyTakes ..)
      split
      · exact Resetting.refl t
      · exact Resetting.of_same rfl rfl rfl rfl rfl
    have noted : Resetting s1 s2 := by rw [← hs2]; exact Resetting.of_same rfl rfl rfl rfl rfl
    have answered : Resetting s2 s2a := by
      rw [← hs2a]
      exact Resetting.foldl (fun t e => Resetting.foldl (fun u p => resetting_completeAmo ..) t _) s2 _
    have undone : Resetting s2a s2b := by
      rw [← hs2b]
      exact Resetting.foldl (fun t e => resetting_undo ..) s2a _
    have wiped : Resetting s2b s3 := by rw [← hs3]; exact Resetting.of_same rfl rfl rfl rfl rfl
    exact kept.trans (noted.trans (answered.trans (undone.trans (wiped.trans (Resetting.of_same rfl rfl rfl rfl rfl)))))
  · rw [← hs3]
    intro e he
    have := (List.mem_filter.mp he).2
    simpa using this

/-! ## A die taken down (R361 to R364) -/

/-- What a containment leaves: the memories and their copies; engine operations and pending work only go. -/
structure Calm (s t : State) : Prop where
  mem : t.ord.mem = s.ord.mem
  prim : t.ord.prim = s.ord.prim
  mirr : t.ord.mirr = s.ord.mirr
  engines : ∀ e ∈ t.ord.engines, e ∈ s.ord.engines
  ops : OpsGone s t

theorem Calm.refl (s : State) : Calm s s := ⟨rfl, rfl, rfl, fun _ => id, fun _ => id⟩
theorem Calm.trans {s t u : State} (hst : Calm s t) (htu : Calm t u) : Calm s u :=
  ⟨htu.mem.trans hst.mem, htu.prim.trans hst.prim, htu.mirr.trans hst.mirr, fun e he => hst.engines e (htu.engines e he),
    fun k h => htu.ops k (hst.ops k h)⟩
theorem Calm.foldl {α : Type} {f : State → α → State} (hf : ∀ t a, Calm t (f t a)) (s : State) (l : List α) : Calm s (l.foldl f s) :=
  List.foldlRecOn l f (motive := Calm s) (Calm.refl s) fun t ht a _ => ht.trans (hf t a)
/-- A step that leaves the order machine and the contexts. -/
theorem Calm.of_same {s t : State} (ho : t.ord = s.ord) (hc : t.ctxs = s.ctxs) : Calm s t :=
  ⟨by rw [ho], by rw [ho], by rw [ho], fun e he => by rwa [ho] at he, OpsGone.of_same hc⟩
/-- A step of the order machine that leaves the memories, their copies and all engine operations that it does not end. -/
theorem Calm.of_ord {s t : State} (hm : t.ord.mem = s.ord.mem) (hp : t.ord.prim = s.ord.prim) (hr : t.ord.mirr = s.ord.mirr)
    (he : ∀ e ∈ t.ord.engines, e ∈ s.ord.engines) (hc : t.ctxs = s.ctxs) : Calm s t := ⟨hm, hp, hr, he, OpsGone.of_same hc⟩
theorem calm_updCtx (s : State) (k : Nat) {f : Ctx → Ctx} (hf : ∀ c : Ctx, c.ops = [] → (f c).ops = []) : Calm s (s.updCtx k f) :=
  ⟨rfl, rfl, rfl, fun _ => id, opsGone_updCtx s k hf⟩
theorem calm_updCore (s : State) (k : Nat) (f : Core → Core) : Calm s (s.updCore k f) := Calm.of_same rfl rfl
theorem calm_updGang (s : State) (g : Nat) (f : Gang → Gang) : Calm s (s.updGang g f) := Calm.of_same rfl rfl
theorem calm_updShed (s : State) (d : Nat) (f : Shed → Shed) : Calm s (s.updShed d f) := Calm.of_same rfl rfl
theorem calm_askEvaluate (s : State) : Calm s s.askEvaluate := Calm.of_same rfl rfl
theorem calm_orphan (s : State) (g : Nat) (all : Bool) : Calm s (s.orphan g all) := Calm.of_same rfl rfl
theorem calm_disown (s : State) (g : Nat) (ks : List Nat) : Calm s (s.updOrd fun o => o.disown g ks) :=
  Calm.of_ord rfl rfl rfl (fun _ => id) rfl
theorem calm_recordCore (s : State) (g x cause : Nat) : Calm s (s.recordCore g x cause) := Calm.of_same rfl rfl
theorem calm_tickNext (s : State) : Calm s s.tickNext := Calm.of_same rfl rfl

theorem calm_evictL1 (s : State) (core line : Nat) : Calm s (s.evictL1 core line) := by
  unfold State.evictL1
  split
  · exact Calm.refl s
  · dsimp only
    split
    · exact calm_updCore ..
    · unfold State.updL2
      split
      · exact Calm.of_ord rfl rfl rfl (fun _ => id) rfl
      · exact calm_updCore ..
theorem calm_l1Flush (s : State) (core : Nat) : Calm s (s.l1Flush core) := Calm.foldl (fun t l => calm_evictL1 t core l) s _

theorem calm_vacate (s : State) (g : Nat) : Calm s (s.vacate g) := by
  unfold State.vacate
  dsimp only
  generalize (s.gang g).sheds.filter _ = mine
  generalize hs0 : List.foldl _ s (mine.flatMap _) = s0
  generalize hs1 : List.foldl _ s0 mine = s1
  generalize hs2 : List.foldl _ s1.dropEntries (mine.flatMap _) = s2
  generalize hs3 : List.foldl _ s2 (mine.flatMap _) = s3
  have flushed : Calm s s0 := by rw [← hs0]; exact Calm.foldl calm_l1Flush s _
  have freed : Calm s0 s1 := by rw [← hs1]; exact Calm.foldl (fun t d => calm_updShed ..) s0 _
  have dropped : Calm s1 s1.dropEntries := Calm.of_same rfl rfl
  have vacated : Calm s1.dropEntries s2 := by
    rw [← hs2]
    exact Calm.foldl (fun t k => calm_updCtx t k fun c _ => rfl) _ _
  have emptied : Calm s2 s3 := by rw [← hs3]; exact Calm.foldl (fun t c => calm_updCore ..) s2 _
  have ended : Calm s3 (s3.updOrd fun o => { o with engines := o.engines.filter fun e => !mine.contains (shedOfCore e.2.core) }) :=
    Calm.of_ord rfl rfl rfl (fun e he => (List.mem_filter.mp he).1) rfl
  exact flushed.trans (freed.trans (dropped.trans (vacated.trans (emptied.trans ended))))

theorem calm_completeCmd (s : State) (vfq : Nat) (seq : BitVec 32) (status : Nat) (info : Word) : Calm s (s.completeCmd vfq seq status info) := by
  unfold State.completeCmd State.completeNaming
  dsimp only
  split
  · exact Calm.refl s
  · rw [journal_frame]
    exact Calm.of_same rfl rfl
theorem calm_payGang (s : State) (n : Nat) : Calm s (s.payGang n) := by
  unfold State.payGang
  dsimp only
  split
  · exact Calm.refl s
  · split
    · exact Calm.refl s
    · exact (calm_updGang ..).trans (calm_completeCmd ..)

theorem calm_failOne (s : State) (g status : Nat) : Calm s (s.failOne g status) := by
  unfold State.failOne
  dsimp only
  split
  · exact Calm.refl s
  · refine Calm.trans ?_ (calm_askEvaluate _)
    refine Calm.trans ?_ (calm_payGang ..)
    refine Calm.trans ?_ (calm_updGang ..)
    refine Calm.trans ?_ (calm_orphan ..)
    split
    · exact Calm.refl s
    · exact (calm_disown ..).trans (calm_vacate ..)
theorem calm_failGang (s : State) (g status : Nat) : Calm s (s.failGang g status) := by
  unfold State.failGang State.supervisorGone
  dsimp only
  split
  · split
    · exact calm_failOne ..
    · exact (calm_failOne ..).trans (Calm.foldl (fun t e => calm_failOne ..) _ _)
  · exact calm_failOne ..

theorem calm_relaunch (s : State) (g : Nat) : Calm s (s.relaunch g) := by
  unfold State.relaunch
  dsimp only
  generalize hs1 : State.updGang (s.vacate g) g _ = s1
  have placed : Calm s s1 := by rw [← hs1]; exact (calm_vacate s g).trans (calm_updGang ..)
  exact placed.trans (Calm.of_same rfl rfl)

theorem calm_gangHit (s before : State) (cause : Nat) (lost : Bool) (g : Nat) (xs : List Nat) : Calm s (s.gangHit before cause lost g xs) := by
  unfold State.gangHit
  dsimp only
  split
  · split
    · exact calm_failGang ..
    · exact Calm.refl s
  · split
    · exact calm_failGang ..
    · split
      · exact calm_relaunch ..
      · split
        · exact calm_failGang ..
        · exact (calm_updGang ..).trans (Calm.foldl (fun t x => calm_recordCore ..) _ _)

theorem calm_pruneRetained (s : State) (gang : Nat) : Calm s (s.pruneRetained gang) := by
  refine Calm.foldl (fun t n => ?_) s _
  unfold State.dropRetained
  dsimp only
  split
  · split
    · exact Calm.refl t
    · exact calm_updGang ..
  · exact Calm.refl t

theorem calm_dropCore (s : State) (x cause : Nat) : Calm s (s.dropCore x cause) := by
  unfold State.dropCore
  dsimp only
  generalize hs1 : List.foldl _ s (ctxsOfCore x) = s1
  have dropped : Calm s s1 := by rw [← hs1]; exact Calm.foldl (fun t k => calm_updCtx t k fun c _ => rfl) s _
  generalize hs3 : State.updOrd _ _ = s3
  have ended : Calm s1 s3 := by rw [← hs3]; exact Calm.of_ord rfl rfl rfl (fun e he => (List.mem_filter.mp he).1) rfl
  split
  · exact dropped.trans ended
  · split
    · exact dropped.trans (ended.trans ((calm_updGang ..).trans (calm_pruneRetained ..)))
    · exact dropped.trans ended

theorem calm_logContainment (s : State) (x cause vfq : Nat) : Calm s (s.logContainment x cause vfq) := Calm.of_same rfl rfl
theorem ops_decSt (c : Ctx) : c.decSt.ops = c.ops := by unfold Ctx.decSt; split <;> rfl
theorem ops_setEvent (c : Ctx) (b : BitVec 5) : (c.setEvent b).ops = c.ops := by unfold Ctx.setEvent; split <;> rfl
theorem calm_sentAccepted (s : State) (g : Gang) (m : Message) : Calm s (s.sentAccepted g m) := by
  unfold State.sentAccepted
  split
  · exact calm_updCtx s _ fun c hc => (ops_decSt c).trans hc
  · exact Calm.refl s
theorem calm_eachCtx (s : State) (cores : List Nat) {f : Ctx → Ctx} (hf : ∀ c : Ctx, c.ops = [] → (f c).ops = []) : Calm s (s.eachCtx cores f) :=
  Calm.foldl (fun _ _ => (Calm.foldl (fun u k => calm_updCtx u k hf) _ _).trans (calm_updCore ..)) s cores
theorem calm_abortRow (s : State) (g : Gang) (x : Nat) : Calm s (s.abortRow g x) := Calm.foldl (fun _ _ => calm_updCore ..) s _

theorem calm_containCore (s : State) (x cause : Nat) : Calm s (s.containCore x cause) := by
  unfold State.containCore
  split
  · exact (calm_dropCore ..).trans (calm_logContainment ..)
  · split
    · exact (calm_dropCore ..).trans (calm_logContainment ..)
    · dsimp only
      refine Calm.trans ?_ (calm_logContainment ..)
      refine Calm.trans ?_ (calm_updGang ..)
      generalize hs3 : List.foldl _ (List.foldl _ _ _) _ = s3
      have told : Calm s s3 := by
        rw [← hs3]
        refine Calm.trans ?_ (Calm.foldl (fun t c => Calm.foldl (fun u i => (calm_updCore ..).trans (calm_tickNext _)) t _) _ _)
        refine Calm.trans ?_ (Calm.foldl (fun t c => calm_updCore ..) _ _)
        exact (Calm.foldl (fun t m => calm_sentAccepted ..) s _).trans (calm_dropCore ..)
      have shown (cores : List Nat) := told.trans (calm_eachCtx s3 cores fun c hc => (ops_setEvent c 0b01000).trans hc)
      split
      · exact (shown _).trans (calm_abortRow ..)
      · exact shown _

theorem calm_containAll (s : State) (xs : List Nat) (cause : Nat) (lost : Gang → Bool) : Calm s (s.containAll xs cause lost) :=
  (Calm.foldl (fun t x => calm_containCore t x cause) s xs).trans (Calm.foldl (fun _ _ => calm_gangHit ..) _ _)

/-! ## The die reset -/

theorem mem_ctxs_of_qtr {k q : Nat} (h : qtrOfCtx k = q) : k ∈ (coresOfQtr q).flatMap ctxsOfCore := by
  have shed : k / 33 ∈ qtrSheds q := by
    rw [qtrOfCtx, shedOfCtx, qtrOfShed, shedX, shedY] at h
    refine List.mem_map.mpr ⟨8 * (k / 33 / 16 % 8) + k / 33 % 16 % 8, List.mem_range.mpr (by omega), ?_⟩
    rw [shedAt]; omega
  have core : k / 11 ∈ coresOfQtr q := by
    refine List.mem_flatMap.mpr ⟨k / 33, shed, ?_⟩
    have : k / 11 = 3 * (k / 33) ∨ k / 11 = 3 * (k / 33) + 1 ∨ k / 11 = 3 * (k / 33) + 2 := by omega
    simpa using this
  exact List.mem_flatMap.mpr ⟨k / 11, core, List.mem_map.mpr ⟨k % 11, List.mem_range.mpr (Nat.mod_lt _ (by decide)), Nat.div_add_mod k 11⟩⟩

theorem ops_start (k : Nat) : (Ctx.start k).ops = [] := by unfold Ctx.start; split <;> rfl

/-- The pending work of a list of contexts is discarded (R299). -/
def State.discardWork (s : State) (ks : List Nat) : State :=
  ks.foldl (fun t k => if (t.ctxs.get? k).isNone then t else t.updCtx k Ctx.discardPending) s

theorem resetting_discardWork (s : State) (ks : List Nat) : Resetting s (s.discardWork ks) := by
  refine Resetting.foldl (fun t k => ?_) s ks
  split
  · exact Resetting.refl t
  · exact resetting_updCtx t k fun c _ => rfl
theorem ops_discardWork {ks : List Nat} {k : Nat} (h : k ∈ ks) (s : State) : ((s.discardWork ks).ctx k).ops = [] := by
  induction ks generalizing s with
  | nil => cases h
  | cons j ks ih =>
    rw [State.discardWork, List.foldl_cons]
    by_cases hk : k ∈ ks
    · exact ih hk _
    · have hj : k = j := (List.mem_cons.mp h).resolve_right hk
      subst hj
      refine (resetting_discardWork _ ks).ops k ?_
      split
      case isTrue hn =>
        rw [State.ctx, Table.getD, Option.isNone_iff_eq_none.mp hn]
        exact ops_start k
      case isFalse hn => rw [State.ctx_updCtx_self]; rfl

theorem dieReset_eq {s : State} {q : Nat} (hq : q < s.nq) : exec (.dieReset q) s =
    let s2 := (s.discardWork ((coresOfQtr q).flatMap ctxsOfCore)).resetOrder q
    let s3 := if (s2.quarterAt q).up then s2.takeDown q else s2
    let s4 := s3.setQuarter q { s3.quarterAt q with up := false }
    .next (if s4.master.front = q then { s4 with master := { s4.master with ready := false } } else s4) := by
  have meaning : exec (.dieReset q) s = execDieReset q s := rfl
  rw [meaning, execDieReset, if_neg (Nat.not_le.mpr hq), State.discardWork]

/-- What a die reset leaves (R299, R364). -/
theorem dieReset_leaves {s : State} {q : Nat} (hq : q < s.nq) (hw : s.memoryWf = true) : ∃ t, exec (.dieReset q) s = .next t ∧
    (t.quarterAt q).up = false ∧ (∀ k, qtrOfCtx k = q → (t.ctx k).ops = []) ∧ (∀ e ∈ t.ord.engines, qtrOfCore e.2.core ≠ q) ∧
    ∀ p a, isDurable a = true → home a = q → t.byteQ p a = Memory.get (if (s.quarterAt q).inService then t.ord.prim else t.ord.mirr) a := by
  obtain ⟨u, hu, order, ended⟩ := resetOrder_eq (s.discardWork ((coresOfQtr q).flatMap ctxsOfCore)) q
  have work : Resetting s u := (resetting_discardWork s _).trans hu
  generalize hs2 : u.durableReread q = s2 at order
  generalize hs3 : (if (s2.quarterAt q).up then s2.takeDown q else s2) = s3
  have down : Calm s2 s3 := by
    rw [← hs3]
    split
    · exact calm_containAll ..
    · exact Calm.refl s2
  have frame : s2 = { u with ord := { u.ord with mem := s2.ord.mem } } := by rw [← hs2]; exact durableReread_frame u q
  have gone : ∀ k, qtrOfCtx k = q → (s3.ctx k).ops = [] := fun k hk => by
    refine down.ops k ?_
    rw [frame]
    exact hu.ops k (ops_discardWork (mem_ctxs_of_qtr hk) s)
  have engines : ∀ e ∈ s3.ord.engines, qtrOfCore e.2.core ≠ q := fun e he => by
    have := down.engines e he
    rw [frame] at this
    exact ended e this
  have bytes : ∀ p a, isDurable a = true → home a = q →
      s3.byteQ p a = Memory.get (if (s.quarterAt q).inService then s3.ord.prim else s3.ord.mirr) a := fun p a hd hh => by
    have service : u.quarterAt q = s.quarterAt q := by rw [State.quarterAt, State.quarterAt]; simp only [work.quarters]
    have mem : s3.memQ p = s2.memQ p := by rw [State.memQ, State.memQ]; simp only [down.mem]
    have wf := work.wf hw
    have copies : s3.ord.prim = u.ord.prim ∧ s3.ord.mirr = u.ord.mirr := by rw [down.prim, down.mirr, frame]; exact ⟨rfl, rfl⟩
    rw [State.byteQ, mem, ← hs2, memQ_durableReread, service, copies.1, copies.2]
    refine get_rereadFrom ?_ (State.wf_memQ wf p) hd hh
    split
    · exact State.wf_prim wf
    · exact State.wf_mirr wf
  have ran : exec (.dieReset q) s = .next (if (s3.setQuarter q { s3.quarterAt q with up := false }).master.front = q then
      { s3.setQuarter q { s3.quarterAt q with up := false } with
        master := { (s3.setQuarter q { s3.quarterAt q with up := false }).master with ready := false } }
      else s3.setQuarter q { s3.quarterAt q with up := false }) := by
    rw [← hs3, ← order]
    exact dieReset_eq hq
  have off : ∀ t : State, t.quarters = (s3.setQuarter q { s3.quarterAt q with up := false }).quarters → (t.quarterAt q).up = false := fun t ht => by
    rw [State.quarterAt]; simp only [ht, State.setQuarter, Vector.getElem_set_self]
  refine ⟨_, ran, off _ ?_, fun k hk => ?_, fun e he => ?_, fun p a hd hh => ?_⟩
  · split <;> rfl
  · have := gone k hk
    split <;> exact this
  · refine engines e ?_
    split at he <;> exact he
  · have := bytes p a hd hh
    split <;> exact this

/-! ## The die's return, the handover and the package reset -/

theorem quarterAt_setQuarter_self (s : State) (q : Nat) (v : Quarter) : (s.setQuarter q v).quarterAt q = v := by
  rw [State.quarterAt, State.setQuarter, Vector.getElem_set_self]

theorem dieReturn_leaves {s : State} {q : Nat} (hd : (s.quarterAt q).up = false) : ∃ t, exec (.dieReturn q) s = .next t ∧
    (t.quarterAt q).up = Config.selfTest s.free ∧ SameBytes s t ∧ t.ctxs = s.ctxs := by
  have meaning : exec (.dieReturn q) s = execDieReturn q s := rfl
  rw [meaning, execDieReturn, hd]
  dsimp only
  cases h : Config.selfTest s.free with
  | false => exact ⟨_, rfl, hd, fun _ _ => rfl, rfl⟩
  | true => exact ⟨_, rfl, congrArg Quarter.up (quarterAt_setQuarter_self ..), fun _ _ => rfl, rfl⟩

/-- What decisions of the master leave: the memories, the contexts and which front end is master. -/
structure Decides (s t : State) : Prop where
  mem : t.ord.mem = s.ord.mem
  ctxs : t.ctxs = s.ctxs
  master : t.master = s.master

theorem Decides.refl (s : State) : Decides s s := ⟨rfl, rfl, rfl⟩
theorem Decides.trans {s t u : State} (hst : Decides s t) (htu : Decides t u) : Decides s u :=
  ⟨htu.mem.trans hst.mem, htu.ctxs.trans hst.ctxs, htu.master.trans hst.master⟩
theorem Decides.foldl {α : Type} {f : State → α → State} (hf : ∀ t a, Decides t (f t a)) (s : State) (l : List α) : Decides s (l.foldl f s) :=
  List.foldlRecOn l f (motive := Decides s) (Decides.refl s) fun t ht a _ => ht.trans (hf t a)

theorem decides_setQuarter (s : State) (q : Nat) (v : Quarter) : Decides s (s.setQuarter q v) := ⟨rfl, rfl, rfl⟩
theorem decides_redecide (s : State) (gs : List (Nat × Gang)) : Decides s (s.redecide gs) := by
  unfold State.redecide
  dsimp only
  refine Decides.trans (t := { s with free := s.free + 1 }) ⟨rfl, rfl, rfl⟩ (Decides.foldl (fun t e => ?_) _ gs)
  rw [leaveAt_frame]
  exact ⟨rfl, rfl, rfl⟩
theorem decides_dueSwitch (s : State) (vfq : Nat) : Decides s (s.dueSwitch vfq) := by
  unfold State.dueSwitch
  dsimp only
  split
  · exact Decides.refl s
  · rw [decideSwitches_frame]
    exact ⟨rfl, rfl, rfl⟩

/-- The lowest quarter that is up and has another front end than the master's is found first, and else the master's. -/
theorem handover_finds {n front q : Nat} {up : Nat → Bool} (hq : q < n) (hup : up q = true)
    (h : if q = front then ∀ p < n, p ≠ q → up p = false else ∀ p < q, p ≠ front → up p = false) :
    ((List.range n).filter (fun q => decide (q ≠ front) && up q) ++ [front]).find? up = some q := by
  rw [List.find?_append, List.find?_filter]
  by_cases hf : q = front
  · rw [if_pos hf] at h
    have none : (List.range n).find? (fun a => decide ((decide (a ≠ front) && up a) = true ∧ up a = true)) = none := by
      refine List.find?_eq_none.mpr fun p hp => ?_
      by_cases hpq : p = front
      · simp [hpq]
      · simp [h p (List.mem_range.mp hp) (hf ▸ hpq)]
    rw [none, ← hf]
    simp [hup]
  · rw [if_neg hf] at h
    have some_ : (List.range n).find? (fun a => decide ((decide (a ≠ front) && up a) = true ∧ up a = true)) = some q := by
      refine List.find?_range_eq_some.mpr ⟨by simp [hf, hup], List.mem_range.mpr hq, fun p hp => ?_⟩
      by_cases hpf : p = front
      · simp [hpf]
      · simp [h p hp hpf]
    rw [some_]; rfl

theorem masterHandover_leaves {s : State} {q : Nat} (hr : s.master.ready = false) (hq : q < s.nq) (hup : (s.quarterAt q).up = true)
    (h : if q = s.master.front then ∀ p < s.nq, p ≠ q → (s.quarterAt p).up = false
      else ∀ p < q, p ≠ s.master.front → (s.quarterAt p).up = false) :
    ∃ t, exec .masterHandover s = .next t ∧ t.master.front = q ∧ t.master.ready = true ∧ SameBytes s t ∧ t.ctxs = s.ctxs := by
  have meaning : exec .masterHandover s = execMasterHandover s := rfl
  have found := handover_finds (up := fun q => (s.quarterAt q).up) hq hup h
  rw [meaning, execMasterHandover, hr]
  dsimp only
  rw [if_neg Bool.false_ne_true, found]
  dsimp only
  generalize hs0 : List.foldl _ _ [q, partner q] = s0
  generalize hs1 : List.foldl (α := State) (β := Nat) _ s0 _ = s1
  generalize hs2 : List.foldl _ s1 _ = s2
  have journaled : Decides { s with master := { front := q, ready := true } } s0 := by
    rw [← hs0]
    exact Decides.foldl (fun t p => decides_setQuarter ..) _ _
  have decided : Decides s0 s1 := by
    rw [← hs1]
    exact Decides.foldl (fun u t => decides_redecide ..) _ _
  have due : Decides s1 s2 := by
    rw [← hs2]
    exact Decides.foldl (fun u n => decides_dueSwitch ..) _ _
  have named := journaled.trans (decided.trans due)
  refine ⟨_, rfl, ?_, ?_, sameBytes_of_mem named.mem, named.ctxs⟩
  · rw [named.master]
  · rw [named.master]

theorem packageReset_leaves (s : State) : ∃ t, exec .packageReset s = .next t ∧ t.gtime = 0 ∧ t.gangs = [] ∧ t.queues = [] ∧
    (∀ k, t.ctx k = .start k) ∧ SameBytes s t ∧ t.four = s.four ∧ t.keeper.identity = s.keeper.identity ∧
    t.power.capsel = s.power.capsel ∧ t.ord.writes = [] :=
  ⟨_, rfl, rfl, rfl, rfl, fun _ => rfl, sameBytes_of_mem rfl, rfl, rfl, rfl, rfl⟩

/-- Settles O47, happening by happening. -/
theorem resetsOfTheDieAndThePackage : Obligations.ResetsOfTheDieAndThePackage := fun s =>
  ⟨fun _ hq hw => dieReset_leaves hq hw, fun _ hd => dieReturn_leaves hd, fun _ hr hq hup h => masterHandover_leaves hr hq hup h,
    packageReset_leaves s⟩

end Sys2Proof.Machine

/-! SUPPORT. What a read at issue moves: lines of the caches, with the partials that they evict (R279, R281, R282, R317). -/
namespace Sys2Proof.Machine

/-! ## Entries put into a table -/

section
variable {α : Type} {p : Nat × α → Bool}

theorem length_filter_cons_le (e : Nat × α) (t : Table α) : (List.filter p (e :: t)).length ≤ (List.filter p t).length + 1 := by
  rw [List.filter_cons]
  split
  · exact Nat.le_refl _
  · exact Nat.le_succ _
theorem length_filter_le_cons (e : Nat × α) (t : Table α) : (List.filter p t).length ≤ (List.filter p (e :: t)).length := by
  rw [List.filter_cons]
  split
  · exact Nat.le_succ _
  · exact Nat.le_refl _
theorem length_filter_put (t : Table α) (k : Nat) (a : α) : ((t.put k a).filter p).length ≤ (List.filter p t).length + 1 := by
  induction t with
  | nil => exact length_filter_cons_le (k, a) []
  | cons e t ih =>
    obtain ⟨j, b⟩ := e
    rw [Table.put]
    split
    · exact (length_filter_cons_le _ _).trans (Nat.add_le_add_right (length_filter_le_cons _ _) 1)
    · split
      · exact length_filter_cons_le _ _
      · rw [List.filter_cons, List.filter_cons]
        split
        · simpa using ih
        · exact ih
theorem length_filter_del (t : Table α) (k : Nat) : ((t.del k).filter p).length ≤ (List.filter p t).length := by
  rw [Table.del, List.filter_filter]
  exact (List.monotone_filter_right t fun e h => (Bool.and_eq_true .. ▸ h).1).length_le
theorem del_put (t : Table α) (k : Nat) (a : α) : (t.put k a).del k = t.del k := by
  induction t with
  | nil => simp [Table.put, Table.del]
  | cons e t ih =>
    obtain ⟨j, b⟩ := e
    rw [Table.put]
    split
    case isTrue h => subst h; simp [Table.del]
    case isFalse h =>
      split
      · simp [Table.del]
      · simp only [Table.del] at ih ⊢
        rw [List.filter_cons, List.filter_cons, ih]

/-- Putting entry k replaces one: it stands where its number belongs. -/
def Settled (t : Table α) (k : Nat) : Prop := ∃ l a r, t = l ++ (k, a) :: r ∧ ∀ e ∈ l, e.1 < k

theorem settled_put (t : Table α) (k : Nat) (a : α) : Settled (t.put k a) k := by
  induction t with
  | nil => exact ⟨[], a, [], rfl, by simp⟩
  | cons e t ih =>
    obtain ⟨j, b⟩ := e
    rw [Table.put]
    split
    · exact ⟨[], a, t, rfl, by simp⟩
    · split
      · exact ⟨[], a, (j, b) :: t, rfl, by simp⟩
      · obtain ⟨l, c, r, ht, hl⟩ := ih
        refine ⟨(j, b) :: l, c, r, by rw [ht]; rfl, fun e he => ?_⟩
        rcases List.mem_cons.mp he with rfl | he
        · dsimp only; omega
        · exact hl e he
theorem Settled.get_put {t : Table α} {k : Nat} (h : Settled t k) (b : α) : ∃ l a r, t.get? k = some a ∧
    t = l ++ (k, a) :: r ∧ t.put k b = l ++ (k, b) :: r := by
  obtain ⟨l, a, r, rfl, hl⟩ := h
  refine ⟨l, a, r, ?_, rfl, ?_⟩
  · induction l with
    | nil => simp [Table.get?]
    | cons e l ih =>
      obtain ⟨j, c⟩ := e
      have : j < k := hl (j, c) List.mem_cons_self
      rw [List.cons_append, Table.get?, if_neg (by omega)]
      exact ih fun e he => hl e (List.mem_cons_of_mem _ he)
  · induction l with
    | nil => simp [Table.put]
    | cons e l ih =>
      obtain ⟨j, c⟩ := e
      have : j < k := hl (j, c) List.mem_cons_self
      rw [List.cons_append, Table.put, if_neg (by omega), if_neg (by omega), ih fun e he => hl e (List.mem_cons_of_mem _ he)]
      rfl
theorem Settled.length_filter_put {t : Table α} {k : Nat} (h : Settled t k) {a b : α} (ha : t.get? k = some a) (hp : p (k, b) = p (k, a)) :
    ((t.put k b).filter p).length = (List.filter p t).length := by
  obtain ⟨l, c, r, hc, ht, hput⟩ := h.get_put b
  have : c = a := Option.some.inj (hc.symm.trans ha)
  subst this
  rw [hput, ht, List.filter_append, List.filter_append, List.filter_cons, List.filter_cons, hp]
  split <;> simp
end

/-! ## Lines of level two -/

/-- Lines of a quarter's level two in a slice. -/
def State.inSlice (s : State) (q d : Nat) : Nat := ((s.l2Q q).filter fun e => e.2.at_ q e.1 = d).length
/-- The same without one line. -/
def State.inSliceBut (s : State) (line q d : Nat) : Nat := (((s.l2Q q).del line).filter fun e => e.2.at_ q e.1 = d).length

theorem l2Q_setL2 (s : State) (q p : Nat) (t : Table L2Line) : (s.setL2 q t).l2Q p = if p % 4 = q % 4 then t else s.l2Q p := by
  unfold State.l2Q State.setL2
  dsimp only
  rw [Vector.getElem_set]
  by_cases h : p % 4 = q % 4
  · rw [if_pos h, if_pos h.symm]
  · rw [if_neg h, if_neg (Ne.symm h)]
theorem l2Q_mod {s : State} {p q : Nat} (h : p % 4 = q % 4) : s.l2Q p = s.l2Q q := by simp only [State.l2Q, h]
theorem inSliceBut_le (s : State) (line q d : Nat) : s.inSliceBut line q d ≤ s.inSlice q d := length_filter_del _ line

theorem updL2_l2Q (s : State) (q line : Nat) (f : L2Line → L2Line) (p : Nat) : (s.updL2 q line f).l2Q p = s.l2Q p ∨
    ∃ l, (s.l2Q p).get? line = some l ∧ (s.updL2 q line f).l2Q p = (s.l2Q p).put line (f l) := by
  unfold State.updL2
  split
  case h_1 l hl =>
    rw [l2Q_setL2]
    split
    case isTrue h => exact .inr ⟨l, by rw [l2Q_mod h]; exact hl, by rw [l2Q_mod h]⟩
    case isFalse h => exact .inl rfl
  case h_2 => exact .inl rfl

/-- A change of a line's record that leaves its slice. -/
def KeepsSlice (f : L2Line → L2Line) : Prop := ∀ l, (f l).slice = l.slice
theorem KeepsSlice.at_ {f : L2Line → L2Line} (h : KeepsSlice f) (l : L2Line) (q line : Nat) : (f l).at_ q line = l.at_ q line := by
  rw [L2Line.at_, h, L2Line.at_]

theorem inSlice_updL2 (s : State) (q line : Nat) (f : L2Line → L2Line) (p d : Nat) : (s.updL2 q line f).inSlice p d ≤ s.inSlice p d + 1 := by
  unfold State.inSlice
  rcases updL2_l2Q s q line f p with h | ⟨l, -, h⟩ <;> rw [h]
  · exact Nat.le_succ _
  · exact length_filter_put ..
theorem inSliceBut_updL2 (s : State) (q line : Nat) (f : L2Line → L2Line) (p d : Nat) :
    (s.updL2 q line f).inSliceBut line p d = s.inSliceBut line p d := by
  unfold State.inSliceBut
  rcases updL2_l2Q s q line f p with h | ⟨l, -, h⟩ <;> rw [h]
  rw [del_put]

/-! ## What an access at issue may change -/

/-- A byte of a doubleword of which a quarter holds a partial. -/
def State.PartialAt (s : State) (a : Nat) : Prop := ∃ b, b ≤ a ∧ a < b + 8 ∧ s.hasPartial b = true
/-- A slice is full or within n lines of it. -/
def State.Crowded (s : State) (n : Nat) : Prop := ∃ q d, sliceLines ≤ s.inSlice q d + n

/-- A step that leaves what is executing, every scalar register and every codebook slot. -/
structure KeepsView (s t : State) : Prop where
  cur : t.cur = s.cur
  x : ∀ k, (t.ctx k).x = (s.ctx k).x
  slots : ∀ d, (t.shed d).slots = (s.shed d).slots
theorem KeepsView.refl (s : State) : KeepsView s s := ⟨rfl, fun _ => rfl, fun _ => rfl⟩
theorem KeepsView.trans {s t u : State} (hst : KeepsView s t) (htu : KeepsView t u) : KeepsView s u :=
  ⟨htu.cur.trans hst.cur, fun k => (htu.x k).trans (hst.x k), fun d => (htu.slots d).trans (hst.slots d)⟩
theorem KeepsView.of_same {s t : State} (h : t.cur = s.cur) (hc : t.ctxs = s.ctxs) (hd : t.sheds = s.sheds) : KeepsView s t :=
  ⟨h, fun k => by rw [State.ctx, hc, State.ctx], fun d => by rw [State.shed, hd, State.shed]⟩

/-- A step that puts at most n more lines into a slice, merges partials only where a slice may have been full, and adds none. -/
structure Moves (n : Nat) (s t : State) : Prop where
  bytes : ∀ q a, ¬(s.PartialAt a ∧ s.Crowded n) → t.byteQ q a = s.byteQ q a
  partials : ∀ b, t.hasPartial b = true → s.hasPartial b = true
  lines : ∀ q d, t.inSlice q d ≤ s.inSlice q d + n
  view : KeepsView s t

theorem Moves.refl (s : State) : Moves 0 s s := ⟨fun _ _ _ => rfl, fun _ => id, fun _ _ => Nat.le_refl _, KeepsView.refl s⟩
theorem Crowded.mono {s : State} {m n : Nat} (h : s.Crowded m) (hmn : m ≤ n) : s.Crowded n := by
  obtain ⟨q, d, h⟩ := h
  exact ⟨q, d, by omega⟩
theorem Moves.mono {m n : Nat} {s t : State} (h : Moves m s t) (hmn : m ≤ n) : Moves n s t :=
  ⟨fun q a hn => h.bytes q a fun hm => hn ⟨hm.1, Crowded.mono hm.2 hmn⟩, h.partials, fun q d => (h.lines q d).trans (Nat.add_le_add_left hmn _), h.view⟩
theorem Moves.trans {m n : Nat} {s t u : State} (hst : Moves m s t) (htu : Moves n t u) : Moves (m + n) s u := by
  refine ⟨fun q a hn => ?_, fun b hb => hst.partials b (htu.partials b hb), fun q d => ?_, hst.view.trans htu.view⟩
  · refine (htu.bytes q a fun h => hn ⟨?_, ?_⟩).trans (hst.bytes q a fun h => hn ⟨h.1, Crowded.mono h.2 (Nat.le_add_right m n)⟩)
    · obtain ⟨⟨b, hlo, hhi, hb⟩, -⟩ := h
      exact ⟨b, hlo, hhi, hst.partials b hb⟩
    · obtain ⟨-, r, d, hfull⟩ := h
      have := hst.lines r d
      exact ⟨r, d, by omega⟩
  · have := hst.lines q d
    have := htu.lines q d
    omega
/-- A step that leaves the memories, the partials and level two. -/
theorem Moves.of_same {s t : State} (hm : t.ord.mem = s.ord.mem) (hp : t.ord.partials = s.ord.partials) (hl : t.ord.l2 = s.ord.l2)
    (hv : KeepsView s t) : Moves 0 s t :=
  ⟨fun q a _ => by rw [State.byteQ, State.byteQ, State.memQ, State.memQ]; simp only [hm],
    fun b hb => by simpa only [State.hasPartial, State.partialsQ, hp] using hb,
    fun q d => by simp only [State.inSlice, State.l2Q, hl]; exact Nat.le_refl _, hv⟩

theorem updL2_frame (s : State) (q line : Nat) (f : L2Line → L2Line) : (s.updL2 q line f).ord.mem = s.ord.mem ∧
    (s.updL2 q line f).ord.partials = s.ord.partials ∧ KeepsView s (s.updL2 q line f) ∧
    ∀ p, p % 4 ≠ q % 4 → (s.updL2 q line f).l2Q p = s.l2Q p := by
  unfold State.updL2
  split
  · exact ⟨rfl, rfl, (KeepsView.of_same rfl rfl rfl), fun p h => by rw [l2Q_setL2, if_neg h]⟩
  · exact ⟨rfl, rfl, KeepsView.refl s, fun _ _ => rfl⟩

theorem moves_updL2 (s : State) (q line : Nat) (f : L2Line → L2Line) : Moves 1 s (s.updL2 q line f) := by
  obtain ⟨hm, hp, hv, -⟩ := updL2_frame s q line f
  exact ⟨fun q a _ => by rw [State.byteQ, State.byteQ, State.memQ, State.memQ]; simp only [hm],
    fun b hb => by simpa only [State.hasPartial, State.partialsQ, hp] using hb, inSlice_updL2 s q line f, hv⟩
theorem moves_updCore (s : State) (k : Nat) (f : Core → Core) : Moves 0 s (s.updCore k f) := Moves.of_same rfl rfl rfl (KeepsView.of_same rfl rfl rfl)

theorem moves_evictL1 (s : State) (core line : Nat) : Moves 1 s (s.evictL1 core line) := by
  unfold State.evictL1
  split
  · exact (Moves.refl s).mono (Nat.zero_le 1)
  · dsimp only
    split
    · exact (moves_updCore ..).mono (Nat.zero_le 1)
    · exact (moves_updCore ..).trans (moves_updL2 ..)

/-! ## Merges -/

theorem correct_lines (s : State) (loc : Nat) : (s.correct loc).ord.partials = s.ord.partials ∧ (s.correct loc).ord.l2 = s.ord.l2 ∧
    (s.correct loc).ord.mem = s.ord.mem := by
  unfold State.correct
  split <;> exact ⟨rfl, rfl, rfl⟩

theorem mergeDword_view (s : State) (loc : Nat) : KeepsView s (s.mergeDword loc) := by
  have only := onlyMemory_mergeDword s loc
  refine KeepsView.of_same only.cur only.ctxs ?_
  unfold State.mergeDword
  split
  · rfl
  · have performed {v : Word} {bad : Bool} :
        (s.tickNext.perform noWriter s.next (home loc) loc 0xFF v none none false true bad).sheds = s.sheds := by
      unfold State.perform State.tagWrite State.recode
      dsimp only
      split
      · split <;> rfl
      · rfl
    dsimp only
    rw [State.correct_sheds]
    split
    · exact performed
    · exact performed

theorem mergeDword_frame (s : State) (loc : Nat) : (s.mergeDword loc).ord.partials = s.ord.partials ∧ (s.mergeDword loc).ord.l2 = s.ord.l2 ∧
    ∀ q a, ¬(s.hasPartial loc = true ∧ loc ≤ a ∧ a < loc + 8) → (s.mergeDword loc).byteQ q a = s.byteQ q a := by
  unfold State.mergeDword
  cases hp : s.hasPartial loc with
  | false => exact ⟨rfl, rfl, fun _ _ _ => rfl⟩
  | true =>
    rw [if_neg (by decide)]
    dsimp only
    generalize List.foldl _ (s.readQ (home loc) loc) _ = v
    generalize ht : s.tickNext.perform noWriter s.next (home loc) loc 0xFF v none none false true (s.poisoned (home loc) loc) = t
    have performed : t.ord.partials = s.ord.partials ∧ t.ord.l2 = s.ord.l2 ∧ t.ord.mem = (s.setMemQ (home loc) ((s.memQ (home loc)).setDword loc 0xFF v)).ord.mem := by
      rw [← ht]
      refine ⟨?_, ?_, perform_mem ..⟩ <;>
      · unfold State.perform State.tagWrite State.recode
        dsimp only
        split
        · split <;> rfl
        · rfl
    have corrected : ∀ u : State, u.ord.partials = t.ord.partials ∧ u.ord.l2 = t.ord.l2 ∧ u.ord.mem = t.ord.mem →
        (u.correct loc).ord.partials = s.ord.partials ∧ (u.correct loc).ord.l2 = s.ord.l2 ∧
        ∀ q a, ¬(True ∧ loc ≤ a ∧ a < loc + 8) → (u.correct loc).byteQ q a = s.byteQ q a := fun u written => by
      obtain ⟨hpart, hl2, hmem⟩ := correct_lines u loc
      refine ⟨by rw [hpart, written.1, performed.1], by rw [hl2, written.2.1, performed.2.1], fun q a ha => ?_⟩
      have here : (u.correct loc).memQ q = (s.setMemQ (home loc) ((s.memQ (home loc)).setDword loc 0xFF v)).memQ q := by
        rw [State.memQ, State.memQ]
        simp only [hmem, written.2.2, performed.2.2]
      rw [State.byteQ, here]
      by_cases hq : q % 4 = home loc % 4
      · have same : ∀ x : State, x.memQ q = x.memQ (home loc) := fun x => by simp only [State.memQ, hq]
        rw [same, State.memQ_setMemQ_self, State.byteQ, same, Memory.get_setDword_out 0xFF v (by simp only [true_and] at ha; omega)]
      · rw [State.memQ_setMemQ_ne s _ hq]; rfl
    simp only [true_and] at corrected ⊢
    split
    · exact corrected _ ⟨rfl, rfl, rfl⟩
    · exact corrected _ ⟨rfl, rfl, rfl⟩

/-- Partials of whole lines, and lines of level two, only go. -/
structure LinesGo (s t : State) : Prop where
  mem : t.ord.mem = s.ord.mem
  partials : ∀ q b, (t.partialsQ q).get? b = none ∨ (t.partialsQ q).get? b = (s.partialsQ q).get? b
  lines : ∀ (p : Nat × L2Line → Bool) (q : Nat), ((t.l2Q q).filter p).length ≤ ((s.l2Q q).filter p).length
  view : KeepsView s t

theorem LinesGo.refl (s : State) : LinesGo s s := ⟨rfl, fun _ _ => .inr rfl, fun _ _ => Nat.le_refl _, KeepsView.refl s⟩
theorem LinesGo.trans {s t u : State} (hst : LinesGo s t) (htu : LinesGo t u) : LinesGo s u := by
  refine ⟨htu.mem.trans hst.mem, fun q b => ?_, fun p q => (htu.lines p q).trans (hst.lines p q),
    hst.view.trans htu.view⟩
  rcases htu.partials q b with h | h
  · exact .inl h
  · rw [h]; exact hst.partials q b
theorem LinesGo.foldl {α : Type} {f : State → α → State} (hf : ∀ t a, LinesGo t (f t a)) (s : State) (l : List α) : LinesGo s (l.foldl f s) :=
  List.foldlRecOn l f (motive := LinesGo s) (LinesGo.refl s) fun t ht a _ => ht.trans (hf t a)
theorem LinesGo.hasPartial {s t : State} (h : LinesGo s t) {b : Nat} (hb : t.hasPartial b = true) : s.hasPartial b = true := by
  simp only [State.hasPartial, List.any_eq_true] at hb ⊢
  obtain ⟨q, hq, hb⟩ := hb
  refine ⟨q, hq, ?_⟩
  rcases h.partials q (lineOf b) with hn | hs
  · rw [hn] at hb; cases hb
  · rwa [hs] at hb

theorem partialsQ_setPartials (s : State) (q p : Nat) (t : Table Partial) :
    (s.setPartials q t).partialsQ p = if p % 4 = q % 4 then t else s.partialsQ p := by
  unfold State.partialsQ State.setPartials
  dsimp only
  rw [Vector.getElem_set]
  by_cases h : p % 4 = q % 4
  · rw [if_pos h, if_pos h.symm]
  · rw [if_neg h, if_neg (Ne.symm h)]
theorem get?_del {α : Type} (t : Table α) (k j : Nat) : (t.del k).get? j = none ∨ (t.del k).get? j = t.get? j := by
  by_cases h : j = k
  · subst h; exact .inl (Table.get?_del_self t j)
  · refine .inr ?_
    induction t with
    | nil => rfl
    | cons e t ih =>
      obtain ⟨i, a⟩ := e
      simp only [Table.del] at ih ⊢
      rw [List.filter_cons]
      by_cases hi : i = k
      · subst hi
        simpa [Table.get?, Ne.symm h] using ih
      · simp only [ne_eq, hi, not_false_eq_true, decide_true, if_true, Table.get?, ih]

theorem linesGo_delPartials (s : State) (q line : Nat) : LinesGo s (s.setPartials q ((s.partialsQ q).del line)) := by
  refine ⟨rfl, fun p b => ?_, fun _ _ => Nat.le_refl _, (KeepsView.of_same rfl rfl rfl)⟩
  rw [partialsQ_setPartials]
  split
  case isTrue h =>
    have : s.partialsQ p = s.partialsQ q := by simp only [State.partialsQ, h]
    rw [this]; exact get?_del ..
  case isFalse h => exact .inr rfl
theorem linesGo_delL2 (s : State) (q line : Nat) : LinesGo s (s.setL2 q ((s.l2Q q).del line)) := by
  refine ⟨rfl, fun _ _ => .inr rfl, fun p r => ?_, (KeepsView.of_same rfl rfl rfl)⟩
  rw [l2Q_setL2]
  split
  case isTrue h => rw [l2Q_mod h]; exact length_filter_del ..
  case isFalse h => exact Nat.le_refl _

/-- After the merges of its doublewords a MERGE of a line only clears. -/
theorem linesGo_mergeLine (s : State) (line : Nat) : LinesGo ((List.range 8).foldl (fun t i => t.mergeDword (line + 8 * i)) s) (s.mergeLine line) := by
  unfold State.mergeLine
  refine LinesGo.foldl (fun t q => ?_) _ _
  dsimp only
  split
  · split
    · exact (linesGo_delPartials t q line).trans (linesGo_delL2 ..)
    · exact linesGo_delPartials t q line
  · exact linesGo_delPartials t q line
/-- MERGE of a line: only bytes of doublewords with a partial change, and partials and lines of level two only go. -/
theorem mergeLine_moves (s : State) (line : Nat) : (∀ q a, ¬s.PartialAt a → (s.mergeLine line).byteQ q a = s.byteQ q a) ∧
    (∀ b, (s.mergeLine line).hasPartial b = true → s.hasPartial b = true) ∧
    (∀ (p : Nat × L2Line → Bool) (q : Nat), (((s.mergeLine line).l2Q q).filter p).length ≤ ((s.l2Q q).filter p).length) ∧
    KeepsView s (s.mergeLine line) := by
  have gone := linesGo_mergeLine s line
  generalize s.mergeLine line = s2 at gone ⊢
  generalize hs1 : List.foldl (fun t i => State.mergeDword t (line + 8 * i)) s (List.range 8) = s1 at gone
  have seen : KeepsView s s1 := by
    rw [← hs1]
    exact List.foldlRecOn (List.range 8) _ (motive := KeepsView s) (KeepsView.refl s) fun t ht i _ => ht.trans (mergeDword_view ..)
  have merged : s1.ord.partials = s.ord.partials ∧ s1.ord.l2 = s.ord.l2 ∧ ∀ q a, ¬s.PartialAt a → s1.byteQ q a = s.byteQ q a := by
    rw [← hs1]
    refine List.foldlRecOn (List.range 8) _ (motive := fun t : State => t.ord.partials = s.ord.partials ∧ t.ord.l2 = s.ord.l2 ∧
      ∀ q a, ¬s.PartialAt a → t.byteQ q a = s.byteQ q a) ⟨rfl, rfl, fun _ _ _ => rfl⟩ fun t ht i _ => ?_
    obtain ⟨hp, hl, hb⟩ := ht
    obtain ⟨fp, fl, fb⟩ := mergeDword_frame t (line + 8 * i)
    have same : t.hasPartial (line + 8 * i) = s.hasPartial (line + 8 * i) := by simp only [State.hasPartial, State.partialsQ, hp]
    exact ⟨fp.trans hp, fl.trans hl, fun q a ha => (fb q a fun h => ha ⟨_, h.2.1, h.2.2, same ▸ h.1⟩).trans (hb q a ha)⟩
  obtain ⟨hp, hl, hb⟩ := merged
  refine ⟨fun q a ha => ?_, fun b h => ?_, fun p q => ?_, seen.trans gone.view⟩
  · rw [← hb q a ha, State.byteQ, State.byteQ, State.memQ, State.memQ]; simp only [gone.mem]
  · have := gone.hasPartial h
    simpa only [State.hasPartial, State.partialsQ, hp] using this
  · have := gone.lines p q
    simpa only [State.l2Q, hl] using this

/-! ## Evictions -/

/-- A step of the eviction of a line of quarter r: partials are merged, and but for that line level two gains none. -/
structure Evicts (r line : Nat) (s t : State) : Prop where
  bytes : ∀ q a, ¬s.PartialAt a → t.byteQ q a = s.byteQ q a
  partials : ∀ b, t.hasPartial b = true → s.hasPartial b = true
  here : ∀ q d, t.inSliceBut line q d ≤ s.inSliceBut line q d
  there : ∀ q d, q % 4 ≠ r % 4 → t.inSlice q d ≤ s.inSlice q d
  view : KeepsView s t

theorem Evicts.refl (r line : Nat) (s : State) : Evicts r line s s :=
  ⟨fun _ _ _ => rfl, fun _ => id, fun _ _ => Nat.le_refl _, fun _ _ _ => Nat.le_refl _, KeepsView.refl s⟩
theorem Evicts.trans {r line : Nat} {s t u : State} (hst : Evicts r line s t) (htu : Evicts r line t u) : Evicts r line s u := by
  refine ⟨fun q a ha => ?_, fun b hb => hst.partials b (htu.partials b hb), fun q d => (htu.here q d).trans (hst.here q d),
    fun q d h => (htu.there q d h).trans (hst.there q d h), hst.view.trans htu.view⟩
  refine (htu.bytes q a fun ⟨b, hlo, hhi, hb⟩ => ha ⟨b, hlo, hhi, hst.partials b hb⟩).trans (hst.bytes q a ha)
theorem Evicts.foldl {α : Type} {r line : Nat} {f : State → α → State} {l : List α} (hf : ∀ t, ∀ a ∈ l, Evicts r line t (f t a)) (s : State) :
    Evicts r line s (l.foldl f s) :=
  List.foldlRecOn l f (motive := Evicts r line s) (Evicts.refl r line s) fun t ht a ha => ht.trans (hf t a ha)
/-- A step that leaves the memories and partials, and adds no line. -/
theorem Evicts.of_same {r line : Nat} {s t : State} (hm : t.ord.mem = s.ord.mem) (hp : t.ord.partials = s.ord.partials) (hl : t.ord.l2 = s.ord.l2)
    (hv : KeepsView s t) : Evicts r line s t :=
  ⟨fun q a _ => by rw [State.byteQ, State.byteQ, State.memQ, State.memQ]; simp only [hm],
    fun b hb => by simpa only [State.hasPartial, State.partialsQ, hp] using hb,
    fun q d => by simp only [State.inSliceBut, State.l2Q, hl]; exact Nat.le_refl _,
    fun q d _ => by simp only [State.inSlice, State.l2Q, hl]; exact Nat.le_refl _, hv⟩

theorem evicts_updL2 (s : State) (q line : Nat) (f : L2Line → L2Line) : Evicts q line s (s.updL2 q line f) := by
  obtain ⟨hm, hp, hv, hl⟩ := updL2_frame s q line f
  exact ⟨fun q a _ => by rw [State.byteQ, State.byteQ, State.memQ, State.memQ]; simp only [hm],
    fun b hb => by simpa only [State.hasPartial, State.partialsQ, hp] using hb, fun p d => (inSliceBut_updL2 s q line f p d).le,
    fun p d h => by rw [State.inSlice, hl p h]; exact Nat.le_refl _, hv⟩
theorem evicts_evictL1 {r core : Nat} (h : qtrOfCore core = r) (s : State) (line : Nat) : Evicts r line s (s.evictL1 core line) := by
  unfold State.evictL1
  split
  · exact Evicts.refl r line s
  · dsimp only
    have dropped : Evicts r line s (s.dropL1 core line) := Evicts.of_same rfl rfl rfl (KeepsView.of_same rfl rfl rfl)
    split
    · exact dropped
    · exact dropped.trans (h ▸ evicts_updL2 ..)

theorem copyTakes_lines (s : State) (id : Nat) (mirror : Bool) : (s.copyTakes id mirror).ord.mem = s.ord.mem ∧
    (s.copyTakes id mirror).ord.partials = s.ord.partials ∧ (s.copyTakes id mirror).ord.l2 = s.ord.l2 ∧ KeepsView s (s.copyTakes id mirror) := by
  unfold State.copyTakes
  split
  · exact ⟨rfl, rfl, rfl, (KeepsView.of_same rfl rfl rfl)⟩
  · split
    · exact ⟨rfl, rfl, rfl, (KeepsView.of_same rfl rfl rfl)⟩
    · dsimp only
      split
      · exact ⟨rfl, rfl, rfl, (KeepsView.of_same rfl rfl rfl)⟩
      · cases mirror <;> exact ⟨rfl, rfl, rfl, (KeepsView.of_same rfl rfl rfl)⟩
theorem evicts_durable (r line : Nat) (s : State) (id : Nat) (mirror : Bool) : Evicts r line s (s.durable id mirror) := by
  unfold State.durable
  split
  · exact Evicts.refl r line s
  · split
    · exact Evicts.refl r line s
    · obtain ⟨hm, hp, hl, hv⟩ := copyTakes_lines s id mirror
      exact Evicts.of_same hm hp hl hv
theorem evicts_durableLine (r line : Nat) (s : State) (l : Nat) : Evicts r line s (s.durableLine l) :=
  Evicts.foldl (fun t i _ => (evicts_durable r line t i false).trans (evicts_durable ..)) s
theorem evicts_mergeLine (r line : Nat) (s : State) (l : Nat) : Evicts r line s (s.mergeLine l) := by
  obtain ⟨hb, hp, hl, hv⟩ := mergeLine_moves s l
  refine ⟨hb, hp, fun q d => ?_, fun q d _ => hl _ q, hv⟩
  simp only [State.inSliceBut, Table.del, List.filter_filter]
  exact hl _ q

theorem mem_l1Holders {s : State} {q line : Nat} {e : Nat × L1State} (h : e ∈ s.l1Holders q line) : qtrOfCore e.1 = q := by
  obtain ⟨c, -, hc⟩ := List.mem_filterMap.mp h
  split at hc
  case isTrue hq =>
    obtain ⟨l, -, hl⟩ := Option.map_eq_some_iff.mp hc
    rw [← hl]; exact hq
  case isFalse => cases hc

theorem inSliceBut_of_get?_none {s : State} {q line : Nat} (h : (s.l2Q q).get? line = none) (d : Nat) : s.inSliceBut line q d = s.inSlice q d := by
  have stays : (s.l2Q q).del line = s.l2Q q := by
    refine List.filter_eq_self.mpr fun e he => ?_
    have := mt (Table.get?_isSome_iff (s.l2Q q) line).mpr (by simp [h])
    simp only [List.mem_map, not_exists, not_and] at this
    simpa using this e he
  rw [State.inSliceBut, stays, State.inSlice]

/-- An evicted line is gone from its quarter, and what else level two holds stays or goes. -/
theorem evictL2_leaves (s : State) (q line : Nat) : (∀ p a, ¬s.PartialAt a → (s.evictL2 q line).byteQ p a = s.byteQ p a) ∧
    (∀ b, (s.evictL2 q line).hasPartial b = true → s.hasPartial b = true) ∧ (∀ p d, (s.evictL2 q line).inSlice p d ≤ s.inSlice p d) ∧
    KeepsView s (s.evictL2 q line) := by
  unfold State.evictL2
  dsimp only
  generalize ht : List.foldl _ s (s.l1Holders q line) = t
  have first : Evicts q line s t := by
    rw [← ht]
    exact Evicts.foldl (fun t e he => evicts_evictL1 (mem_l1Holders he) t line) s
  split
  case h_1 hn =>
    refine ⟨first.bytes, first.partials, fun p d => ?_, first.view⟩
    by_cases hp : p % 4 = q % 4
    · rw [← inSliceBut_of_get?_none (by rw [l2Q_mod hp]; exact hn)]
      exact (first.here p d).trans (inSliceBut_le ..)
    · exact first.there p d hp
  case h_2 l hl =>
    generalize hu : (if l.state = .c then t.mergeLine line else if l.state = .d then t.durableLine line else t) = u
    have whole : Evicts q line s u := by
      rw [← hu]
      split
      · exact first.trans (evicts_mergeLine ..)
      · split
        · exact first.trans (evicts_durableLine ..)
        · exact first
    refine ⟨whole.bytes, whole.partials, fun p d => ?_, whole.view.trans (KeepsView.of_same rfl rfl rfl)⟩
    rw [State.inSlice, l2Q_setL2]
    split
    case isTrue hp =>
      have := (whole.here p d).trans (inSliceBut_le ..)
      rwa [State.inSliceBut, l2Q_mod hp] at this
    case isFalse hp => exact whole.there p d hp

/-- Room in a slice is made only where it is full. -/
theorem moves_roomL2 (s : State) (q d : Nat) : Moves 0 s (s.roomL2 q d) := by
  unfold State.roomL2
  dsimp only
  split
  · exact Moves.refl s
  case isFalse hfull =>
    have crowded : s.Crowded 0 := ⟨q, d, Nat.not_lt.mp hfull⟩
    split
    case h_1 v _ =>
      obtain ⟨hb, hp, hl, hv⟩ := evictL2_leaves s q v
      exact ⟨fun p a hn => hb p a fun hpart => hn ⟨hpart, crowded⟩, hp, hl, hv.trans (KeepsView.of_same rfl rfl rfl)⟩
    case h_2 => exact Moves.refl s

theorem moves_setL2_put (s : State) (q line : Nat) (l : L2Line) : Moves 1 s (s.setL2 q ((s.l2Q q).put line l)) := by
  refine ⟨fun _ _ _ => rfl, fun _ => id, fun p d => ?_, (KeepsView.of_same rfl rfl rfl)⟩
  rw [State.inSlice, l2Q_setL2]
  split
  case isTrue h =>
    rw [State.inSlice, l2Q_mod h]
    exact length_filter_put ..
  case isFalse h => exact Nat.le_succ _

theorem moves_fillL2 (s : State) (q line : Nat) (st : L2State) (low : Bool) : Moves 1 s (s.fillL2 q line st low) := by
  unfold State.fillL2
  split
  · exact moves_setL2_put ..
  · exact (moves_roomL2 ..).trans (moves_setL2_put ..)
theorem moves_askL2 (s : State) (q line shed : Nat) : Moves 1 s (s.askL2 q line shed) := moves_updL2 ..
theorem moves_fillL1 (s : State) (core line : Nat) (st : L1State) (low : Bool) : Moves 1 s (s.fillL1 core line st low) := by
  unfold State.fillL1
  dsimp only
  refine Moves.trans (n := 0) (t := _) ?_ (moves_updCore ..)
  split
  · exact (Moves.refl s).mono (Nat.zero_le 1)
  · split
    case h_1 v _ =>
      obtain ⟨hb, hp, hl, hv⟩ := moves_evictL1 s core v
      exact ⟨hb, hp, hl, hv.trans (KeepsView.of_same rfl rfl rfl)⟩
    case h_2 => exact (Moves.refl s).mono (Nat.zero_le 1)

/-- Changes of one line's record leave its slice, and are puts that replace once one has been made. -/
theorem inSlice_updL2_settled {s : State} {q line p : Nat} {f : L2Line → L2Line} (hf : KeepsSlice f) (h : Settled (s.l2Q p) line) (d : Nat) :
    Settled ((s.updL2 q line f).l2Q p) line ∧ (s.updL2 q line f).inSlice p d = s.inSlice p d := by
  rw [State.inSlice]
  rcases updL2_l2Q s q line f p with hs | ⟨l, hl, hs⟩ <;> rw [hs]
  · exact ⟨h, rfl⟩
  · refine ⟨settled_put .., ?_⟩
    rw [h.length_filter_put hl (by rw [hf.at_]), State.inSlice]

/-- A step that only changes records of one line in level two, and no memory. -/
structure Shares (line : Nat) (s t : State) : Prop where
  mem : t.ord.mem = s.ord.mem
  partials : t.ord.partials = s.ord.partials
  lines : ∀ q d, (t.inSlice q d ≤ s.inSlice q d + 1) ∧ (Settled (s.l2Q q) line → Settled (t.l2Q q) line ∧ t.inSlice q d = s.inSlice q d) ∧
    (t.inSlice q d ≤ s.inSlice q d ∨ Settled (t.l2Q q) line)
  view : KeepsView s t

theorem Shares.trans {line : Nat} {s t u : State} (hst : Shares line s t) (htu : Shares line t u) : Shares line s u := by
  refine ⟨htu.mem.trans hst.mem, htu.partials.trans hst.partials, fun q d => ?_, hst.view.trans htu.view⟩
  obtain ⟨h1, h2, h3⟩ := hst.lines q d
  obtain ⟨k1, k2, k3⟩ := htu.lines q d
  refine ⟨?_, fun hs => ?_, ?_⟩
  · rcases h3 with h3 | h3
    · omega
    · rw [(k2 h3).2]; exact h1
  · obtain ⟨ht, he⟩ := h2 hs
    exact ⟨(k2 ht).1, (k2 ht).2.trans he⟩
  · rcases k3 with k3 | k3
    · rcases h3 with h3 | h3
      · exact .inl (k3.trans h3)
      · exact .inr (k2 h3).1
    · exact .inr k3
theorem Shares.of_same {line : Nat} {s t : State} (h : t.ord = s.ord) (hv : KeepsView s t) : Shares line s t :=
  ⟨by rw [h], by rw [h], fun q d => by
    have same : t.l2Q q = s.l2Q q := by simp only [State.l2Q, h]
    rw [State.inSlice, State.inSlice, same]
    exact ⟨Nat.le_succ _, fun hs => ⟨hs, rfl⟩, .inl (Nat.le_refl _)⟩, hv⟩
theorem Shares.foldl {α : Type} {line : Nat} {f : State → α → State} (hf : ∀ t a, Shares line t (f t a)) (s : State) (l : List α) :
    Shares line s (l.foldl f s) :=
  List.foldlRecOn l f (motive := Shares line s) (Shares.of_same rfl (KeepsView.refl s)) fun t ht a _ => ht.trans (hf t a)
theorem Shares.moves {line : Nat} {s t : State} (h : Shares line s t) : Moves 1 s t :=
  ⟨fun q a _ => by rw [State.byteQ, State.byteQ, State.memQ, State.memQ]; simp only [h.mem],
    fun b hb => by simpa only [State.hasPartial, State.partialsQ, h.partials] using hb, fun q d => (h.lines q d).1, h.view⟩

theorem shares_updL2 (s : State) (q line : Nat) {f : L2Line → L2Line} (hf : KeepsSlice f) : Shares line s (s.updL2 q line f) := by
  obtain ⟨hm, hp, hv, -⟩ := updL2_frame s q line f
  refine ⟨hm, hp, fun p d => ⟨inSlice_updL2 .., fun h => inSlice_updL2_settled hf h d, ?_⟩, hv⟩
  rcases updL2_l2Q s q line f p with hs | ⟨l, hl, hs⟩
  · rw [State.inSlice, hs]; exact .inl (Nat.le_refl _)
  · rw [hs]; exact .inr (settled_put ..)
theorem shares_shareL1 (s : State) (core line : Nat) : Shares line s (s.shareL1 core line) := by
  unfold State.shareL1
  split
  · exact Shares.of_same rfl (KeepsView.refl s)
  · exact Shares.trans (t := s.markL1 core line .s) (Shares.of_same rfl (KeepsView.of_same rfl rfl rfl)) (shares_updL2 _ _ _ fun l => rfl)

/-- A load of a line puts at most three more lines into a slice. -/
theorem moves_lineRead (s : State) (core loc : Nat) (hint : BitVec 2) : Moves 3 s (s.lineRead core loc hint) := by
  unfold State.lineRead
  dsimp only
  split
  · exact (Moves.refl s).mono (Nat.zero_le 3)
  · split
    · split
      · exact (Moves.refl s).mono (Nat.zero_le 3)
      · split
        · exact ((moves_fillL2 ..).trans (moves_askL2 ..)).mono (by decide)
        · exact ((moves_fillL2 ..).trans (moves_askL2 ..)).trans (moves_fillL1 ..)
    · exact ((Shares.foldl (fun t h => shares_shareL1 ..) s _).moves.trans (moves_askL2 ..)).trans (moves_fillL1 ..)

/-! ## Reads at issue (R317) -/

theorem slots_updShed_tlb (s : State) (d j : Nat) (f : List TlbEntry → List TlbEntry) :
    ((s.updShed d fun h => { h with tlb := f h.tlb }).shed j).slots = (s.shed j).slots := by
  rw [State.shed_updShed]
  split
  case isTrue h => subst h; rfl
  case isFalse => rfl
theorem slots_tlbFill (s : State) (core : Nat) (e : TlbEntry) (d : Nat) : ((s.tlbFill core e).shed d).slots = (s.shed d).slots :=
  slots_updShed_tlb (s.updCore core fun c => { c with tlb := tlbPut 256 c.tlb e }) _ d (fun l => tlbPut 4096 l e)
theorem slots_translate {s : State} {k : Nat} {va : Word} {wr : Bool} {h : Hit} (ht : s.translate k va wr = .ok h) (d : Nat) :
    (h.st.shed d).slots = (s.shed d).slots := by
  simp only [State.translate, State.translateFor] at ht
  split at ht
  · rw [← Except.ok.inj ht]
  · split at ht
    · cases ht
    · split at ht
      · cases ht
      · split at ht
        · cases ht
        · unfold State.leafFor at ht
          split at ht
          case h_1 e t hfind =>
            split at ht
            · cases ht
              unfold State.tlbFind at hfind
              split at hfind
              · cases hfind; rfl
              · obtain ⟨e, -, he⟩ := Option.map_eq_some_iff.mp hfind
                cases he
                exact slots_updShed_tlb s _ d (fun l => tlbPut 4096 l e)
            · cases ht
          case h_2 =>
            dsimp only at ht
            split at ht
            · cases ht
            case h_2 e _ =>
              cases ht
              exact slots_tlbFill s _ _ d

theorem moves_translate {s : State} {k : Nat} {va : Word} {wr : Bool} {h : Hit} (ht : s.translate k va wr = .ok h) : Moves 0 s h.st := by
  have only := onlyCaches_translate ht
  exact Moves.of_same (by rw [only.ord]) (by rw [only.ord]) (by rw [only.ord]) ⟨only.cur, fun j => by rw [only.ctx], slots_translate ht⟩
theorem moves_see (s : State) (k op : Nat) (acq : Bool) (set : List Nat) : Moves 0 s (s.updCtx k fun c => c.see op acq set) := by
  refine Moves.of_same rfl rfl rfl ⟨rfl, fun j => ?_, fun _ => rfl⟩
  rw [State.ctx_updCtx]
  split
  case isTrue h =>
    subst h
    unfold Ctx.see
    split <;> rfl
  case isFalse => rfl
theorem moves_correct (s : State) (loc : Nat) : Moves 0 s (s.correct loc) := by
  obtain ⟨hp, hl, hm⟩ := correct_lines s loc
  exact Moves.of_same hm hp hl (KeepsView.of_same (State.correct_cur ..) (State.correct_ctxs ..) (State.correct_sheds ..))

theorem moves_tickNext (s : State) : Moves 0 s s.tickNext := Moves.of_same rfl rfl rfl (KeepsView.of_same rfl rfl rfl)
theorem moves_dwordRead (s : State) (k op : Nat) (set : List Nat) (core loc : Nat) (hint : BitVec 2) :
    Moves 3 s ((((s.updCtx k fun c => c.see op false set).lineRead core loc hint).correct loc).tickNext) :=
  (((moves_see ..).trans (moves_lineRead ..)).trans (moves_correct ..)).trans (moves_tickNext _)

/-- A read of n doublewords at issue. -/
theorem moves_syncPart {k : Nat} {need : BitVec 8} {n : Nat} {s t : State} {va : Word} {ws : List Word} (h : s.syncPart k need va n = .ok ws t) :
    Moves (3 * n) s t ∧ ws.length = n := by
  induction n generalizing s va ws t with
  | zero =>
    rw [State.syncPart] at h
    cases h
    exact ⟨Moves.refl _, rfl⟩
  | succ n ih =>
    rw [State.syncPart] at h
    split at h
    case h_1 => split at h <;> cases h
    case h_2 g ht =>
      dsimp only at h
      split at h
      · cases h
      · split at h
        · cases h
        · split at h
          case h_1 vs u hrest =>
            obtain ⟨rest, len⟩ := ih hrest
            cases h
            refine ⟨?_, by rw [List.length_cons, len]⟩
            exact (((moves_translate ht).trans (moves_dwordRead ..)).trans rest).mono (by omega)
          case h_2 hne => exact absurd h (hne ws t)
theorem moves_syncLoad {k n : Nat} {s t : State} {va : Word} {ws : List Word} (h : s.syncLoad k va n = .ok ws t) : Moves (3 * n) s t ∧ ws.length = n :=
  moves_syncPart h
theorem moves_syncByte {k : Nat} {s t : State} {va : Word} {ws : List Word} (h : s.syncByte k va = .ok ws t) : Moves 3 s t := by
  unfold State.syncByte at h
  split at h
  case h_1 hr => cases h; exact (moves_syncPart hr).1
  case h_2 => cases h
  case h_3 r hr _ => exact (moves_syncPart h).1
theorem moves_syncHalf {k : Nat} {s t : State} {va : Word} {ws : List Word} (h : s.syncHalf k va = .ok ws t) : Moves 3 s t := by
  unfold State.syncHalf at h
  split at h
  case h_1 hr => cases h; exact (moves_syncPart hr).1
  case h_2 => cases h
  case h_3 r hr _ => exact (moves_syncPart h).1

theorem Moves.sameButMerges {n : Nat} {s t : State} (h : Moves n s t) (hn : n ≤ 64) : SameButMerges s t :=
  (h.mono hn).bytes

end Sys2Proof.Machine

/-! SUPPORT. The grammar engine and the codebook slots (R196, R257 to R263). -/
namespace Sys2Proof.Machine

/-! ## What an engine's instruction writes -/

theorem KeepsView.me_x {s t : State} (h : KeepsView s t) : t.me.x = s.me.x := by rw [State.me, h.cur, h.x, State.me]
theorem KeepsView.rx {s t : State} (h : KeepsView s t) (r : BitVec 5) : t.rx r = s.rx r := by
  rw [State.rx, Ctx.rx, h.me_x, State.rx, Ctx.rx]
theorem KeepsView.myCore {s t : State} (h : KeepsView s t) : t.myCore = s.myCore := congrArg coreOfCtx h.cur

@[simp] theorem grammar_setGrammar (s : State) (g : Grammar) : ((s.setGrammar g).core s.myCore).grammar = some g := by
  rw [State.setGrammar, State.core_updCore_self]
theorem moves_setGrammar (s : State) (g : Grammar) : Moves 0 s (s.setGrammar g) := moves_updCore ..
@[simp] theorem core_setEvent2 (s : State) (v : Bool) (k : Nat) : (s.setEvent2 v).core k = s.core k := rfl
@[simp] theorem event_setEvent2 (s : State) (v : Bool) : (s.setEvent2 v).me.event.getLsbD 2 = v := by
  rw [State.setEvent2, State.me_updMe]
  cases v
  · exact BitVec.getLsbD_and.trans (Bool.and_false _)
  · exact BitVec.getLsbD_or.trans (Bool.or_true _)
theorem moves_setEvent2 (s : State) (v : Bool) : Moves 0 s (s.setEvent2 v) := by
  refine Moves.of_same rfl rfl rfl ⟨rfl, fun k => ?_, fun _ => rfl⟩
  rw [State.setEvent2, State.updMe, State.ctx_updCtx]
  split
  case isTrue h => subst h; rfl
  case isFalse => rfl
@[simp] theorem event_wx (s : State) (r : BitVec 5) (w : Word) : (s.wx r w).me.event = s.me.event := by
  rw [State.wx, State.me_updMe, Ctx.wx_event]
@[simp] theorem core_wx (s : State) (r : BitVec 5) (w : Word) (k : Nat) : (s.wx r w).core k = s.core k := rfl

/-- An engine set, and event bit 2 written. -/
def State.engine (s : State) (g : Grammar) (v : Bool) : State := (s.setGrammar g).setEvent2 v
theorem moves_engine (s : State) (g : Grammar) (v : Bool) : Moves 0 s (s.engine g v) := (moves_setGrammar ..).trans (moves_setEvent2 ..)
theorem grammar_engine {s t : State} (h : KeepsView s t) (g : Grammar) (v : Bool) : ((t.engine g v).core s.myCore).grammar = some g := by
  rw [State.engine, core_setEvent2, ← h.myCore, grammar_setGrammar]
@[simp] theorem event_engine (s : State) (g : Grammar) (v : Bool) : (s.engine g v).me.event.getLsbD 2 = v := event_setEvent2 ..

theorem withGrammar_of_none {s : State} (h : (s.core s.myCore).grammar = none) (k : Grammar → Eff) : withGrammar s k = .trap 20 0 0 := by
  rw [withGrammar, h]
theorem withGrammar_of_some {s : State} {g : Grammar} (h : (s.core s.myCore).grammar = some g) (k : Grammar → Eff) : withGrammar s k = k g := by
  rw [withGrammar, h]
theorem traps_of_noGrammar {s : State} {i : Instr} {k : Grammar → Eff} {eff : State → Eff} (he : exec i s = .next (s.issue i eff))
    (hk : eff s = withGrammar s k) (h : (s.core s.myCore).grammar = none) (hf : s.Fit i) : Traps i s 20 0 0 :=
  traps_of_trap he hf (hk.trans (withGrammar_of_none h k))

/-- Of two reads the later one's state says what both have done. -/
theorem after_after (r : Eff) (s t : State) : (r.after t).after s = r.after t := by cases r <;> rfl

/-! ## A step of the automaton (R261) -/

/-- The entry that `gm.step` takes breaks the table's rules. -/
def Grammar.badEntry (g : Grammar) (e : Word) : Bool :=
  e.extractLsb' 6 2 ≠ (0 : BitVec 2) || ((e.extractLsb' 14 2).toNat ≤ 1 && g.nstate ≤ (e.extractLsb' 0 6).toNat) ||
    ((e.extractLsb' 14 2).toNat = 1 && g.nstate ≤ (e.extractLsb' 8 6).toNat)
/-- What `gm.step` makes of an entry. -/
def stepEff (f : RR) (g : Grammar) (a e : Word) (t : State) : Eff :=
  if g.badEntry e then .trap 20 e 0
  else match takeEntry g (e.extractLsb' 14 2).toNat (e.extractLsb' 8 6).toNat (e.extractLsb' 0 6).toNat with
    | none => .trap 21 a 0
    | some (g1, rej, und) => .done ((t.engine g1 false).wx f.d (stepStatus g1 rej und))

section
variable {f : RR} {s s1 s2 : State} {g : Grammar} {c e : Word}

theorem effGmStep_class (hg : (s.core s.myCore).grammar = some g) (ha : (s.rx f.a).toNat < g.vocab)
    (hc : s.syncByte s.cur (g.clstab + s.rx f.a) = .ok [c] s1) (hn : g.nclass ≤ c.toNat) :
    effGmStep f s = .trapRead s1 20 (s.rx f.a) 0 := by
  rw [effGmStep, withGrammar_of_some hg]
  dsimp only
  rw [if_neg (Nat.not_le.mpr ha), hc, Sync.bind]
  rw [if_pos (show g.nclass ≤ (([c] : List Word).headD 0).toNat from hn)]
  rfl
theorem effGmStep_entry (hg : (s.core s.myCore).grammar = some g) (ha : (s.rx f.a).toNat < g.vocab)
    (hc : s.syncByte s.cur (g.clstab + s.rx f.a) = .ok [c] s1) (hn : c.toNat < g.nclass)
    (he : s1.syncHalf s.cur (g.trtab + BitVec.ofNat 64 (2 * (g.state * g.nclass + c.toNat))) = .ok [e] s2) :
    effGmStep f s = (stepEff f g (s.rx f.a) e s2).after s2 := by
  rw [effGmStep, withGrammar_of_some hg]
  dsimp only
  rw [if_neg (Nat.not_le.mpr ha), hc, Sync.bind]
  rw [if_neg (show ¬g.nclass ≤ (([c] : List Word).headD 0).toNat from Nat.not_le.mpr hn),
    show s1.syncHalf s.cur (g.trtab + BitVec.ofNat 64 (2 * (g.state * g.nclass + (([c] : List Word).headD 0).toNat))) = .ok [e] s2 from he,
    Sync.bind]
  exact after_after _ s1 s2

theorem stepEff_of_bad {a : Word} {t : State} (h : g.badEntry e = true) : stepEff f g a e t = .trap 20 e 0 := if_pos h
theorem stepEff_of_take {a : Word} {t : State} (h : g.badEntry e = false) {r : Grammar × Bool × Bool}
    (ht : takeEntry g (e.extractLsb' 14 2).toNat (e.extractLsb' 8 6).toNat (e.extractLsb' 0 6).toNat = some r) :
    stepEff f g a e t = .done ((t.engine r.1 false).wx f.d (stepStatus r.1 r.2.1 r.2.2)) := by
  rw [stepEff, h, if_neg (by decide), ht]
theorem stepEff_of_full {a : Word} {t : State} (h : g.badEntry e = false)
    (ht : takeEntry g (e.extractLsb' 14 2).toNat (e.extractLsb' 8 6).toNat (e.extractLsb' 0 6).toNat = none) :
    stepEff f g a e t = .trap 21 a 0 := by
  rw [stepEff, h, if_neg (by decide), ht]

theorem badEntry_eq_false (h6 : e.extractLsb' 6 2 = 0#2) (hnext : (e.extractLsb' 14 2).toNat ≤ 1 → (e.extractLsb' 0 6).toNat < g.nstate)
    (hret : (e.extractLsb' 14 2).toNat = 1 → (e.extractLsb' 8 6).toNat < g.nstate) : g.badEntry e = false := by
  simp only [Grammar.badEntry, h6, Bool.or_eq_false_iff, Bool.and_eq_false_imp, decide_eq_false_iff_not, decide_eq_true_eq, Nat.not_le]
  exact ⟨⟨by decide, hnext⟩, hret⟩
theorem badEntry_of_next (hop : (e.extractLsb' 14 2).toNat ≤ 1) (hnext : g.nstate ≤ (e.extractLsb' 0 6).toNat) : g.badEntry e = true := by
  rw [Grammar.badEntry, decide_eq_true hop, decide_eq_true hnext, Bool.and_self, Bool.or_true, Bool.true_or]

/-- The engine, the status and the flag that a taken entry leaves, with every other register and all bytes but merged ones. -/
theorem step_leaves (h : Moves 6 s s2) (g1 : Grammar) (rej und : Bool) :
    let u := (s2.engine g1 false).wx f.d (stepStatus g1 rej und)
    (u.core s.myCore).grammar = some g1 ∧ u.rx f.d = (if f.d = 0 then 0 else stepStatus g1 rej und) ∧
      u.me.event.getLsbD 2 = false ∧ (∀ r, r ≠ f.d → u.rx r = s.rx r) ∧ SameButMerges s u := by
  have moved := h.trans (moves_engine s2 g1 false)
  dsimp only
  refine ⟨?_, ?_, ?_, fun r hr => ?_, ?_⟩
  · rw [core_wx, grammar_engine h.view]
  · rw [rx_wx, if_pos rfl]
  · rw [event_wx, event_engine]
  · rw [rx_wx, if_neg hr, moved.view.rx]
  · exact moved.sameButMerges (by decide)
end

/-! ## Masks (R262) -/

theorem getLsbD_foldr_words (ws : List Word) {b : Nat} (hb : b < 512) :
    (ws.foldr (fun w (c : BitVec 512) => (c <<< 64) ||| w.zeroExtend 512) 0).getLsbD b = (ws.getD (b / 64) 0).getLsbD (b % 64) := by
  induction ws generalizing b with
  | nil => simp
  | cons w ws ih =>
    rw [List.foldr_cons, BitVec.getLsbD_or, BitVec.getLsbD_shiftLeft, BitVec.getLsbD_setWidth]
    by_cases h : b < 64
    · simp [h, hb, Nat.div_eq_of_lt h, Nat.mod_eq_of_lt h]
    · rw [ih (by omega), BitVec.getLsbD_of_ge w b (by omega), show b / 64 = (b - 64) / 64 + 1 by omega,
        show b % 64 = (b - 64) % 64 by omega]
      simp [h, hb]
theorem getLsbD_chunkOf (ws : List Word) {b : Nat} (hb : b < 512) : (chunkOf ws).getLsbD b = (ws.getD (b / 64) 0).getLsbD (b % 64) := by
  have words : chunkOf ws = ((List.range 8).map fun i => ws.getD i 0).foldr (fun w (c : BitVec 512) => (c <<< 64) ||| w.zeroExtend 512) 0 := by
    rw [List.foldr_map, chunkOf]
  have eighth : b / 64 < 8 := by omega
  rw [words, getLsbD_foldr_words _ hb, List.getD_eq_getElem?_getD, List.getElem?_map, List.getElem?_range eighth]
  rfl
theorem getLsbD_chunkMask (vocab q : Nat) {b : Nat} (hb : b < 512) : (chunkMask vocab q).getLsbD b = decide (512 * q + b < vocab) := by
  unfold chunkMask
  split
  case isTrue h =>
    rw [BitVec.getLsbD_allOnes, decide_eq_true hb, eq_comm, decide_eq_true_eq]
    omega
  case isFalse h =>
    rw [BitVec.getLsbD_ofNat, decide_eq_true hb, Bool.true_and, Nat.testBit_two_pow_sub_one, decide_eq_decide]
    omega

theorem rv_wv (s : State) (r q : BitVec 5) (w : Quad) : (s.wv r w).rv q = if q = r then w else s.rv q := by
  rw [State.rv, State.wv, State.me_updMe]
  split
  case isTrue h => rw [h, Ctx.rv_wv_self]
  case isFalse h => rw [Ctx.rv_wv_ne _ _ h, State.rv]
theorem moves_wv (s : State) (r : BitVec 5) (w : Quad) : Moves 0 s (s.wv r w) := by
  refine Moves.of_same rfl rfl rfl ⟨rfl, fun k => ?_, fun _ => rfl⟩
  rw [State.wv, State.updMe, State.ctx_updCtx]
  split
  case isTrue h => subst h; rfl
  case isFalse => rfl

/-- Writes n vector registers from d up, the m-th with its part. -/
def State.wvs (s : State) (d : BitVec 5) (n : Nat) (part : Nat → Quad) : State :=
  (List.range n).foldl (fun u m => u.wv (d + BitVec.ofNat 5 m) (part m)) s
theorem wvs_succ (s : State) (d : BitVec 5) (n : Nat) (part : Nat → Quad) :
    s.wvs d (n + 1) part = (s.wvs d n part).wv (d + BitVec.ofNat 5 n) (part n) := by
  rw [State.wvs, List.range_succ, List.foldl_append, State.wvs]
  rfl
theorem wvs_frame (s : State) (d : BitVec 5) (n : Nat) (part : Nat → Quad) : Moves 0 s (s.wvs d n part) ∧ SameBytes s (s.wvs d n part) := by
  induction n with
  | zero => exact ⟨Moves.refl s, fun _ _ => rfl⟩
  | succ n ih =>
    rw [wvs_succ]
    exact ⟨ih.1.trans (moves_wv ..), ih.2⟩
theorem rv_wvs (s : State) (d : BitVec 5) {n m : Nat} (part : Nat → Quad) (hn : n ≤ 32) (hm : m < n) :
    (s.wvs d n part).rv (d + BitVec.ofNat 5 m) = part m := by
  induction n with
  | zero => cases hm
  | succ n ih =>
    rw [wvs_succ, rv_wv]
    split
    case isTrue h =>
      have : BitVec.ofNat 5 m = BitVec.ofNat 5 n := BitVec.add_right_inj d |>.mp h
      have := congrArg BitVec.toNat this
      simp only [BitVec.toNat_ofNat] at this
      rw [show m = n by omega]
    case isFalse h =>
      refine ih (by omega) (Nat.lt_of_le_of_ne (Nat.lt_succ_iff.mp hm) fun e => h (by rw [e]))

section
variable {f : RR} {s : State} {g : Grammar}

theorem effGmMask_chunk (hg : (s.core s.myCore).grammar = some g) (ha : (s.rx f.a).toNat < chunks g.vocab) :
    effGmMask f s = Sync.bind s (s.loadChunk g (s.rx f.a).toNat).1 fun _ t =>
      .done ((t.setGrammar (s.loadChunk g (s.rx f.a).toNat).2.1).wvs f.d 4
        fun m => (s.loadChunk g (s.rx f.a).toNat).2.2.extractLsb' (128 * m) 128) := by
  rw [effGmMask, withGrammar_of_some hg]
  dsimp only
  rw [if_neg (Nat.not_le.mpr ha)]
  rfl
theorem loadChunk_of_cached {q : Nat} {c : BitVec 512} (h : g.cache.get? (g.state * chunks g.vocab + q) = some c) :
    s.loadChunk g q = (.ok [] s, g, c &&& chunkMask g.vocab q) := by
  rw [State.loadChunk, h]
theorem loadChunk_of_read {q : Nat} {ws : List Word} {t : State} (h : g.cache.get? (g.state * chunks g.vocab + q) = none)
    (hr : s.syncLoad s.cur (g.masktab + BitVec.ofNat 64 (64 * (g.state * chunks g.vocab + q))) 8 = .ok ws t) :
    s.loadChunk g q = (.ok [] t, { g with cache := Table.put g.cache (g.state * chunks g.vocab + q) (chunkOf ws) },
      chunkOf ws &&& chunkMask g.vocab q) := by
  rw [State.loadChunk, h]
  dsimp only
  rw [hr]
theorem view_loadChunk {q : Nat} {ws : List Word} {t : State} {g' : Grammar} {c : BitVec 512}
    (h : s.loadChunk g q = (.ok ws t, g', c)) : KeepsView s t := by
  unfold State.loadChunk at h
  dsimp only at h
  split at h
  · cases h; exact KeepsView.refl s
  · split at h
    case h_1 hr => cases h; exact (moves_syncLoad hr).1.view
    case h_2 hne => exact absurd (congrArg Prod.fst h) (hne ws t)
theorem view_loadChunks {q n : Nat} {ws : List Word} {t : State} {g' : Grammar} {cs : List (BitVec 512)}
    (h : s.loadChunks g q n = (.ok ws t, g', cs)) : KeepsView s t := by
  induction n generalizing s g q cs with
  | zero => rw [State.loadChunks] at h; cases h; exact KeepsView.refl _
  | succ n ih =>
    rw [State.loadChunks] at h
    split at h
    case h_1 hc =>
      obtain ⟨hload, h⟩ := Prod.mk.inj h
      obtain ⟨hg, -⟩ := Prod.mk.inj h
      exact (view_loadChunk hc).trans (ih (Prod.ext hload (Prod.ext hg rfl)))
    case h_2 hne _ => exact absurd (Prod.mk.inj h).1 (hne ws t)

/-- A bit of the registers that take a chunk. -/
theorem getLsbD_rv_chunk (t : State) (c : BitVec 512) (vocab q : Nat) {m b : Nat} (hm : m < 4) (hb : b < 128) :
    ((t.wvs f.d 4 fun m => (c &&& chunkMask vocab q).extractLsb' (128 * m) 128).rv (f.d + BitVec.ofNat 5 m)).getLsbD b =
      (c.getLsbD (128 * m + b) && decide (512 * q + 128 * m + b < vocab)) := by
  rw [rv_wvs _ _ _ (by decide) hm, BitVec.getLsbD_extractLsb', decide_eq_true hb, Bool.true_and, BitVec.getLsbD_and,
    getLsbD_chunkMask _ _ (by omega), Nat.add_assoc]
end

/-! ## Codebook slots (R196, R257) -/

theorem slotOf_put (s : State) (d slot n : Nat) (l : List (BitVec 16)) :
    (s.updShed d fun h => { h with slots := Table.put h.slots slot l }).slotOf d n = if n = slot then l else s.slotOf d n := by
  rw [State.slotOf, State.shed_updShed_self, Table.getD_put, State.slotOf]
theorem getElem?_slotEntries (ws : List Word) {i : Nat} (hi : i < 16) :
    (slotEntries ws)[i]? = some ((ws.getD (i / 4) 0).extractLsb' (16 * (i % 4)) 16) := by
  rw [slotEntries, List.getElem?_map, List.getElem?_range hi]
  rfl
theorem KeepsView.slotOf {s t : State} (h : KeepsView s t) (d n : Nat) : t.slotOf d n = s.slotOf d n := by
  rw [State.slotOf, h.slots, State.slotOf]

theorem cbkLd_loads {f : RR} {s t : State} {ws : List Word} (hf : s.Fit (.cbkLd f)) (hb : (s.rx f.b).toNat ≤ 63)
    (ha : (s.rx f.a).toNat % 32 = 0) (hr : s.syncLoad s.cur (s.rx f.a) 4 = .ok ws t) :
    Completes (.cbkLd f) s (t.updShed s.myShed fun d => { d with slots := Table.put d.slots (s.rx f.b).toNat (slotEntries ws) }) := by
  refine completes_of_done (eff := effCbkLd f) rfl hf ?_
  rw [effCbkLd, if_neg (by omega), if_neg (by omega), hr]
  rfl

/-! ## What each instruction does -/

section
variable {f : RR} {s : State} {g : Grammar}

theorem gmCfg_configures {t : State} {ws : List Word} (hf : s.Fit (.gmCfg f)) (ha : (s.rx f.a).toNat % 8 = 0)
    (hr : s.syncLoad s.cur (s.rx f.a) 8 = .ok ws t) : (grammarOk (grammarOf ws) ws = false → TrapsAfter (.gmCfg f) s t 20 (s.rx f.a) 0) ∧
    (grammarOk (grammarOf ws) ws = true → Completes (.gmCfg f) s (t.engine (grammarOf ws) false)) := by
  have read : effGmCfg f s =
      (if grammarOk (grammarOf ws) ws then .done (t.engine (grammarOf ws) false) else .trap 20 (s.rx f.a) 0 : Eff).after t := by
    rw [effGmCfg, if_neg (by omega), hr]
    rfl
  refine ⟨fun hbad => trapsAfter_of_trapRead rfl hf (eff := effGmCfg f) ?_, fun hok => completes_of_done rfl hf (eff := effGmCfg f) ?_⟩
  · rw [read, hbad]; rfl
  · rw [read, hok]; rfl
theorem gmForce_counts {g' : Grammar} {cs : List (BitVec 512)} {t : State} {ws : List Word} (hf : s.Fit (.gmForce f))
    (hg : (s.core s.myCore).grammar = some g) (hr : s.loadChunks g 0 (chunks g.vocab) = (.ok ws t, g', cs)) :
    Completes (.gmForce f) s ((t.engine g' (decide ((countTokens cs).1 = 1))).wx f.d
      (BitVec.ofNat 64 ((countTokens cs).1 * 2 ^ 16 + (if (countTokens cs).1 = 1 then (countTokens cs).2 else 0xFFFF)))) := by
  refine completes_of_done (eff := effGmForce f) rfl hf ?_
  rw [effGmForce, withGrammar_of_some hg, hr]
  rfl
theorem gmReset_restarts (hf : s.Fit (.gmReset f)) (hg : (s.core s.myCore).grammar = some g) :
    Completes (.gmReset f) s (s.engine { g with state := g.start, depth := 0, stack := Vector.replicate 8 0 } false) :=
  completes_of_done (eff := effGmReset f) rfl hf (withGrammar_of_some hg _)
theorem gmMask_delivers (hf : s.Fit (.gmMask f)) (hg : (s.core s.myCore).grammar = some g) (ha : (s.rx f.a).toNat < chunks g.vocab)
    {ws : List Word} {t : State} {g' : Grammar} {c : BitVec 512} (hc : s.loadChunk g (s.rx f.a).toNat = (.ok ws t, g', c)) :
    Completes (.gmMask f) s ((t.setGrammar g').wvs f.d 4 fun m => c.extractLsb' (128 * m) 128) := by
  refine completes_of_done (eff := effGmMask f) rfl hf ?_
  rw [effGmMask_chunk hg ha, hc]
  rfl
theorem grammarSet_fields {w : Word} {g' : Grammar} (h : grammarSet g w = some g') :
    g'.state = (w.extractLsb' 0 6).toNat ∧ g'.depth = (w.extractLsb' 8 4).toNat := by
  unfold grammarSet at h
  dsimp only at h
  split at h
  · cases h
  · cases h; exact ⟨rfl, rfl⟩
theorem gmStep_takes {s2 : State} {e : Word} {r : Grammar × Bool × Bool} (hf : s.Fit (.gmStep f)) (h6 : e.extractLsb' 6 2 = 0#2)
    (heff : effGmStep f s = (stepEff f g (s.rx f.a) e s2).after s2) (hm : Moves 6 s s2)
    (hnext : (e.extractLsb' 14 2).toNat ≤ 1 → (e.extractLsb' 0 6).toNat < g.nstate)
    (hret : (e.extractLsb' 14 2).toNat = 1 → (e.extractLsb' 8 6).toNat < g.nstate)
    (ht : takeEntry g (e.extractLsb' 14 2).toNat (e.extractLsb' 8 6).toNat (e.extractLsb' 0 6).toNat = some r) :
    ∃ u, Completes (.gmStep f) s u ∧ (u.core s.myCore).grammar = some r.1 ∧
      u.rx f.d = (if f.d = 0 then 0 else stepStatus r.1 r.2.1 r.2.2) ∧ u.me.event.getLsbD 2 = false ∧
      (∀ q, q ≠ f.d → u.rx q = s.rx q) ∧ SameButMerges s u := by
  refine ⟨_, completes_of_done (eff := effGmStep f) rfl hf ?_, step_leaves hm r.1 r.2.1 r.2.2⟩
  rw [heff, stepEff_of_take (badEntry_eq_false h6 hnext hret) ht]
  rfl
end

/-- Settles O56: each instruction's effect is what its check, its table entry or its chunk gives, and a read at issue moves no byte but
those of partials that it may evict. -/
theorem grammarEngineAndCodebooks : Obligations.GrammarEngineAndCodebooks := by
  unfold Obligations.GrammarEngineAndCodebooks
  refine ⟨fun f s hg i hi hf => ?_, fun f s hf => ⟨fun ha => ?_, fun ha ws t hr => ?_⟩,
    fun f s g hg => ⟨?_, ?_, ?_, ?_, ?_⟩, fun f s => ⟨?_, ?_⟩⟩
  · simp only [List.mem_cons, List.not_mem_nil, or_false] at hi
    rcases hi with rfl | rfl | rfl | rfl | rfl
    · exact traps_of_noGrammar (eff := effGmStep f) rfl rfl hg hf
    · exact traps_of_noGrammar (eff := effGmMask f) rfl rfl hg hf
    · exact traps_of_noGrammar (eff := effGmForce f) rfl rfl hg hf
    · exact traps_of_noGrammar (eff := effGmReset f) rfl rfl hg hf
    · exact traps_of_noGrammar (eff := effGmSt f) rfl rfl hg hf
  · exact traps_of_trap (eff := effGmCfg f) rfl hf (by rw [effGmCfg, if_pos ha])
  · obtain ⟨hbad, hok⟩ := gmCfg_configures hf ha hr
    have moved := (moves_syncLoad hr).1.trans (moves_engine t (grammarOf ws) false)
    exact ⟨hbad, fun h => ⟨_, hok h, grammar_engine (moves_syncLoad hr).1.view _ _, rfl, rfl, event_engine .., moved.view.me_x,
      moved.sameButMerges (by decide)⟩⟩
  · refine fun hf => ⟨fun ha => traps_of_trap (eff := effGmStep f) rfl hf (by rw [effGmStep, withGrammar_of_some hg, if_pos ha]),
      fun ha c s1 e s2 hc => ⟨fun hn => trapsAfter_of_trapRead (eff := effGmStep f) rfl hf (effGmStep_class hg ha hc hn),
        fun hn he _ h6 => ?_⟩⟩
    have heff := effGmStep_entry hg ha hc hn he
    have moved := (moves_syncByte hc).trans (moves_syncHalf he)
    dsimp only
    refine ⟨fun hop hnext => ?_, fun hop hnext hret hd => ?_, fun hop hnext hret hd => ?_, fun hop hd => ?_, fun hop hd => ?_,
      fun hop => ?_, fun hop hnext => ?_⟩
    · exact gmStep_takes hf h6 heff moved (fun _ => hnext) (by omega) (by rw [hop]; rfl)
    · exact gmStep_takes hf h6 heff moved (fun _ => hnext) (fun _ => hret) (by rw [hop, takeEntry, if_neg (by omega)])
    · refine trapsAfter_of_trapRead (eff := effGmStep f) rfl hf ?_
      rw [heff, stepEff_of_full (badEntry_eq_false h6 (fun _ => hnext) fun _ => hret) (by rw [hop, takeEntry, if_pos hd])]
      rfl
    · exact gmStep_takes hf h6 heff moved (by omega) (by omega) (by rw [hop, takeEntry, if_pos hd])
    · exact gmStep_takes hf h6 heff moved (by omega) (by omega) (by rw [hop, takeEntry, if_neg hd])
    · exact gmStep_takes hf h6 heff moved (by omega) (by omega) (by rw [hop]; rfl)
    · refine trapsAfter_of_trapRead (eff := effGmStep f) rfl hf ?_
      rw [heff, stepEff_of_bad (badEntry_of_next hop hnext)]
      rfl
  · refine fun hf => ⟨fun ha => traps_of_trap (eff := effGmMask f) rfl hf (by rw [effGmMask, withGrammar_of_some hg, if_pos ha]),
      fun ha => ⟨fun c hc => ?_, fun hnone ws t hr => ?_⟩⟩
    · have frame := wvs_frame (s.setGrammar g) f.d 4 fun m => (c &&& chunkMask g.vocab (s.rx f.a).toNat).extractLsb' (128 * m) 128
      exact ⟨_, gmMask_delivers hf hg ha (loadChunk_of_cached hc), ((moves_setGrammar s g).trans frame.1).view.me_x, frame.2,
        fun m hm b hb => getLsbD_rv_chunk _ c g.vocab _ hm hb⟩
    · have moved (g' : Grammar) (part : Nat → Quad) : Moves 24 s ((t.setGrammar g').wvs f.d 4 part) :=
        ((moves_syncLoad hr).1.trans (moves_setGrammar t g')).trans (wvs_frame _ f.d 4 part).1
      refine ⟨_, gmMask_delivers hf hg ha (loadChunk_of_read hnone hr), (moved ..).view.me_x, (moved ..).sameButMerges (by decide),
        fun m hm b hb => ?_⟩
      rw [getLsbD_rv_chunk _ _ g.vocab _ hm hb, getLsbD_chunkOf _ (by omega)]
  · refine fun hf g' cs t ws hr => ⟨_, gmForce_counts hf hg hr, ?_, ?_, fun r hr' => ?_⟩
    · rw [rx_wx, if_pos rfl]
    · rw [event_wx, event_engine]
    · rw [rx_wx, if_neg hr', (moves_engine ..).view.rx, (view_loadChunks hr).rx]
  · exact fun hf => ⟨_, gmReset_restarts hf hg, grammar_engine (KeepsView.refl s) _ _, event_engine .., (moves_engine ..).view.me_x⟩
  · refine fun hf => ⟨fun h0 => ?_, fun h0 hn => ?_, fun h0 g' hs => ⟨(grammarSet_fields hs).1, (grammarSet_fields hs).2, ?_⟩⟩
    · exact completes_of_done (eff := effGmSt f) rfl hf (by rw [effGmSt, withGrammar_of_some hg, if_pos h0])
    · exact traps_of_trap (eff := effGmSt f) rfl hf (by rw [effGmSt, withGrammar_of_some hg, if_neg h0, hn])
    · exact completes_of_done (eff := effGmSt f) rfl hf (by rw [effGmSt, withGrammar_of_some hg, if_neg h0, hs])
  · refine fun hf => ⟨fun hb => ?_, fun hb ha => ?_, fun hb ha ws t hr => ?_⟩
    · exact traps_of_trap (eff := effCbkLd f) rfl hf (by rw [effCbkLd, if_pos hb])
    · exact traps_of_trap (eff := effCbkLd f) rfl hf (by rw [effCbkLd, if_neg (by omega), if_pos ha])
    · obtain ⟨moved, -⟩ := moves_syncLoad hr
      refine ⟨_, cbkLd_loads hf hb ha hr, moved.sameButMerges (by decide), moved.view.me_x, fun i hi => ?_, fun n hn => ?_⟩
      · rw [slotOf_put, if_pos rfl, getElem?_slotEntries ws hi]
      · rw [slotOf_put, if_neg hn, moved.view.slotOf]
  · refine fun hf => ⟨fun ha => ?_, fun ha => ?_⟩
    · exact traps_of_trap (eff := effCbkRd f) rfl hf (by rw [effCbkRd, if_pos ha])
    · exact completes_of_done (eff := effCbkRd f) rfl hf (by rw [effCbkRd, if_neg (not_not.mpr ha)])

end Sys2Proof.Machine

/-! SUPPORT. A state in which an eviction merges over a conversion's bytes: no run reaches it (R276, R279). -/
namespace Sys2Proof.Machine

/-- Function 0 with general memory and key slot 5. -/
def strayCfg : VfCfg where
  uroot := some 0
  sroot := some 0
  grant := [{ base := 0, len := 0x1000000, dur := false }]
  keys := [5]
  arenaKey := 5
  abase := 0
  asize := 0x100000
  peers := []
  spBase := 0x800000
  spSize := 0x800000
  spKey := 5
  supQueue := none
  slice := 2000
  inject := true
/-- The leaf of a general page at 0x100000. -/
def strayLeaf : Word := 0xC0A1800000100000
/-- A conversion of one element from the scratchpad to the second doubleword of that page. -/
def strayCvt : CvtOp :=
  { ctx := 11, n := 1, scale := 0, src := BitVec.ofNat 64 Config.padWindow, dst := 0x10008, srcType := 10, ty := 9, rnd := 0, sat := false,
    done := 0, parked := none, flags := 0, candN := false, candMag := 0, abort := none, id := 9, before := [], carry := [] }
/-- A slice of quarter 0 that is full of entries of one line, in C, whose number is not a multiple of 8. -/
def crowd : Table L2Line := List.replicate sliceLines (0x100004, { state := .c, slice := none, asks := [], moved := none, low := false })
/-- A partial that lies across the first two doublewords of the page. -/
def strayPartial : Partial := { fn := .swap, size := 8, dws := [(0x100004, BitVec.allOnes 64)], reds := [] }
/-- The conversion at the head of core 1, that slice and that partial. -/
def stray : State := { State.reset with
  gangs := [(1, { Gang.reset with state := .resident })]
  sheds := [(0, { Shed.reset with gang := some 1 })]
  vfs := [(0, { Vf.reset with cfg := some strayCfg })]
  cores := [(1, { Core.reset with
    tlb := [{ vf := 0, sup := false, base := 0x10000, size := 0x10000, w0 := strayLeaf, w1 := 0 }], cvt := [strayCvt] })]
  ctxs := [(11, { Ctx.reset with mode := .ready })]
  ord := { State.reset.ord with l2 := State.reset.ord.l2.set 0 crowd, partials := State.reset.ord.partials.set 0 [(0x100000, strayPartial)] } }

/-! ## The turn: a read of the scratchpad and a store of two bytes -/

theorem stray_runs : (stray.core 1).cvt.head? = some strayCvt ∧ stray.coreRuns 1 = true ∧ stray.memoryWf = true := by decide +kernel
/-- Where the destination translates to, and where the source does. -/
def strayHit : Hit := { loc := 0x100008, w0 := strayLeaf, w1 := 0, page := 0x10000, st := stray }
theorem stray_translates : stray.translate 11 strayCvt.dst true = .ok strayHit := rfl
def sourceHit : Hit := { loc := padLoc 0 0, w0 := 0, w1 := 0, page := 0, st := stray }
theorem stray_source : stray.translate 11 strayCvt.src false = .ok sourceHit := rfl
theorem stray_source_read : (stray.mayMove 11 (readAs 9 (dwordOf (padLoc 0 0))) && stray.redsSettled 0 (dwordOf (padLoc 0 0))) = true ∧
    stray.poisoned 0 (dwordOf (padLoc 0 0)) = false ∧ stray.plain 0 0 (dwordOf (padLoc 0 0)) = 0 ∧
    stray.observed 0 (dwordOf (padLoc 0 0)) = [] := by
  decide +kernel
theorem stray_lets : stray.mayMove 11 (writeAs 9 (dwordOf strayHit.loc)) = true ∧ stray.redsSettled (qtrOfCtx 11) (dwordOf strayHit.loc) = true ∧
    stray.ord.keyed.get? (lineOf (dwordOf strayHit.loc)) = none := by decide +kernel

theorem lineRead_pad {s : State} {loc : Nat} (h : isPad loc = true) (core : Nat) (hint : BitVec 2) : s.lineRead core loc hint = s := by
  simp [State.lineRead, h]

theorem stray_loads : stray.engineLoad 11 9 [] strayCvt.src 4 = .ok (0, stray) := by
  obtain ⟨may, clean, zero, none_⟩ := stray_source_read
  simp only [State.engineLoad, State.loadFor, stray_source, Bool.false_eq_true, if_false]
  rw [show sourceHit.st = stray from rfl, show qtrOfCtx 11 = 0 from rfl, show sourceHit.loc = padLoc 0 0 from rfl, may, clean, none_,
    show pteKey sourceHit.w0 = 0 from rfl, zero, lineRead_pad (by decide)]
  rfl
theorem stray_reads : stray.cvtRead strayCvt strayCvt.src 1 = .ok ([0], stray) := by
  rw [State.cvtRead, show typeWidth strayCvt.srcType.toNat / 8 = 4 by decide, show strayCvt.ctx = 11 from rfl, show strayCvt.id = 9 from rfl,
    show strayCvt.carry = [] from rfl, stray_loads]
  rfl
/-- The bytes that the turn sends out. -/
def strayChunk : Chunk := { va := 0x10008, loc := 0x100008, w0 := strayLeaf, mask := 3, val := 0 }
theorem stray_chunks : stray.tileChunks 11 2 strayCvt.dst [] [0] = .ok ([strayChunk], stray) := by
  rw [State.tileChunks, stray_translates]
  rfl
theorem ord_setCvt (s : State) (core n : Nat) (op : CvtOp) : (s.setCvt core n op).ord = s.ord := rfl
theorem stray_turn : (stray.cvtTurn 1).ord = (stray.putChunk 11 9 strayChunk).ord := by
  obtain ⟨head, runs, -⟩ := stray_runs
  have lets : stray.letsChunks 11 9 [strayChunk] = true := by
    obtain ⟨may, settled, -⟩ := stray_lets
    rw [State.letsChunks, List.all_cons, List.all_nil, show strayChunk.loc = dwordOf strayHit.loc from rfl, may, settled]
    rfl
  rw [State.cvtTurn, runs, head]
  dsimp only
  rw [show strayCvt.abort = none from rfl]
  dsimp only
  rw [if_neg (by decide), if_neg (by decide), State.cvtUnit]
  dsimp only
  rw [show Nat.min 64 (strayCvt.n - strayCvt.done) = 1 by decide,
    show strayCvt.src + BitVec.ofNat 64 (strayCvt.done * (typeWidth strayCvt.srcType.toNat / 8)) = strayCvt.src by decide, stray_reads]
  dsimp only
  rw [show strayCvt.dst + BitVec.ofNat 64 (strayCvt.done * (typeWidth strayCvt.ty.toNat / 8)) = strayCvt.dst by decide,
    show List.map (·.1) (List.map (cvtElem strayCvt.srcType.toNat strayCvt.ty.toNat strayCvt.rnd.toNat strayCvt.sat strayCvt.scale) [0]) = [0]
      by decide, show typeWidth strayCvt.ty.toNat / 8 = 2 by decide, show strayCvt.ctx = 11 from rfl, show strayCvt.carry = [] from rfl, stray_chunks]
  dsimp only
  rw [show strayCvt.n - strayCvt.done - 1 = 0 by decide, show strayCvt.id = 9 from rfl, State.putChunks]
  simp only [Nat.zero_mul, Nat.lt_irrefl, decide_false, Bool.false_and, Bool.not_false, List.filter_true, lets, if_true]
  rw [ord_setCvt, List.foldl_cons, List.foldl_nil]

/-! ## The eviction that the store makes -/

theorem mem_updL2 (s : State) (q line : Nat) (f : L2Line → L2Line) : (s.updL2 q line f).ord.mem = s.ord.mem := (updL2_frame ..).1
theorem mem_evictL1 (s : State) (core line : Nat) : (s.evictL1 core line).ord.mem = s.ord.mem := by
  unfold State.evictL1
  split
  · rfl
  · dsimp only
    split
    · rfl
    · rw [mem_updL2]; rfl
theorem mem_fillL1 (s : State) (core line : Nat) (st : L1State) (low : Bool) : (s.fillL1 core line st low).ord.mem = s.ord.mem := by
  unfold State.fillL1
  dsimp only
  rw [show ∀ (t : State) (k : Nat) (f : Core → Core), (t.updCore k f).ord = t.ord from fun _ _ _ => rfl]
  split
  · rfl
  · split
    · exact mem_evictL1 ..
    · rfl
/-- A store of a line that nothing of its quarter holds makes room for it. -/
theorem mem_lineWrite_miss {s : State} {core loc q line : Nat} (hpad : isPad loc = false) (hq : qtrOfCore core = q) (hl : lineOf loc = line)
    (h2 : (s.l2Q q).get? line = none) (h1 : s.l1Holders q line = []) (hc : (s.core core).l1.get? line = none) :
    (s.lineWrite core loc 0).ord.mem = (s.roomL2 q (homeSlice q line)).ord.mem := by
  subst hq hl
  simp only [State.lineWrite, State.lineInC, State.lineHere, hpad, h2, h1, hc, List.foldl_nil]
  simp only [Bool.or_self, Bool.false_eq_true, if_false, Option.isSome_none, List.isEmpty_nil, Bool.not_true, Bool.not_false, Bool.true_and]
  rw [if_neg (by decide), if_neg (by decide), mem_fillL1, State.askL2, mem_updL2, State.fillL2, h2]
  rfl

theorem victimOf_replicate (free n a : Nat) : victimOf free (List.replicate (n + 1) (a, false)) = some a := by
  have none_low : (List.replicate (n + 1) (a, false)).filter (·.2) = [] := List.filter_eq_nil_iff.mpr fun e he => by
    rw [List.eq_of_mem_replicate he]; exact Bool.false_ne_true
  simp only [victimOf, none_low, List.isEmpty_nil, if_true]
  rw [List.getElem?_replicate, if_pos, Option.map_some]
  exact (Nat.mod_lt _ (by simp)).trans_eq (List.length_replicate)
theorem mem_roomL2_crowd {s : State} (h : s.l2Q 0 = crowd) : (s.roomL2 0 (homeSlice 0 0x100000)).ord.mem = (s.evictL2 0 0x100004).ord.mem := by
  have all_here : crowd.filter (fun e => e.2.at_ 0 e.1 = homeSlice 0 0x100000) = crowd := List.filter_eq_self.mpr fun e he => by
    rw [List.eq_of_mem_replicate he]; decide
  rw [State.roomL2]
  dsimp only
  rw [h, all_here, if_neg (by rw [crowd, List.length_replicate]; exact Nat.lt_irrefl _), crowd, List.map_replicate,
    show sliceLines = 32767 + 1 from rfl, victimOf_replicate]
theorem get?_crowd_other : crowd.get? 0x100000 = none := by
  rw [← Option.not_isSome_iff_eq_none, Table.get?_isSome_iff, crowd, List.map_replicate]
  exact fun h => absurd (List.eq_of_mem_replicate h) (by decide)

/-- The conversion's bytes as they are first written. -/
def strayWritten : State := (stray.encrypt 5 0x100008).tickNext.perform 11 stray.next 0 0x100008 3 0 none none false false false
theorem strayWritten_caches : strayWritten.l1Holders 0 0x100000 = [] ∧ (strayWritten.core 1).l1.get? 0x100000 = none ∧
    strayWritten.l1Holders 0 0x100004 = [] := by decide +kernel
theorem strayWritten_l2 : strayWritten.l2Q 0 = crowd := rfl
theorem stray_put : stray.putChunk 11 9 strayChunk = strayWritten.lineWrite 1 0x100008 0 := rfl
theorem mem_evictL2_crowd {s : State} (h : s.l2Q 0 = crowd) (h1 : s.l1Holders 0 0x100004 = []) :
    (s.evictL2 0 0x100004).ord.mem = ((List.range 8).foldl (fun t i => t.mergeDword (0x100004 + 8 * i)) s).ord.mem := by
  have first : crowd.get? 0x100004 = some { state := .c, slice := none, asks := [], moved := none, low := false } := rfl
  rw [State.evictL2, h1, List.foldl_nil]
  dsimp only
  rw [h, first]
  dsimp only
  rw [if_pos rfl, show ∀ (t : State) (l : Table L2Line), (t.setL2 0 l).ord.mem = t.ord.mem from fun _ _ => rfl]
  exact (linesGo_mergeLine s 0x100004).mem
/-- The partial's high half stands where the conversion wrote. -/
theorem stray_merges : ((List.range 8).foldl (fun t i => t.mergeDword (0x100004 + 8 * i)) strayWritten).byteQ 0 0x100008 = 0xFF := by
  decide +kernel

theorem stray_byte : (stray.cvtTurn 1).byteQ 0 0x100008 = 0xFF := by
  obtain ⟨h1, hc, h4⟩ := strayWritten_caches
  have absent : (strayWritten.l2Q 0).get? 0x100000 = none := by rw [strayWritten_l2, get?_crowd_other]
  have mem : (stray.cvtTurn 1).ord.mem = ((List.range 8).foldl (fun t i => t.mergeDword (0x100004 + 8 * i)) strayWritten).ord.mem := calc
    _ = (strayWritten.lineWrite 1 0x100008 0).ord.mem := by rw [stray_turn, stray_put]
    _ = (strayWritten.roomL2 0 (homeSlice 0 0x100000)).ord.mem :=
      mem_lineWrite_miss rfl rfl rfl absent h1 hc
    _ = (strayWritten.evictL2 0 0x100004).ord.mem := mem_roomL2_crowd strayWritten_l2
    _ = _ := mem_evictL2_crowd strayWritten_l2 h4
  rw [State.byteQ, State.memQ, mem]
  exact stray_merges

theorem stray_places : stray.TranslateInTurn 11 2 strayCvt.dst (fun _ => strayHit) 1 ∧ PlacesApart (fun _ => strayHit) 1 2 ∧
    stray.LetsPlaces 11 9 (fun _ => strayHit) 1 := by
  obtain ⟨may, settled, unkeyed⟩ := stray_lets
  refine ⟨fun j hj => ?_, ⟨fun _ _ => show strayHit.loc % 8 + 2 ≤ 8 by decide, fun i j hi hj hij => by omega⟩,
    fun j _ => ⟨may, settled, .inr ?_⟩⟩
  · obtain rfl : j = 0 := by omega
    exact stray_translates
  · exact fun key h => nomatch unkeyed.symm.trans h

/-- Refutes O55: the clause on a turn of a conversion asks no form of the caches' lines and of the partials. In `stray`, which no run
reaches, a full slice lists a line whose number is not a multiple of 8, and a partial stands at that number: the store of the
conversion's one element evicts that line, and the merge (R279) writes 0xFF over the element's byte, which is 0. -/
theorem not_tileAndConversionOperationsQueueAndRetire : ¬ Obligations.TileAndConversionOperationsQueueAndRetire := by
  unfold Obligations.TileAndConversionOperationsQueueAndRetire
  intro h
  obtain ⟨-, -, -, -, -, -, -, -, -, -, turn, -⟩ := h
  obtain ⟨head, runs, wf⟩ := stray_runs
  obtain ⟨inTurn, apart, lets⟩ := stray_places
  obtain ⟨-, moves⟩ := turn stray 1 strayCvt head runs rfl
  obtain ⟨⟨stored, -⟩, -⟩ := moves rfl (by decide) (fun i hi => nomatch hi) rfl wf [0] stray (fun _ => strayHit) stray_reads inTurn apart lets
    (.inl (by decide))
  have zero := stored 0 (by decide) 0 (by decide)
  exact absurd (stray_byte.symm.trans zero) (by decide)

end Sys2Proof.Machine

/-! SUPPORT. The checks of R52 in their order, and the trap of R53 that the first failed one raises. -/
namespace Sys2Proof.Machine

/-! ## The first failed check (R52) -/

section
variable {s : State} {i : Instr}

theorem issueTrap_of_absentMajor (hm : s.hasFeature (majorFeature i) = false) : s.issueTrap i = some 2 := by
  simp [State.issueTrap, hm]

theorem issueTrap_of_otherRole (hm : s.hasFeature (majorFeature i) = true) {r : Nat} (hr : roleNeeded i = some r) (hne : r ≠ s.myRole) :
    s.issueTrap i = some 1 := by
  simp [State.issueTrap, hm, hr, hne]

/-- With steps 2 and 3 passed, the checks of step 4 decide. -/
theorem issueTrap_of_role (hm : s.hasFeature (majorFeature i) = true) (hr : ∀ r, roleNeeded i = some r → r = s.myRole) :
    s.issueTrap i = if (WellFormed.check i).isSome then some 1
      else if (fieldFeatures i).any fun n => !s.hasFeature n then some 2 else none := by
  cases h : roleNeeded i with
  | none => simp [State.issueTrap, hm, h]
  | some r => simp [State.issueTrap, hm, h, hr r h]

theorem issueTrap_of_malformed (hm : s.hasFeature (majorFeature i) = true) (hr : ∀ r, roleNeeded i = some r → r = s.myRole)
    (hc : WellFormed.check i ≠ none) : s.issueTrap i = some 1 := by
  rw [issueTrap_of_role hm hr, if_pos (Option.isSome_iff_ne_none.mpr hc)]

theorem issueTrap_of_absentField (hm : s.hasFeature (majorFeature i) = true) (hr : ∀ r, roleNeeded i = some r → r = s.myRole)
    (hc : WellFormed.check i = none) (hf : ∃ n ∈ fieldFeatures i, s.hasFeature n = false) : s.issueTrap i = some 2 := by
  have absent : ((fieldFeatures i).any fun n => !s.hasFeature n) = true := by simpa using hf
  rw [issueTrap_of_role hm hr, hc, if_neg (by decide), if_pos absent]

/-- The trap of a failed check has the word in TVAL, whatever the instruction (R53). -/
theorem traps_of_issueTrap (hw : Instr.isWord i = true) {cause : BitVec 8} (h : s.issueTrap i = some cause) :
    Traps i s cause (encode i) 0 := by
  obtain ⟨eff, meaning⟩ := exec_word hw s
  rw [Traps, meaning, State.issue_of_trap h]

end

/-- Settles O5: each check is reached where those before it pass, and its failure is the trap of R53. -/
theorem checksAreMadeInOrder : Obligations.ChecksAreMadeInOrder := by
  intro i s hw
  refine ⟨fun hm => ?_, fun hm => ⟨fun ⟨r, hr, hne⟩ => ?_, fun hr => ⟨fun hc => ?_, fun hc hf => ?_⟩⟩⟩
  · exact traps_of_issueTrap hw (issueTrap_of_absentMajor hm)
  · exact traps_of_issueTrap hw (issueTrap_of_otherRole hm hr hne)
  · exact traps_of_issueTrap hw (issueTrap_of_malformed hm hr hc)
  · exact traps_of_issueTrap hw (issueTrap_of_absentField hm hr hc hf)

/-! ## Unassigned words (R51) -/

theorem unassigned_issueTrap (w : Word) (s : State) : s.issueTrap (.unassignedEncoding w) = some 1 :=
  issueTrap_of_malformed s.hasFeature_zero (fun _ h => nomatch h) (show some IllFormed.unassigned ≠ none from nofun)

theorem decodeWord_of_headerMark {w : Word} (h : w.extractLsb' 56 8 = 0xFE#8) : decodeWord w = .unassignedEncoding w := by
  rw [decodeWord, field, h]
  rfl

/-- Settles O4: no table assigns the word, so its field check fails, on every core and with every feature. -/
theorem unassignedWordTakesIllegalTrap : Obligations.UnassignedWordTakesIllegalTrap :=
  ⟨fun w s => traps_of_issueTrap rfl (unassigned_issueTrap w s), by decide, fun _ => decodeWord_of_headerMark⟩

end Sys2Proof.Machine

/-! SUPPORT. What answers a next state: every instruction and every happening, and every turn but an issue whose fetch finds no byte
(R53, R270, R350). -/
namespace Sys2Proof.Machine

/-- The outcome is a next state: no fault and no refusal. -/
def Answers (o : Out) : Prop := ∃ t, o = .next t

theorem answers_next (t : State) : Answers (.next t) := ⟨t, rfl⟩
theorem answers_ite {c : Prop} [Decidable c] {a b : Out} (ha : Answers a) (hb : Answers b) : Answers (if c then a else b) := by
  split
  · exact ha
  · exact hb
/-- Most happenings act where a condition holds, and leave the state as it is where it does not. -/
theorem answers_ite_next {c : Prop} [Decidable c] (t u : State) : Answers (if c then .next t else .next u) :=
  answers_ite (answers_next t) (answers_next u)

/-! ## Moves of the order machine (R288) -/

theorem answers_execPropagate (write quarter : Nat) (s : State) : Answers (execPropagate write quarter s) := by
  refine answers_ite (answers_next s) ?_
  split <;> exact answers_next _
theorem answers_execRead (ctx op part : Nat) (s : State) : Answers (execRead ctx op part s) := by
  unfold execRead
  split
  · exact answers_next _
  · split
    · exact answers_ite (answers_next _) (answers_ite_next _ _)
    · exact answers_next _
theorem answers_execAtomic (ctx op : Nat) (s : State) : Answers (execAtomic ctx op s) := by
  unfold execAtomic
  split
  · exact answers_next _
  · split
    · exact answers_ite (answers_next _) (answers_ite_next _ _)
    · exact answers_next _
theorem answers_execReduce (ctx op : Nat) (s : State) : Answers (execReduce ctx op s) := by
  unfold execReduce
  split
  · exact answers_next _
  · split
    · exact answers_ite_next _ _
    · exact answers_next _
theorem answers_execLineMigration (line : Nat) (s : State) : Answers (execLineMigration line s) := by
  unfold execLineMigration
  dsimp only
  split
  · exact answers_next _
  · split <;> exact answers_next _
theorem answers_execPageWalk (core : Nat) (page : WalkedPage) (sup : Bool) (s : State) : Answers (execPageWalk core page sup s) := by
  unfold execPageWalk
  dsimp only
  split
  · exact answers_next _
  · split
    · exact answers_next _
    · refine answers_ite (answers_next _) ?_
      split <;> exact answers_next _

/-! ## Engines, tiles, conversions and collectives (R242 to R255, R317 to R323) -/

theorem answers_execEngineStep (op unit : Nat) (s : State) : Answers (execEngineStep op unit s) := by
  unfold execEngineStep
  split
  · exact answers_next _
  · refine answers_ite (answers_next _) (answers_ite (answers_next _) ?_)
    split <;> exact answers_next _
theorem answers_execFlag (op : Nat) (s : State) : Answers (execFlag op s) := by
  unfold execFlag
  split
  · exact answers_next _
  · refine answers_ite (answers_next _) (answers_ite (answers_next _) ?_)
    split <;> exact answers_next _
theorem answers_execChecksumMismatch (core : Nat) (s : State) : Answers (execChecksumMismatch core s) := by
  unfold execChecksumMismatch
  split
  · exact answers_next _
  · exact answers_ite (answers_next _) (answers_ite_next _ _)
theorem answers_execCollectiveComplete (coll : Nat) (s : State) : Answers (execCollectiveComplete coll s) := by
  unfold execCollectiveComplete
  split
  · exact answers_next _
  · refine answers_ite (answers_next _) (answers_ite (answers_next _) ?_)
    split
    · exact answers_next _
    · refine answers_ite (answers_next _) (answers_ite (answers_next _) ?_)
      dsimp only
      split <;> exact answers_next _

/-! ## Contexts, messages and yard tables (R85 to R124) -/

theorem answers_execBlockEnd (ctx : Nat) (s : State) : Answers (execBlockEnd ctx s) := by
  refine answers_ite (answers_next _) (answers_ite (answers_next _) (answers_ite (answers_next _) ?_))
  split <;> exact answers_next _
theorem answers_execContextRetirement (ctx : Nat) (s : State) : Answers (execContextRetirement ctx s) := by
  unfold execContextRetirement
  dsimp only
  split
  · refine answers_ite (answers_next _) (answers_ite (answers_next _) (answers_ite (answers_next _) ?_))
    split <;> exact answers_next _
  · exact answers_next _
theorem answers_execMessageAccept (core n : Nat) (s : State) : Answers (execMessageAccept core n s) := by
  unfold execMessageAccept
  split
  · exact answers_next _
  · exact answers_ite (answers_next _) (answers_ite (answers_next _) (answers_ite_next _ _))
theorem answers_execSleepWake (ctx : Nat) (s : State) : Answers (execSleepWake ctx s) := by
  refine answers_ite (answers_next _) ?_
  split
  case h_1 => split <;> exact answers_next _
  case h_2 | h_4 | h_5 => exact answers_ite_next _ _
  case h_3 =>
    dsimp only
    split
    · exact answers_ite_next _ _
    · exact answers_next _
  case h_6 => exact answers_next _
theorem answers_execPinRevocation (gang table : Nat) (s : State) : Answers (execPinRevocation gang table s) := by
  unfold execPinRevocation
  dsimp only
  split
  · exact answers_ite_next _ _
  · exact answers_next _

/-! ## Referrals, containment and restart (R356 to R364, R401) -/

theorem answers_execFaultRecordWrite (vf referral : Nat) (s : State) : Answers (execFaultRecordWrite vf referral s) := by
  unfold execFaultRecordWrite
  split
  · refine answers_ite (answers_next _) (answers_ite ?_ ?_)
    · split
      · exact answers_next _
      · exact answers_ite_next _ _
    · dsimp only
      split <;> exact answers_ite_next _ _
  · exact answers_next _
theorem answers_execReferralResponse (vf slot : Nat) (s : State) : Answers (execReferralResponse vf slot s) := by
  unfold execReferralResponse
  split
  · refine answers_ite (answers_next _) (answers_ite ?_ (answers_ite_next _ _))
    split
    · exact answers_ite_next _ _
    · exact answers_next _
  · exact answers_next _
theorem answers_execSelfTestComplete (core : Nat) (s : State) : Answers (execSelfTestComplete core s) := by
  unfold execSelfTestComplete
  dsimp only
  split
  · exact answers_ite_next _ _
  · exact answers_next _
theorem answers_execMasterHandover (s : State) : Answers (execMasterHandover s) := by
  refine answers_ite (answers_next _) ?_
  dsimp only
  split <;> exact answers_next _

/-! ## Gangs and commands (R125 to R156) -/

theorem answers_execGangReady (gang : Nat) (s : State) : Answers (execGangReady gang s) := by
  unfold execGangReady
  dsimp only
  split
  · exact answers_next _
  · refine answers_ite (answers_next _) (answers_ite (answers_next _) ?_)
    split <;> exact answers_next _
theorem answers_execSwitchStop (gang : Nat) (s : State) : Answers (execSwitchStop gang s) := by
  unfold execSwitchStop
  dsimp only
  split
  · exact answers_next _
  · exact answers_ite (answers_next _) (answers_ite_next _ _)
theorem answers_execLaunch (p : Packet) (s : State) : Answers (execLaunch p s) := by
  unfold execLaunch
  split
  · exact answers_next _
  · dsimp only
    split <;> exact answers_next _

/-! ## Every instruction and every happening -/

/-- Every row of the opcode table answers a next state: an instruction word by its checks or its effect, and a happening by its branches. -/
theorem answers_exec (i : Instr) (s : State) : Answers (exec i s) := by
  cases i with
  | propagate write quarter => exact answers_execPropagate write quarter s
  | read ctx op part => exact answers_execRead ctx op part s
  | atomic ctx op => exact answers_execAtomic ctx op s
  | reduce ctx op => exact answers_execReduce ctx op s
  | lineMigration line => exact answers_execLineMigration line s
  | pageWalk core page sup => exact answers_execPageWalk core page sup s
  | engineStep op unit => exact answers_execEngineStep op unit s
  | flag op => exact answers_execFlag op s
  | checksumMismatch core => exact answers_execChecksumMismatch core s
  | collectiveComplete coll => exact answers_execCollectiveComplete coll s
  | blockEnd ctx => exact answers_execBlockEnd ctx s
  | contextRetirement ctx => exact answers_execContextRetirement ctx s
  | messageAccept core n => exact answers_execMessageAccept core n s
  | sleepWake ctx => exact answers_execSleepWake ctx s
  | pinRevocation gang table => exact answers_execPinRevocation gang table s
  | faultRecordWrite vf referral => exact answers_execFaultRecordWrite vf referral s
  | referralResponse vf slot => exact answers_execReferralResponse vf slot s
  | selfTestComplete core => exact answers_execSelfTestComplete core s
  | masterHandover => exact answers_execMasterHandover s
  | gangReady gang => exact answers_execGangReady gang s
  | switchStop gang => exact answers_execSwitchStop gang s
  | launch p => exact answers_execLaunch p s
  | apply | barrierEpisodeComplete | gmmaJoin | shedScrub | restoreRelease | saveComplete | gangComplete | gangPlace | gangRelease
  | dieReset | sweep | lighthouseResyncEnd => exact answers_ite_next _ _
  | load | unload | stopCommand | query | seqRepetition | deferredEvaluation =>
    dsimp only [exec, execLoad, execUnload, execStopCommand, execQuery, execSeqRepetition, execDeferredEvaluation]
    split <;> exact answers_next _
  | perform | tileOpRetire | cvtRetire | yardBackgroundInvalidate | coreRestart =>
    dsimp only [exec, execPerform, execTileOpRetire, execCvtRetire, execYardBackgroundInvalidate, execCoreRestart]
    split
    · exact answers_next _
    · exact answers_ite_next _ _
  | _ => exact answers_next _

/-! ## The turns (R9, R285) -/

theorem Answers.settled {o : Out} (h : Answers o) (issued : Option Nat) : Answers (settled issued o) := by
  obtain ⟨t, rfl⟩ := h
  exact answers_next _

theorem answers_runManaged (s : State) (c : Managed) : Answers (s.runManaged c) := by
  cases c <;> exact answers_next _

/-- A fetch finds no instruction only at an address outside the package: eight bytes always decode. -/
theorem fetchNext_outside {s : State} {k a : Nat} (h : s.fetchNext k = .outside a) :
    a = pcAddr (s.ctx k).pc ∧ s.exists_ a = false := by
  cases hgone : (s.gang ((s.gangOfCore (coreOfCtx k)).getD 0)).gone (pcBlock (s.ctx k).pc) with
  | true => simp [State.fetchNext, hgone] at h
  | false =>
    cases hin : (s.ctx k).inBlockCode (pcAddr (s.ctx k).pc) with
    | false => simp [State.fetchNext, hgone, hin] at h
    | true =>
      cases hex : s.exists_ (pcAddr (s.ctx k).pc) with
      | true => exact nomatch (fetchNext_instr rfl hgone hin hex).symm.trans h
      | false =>
        have outside : pcAddr (s.ctx k).pc = a := by simpa [State.fetchNext, hgone, hin, hex] using h
        exact ⟨outside.symm, outside ▸ hex⟩

/-- The beginning of a turn leaves the package the address space that it has (R270). -/
theorem begin_exists (s : State) (core k a : Nat) : (s.begin_ core k).exists_ a = s.exists_ a := by
  unfold State.begin_
  rw [countIssue_frame, queueMisses_frame]
  rfl

theorem takeTurn_exists (s : State) (a : Nat) : s.takeTurn.2.exists_ a = s.exists_ a := by
  unfold State.takeTurn
  split <;> rfl

/-- An issue turn answers a next state, or its chosen context's location names no byte of the package. -/
theorem stepIssue_answers (core : Nat) (s : State) : Answers (stepIssue core s) ∨
    ∃ k, s.pick core = some k ∧ s.exists_ (pcAddr ((s.begin_ core k).ctx k).pc) = false ∧
      stepIssue core s = .fault (.fetchOutsideMemory (pcAddr ((s.begin_ core k).ctx k).pc)) := by
  cases hp : s.pick core with
  | none => exact .inl (by simpa only [stepIssue, State.prepare, hp] using (answers_next _).settled none)
  | some k =>
    cases hf : (s.begin_ core k).fetchNext k with
    | trap cause tval => exact .inl (by simpa only [stepIssue, State.prepare, hp, hf] using (answers_next _).settled none)
    | instr i t => exact .inl (by simpa only [stepIssue, State.prepare, hp, hf] using (answers_exec i _).settled _)
    | outside a =>
      obtain ⟨rfl, absent⟩ := fetchNext_outside hf
      exact .inr ⟨k, rfl, (begin_exists ..).symm.trans absent, by simp only [stepIssue, State.prepare, hp, hf]⟩

theorem stepTurn_answers {turn : Turn} (h : ∀ core, turn ≠ .issue core) (s : State) : Answers (stepTurn turn s) := by
  cases turn with
  | issue core => exact absurd rfl (h core)
  | event i => exact (answers_ite (answers_next s) (answers_exec i s)).settled none
  | managed c => exact (answers_runManaged s c).settled none
  | _ => exact (answers_next _).settled none

/-- Settles O11: an issue turn is the only one that can stop, and only where its fetch is outside the package. -/
theorem onlyTheFetchStopsTheMachine : Obligations.OnlyTheFetchStopsTheMachine := by
  refine ⟨answers_exec, fun s => ?_⟩
  by_cases issues : ∃ core, s.takeTurn.1 = .issue core
  · obtain ⟨core, hturn⟩ := issues
    rw [step, hturn]
    refine (stepIssue_answers core s.takeTurn.2).imp id fun ⟨k, hpick, absent, stops⟩ => ?_
    exact ⟨core, k, rfl, hpick, (takeTurn_exists ..).symm.trans absent, stops⟩
  · exact .inl (stepTurn_answers (fun core hturn => issues ⟨core, hturn⟩) _)

end Sys2Proof.Machine

/-! SUPPORT. Command messages at the front end: the checks, and what an accepted one leaves (R129 to R132, R134). -/
namespace Sys2Proof.Machine

/-! ## The checks in their order (R129, R130, R132) -/

/-- What a message has to meet to be accepted, where `body` says whether its body has its form. -/
def State.Accepts (s : State) (p : Packet) (body : Bool) : Prop :=
  s.keeper.paused = false ∧ s.master.ready = true ∧ (s.queue p.queue).source = some p.src ∧ p.wellFormed body = true ∧
    p.seq = (s.queue p.queue).expected ∧ (s.queue p.queue).cmds.length < 256

section
variable {s : State} {p : Packet} {body : Bool} (hpaused : s.keeper.paused = false) (hready : s.master.ready = true)
include hpaused hready

theorem receive_foreign (h : (s.queue p.queue).source ≠ some p.src) :
    s.receive p body = .ended (s.setQueue p.queue { s.queue p.queue with dropped := (s.queue p.queue).dropped + 1 }) := by
  simp [State.receive, hpaused, hready, h]

variable (hsrc : (s.queue p.queue).source = some p.src)
include hsrc

theorem receive_malformed (h : p.wellFormed body = false) : s.receive p body = .ended (s.answer p 1 0) := by
  simp [State.receive, hpaused, hready, hsrc, h]

variable (hform : p.wellFormed body = true)
include hform

theorem receive_outOfOrder (hseq : p.seq ≠ (s.queue p.queue).expected) (hold : 256 < ((s.queue p.queue).expected - p.seq).toNat) :
    s.receive p body = .ended (s.answer p 9 0) := by
  have recent : ¬((s.queue p.queue).expected - p.seq).toNat ≤ 256 := by omega
  simp only [State.receive, hpaused, hready, hsrc, hform, hseq, recent, Bool.not_true, Bool.or_self, Bool.false_eq_true, ne_eq,
    not_true_eq_false, not_false_eq_true, if_false, if_true]

theorem receive_overfull (hseq : p.seq = (s.queue p.queue).expected) (hfull : 256 ≤ (s.queue p.queue).cmds.length) :
    s.receive p body = .ended (s.answer p 10 0) := by
  simp [State.receive, hpaused, hready, hsrc, hform, hseq, hfull]
end

theorem receive_accepted {s : State} {p : Packet} {body : Bool} (h : s.Accepts p body) : s.receive p body = .accepted (s.accept p) := by
  obtain ⟨hpaused, hready, hsrc, hform, hseq, hroom⟩ := h
  have room : ¬256 ≤ (s.queue p.queue).cmds.length := by omega
  simp [State.receive, hpaused, hready, hsrc, hform, hseq, room]

/-- A command that the checks deal with comes to what they answer. -/
theorem exec_of_ended {s t : State} {p : Packet} :
    ∀ e ∈ ([(.launch p, decide (p.body.length = 16)), (.load p, decide (8 ≤ p.body.length) && decide (p.field 4 4 = 0)),
      (.unload p, decide (p.body.length = 8) && decide (p.field 4 4 ≤ 1)), (.stopCommand p, p.body.isEmpty),
      (.query p, p.body.isEmpty)] : List (Instr × Bool)), s.receive p e.2 = .ended t → exec e.1 s = .next t := by
  simp only [List.forall_mem_cons, List.not_mem_nil, false_imp_iff, implies_true, and_true]
  refine ⟨fun h => ?_, fun h => ?_, fun h => ?_, fun h => ?_, fun h => ?_⟩
  · have meaning : exec (.launch p) s = execLaunch p s := rfl
    rw [meaning, execLaunch, h]
  · have meaning : exec (.load p) s = execLoad p s := rfl
    rw [meaning, execLoad, h]
  · have meaning : exec (.unload p) s = execUnload p s := rfl
    rw [meaning, execUnload, h]
  · have meaning : exec (.stopCommand p) s = execStopCommand p s := rfl
    rw [meaning, execStopCommand, h]
  · have meaning : exec (.query p) s = execQuery p s := rfl
    rw [meaning, execQuery, h]

/-! ## Acceptance (R132, R153) -/

theorem accept_frame (s : State) (p : Packet) :
    s.accept p = { s with queues := (s.accept p).queues, quarters := (s.accept p).quarters } := by
  unfold State.accept
  dsimp only
  rw [journal_frame]
  rfl

@[simp] theorem State.accept_gangs (s : State) (p : Packet) : (s.accept p).gangs = s.gangs := by rw [accept_frame]
@[simp] theorem State.accept_vfs (s : State) (p : Packet) : (s.accept p).vfs = s.vfs := by rw [accept_frame]
@[simp] theorem State.accept_next (s : State) (p : Packet) : (s.accept p).next = s.next := by rw [accept_frame]
@[simp] theorem State.accept_now (s : State) (p : Packet) : (s.accept p).now = s.now := by rw [accept_frame]
@[simp] theorem State.accept_ord (s : State) (p : Packet) : (s.accept p).ord = s.ord := by rw [accept_frame]
@[simp] theorem State.accept_master (s : State) (p : Packet) : (s.accept p).master = s.master := by rw [accept_frame]
@[simp] theorem State.accept_gang (s : State) (p : Packet) (g : Nat) : (s.accept p).gang g = s.gang g := by
  rw [State.gang, State.gang, State.accept_gangs]
@[simp] theorem State.accept_vf (s : State) (p : Packet) (v : Nat) : (s.accept p).vf v = s.vf v := by
  rw [State.vf, State.vf, State.accept_vfs]

theorem queue_accept (s : State) (p : Packet) : (s.accept p).queue p.queue =
    { s.queue p.queue with expected := (s.queue p.queue).expected + 1, accepted := (s.queue p.queue).accepted + 1 } := by
  unfold State.accept
  dsimp only
  rw [journal_queue, State.queue_setQueue_self]

theorem cmds_accept (s : State) (p : Packet) (n : Nat) : ((s.accept p).queue n).cmds = (s.queue n).cmds := by
  unfold State.accept
  dsimp only
  rw [journal_queue, State.queue_setQueue]
  split
  · next h => rw [h]
  · rfl

/-- The command that an accepted message puts into its queue. -/
def Packet.cmd (p : Packet) (kind : CmdKind) (started : Bool) : Cmd :=
  { seq := p.seq, flags := p.flags, depseq := p.depseq, depq := p.depq, tag := p.tag, kind := kind, started := started }

theorem queue_enqueue (s : State) (p : Packet) (kind : CmdKind) (started : Bool) : (s.enqueue p kind started).queue p.queue =
    { s.queue p.queue with cmds := (s.queue p.queue).cmds ++ [Packet.cmd p kind started] } :=
  State.queue_updQueue_self ..

@[simp] theorem State.enqueue_gangs (s : State) (p : Packet) (kind : CmdKind) (started : Bool) :
    (s.enqueue p kind started).gangs = s.gangs := rfl
@[simp] theorem State.enqueue_vf (s : State) (p : Packet) (kind : CmdKind) (started : Bool) (v : Nat) :
    (s.enqueue p kind started).vf v = s.vf v := rfl
@[simp] theorem State.enqueue_master (s : State) (p : Packet) (kind : CmdKind) (started : Bool) :
    (s.enqueue p kind started).master = s.master := rfl

/-! ## A command that completes at its acceptance (R134) -/

theorem queue_completeNow (s : State) (p : Packet) (status : Nat) (info : Word) : ∃ r,
    (s.completeNow p status info).queue p.queue = { s.queue p.queue with sent := r :: (s.queue p.queue).sent } ∧
      r.seq = p.seq ∧ r.tag = p.tag ∧ r.vfq = p.vfq ∧ r.status = BitVec.ofNat 16 status ∧ r.info = info := by
  unfold State.completeNow State.answer State.sendRecord
  rw [journal_queue, State.queue_updQueue_self]
  exact ⟨_, rfl, rfl, rfl, rfl, rfl, rfl⟩

theorem completeNow_gangs (s : State) (p : Packet) (status : Nat) (info : Word) : (s.completeNow p status info).gangs = s.gangs := by
  unfold State.completeNow
  rw [journal_frame]
  rfl

end Sys2Proof.Machine

/-! SUPPORT. LAUNCH and QUERY (R131, R133, R415). -/
namespace Sys2Proof.Machine

/-! ## LAUNCH (R131, R133) -/

theorem launchImage_of_vfs {s t : State} (h : t.vfs = s.vfs) (vf obj recIdx : Nat) (params : Word) :
    t.launchImage vf obj recIdx params = s.launchImage vf obj recIdx params := by
  have same : t.vf vf = s.vf vf := by rw [State.vf, State.vf, h]
  rw [State.launchImage, State.launchImage, same]

theorem unloadPending_eq_false {s : State} {vf obj : Nat}
    (h : ∀ i < 4, ∀ c ∈ (s.queue (4 * vf + i)).cmds, c.kind ≠ .unload obj false) : s.unloadPending vf obj = false := by
  simp only [State.unloadPending, List.any_eq_false, List.mem_range]
  intro i hi hany
  obtain ⟨c, hc, hk⟩ := List.any_eq_true.mp hany
  exact h i hi c hc (by simpa using hk)

/-- The gang of an accepted LAUNCH, with the image that is known by now, the load of its object, and the load that it waits for. -/
def State.launchedGang (s : State) (p : Packet) (im : Image) (load : Nat) (waits : Option Nat) : Gang :=
  let vf := vfOf p.queue
  let sup := match (s.vf vf).cfg with
    | some c => decide (c.supQueue = some (p.queue % 4))
    | none => false
  { Gang.reset with
    vfq := p.queue, seq := p.seq, obj := p.field 0 4, recIdx := p.field 4 4, params := BitVec.ofNat 64 (p.field 8 8), image := im,
    clkreq := im.clkreq, sup := sup && !s.hasSupervisor vf,
    load := load, waits := waits }

/-- The new gang takes the next number, and its LAUNCH stands in its queue. -/
def State.withGang (s : State) (p : Packet) (g : Gang) : State :=
  ((s.setGang s.next g).updVf (vfOf p.queue) fun v => { v with clean := false }).tickNext.enqueue p (.launch s.next) false

theorem get?_withGang (s : State) (p : Packet) (g : Gang) : (s.withGang p g).gangs.get? s.next = some g := Table.get?_put_self ..

theorem queue_withGang (s : State) (p : Packet) (g : Gang) : (s.withGang p g).queue p.queue =
    { s.queue p.queue with cmds := (s.queue p.queue).cmds ++ [Packet.cmd p (.launch s.next) false] } := queue_enqueue ..

section
variable {s t : State} {p : Packet} (hacc : s.receive p (decide (p.body.length = 16)) = .accepted t)
  (hunload : t.unloadPending (vfOf p.queue) (p.field 0 4) = false)
include hacc hunload

/-- An object that a LOAD is to bring is waited for. -/
theorem launch_of_pending {o : Obj} (ho : (t.vf (vfOf p.queue)).objs.get? (p.field 0 4) = some o) (hp : o.pending = true) :
    exec (.launch p) s = .next (t.withGang p (t.launchedGang p .reset o.loadId (some o.loadId))) := by
  have meaning : exec (.launch p) s = execLaunch p s := rfl
  rw [meaning, execLaunch, hacc]
  simp only [hunload, ho, hp, Bool.false_eq_true, if_false, if_true]
  rfl

variable (hpend : ∀ o, (t.vf (vfOf p.queue)).objs.get? (p.field 0 4) = some o → o.pending = false)
include hpend

theorem launch_of_image {im : Image}
    (him : t.launchImage (vfOf p.queue) (p.field 0 4) (p.field 4 4) (BitVec.ofNat 64 (p.field 8 8)) = .ok im) :
    exec (.launch p) s = .next
      (t.withGang p (t.launchedGang p im (((t.vf (vfOf p.queue)).objs.get? (p.field 0 4)).elim 0 (·.loadId)) none)) := by
  have meaning : exec (.launch p) s = execLaunch p s := rfl
  rw [meaning, execLaunch, hacc]
  cases ho : (t.vf (vfOf p.queue)).objs.get? (p.field 0 4) with
  | none =>
    simp only [hunload, ho, him, Bool.false_eq_true, if_false]
    rfl
  | some o =>
    simp only [hunload, ho, hpend o ho, him, Bool.false_eq_true, if_false]
    rfl

theorem launch_of_refusal {st : Nat}
    (him : t.launchImage (vfOf p.queue) (p.field 0 4) (p.field 4 4) (BitVec.ofNat 64 (p.field 8 8)) = .error st) :
    exec (.launch p) s = .next (t.completeNow p st 0) := by
  have meaning : exec (.launch p) s = execLaunch p s := rfl
  rw [meaning, execLaunch, hacc]
  cases ho : (t.vf (vfOf p.queue)).objs.get? (p.field 0 4) with
  | none => simp only [hunload, ho, him, Bool.false_eq_true, if_false]
  | some o => simp only [hunload, ho, hpend o ho, him, Bool.false_eq_true, if_false]
end

/-! ## QUERY (R131, R415) -/

theorem queryCode_of_gangs {s t : State} (h : t.gangs = s.gangs) (c : Cmd) : t.queryCode c = s.queryCode c := by
  simp only [State.queryCode, State.gang, h]

end Sys2Proof.Machine

/-! SUPPORT. LOAD and UNLOAD in an empty queue (R83, R131, R344). -/
namespace Sys2Proof.Machine

/-! ## The SEQ that a queue expects -/

theorem expected_completeNaming (s : State) (n : Nat) (seq : BitVec 32) (st : Nat) (info : Word) (names : Option Nat) (m : Nat) :
    ((s.completeNaming n seq st info names).queue m).expected = (s.queue m).expected := by
  unfold State.completeNaming
  dsimp only
  split
  · rfl
  · rw [journal_queue, State.queue_setQueue]
    split
    · next h => rw [h]
    · rfl

theorem completeNaming_vf (s : State) (n : Nat) (seq : BitVec 32) (st : Nat) (info : Word) (names : Option Nat) (v : Nat) :
    (s.completeNaming n seq st info names).vf v = s.vf v := by
  rw [State.vf, State.vf, completeNaming_vfs]

theorem expected_markStarted (s : State) (n : Nat) (seq : BitVec 32) :
    ((s.markStarted n seq).queue n).expected = (s.queue n).expected := by
  rw [queue_markStarted]

theorem markStarted_gangs (s : State) (n : Nat) (seq : BitVec 32) : (s.markStarted n seq).gangs = s.gangs := by
  unfold State.markStarted
  rw [journal_frame]
  rfl

/-- An empty queue with one new command, once that command has ended. -/
theorem ended_sole {s u : State} {n : Nat} {c : Cmd} (hq : (s.queue n).cmds = [c]) (hu : u.queues = (s.markStarted n c.seq).queues)
    (st : Nat) (info : Word) (names : Option Nat) : ∃ r, let t := u.completeNaming n c.seq st info names
      (t.queue n).sent.head? = some r ∧ r.seq = c.seq ∧ r.tag = c.tag ∧ r.status = BitVec.ofNat 16 st ∧ r.info = info ∧
        (t.queue n).cmds = [] ∧ (t.queue n).expected = (s.queue n).expected := by
  have found : (s.queue n).cmds.find? (fun e => e.seq = c.seq) = some c := by simp [hq]
  obtain ⟨hcmds, r, hsent, hseq, htag, hst, hinfo⟩ := ended_of_markStarted found hu st info names
  refine ⟨r, by rw [hsent]; rfl, hseq, htag, hst, hinfo, by rw [hcmds, hq]; simp, ?_⟩
  rw [expected_completeNaming, State.queue, hu]
  exact expected_markStarted s n c.seq

/-! ## The turn of a queue with one new command (R136) -/

/-- The one command of a queue starts where it depends on no other. -/
theorem startNext_sole {s : State} {n : Nat} {c : Cmd} (hq : (s.queue n).cmds = [c]) (hnew : c.started = false)
    (hdep : c.flags.getLsbD 1 = false)
    (hk : (∃ obj image, c.kind = .load obj image) ∨ ∃ obj force, c.kind = .unload obj force) : s.startNext n = s.startCommand n c := by
  have first : (s.queue n).cmds.find? (fun e => !e.started) = some c := by simp [hq, hnew]
  have may : s.mayStart n c = true :=
    (mayStart_iff s n (pre := []) (post := []) hq (by simp)).mpr ⟨by simp, fun _ => rfl, fun h => Bool.noConfusion (hdep.symm.trans h)⟩
  obtain ⟨obj, image, hk⟩ | ⟨obj, force, hk⟩ := hk
  · exact startNext_load first hk may
  · exact startNext_unload first hk may

section
variable {s : State} {n : Nat} {c : Cmd} (hready : s.master.ready = true)
  (howed : ∀ e ∈ s.gangs, e.2.vfq = n → (s.gang e.1).owed = none) (hq : (s.queue n).cmds = [c]) (hnew : c.started = false)
include hready howed hq hnew

theorem commandTurn_sole (hk : c.kind ≠ .stop) : s.commandTurn n = s.startNext n := by
  refine commandTurn_starts hready howed (fun e he => ?_) fun e he obj force hs => ?_
  · simp only [hq, List.head?_cons, Option.some.injEq] at he
    exact he ▸ hk
  · simp only [hq, List.mem_singleton] at he
    simp [he, hnew] at hs

variable (hdep : c.flags.getLsbD 1 = false)
include hdep

theorem commandTurn_load {obj : Nat} {image : List Byte} (hk : c.kind = .load obj image) : s.commandTurn n = s.startCommand n c := by
  rw [commandTurn_sole hready howed hq hnew (by simp [hk]), startNext_sole hq hnew hdep (.inl ⟨obj, image, hk⟩)]

theorem commandTurn_unload {obj : Nat} {force : Bool} (hk : c.kind = .unload obj force) : s.commandTurn n = s.startCommand n c := by
  rw [commandTurn_sole hready howed hq hnew (by simp [hk]), startNext_sole hq hnew hdep (.inr ⟨obj, force, hk⟩)]
end

/-! ## LOAD (R83) -/

/-- A LOAD that loads leaves the object under its number, and no longer pending. -/
theorem loadObject_loads (s : State) (vf obj : Nat) (b : List Byte) :
    EveryResult (fun u => ∃ o, (u.vf vf).objs.get? obj = some o ∧ o.pending = false) (s.loadObject vf obj b) := by
  unfold State.loadObject
  refine everyResult_bind fun o _ => ?_
  dsimp only
  split
  · exact everyResult_error 2
  · refine everyResult_bind fun _ _ => everyResult_bind fun c _ => everyResult_bind fun base _ => everyResult_bind fun bytes _ =>
      everyResult_bind fun data _ => everyResult_bind fun t _ => everyResult_ok ?_
    rw [State.vf_updVf_self]
    exact ⟨_, Table.get?_put_self .., rfl⟩

/-- What stands under the number of a LOAD from its acceptance to its end. -/
def State.loadHold (s : State) : Obj :=
  { name := [], base := 0, size := 0, records := [], reqmask := 0, binds := [], covers := [], entry := 0, imports := none,
    pending := true, loadId := s.next }

@[simp] theorem State.withLoad_gangs (s : State) (p : Packet) : (s.withLoad p).gangs = s.gangs := rfl
@[simp] theorem State.withLoad_gang (s : State) (p : Packet) (g : Nat) : (s.withLoad p).gang g = s.gang g := rfl
@[simp] theorem State.withLoad_master (s : State) (p : Packet) : (s.withLoad p).master = s.master := rfl

theorem queue_withLoad (s : State) (p : Packet) : (s.withLoad p).queue p.queue = { s.queue p.queue with
    cmds := (s.queue p.queue).cmds ++ [Packet.cmd p (.load (p.field 0 4) (p.body.drop 8)) false] } := queue_enqueue ..

theorem get?_withLoad (s : State) (p : Packet) : ((s.withLoad p).vf (vfOf p.queue)).objs.get? (p.field 0 4) = some s.loadHold := by
  unfold State.withLoad
  rw [State.enqueue_vf, State.vf_updVf_self]
  exact Table.get?_put_self ..

theorem load_of_free {s t : State} {p : Packet}
    (hacc : s.receive p (decide (8 ≤ p.body.length) && decide (p.field 4 4 = 0)) = .accepted t) (hobj : p.field 0 4 ≠ 0)
    (hfree : (t.vf (vfOf p.queue)).objs.get? (p.field 0 4) = none) :
    exec (.load p) s = .next ((t.withLoad p).commandTurn p.queue) := by
  have meaning : exec (.load p) s = execLoad p s := rfl
  rw [meaning, execLoad, hacc]
  simp [hobj, hfree]

/-- The LOAD of an otherwise empty queue runs at its acceptance. -/
theorem load_runs {s : State} {p : Packet} (hacc : s.Accepts p (decide (8 ≤ p.body.length) && decide (p.field 4 4 = 0)))
    (hempty : (s.queue p.queue).cmds = []) (hdep : p.flags.getLsbD 1 = false)
    (howed : ∀ e ∈ s.gangs, e.2.vfq = p.queue → (s.gang e.1).owed = none) (hobj : p.field 0 4 ≠ 0)
    (hfree : (s.vf (vfOf p.queue)).objs.get? (p.field 0 4) = none) : exec (.load p) s =
      .next (((s.accept p).withLoad p).startCommand p.queue (Packet.cmd p (.load (p.field 0 4) (p.body.drop 8)) false)) := by
  obtain ⟨-, hready, -⟩ := id hacc
  rw [load_of_free (receive_accepted hacc) hobj (by rwa [State.accept_vf]),
    commandTurn_load (c := Packet.cmd p (.load (p.field 0 4) (p.body.drop 8)) false) _ _ _ rfl hdep rfl]
  · rwa [State.withLoad_master, State.accept_master]
  · simpa using howed
  · rw [queue_withLoad, cmds_accept, hempty]
    rfl

/-- The record of a LOAD, the newest of a queue that is empty again (R83, R131). -/
def LoadReported (v : Queue) (c : Cmd) (st : Nat) : Prop := ∃ r, v.sent.head? = some r ∧ r.seq = c.seq ∧ r.tag = c.tag ∧ r.status = 0 ∧
  r.info = BitVec.ofNat 64 st ∧ v.cmds = []

section
variable {s : State} {n obj : Nat} {image : List Byte} {c : Cmd} (hq : (s.queue n).cmds = [c]) (hk : c.kind = .load obj image)
include hq hk

theorem startCommand_load_reports {u : State} (h : (s.markStarted n c.seq).loadObject (vfOf n) obj image = .ok u) :
    LoadReported ((s.startCommand n c).queue n) c 0 ∧ ((s.startCommand n c).queue n).expected = (s.queue n).expected ∧
      ∃ o, ((s.startCommand n c).vf (vfOf n)).objs.get? obj = some o ∧ o.pending = false := by
  obtain ⟨r, hr, hseq, htag, hst, hinfo, hcmds, hexp⟩ := ended_sole hq (loadObject_queues _ _ _ _ u h) 0 0 none
  rw [startCommand_loaded hk h]
  refine ⟨⟨r, hr, hseq, htag, hst, hinfo, hcmds⟩, hexp, ?_⟩
  rw [State.completeCmd, completeNaming_vf]
  exact loadObject_loads _ _ _ _ u h

theorem startCommand_load_refusal {st : Nat} (h : (s.markStarted n c.seq).loadObject (vfOf n) obj image = .error st)
    (hst : st ≠ loadWaits) : LoadReported ((s.startCommand n c).queue n) c st ∧
      ((s.startCommand n c).queue n).expected = (s.queue n).expected ∧
      ((s.startCommand n c).vf (vfOf n)).objs.get? obj = none := by
  obtain ⟨names, hstart⟩ := startCommand_refused hk h hst
  have unmarked : ((s.markStarted n c.seq).updVf (vfOf n) fun v => { v with objs := v.objs.del obj }).queues =
      (s.markStarted n c.seq).queues := rfl
  obtain ⟨r, hr, hseq, htag, hst, hinfo, hcmds, hexp⟩ := ended_sole hq unmarked 0 (BitVec.ofNat 64 st) names
  rw [hstart]
  refine ⟨⟨r, hr, hseq, htag, hst, hinfo, hcmds⟩, hexp, ?_⟩
  rw [completeNaming_vf, State.vf_updVf_self]
  exact Table.get?_del_self ..

theorem expected_startCommand_load : ((s.startCommand n c).queue n).expected = (s.queue n).expected := by
  cases h : (s.markStarted n c.seq).loadObject (vfOf n) obj image with
  | ok u =>
    obtain ⟨-, hexp, -⟩ := startCommand_load_reports hq hk h
    exact hexp
  | error st =>
    by_cases hst : st = loadWaits
    · rw [startCommand_waits hk (hst ▸ h)]
    · obtain ⟨-, hexp, -⟩ := startCommand_load_refusal hq hk h hst
      exact hexp
end

/-! ## UNLOAD (R344) -/

theorem refCount_of_gangs {s t : State} (h : t.gangs = s.gangs) (vf : Nat) (o : Obj) : t.refCount vf o = s.refCount vf o := by
  simp only [State.refCount, State.savedIn, h]

/-- The UNLOAD of an otherwise empty queue starts at its acceptance. -/
theorem unload_starts {s : State} {p : Packet} (hacc : s.Accepts p (decide (p.body.length = 8) && decide (p.field 4 4 ≤ 1)))
    (hempty : (s.queue p.queue).cmds = []) (hdep : p.flags.getLsbD 1 = false)
    (howed : ∀ e ∈ s.gangs, e.2.vfq = p.queue → (s.gang e.1).owed = none) :
    let c := Packet.cmd p (.unload (p.field 0 4) (decide (p.field 4 4 = 1))) false
    let u := (s.accept p).enqueue p c.kind false
    exec (.unload p) s = .next (u.startCommand p.queue c) ∧ (u.queue p.queue).cmds = [c] := by
  obtain ⟨-, hready, -⟩ := id hacc
  have meaning : exec (.unload p) s = execUnload p s := rfl
  have sole : (((s.accept p).enqueue p (.unload (p.field 0 4) (decide (p.field 4 4 = 1))) false).queue p.queue).cmds =
      [Packet.cmd p (.unload (p.field 0 4) (decide (p.field 4 4 = 1))) false] := by
    rw [queue_enqueue, cmds_accept, hempty]
    rfl
  refine ⟨?_, sole⟩
  rw [meaning, execUnload, receive_accepted hacc]
  refine congrArg _ (commandTurn_unload ?_ ?_ sole rfl hdep rfl)
  · rwa [State.enqueue_master, State.accept_master]
  · have same (g : Nat) : ((s.accept p).enqueue p (.unload (p.field 0 4) (decide (p.field 4 4 = 1))) false).gang g = s.gang g :=
      State.accept_gang ..
    simpa [same] using howed

theorem startCommand_unload_missing {s : State} {n obj : Nat} {force : Bool} {c : Cmd} (hq : (s.queue n).cmds = [c])
    (hk : c.kind = .unload obj force) (hnone : (s.vf (vfOf n)).objs.get? obj = none) : let t := s.startCommand n c
    ∃ r, (t.queue n).sent.head? = some r ∧ r.seq = c.seq ∧ r.status = 2 ∧ (t.queue n).expected = (s.queue n).expected := by
  obtain ⟨r, hr, hseq, -, hst, -, -, hexp⟩ := ended_sole hq rfl 2 0 none
  rw [startCommand_unload_absent hk (by simp [hnone])]
  exact ⟨r, hr, hseq, hst, hexp⟩

theorem startCommand_unload_frees {s : State} {n obj : Nat} {c : Cmd} (hq : (s.queue n).cmds = [c])
    (hk : c.kind = .unload obj false) {o : Obj} (ho : (s.vf (vfOf n)).objs.get? obj = some o) (hp : o.pending = false)
    (hcount : s.refCount (vfOf n) o = 0) : let t := s.startCommand n c
    ∃ r, (t.queue n).sent.head? = some r ∧ r.seq = c.seq ∧ r.status = 0 ∧ (t.vf (vfOf n)).objs.get? obj = none ∧
      (t.queue n).expected = (s.queue n).expected := by
  obtain ⟨r, hr, hseq, -, hst, -, -, hexp⟩ := ended_sole hq (freeObj_queues (s.markStarted n c.seq) (vfOf n) obj o false) 0 0 none
  rw [startCommand_unload hk ho hp, tryUnload_uncounted (by rwa [markStarted_vf])
    (by rwa [refCount_of_gangs (markStarted_gangs ..)])]
  refine ⟨r, hr, hseq, hst, ?_, hexp⟩
  rw [State.completeCmd, completeNaming_vf]
  exact freeObj_frees ..

end Sys2Proof.Machine

/-! SUPPORT. STOP: what the failure of gangs leaves of the others, and of the queues (R131, R139). -/
namespace Sys2Proof.Machine

/-! ## A gang leaves its sheds (R127) -/

/-- The gangs and the queues are the same. -/
structure KeepsGangs (s t : State) : Prop where
  gangs : t.gangs = s.gangs
  queues : t.queues = s.queues

theorem KeepsGangs.refl (s : State) : KeepsGangs s s := ⟨rfl, rfl⟩
theorem KeepsGangs.trans {s t u : State} (hst : KeepsGangs s t) (htu : KeepsGangs t u) : KeepsGangs s u :=
  ⟨htu.gangs.trans hst.gangs, htu.queues.trans hst.queues⟩
theorem KeepsGangs.foldl {α : Type} {f : State → α → State} (hf : ∀ t a, KeepsGangs t (f t a)) (s : State) (l : List α) :
    KeepsGangs s (l.foldl f s) :=
  List.foldlRecOn l f (motive := KeepsGangs s) (KeepsGangs.refl s) fun t ht a _ => ht.trans (hf t a)

theorem KeepsGangs.gang {s t : State} (h : KeepsGangs s t) (g : Nat) : t.gang g = s.gang g := by
  rw [State.gang, State.gang, h.gangs]
theorem KeepsGangs.queue {s t : State} (h : KeepsGangs s t) (n : Nat) : t.queue n = s.queue n := by
  rw [State.queue, State.queue, h.queues]

theorem keepsGangs_updOrd (s : State) (f : Order → Order) : KeepsGangs s (s.updOrd f) := ⟨rfl, rfl⟩
theorem keepsGangs_updShed (s : State) (d : Nat) (f : Shed → Shed) : KeepsGangs s (s.updShed d f) := ⟨rfl, rfl⟩
theorem keepsGangs_updCtx (s : State) (k : Nat) (f : Ctx → Ctx) : KeepsGangs s (s.updCtx k f) := ⟨rfl, rfl⟩
theorem keepsGangs_updCore (s : State) (c : Nat) (f : Core → Core) : KeepsGangs s (s.updCore c f) := ⟨rfl, rfl⟩
theorem keepsGangs_dropEntries (s : State) : KeepsGangs s s.dropEntries := ⟨rfl, rfl⟩

theorem keepsGangs_evictL1 (s : State) (core line : Nat) : KeepsGangs s (s.evictL1 core line) := by
  unfold State.evictL1
  split
  · exact KeepsGangs.refl s
  · dsimp only
    split
    · exact ⟨rfl, rfl⟩
    · unfold State.updL2
      split <;> exact ⟨rfl, rfl⟩

theorem keepsGangs_l1Flush (s : State) (core : Nat) : KeepsGangs s (s.l1Flush core) :=
  KeepsGangs.foldl (fun t line => keepsGangs_evictL1 t core line) s _

theorem keepsGangs_vacate (s : State) (g : Nat) : KeepsGangs s (s.vacate g) := by
  unfold State.vacate
  dsimp only
  generalize (s.gang g).sheds.filter _ = mine
  generalize hflushed : List.foldl _ s (mine.flatMap _) = s0
  generalize hfreed : List.foldl _ s0 mine = s1
  generalize hvacated : List.foldl _ s1.dropEntries (mine.flatMap _) = s2
  generalize hemptied : List.foldl _ s2 (mine.flatMap _) = s3
  have flushed : KeepsGangs s s0 := by rw [← hflushed]; exact KeepsGangs.foldl keepsGangs_l1Flush s _
  have freed : KeepsGangs s0 s1 := by rw [← hfreed]; exact KeepsGangs.foldl (fun t d => keepsGangs_updShed t d _) s0 _
  have vacated : KeepsGangs s1.dropEntries s2 := by rw [← hvacated]; exact KeepsGangs.foldl (fun t k => keepsGangs_updCtx t k _) _ _
  have emptied : KeepsGangs s2 s3 := by rw [← hemptied]; exact KeepsGangs.foldl (fun t c => keepsGangs_updCore t c _) s2 _
  exact flushed.trans (freed.trans ((keepsGangs_dropEntries s1).trans (vacated.trans (emptied.trans (keepsGangs_updOrd ..)))))

/-! ## A gang fails (R139, R363) -/

/-- Each gang is as it was, or has failed; and no queue expects another SEQ. -/
structure FailsSome (s t : State) : Prop where
  gang : ∀ g, t.gang g = s.gang g ∨ (t.gang g).state = .failed
  expected : ∀ n, (t.queue n).expected = (s.queue n).expected

theorem FailsSome.refl (s : State) : FailsSome s s := ⟨fun _ => .inl rfl, fun _ => rfl⟩
theorem FailsSome.failed {s t : State} (h : FailsSome s t) {g : Nat} (hg : (s.gang g).state = .failed) : (t.gang g).state = .failed := by
  obtain same | failed := h.gang g
  · rw [same, hg]
  · exact failed
theorem FailsSome.trans {s t u : State} (hst : FailsSome s t) (htu : FailsSome t u) : FailsSome s u := by
  refine ⟨fun g => ?_, fun n => (htu.expected n).trans (hst.expected n)⟩
  obtain same | failed := hst.gang g
  · rw [← same]
    exact htu.gang g
  · exact .inr (htu.failed failed)
theorem FailsSome.foldl {α : Type} {f : State → α → State} (hf : ∀ t a, FailsSome t (f t a)) (s : State) (l : List α) :
    FailsSome s (l.foldl f s) :=
  List.foldlRecOn l f (motive := FailsSome s) (FailsSome.refl s) fun t ht a _ => ht.trans (hf t a)

theorem completeNaming_gang (s : State) (n : Nat) (seq : BitVec 32) (st : Nat) (info : Word) (names : Option Nat) (g : Nat) :
    (s.completeNaming n seq st info names).gang g = s.gang g := by
  rw [completeNaming_frame]
  rfl

theorem payGang_gang_ne (s : State) {n g : Nat} (h : g ≠ n) : (s.payGang n).gang g = s.gang g := by
  unfold State.payGang
  dsimp only
  split
  · rfl
  · split
    · rfl
    · rw [State.completeCmd, completeNaming_gang, State.gang_updGang_ne _ _ h]

theorem payGang_state (s : State) (n : Nat) : ((s.payGang n).gang n).state = (s.gang n).state := by
  unfold State.payGang
  dsimp only
  split
  · rfl
  · split
    · rfl
    · rw [State.completeCmd, completeNaming_gang, State.gang_updGang_self]

theorem expected_payGang (s : State) (n m : Nat) : ((s.payGang n).queue m).expected = (s.queue m).expected := by
  unfold State.payGang
  dsimp only
  split
  · rfl
  · split
    · rfl
    · rw [State.completeCmd, expected_completeNaming]
      rfl

/-- A gang that is not at its end leaves its sheds, is marked as failed, and its record is sent where it may be. -/
theorem failOne_eq (s : State) (g status : Nat) (h : (s.gang g).state ≠ .complete) (h' : (s.gang g).state ≠ .failed) :
    ∃ (u : State) (f : Gang → Gang), KeepsGangs s u ∧ (∀ v, (f v).state = .failed) ∧
      s.failOne g status = ((u.updGang g f).payGang g).askEvaluate := by
  unfold State.failOne
  dsimp only
  rw [if_neg (by simp [h, h'])]
  generalize hleft : (if (s.gang g).state = .saved then s else _) = left
  have gone : KeepsGangs s left := by
    rw [← hleft]
    split
    · exact KeepsGangs.refl s
    · exact (keepsGangs_updOrd ..).trans (keepsGangs_vacate ..)
  exact ⟨left.orphan g true, _, gone.trans ⟨rfl, rfl⟩, fun _ => rfl, rfl⟩

theorem failOne_of_ended (s : State) (g status : Nat) (h : (s.gang g).state = .complete ∨ (s.gang g).state = .failed) :
    s.failOne g status = s := by
  unfold State.failOne
  dsimp only
  rw [if_pos (by simpa using h)]

theorem failOne_fails (s : State) (g status : Nat) (h : (s.gang g).state ≠ .complete) : ((s.failOne g status).gang g).state = .failed := by
  by_cases h' : (s.gang g).state = .failed
  · rw [failOne_of_ended s g status (.inr h'), h']
  · obtain ⟨u, f, -, hf, hfail⟩ := failOne_eq s g status h h'
    have evaluated : (s.failOne g status).gang g = ((u.updGang g f).payGang g).gang g := by rw [hfail]; rfl
    rw [evaluated, payGang_state, State.gang_updGang_self, hf]

theorem failsSome_failOne (s : State) (g status : Nat) : FailsSome s (s.failOne g status) := by
  by_cases h : (s.gang g).state = .complete ∨ (s.gang g).state = .failed
  · rw [failOne_of_ended s g status h]
    exact FailsSome.refl s
  · obtain ⟨notDone, notFailed⟩ := not_or.mp h
    obtain ⟨u, f, same, -, hfail⟩ := failOne_eq s g status notDone notFailed
    refine ⟨fun j => ?_, fun n => ?_⟩
    · by_cases hj : j = g
      · exact .inr (hj ▸ failOne_fails s g status notDone)
      · refine .inl ?_
        have evaluated : (s.failOne g status).gang j = ((u.updGang g f).payGang g).gang j := by rw [hfail]; rfl
        rw [evaluated, payGang_gang_ne _ hj, State.gang_updGang_ne _ _ hj, same.gang]
    · have evaluated : (s.failOne g status).queue n = ((u.updGang g f).payGang g).queue n := by rw [hfail]; rfl
      rw [evaluated, expected_payGang, State.updGang_queue, same.queue]

/-- A gang that fails may take others of its function with it. -/
theorem failGang_eq (s : State) (g status : Nat) : ∃ u, u = s.failOne g status ∧ FailsSome u (s.failGang g status) := by
  refine ⟨_, rfl, ?_⟩
  unfold State.failGang State.supervisorGone
  dsimp only
  split
  · split
    · exact FailsSome.refl _
    · exact FailsSome.foldl (fun t e => failsSome_failOne ..) _ _
  · exact FailsSome.refl _

theorem failsSome_failGang (s : State) (g status : Nat) : FailsSome s (s.failGang g status) := by
  obtain ⟨u, rfl, rest⟩ := failGang_eq s g status
  exact (failsSome_failOne s g status).trans rest

theorem failGang_fails (s : State) (g status : Nat) (h : (s.gang g).state ≠ .complete) :
    ((s.failGang g status).gang g).state = .failed := by
  obtain ⟨u, rfl, rest⟩ := failGang_eq s g status
  exact rest.failed (failOne_fails s g status h)

/-- Of gangs that fail one after another, each that was not complete has failed. -/
theorem foldl_failGang_fails (status : Nat) (gs : List (Nat × Gang)) (s : State) {g : Nat} (hg : g ∈ gs.map (·.1))
    (h : (s.gang g).state ≠ .complete) : ((gs.foldl (fun u e => u.failGang e.1 status) s).gang g).state = .failed := by
  induction gs generalizing s with
  | nil => simp at hg
  | cons e gs ih =>
    rw [List.foldl_cons]
    have rest (t : State) := FailsSome.foldl (fun t (e : Nat × Gang) => failsSome_failGang t e.1 status) t gs
    by_cases hfirst : g = e.1
    · subst hfirst
      exact (rest _).failed (failGang_fails s e.1 status h)
    · refine ih _ ((List.mem_cons.mp hg).resolve_left hfirst) ?_
      obtain same | failed := (failsSome_failGang s e.1 status).gang g
      · rwa [same]
      · simp [failed]

/-! ## A switch that ends in a discard (R131, R144) -/

theorem leaveAt_drop_state (s : State) (g t j : Nat) : ((s.leaveAt g t true).gang j).state = (s.gang j).state := by
  by_cases h : j = g
  · subst h
    unfold State.leaveAt
    dsimp only
    split
    · rw [State.gang_updGang_self]
    · split
      · rfl
      · next hr =>
        rw [journal_gang, State.gang_updGang_self]
        exact (not_not.mp hr).symm
  · rw [leaveAt_gang_ne s t true h]

theorem leaveAt_drop_self (s : State) (g t : Nat) (h : (s.gang g).switchAt.isSome = true ∨ (s.gang g).state = .resident) :
    ((s.leaveAt g t true).gang g).discard = true := by
  unfold State.leaveAt
  dsimp only
  split
  · rw [State.gang_updGang_self]
    exact Bool.or_true _
  · next hsw =>
    have resident : (s.gang g).state = .resident := h.resolve_left (by simp [hsw])
    rw [if_neg (by simp [resident]), journal_gang, State.gang_updGang_self]

theorem leaveAt_drop_discarded (s : State) {g j : Nat} (t : Nat) (h : (s.gang j).discard = true) (hd : (s.gang j).switchAt.isSome = true) :
    ((s.leaveAt g t true).gang j).discard = true := by
  by_cases hj : j = g
  · subst hj
    exact leaveAt_drop_self s j t (.inl hd)
  · rw [leaveAt_gang_ne s t true hj, h]

theorem decideSwitches_drop_state (s : State) (gs : List Nat) (j : Nat) : ((s.decideSwitches gs true).gang j).state = (s.gang j).state := by
  unfold State.decideSwitches
  exact List.foldlRecOn gs _ (motive := fun u : State => (u.gang j).state = (s.gang j).state) rfl
    fun u hu g _ => (leaveAt_drop_state u g _ j).trans hu

theorem switchAt_or_resident_of_runs {g : Gang} {now : Nat} (h : Gang.runs g now = true) : g.switchAt.isSome = true ∨ g.state = .resident := by
  unfold Gang.runs at h
  split at h
  · exact .inr (by simpa using h)
  · next hsw => exact .inl (by rw [hsw]; rfl)

/-- Every running gang that is named gets a timestamp, and is discarded at it. -/
theorem foldl_leaveAt_drops (t : Nat) (gs : List Nat) (s : State) {g : Nat} (hg : g ∈ gs)
    (h : (s.gang g).switchAt.isSome = true ∨ (s.gang g).state = .resident) :
    let v := (gs.foldl (fun u g => u.leaveAt g t true) s).gang g
    v.switchAt.isSome = true ∧ v.discard = true := by
  induction gs generalizing s with
  | nil => simp at hg
  | cons j gs ih =>
    by_cases hj : g = j
    · subst hj
      refine List.foldlRecOn gs _ (motive := fun u : State => (u.gang g).switchAt.isSome = true ∧ (u.gang g).discard = true)
        ⟨leaveAt_gang_self s g t true h, leaveAt_drop_self s g t h⟩ fun u hu j _ => ?_
      obtain ⟨decided, dropped⟩ := hu
      exact ⟨leaveAt_gang_decided u t true decided, leaveAt_drop_discarded u t dropped decided⟩
    · exact ih _ ((List.mem_cons.mp hg).resolve_left hj) (by rwa [leaveAt_gang_ne s t true hj])

/-! ## STOP (R131) -/

/-- The gangs, the tick, the order machine and the SEQ that each queue expects are the same. -/
structure OnlyRecords (s t : State) : Prop where
  gangs : t.gangs = s.gangs
  now : t.now = s.now
  ord : t.ord = s.ord
  expected : ∀ n, (t.queue n).expected = (s.queue n).expected

theorem OnlyRecords.refl (s : State) : OnlyRecords s s := ⟨rfl, rfl, rfl, fun _ => rfl⟩
theorem OnlyRecords.trans {s t u : State} (hst : OnlyRecords s t) (htu : OnlyRecords t u) : OnlyRecords s u :=
  ⟨htu.gangs.trans hst.gangs, htu.now.trans hst.now, htu.ord.trans hst.ord, fun n => (htu.expected n).trans (hst.expected n)⟩

theorem onlyRecords_completeCmd (s : State) (n : Nat) (seq : BitVec 32) (st : Nat) (info : Word) :
    OnlyRecords s (s.completeCmd n seq st info) := by
  refine ⟨?_, ?_, completeNaming_ord .., expected_completeNaming s n seq st info none⟩
  all_goals rw [State.completeCmd, completeNaming_frame]

theorem onlyRecords_endCommands (s : State) (n status : Nat) : OnlyRecords s (s.endCommands n status) := by
  unfold State.endCommands
  dsimp only
  refine OnlyRecords.trans (t := List.foldl _ s _) ?_ ⟨rfl, rfl, rfl, fun _ => rfl⟩
  exact List.foldlRecOn _ _ (motive := OnlyRecords s) (OnlyRecords.refl s) fun t ht c _ => ht.trans (onlyRecords_completeCmd ..)

theorem onlyRecords_enqueue (s : State) (p : Packet) (kind : CmdKind) (started : Bool) : OnlyRecords s (s.enqueue p kind started) := by
  refine ⟨rfl, rfl, rfl, fun n => ?_⟩
  unfold State.enqueue
  dsimp only
  rw [State.queue_updQueue]
  split
  · next h => rw [h]
  · rfl

theorem onlyRecords_settleStop (s : State) (n : Nat) : OnlyRecords s (s.settleStop n) := by
  unfold State.settleStop
  split
  · split
    · exact onlyRecords_completeCmd ..
    · exact OnlyRecords.refl s
  · exact OnlyRecords.refl s

/-- The gangs of a queue that are not at their end. -/
def State.openGangs (s : State) (n : Nat) : List (Nat × Gang) :=
  s.gangs.filter fun e => e.2.vfq = n && e.2.state ≠ .complete && e.2.state ≠ .failed

/-- Those that run are to be discarded at a timestamp, and the others fail. -/
def State.stopGangs (s : State) (n : Nat) : State :=
  ((s.openGangs n).filter fun e => !Gang.runs e.2 s.now).foldl (fun u e => u.failGang e.1 4)
    (s.decideSwitches (((s.openGangs n).filter fun e => Gang.runs e.2 s.now).map (·.1)) true)

theorem stop_eq {s t : State} {p : Packet} (hacc : s.receive p p.body.isEmpty = .accepted t) : exec (.stopCommand p) s =
    .next ((((t.endCommands p.queue 4).stopGangs p.queue).enqueue p .stop true).settleStop p.queue) := by
  have meaning : exec (.stopCommand p) s = execStopCommand p s := rfl
  rw [meaning, execStopCommand, hacc]
  rfl

theorem mem_openGangs {s : State} {n g : Nat} (hg : (s.gangs.get? g).isSome = true) (hq : (s.gang g).vfq = n)
    (hc : (s.gang g).state ≠ .complete) (hf : (s.gang g).state ≠ .failed) : (g, s.gang g) ∈ s.openGangs n := by
  obtain ⟨x, hx⟩ := Option.isSome_iff_exists.mp hg
  have known : s.gang g = x := by rw [State.gang, Table.getD, hx]; rfl
  refine List.mem_filter.mpr ⟨?_, by simp [hq, hc, hf]⟩
  rw [known]
  exact Table.mem_of_get? hx

theorem stopGangs_fails (s : State) (n : Nat) : FailsSome (s.decideSwitches
    (((s.openGangs n).filter fun e => Gang.runs e.2 s.now).map (·.1)) true) (s.stopGangs n) :=
  FailsSome.foldl (fun _ _ => failsSome_failGang ..) _ _

theorem stopGangs_stops (s : State) (n : Nat) {g : Nat} (hg : (s.gangs.get? g).isSome = true) (hq : (s.gang g).vfq = n)
    (hc : (s.gang g).state ≠ .complete) : ((s.stopGangs n).gang g).state = .failed ∨ (Gang.runs (s.gang g) s.now = true ∧
      ((s.stopGangs n).gang g).switchAt.isSome = true ∧ ((s.stopGangs n).gang g).discard = true) := by
  have after := stopGangs_fails s n
  by_cases hf : (s.gang g).state = .failed
  · exact .inl (after.failed (by rw [decideSwitches_drop_state, hf]))
  · have mine := mem_openGangs hg hq hc hf
    cases hr : Gang.runs (s.gang g) s.now with
    | false =>
      refine .inl (foldl_failGang_fails 4 _ _ (List.mem_map.mpr ⟨_, List.mem_filter.mpr ⟨mine, by simp [hr]⟩, rfl⟩) ?_)
      rwa [decideSwitches_drop_state]
    | true =>
      have named : g ∈ ((s.openGangs n).filter fun e => Gang.runs e.2 s.now).map (·.1) :=
        List.mem_map.mpr ⟨_, List.mem_filter.mpr ⟨mine, hr⟩, rfl⟩
      obtain same | failed := after.gang g
      · rw [same]
        exact .inr ⟨rfl, foldl_leaveAt_drops _ _ { s with free := s.free + 1 } named (switchAt_or_resident_of_runs hr)⟩
      · exact .inl failed

theorem sameBytes_stopGangs (s : State) (n : Nat) : SameBytes s (s.stopGangs n) := by
  refine sameBytes_of_mem (Calm.mem (Calm.trans (t := s.decideSwitches _ true) (Calm.of_same ?_ ?_)
    (Calm.foldl (fun _ _ => calm_failGang ..) _ _)))
  all_goals rw [decideSwitches_frame]

theorem expected_stopGangs (s : State) (n m : Nat) : ((s.stopGangs n).queue m).expected = (s.queue m).expected := by
  rw [(stopGangs_fails s n).expected, State.queue, decideSwitches_queues]
  rfl

end Sys2Proof.Machine

/-! SUPPORT. The obligation of the commands, clause by clause (R83, R128 to R134, R344, R415). -/
namespace Sys2Proof.Machine

/-! ## Messages with no listed OPC, and dropped packets (R128, R131) -/

theorem unknownOpc_refused {p : Packet} {opc : Byte} {s : State} (hpaused : s.keeper.paused = false) (hopc : opc = 0 ∨ 5 < opc.toNat)
    (hsrc : (s.queue p.queue).source = some p.src) : exec (.unknownOpc p opc) s = .next (s.answer p 1 0) := by
  have meaning : exec (.unknownOpc p opc) s = execUnknownOpc p opc s := rfl
  have unlisted : (decide (1 ≤ opc.toNat) && decide (opc.toNat ≤ 5)) = false := by
    obtain rfl | h := hopc
    · rfl
    · simp [h]
  rw [meaning, execUnknownOpc]
  simp only [hpaused, unlisted, hsrc, Bool.or_self, Bool.false_eq_true, ne_eq, not_true_eq_false, if_false]

theorem droppedPacket_counts (port : Nat) (s : State) : ∃ t, exec (.droppedPacket port) s = .next t ∧ t.ord = s.ord ∧ t.ctxs = s.ctxs ∧
    ∀ i : Fin 4, (t.quarterAt (port / 4)).drops[i] = (s.quarterAt (port / 4)).drops[i] + (if i.val = port % 4 then 1 else 0) := by
  have meaning : exec (.droppedPacket port) s = execDroppedPacket port s := rfl
  rw [meaning, execDroppedPacket]
  refine ⟨_, rfl, rfl, rfl, fun i => ?_⟩
  rw [quarterAt_setQuarter_self]
  by_cases h : i.val = port % 4
  · simp [h]
  · simp [h, Vector.getElem_set_ne, Ne.symm h]

/-! ## The commands -/

/-- The state code that QUERY reports of a queue: that of the oldest command, and 0 where there is none (R415). -/
def State.oldestCode (s : State) (n : Nat) : Nat := (s.queue n).cmds.head?.elim 0 s.queryCode

theorem query_eq {p : Packet} {s t : State} (hacc : s.receive p p.body.isEmpty = .accepted t) : exec (.query p) s =
    .next (t.completeNow p 0 (BitVec.ofNat 64 (t.oldestCode p.queue + 2 ^ 8 * (t.queue p.queue).cmds.length))) := by
  have meaning : exec (.query p) s = execQuery p s := rfl
  rw [meaning, execQuery, hacc, State.oldestCode]
  dsimp only
  cases (t.queue p.queue).cmds.head? <;> rfl

theorem oldestCode_accept (s : State) (p : Packet) (n : Nat) : (s.accept p).oldestCode n = s.oldestCode n := by
  rw [State.oldestCode, State.oldestCode, cmds_accept]
  congr 1
  funext c
  exact queryCode_of_gangs (State.accept_gangs s p) c

theorem query_answers {p : Packet} {s : State} (hacc : s.Accepts p p.body.isEmpty) :
    ∃ t r, exec (.query p) s = .next t ∧ (t.queue p.queue).sent.head? = some r ∧ r.seq = p.seq ∧ r.tag = p.tag ∧ r.status = 0 ∧
      r.info = BitVec.ofNat 64 (s.oldestCode p.queue + 2 ^ 8 * (s.queue p.queue).cmds.length) ∧
      (t.queue p.queue).cmds = (s.queue p.queue).cmds ∧ t.gangs = s.gangs ∧
      (t.queue p.queue).expected = (s.queue p.queue).expected + 1 := by
  have answered := query_eq (receive_accepted hacc)
  rw [oldestCode_accept, cmds_accept] at answered
  obtain ⟨r, hq, hseq, htag, -, hst, hinfo⟩ := queue_completeNow (s.accept p) p 0
    (BitVec.ofNat 64 (s.oldestCode p.queue + 2 ^ 8 * (s.queue p.queue).cmds.length))
  refine ⟨_, r, answered, ?_⟩
  rw [hq, completeNow_gangs, queue_accept]
  exact ⟨rfl, hseq, htag, hst, hinfo, rfl, State.accept_gangs .., rfl⟩

theorem stop_stops {p : Packet} {s : State} (hacc : s.Accepts p p.body.isEmpty) : ∃ t, exec (.stopCommand p) s = .next t ∧
    SameBytes s t ∧ (t.queue p.queue).expected = (s.queue p.queue).expected + 1 ∧
    ∀ g, (s.gangs.get? g).isSome = true → (s.gang g).vfq = p.queue → (s.gang g).state ≠ .complete →
      (t.gang g).state = .failed ∨ (Gang.runs (s.gang g) s.now = true ∧ (t.gang g).switchAt.isSome = true ∧ (t.gang g).discard = true) := by
  have ended := onlyRecords_endCommands (s.accept p) p.queue 4
  generalize hu : (s.accept p).endCommands p.queue 4 = u at ended
  have recorded : OnlyRecords (u.stopGangs p.queue) (((u.stopGangs p.queue).enqueue p .stop true).settleStop p.queue) :=
    (onlyRecords_enqueue ..).trans (onlyRecords_settleStop ..)
  have gangs : u.gangs = s.gangs := ended.gangs.trans (State.accept_gangs ..)
  have gang (g : Nat) : u.gang g = s.gang g := by rw [State.gang, State.gang, gangs]
  have now : u.now = s.now := ended.now.trans (State.accept_now ..)
  refine ⟨_, (stop_eq (receive_accepted hacc)).trans (by rw [hu]), fun q a => ?_, ?_, fun g hg hq hc => ?_⟩
  · have before : SameBytes s u := sameBytes_of_mem (by rw [ended.ord, State.accept_ord])
    have after := sameBytes_of_mem (congrArg Order.mem recorded.ord)
    exact (after q a).trans ((sameBytes_stopGangs u p.queue q a).trans (before q a))
  · rw [recorded.expected, expected_stopGangs, ended.expected, queue_accept]
  · have stopped := stopGangs_stops u p.queue (g := g) (by rwa [gangs]) (by rwa [gang]) (by rwa [gang])
    rw [gang, now] at stopped
    rwa [State.gang, recorded.gangs, ← State.gang]

theorem unloadPending_accept {p : Packet} {s : State} {vf obj : Nat}
    (h : ∀ i < 4, ∀ c ∈ (s.queue (4 * vf + i)).cmds, c.kind ≠ .unload obj false) : (s.accept p).unloadPending vf obj = false :=
  unloadPending_eq_false (by simpa only [cmds_accept] using h)

section
variable {p : Packet} {s : State} (hacc : s.Accepts p (decide (p.body.length = 16)))
  (hunload : ∀ i < 4, ∀ c ∈ (s.queue (4 * vfOf p.queue + i)).cmds, c.kind ≠ .unload (p.field 0 4) false)
include hacc hunload

theorem launch_waits {o : Obj} (ho : (s.vf (vfOf p.queue)).objs.get? (p.field 0 4) = some o) (hp : o.pending = true) :
    ∃ t g, exec (.launch p) s = .next t ∧ t.gangs.get? s.next = some g ∧ g.state = .waiting ∧ g.waits = some o.loadId ∧
      (t.queue p.queue).expected = (s.queue p.queue).expected + 1 := by
  have waits := launch_of_pending (receive_accepted hacc) (unloadPending_accept hunload) (by rwa [State.accept_vf]) hp
  refine ⟨_, (s.accept p).launchedGang p .reset o.loadId (some o.loadId), waits, ?_, rfl, rfl, ?_⟩
  · rw [← State.accept_next s p]
    exact get?_withGang ..
  · rw [queue_withGang, queue_accept]

variable (hpend : ∀ o, (s.vf (vfOf p.queue)).objs.get? (p.field 0 4) = some o → o.pending = false)
include hpend

theorem launch_refused {st : Nat}
    (him : s.launchImage (vfOf p.queue) (p.field 0 4) (p.field 4 4) (BitVec.ofNat 64 (p.field 8 8)) = .error st) :
    ∃ t r, exec (.launch p) s = .next t ∧ (t.queue p.queue).sent.head? = some r ∧ r.seq = p.seq ∧ r.tag = p.tag ∧ r.vfq = p.vfq ∧
      r.status = BitVec.ofNat 16 st ∧ (t.queue p.queue).cmds = (s.queue p.queue).cmds ∧ t.gangs = s.gangs ∧
      (t.queue p.queue).expected = (s.queue p.queue).expected + 1 := by
  obtain ⟨r, hq, hseq, htag, hvfq, hst, -⟩ := queue_completeNow (s.accept p) p st 0
  have refused := launch_of_refusal (receive_accepted hacc) (unloadPending_accept hunload) (by rwa [State.accept_vf])
    ((launchImage_of_vfs (State.accept_vfs ..) ..).trans him)
  refine ⟨_, r, refused, ?_⟩
  rw [hq, completeNow_gangs, queue_accept]
  exact ⟨rfl, hseq, htag, hvfq, hst, rfl, State.accept_gangs .., rfl⟩

theorem launch_makesGang {image : Image}
    (him : s.launchImage (vfOf p.queue) (p.field 0 4) (p.field 4 4) (BitVec.ofNat 64 (p.field 8 8)) = .ok image) :
    ∃ t g, exec (.launch p) s = .next t ∧ t.gangs.get? s.next = some g ∧ g.state = .waiting ∧ g.waits = none ∧ g.vfq = p.queue ∧
      g.seq = p.seq ∧ g.image = image ∧ g.clkreq = image.clkreq ∧ (t.queue p.queue).expected = (s.queue p.queue).expected + 1 ∧
      ∃ c, (t.queue p.queue).cmds = (s.queue p.queue).cmds ++ [c] ∧ c.seq = p.seq ∧ c.kind = .launch s.next ∧ c.started = false := by
  have makes := launch_of_image (receive_accepted hacc) (unloadPending_accept hunload) (by rwa [State.accept_vf])
    ((launchImage_of_vfs (State.accept_vfs ..) ..).trans him)
  refine ⟨_, (s.accept p).launchedGang p image ((((s.accept p).vf (vfOf p.queue)).objs.get? (p.field 0 4)).elim 0 (·.loadId)) none, makes,
    ?_, rfl, rfl, rfl, rfl, rfl, rfl, ?_⟩
  · rw [← State.accept_next s p]
    exact get?_withGang ..
  · rw [queue_withGang, queue_accept, State.accept_next]
    exact ⟨rfl, _, rfl, rfl, rfl, rfl⟩
end

/-- The LOAD of an otherwise empty queue under a free number. -/
theorem load_loads {p : Packet} {s : State} (hacc : s.Accepts p (decide (8 ≤ p.body.length) && decide (p.field 4 4 = 0)))
    (hempty : (s.queue p.queue).cmds = []) (hdep : p.flags.getLsbD 1 = false)
    (howed : ∀ e ∈ s.gangs, e.2.vfq = p.queue → (s.gang e.1).owed = none) (hobj : p.field 0 4 ≠ 0)
    (hfree : (s.vf (vfOf p.queue)).objs.get? (p.field 0 4) = none) :
    ∃ t, exec (.load p) s = .next t ∧ (t.queue p.queue).expected = (s.queue p.queue).expected + 1 ∧
      let loads := (((s.accept p).withLoad p).markStarted p.queue p.seq).loadObject (vfOf p.queue) (p.field 0 4) (p.body.drop 8)
      let reported (st : Nat) : Prop := ∃ r, (t.queue p.queue).sent.head? = some r ∧ r.seq = p.seq ∧ r.tag = p.tag ∧ r.status = 0 ∧
        r.info = BitVec.ofNat 64 st ∧ (t.queue p.queue).cmds = []
      (∀ u, loads = .ok u → reported 0 ∧ ∃ o, (t.vf (vfOf p.queue)).objs.get? (p.field 0 4) = some o ∧ o.pending = false) ∧
      (∀ st, loads = .error st → st ≠ loadWaits → reported st ∧ (t.vf (vfOf p.queue)).objs.get? (p.field 0 4) = none) ∧
      (loads = .error loadWaits → (t.queue p.queue).sent = (s.queue p.queue).sent ∧
        (∃ c, (t.queue p.queue).cmds = [c] ∧ c.seq = p.seq ∧ c.started = false) ∧
        ∃ o, (t.vf (vfOf p.queue)).objs.get? (p.field 0 4) = some o ∧ o.pending = true) := by
  let c := Packet.cmd p (.load (p.field 0 4) (p.body.drop 8)) false
  have queue : ((s.accept p).withLoad p).queue p.queue = { s.queue p.queue with
      expected := (s.queue p.queue).expected + 1, accepted := (s.queue p.queue).accepted + 1, cmds := [c] } := by
    rw [queue_withLoad, queue_accept, hempty]
    rfl
  have sole : (((s.accept p).withLoad p).queue p.queue).cmds = [c] := by rw [queue]
  have kind : c.kind = .load (p.field 0 4) (p.body.drop 8) := rfl
  refine ⟨_, load_runs hacc hempty hdep howed hobj hfree, ?_, fun u hu => ?_, fun st hst hne => ?_, fun hw => ?_⟩
  · rw [expected_startCommand_load sole kind, queue]
  · obtain ⟨reported, -, loaded⟩ := startCommand_load_reports sole kind hu
    exact ⟨reported, loaded⟩
  · obtain ⟨reported, -, free⟩ := startCommand_load_refusal sole kind hst hne
    exact ⟨reported, free⟩
  · rw [startCommand_waits kind hw, queue]
    exact ⟨rfl, ⟨c, rfl, rfl, rfl⟩, _, get?_withLoad .., rfl⟩

section
variable {p : Packet} {s : State} (hacc : s.Accepts p (decide (p.body.length = 8) && decide (p.field 4 4 ≤ 1)))
  (hempty : (s.queue p.queue).cmds = []) (hdep : p.flags.getLsbD 1 = false)
  (howed : ∀ e ∈ s.gangs, e.2.vfq = p.queue → (s.gang e.1).owed = none)
include hacc hempty hdep howed

theorem unload_missing (hnone : (s.vf (vfOf p.queue)).objs.get? (p.field 0 4) = none) :
    ∃ t r, exec (.unload p) s = .next t ∧ (t.queue p.queue).sent.head? = some r ∧ r.seq = p.seq ∧ r.status = 2 ∧
      (t.queue p.queue).expected = (s.queue p.queue).expected + 1 := by
  obtain ⟨starts, sole⟩ := unload_starts hacc hempty hdep howed
  obtain ⟨r, hr, hseq, hst, hexp⟩ := startCommand_unload_missing sole rfl (by rwa [State.enqueue_vf, State.accept_vf])
  exact ⟨_, r, starts, hr, hseq, hst, by rw [hexp, queue_enqueue, queue_accept]⟩

theorem unload_frees {o : Obj} (ho : (s.vf (vfOf p.queue)).objs.get? (p.field 0 4) = some o) (hp : o.pending = false)
    (hforce : p.field 4 4 = 0) (hcount : s.refCount (vfOf p.queue) o = 0) :
    ∃ t r, exec (.unload p) s = .next t ∧ (t.queue p.queue).sent.head? = some r ∧ r.seq = p.seq ∧ r.status = 0 ∧
      (t.vf (vfOf p.queue)).objs.get? (p.field 0 4) = none ∧ (t.queue p.queue).expected = (s.queue p.queue).expected + 1 := by
  obtain ⟨starts, sole⟩ := unload_starts hacc hempty hdep howed
  have kind : (Packet.cmd p (.unload (p.field 0 4) (decide (p.field 4 4 = 1))) false).kind = .unload (p.field 0 4) false := by
    rw [Packet.cmd, hforce]
    rfl
  obtain ⟨r, hr, hseq, hst, hfree, hexp⟩ := startCommand_unload_frees sole kind (by rwa [State.enqueue_vf, State.accept_vf]) hp
    (by rwa [refCount_of_gangs (t := (s.accept p).enqueue ..) ((State.enqueue_gangs ..).trans (State.accept_gangs ..))])
  exact ⟨_, r, starts, hr, hseq, hst, hfree, by rw [hexp, queue_enqueue, queue_accept]⟩
end

/-- Settles O57, check by check and command by command. -/
theorem commandsAreCheckedThenTakeEffect : Obligations.CommandsAreCheckedThenTakeEffect := by
  unfold Obligations.CommandsAreCheckedThenTakeEffect
  refine ⟨fun p s => ⟨fun e he hpaused hready => ?checks, fun hacc hunload => ?launch, load_loads,
    fun hacc hempty hdep howed => ?unload, stop_stops, fun hacc => ?query, fun opc => unknownOpc_refused⟩, droppedPacket_counts⟩
  case checks =>
    have ended {t : State} := exec_of_ended (s := s) (t := t) (p := p) e he
    exact ⟨fun h => ended (receive_foreign hpaused hready h), fun hsrc h => ended (receive_malformed hpaused hready hsrc h),
      fun hsrc hform hseq hold => ended (receive_outOfOrder hpaused hready hsrc hform hseq hold),
      fun hsrc hform hseq hfull => ended (receive_overfull hpaused hready hsrc hform hseq hfull)⟩
  case launch =>
    exact ⟨fun o => launch_waits hacc hunload, fun hpend => ⟨fun st => launch_refused hacc hunload hpend,
      fun image => launch_makesGang hacc hunload hpend⟩⟩
  case unload =>
    exact ⟨unload_missing hacc hempty hdep howed, fun o => unload_frees hacc hempty hdep howed⟩
  case query =>
    obtain ⟨t, r, answered, hr, hseq, htag, hst, hinfo, rest⟩ := query_answers hacc
    refine ⟨t, r, answered, hr, hseq, htag, hst, hinfo.trans ?_, rest⟩
    rw [State.oldestCode]
    cases (s.queue p.queue).cmds.head? <;> rfl

end Sys2Proof.Machine

/-! SUPPORT. No hold decides what is READY: states that differ in their contexts alone, in the caches and the order machine (R93, R106). -/
namespace Sys2Proof.Machine

/-! ## States that differ in their contexts alone -/

/-- The state with other contexts. -/
def State.withCtxs (s : State) (l : Table Ctx) : State := { s with ctxs := l }

section
variable (s : State) (l : Table Ctx)

@[simp] theorem withCtxs_ctxs : (s.withCtxs l).ctxs = l := rfl
@[simp] theorem withCtxs_self : s.withCtxs s.ctxs = s := rfl
@[simp] theorem withCtxs_ord : (s.withCtxs l).ord = s.ord := rfl
@[simp] theorem withCtxs_cur : (s.withCtxs l).cur = s.cur := rfl
@[simp] theorem withCtxs_next : (s.withCtxs l).next = s.next := rfl
@[simp] theorem withCtxs_free : (s.withCtxs l).free = s.free := rfl
@[simp] theorem withCtxs_cores : (s.withCtxs l).cores = s.cores := rfl
@[simp] theorem withCtxs_core (c : Nat) : (s.withCtxs l).core c = s.core c := rfl
@[simp] theorem withCtxs_shed (d : Nat) : (s.withCtxs l).shed d = s.shed d := rfl
@[simp] theorem withCtxs_vf (v : Nat) : (s.withCtxs l).vf v = s.vf v := rfl
@[simp] theorem withCtxs_walkHeld (q vf : Nat) (sup : Bool) (va : Nat) :
    (s.withCtxs l).walkHeld q vf sup va = s.walkHeld q vf sup va := rfl
@[simp] theorem withCtxs_peerPad (v : Nat) : (s.withCtxs l).peerPad v = s.peerPad v := rfl
@[simp] theorem withCtxs_writeAt (i : Nat) : (s.withCtxs l).writeAt i = s.writeAt i := rfl
@[simp] theorem withCtxs_l2Q (q : Nat) : (s.withCtxs l).l2Q q = s.l2Q q := rfl
@[simp] theorem withCtxs_partialsQ (q : Nat) : (s.withCtxs l).partialsQ q = s.partialsQ q := rfl
@[simp] theorem withCtxs_readQ (q loc : Nat) : (s.withCtxs l).readQ q loc = s.readQ q loc := rfl
@[simp] theorem withCtxs_memQ (q : Nat) : (s.withCtxs l).memQ q = s.memQ q := rfl
@[simp] theorem withCtxs_poisoned (q loc : Nat) : (s.withCtxs l).poisoned q loc = s.poisoned q loc := rfl
@[simp] theorem withCtxs_reducers (loc : Nat) : (s.withCtxs l).reducers loc = s.reducers loc := rfl
@[simp] theorem withCtxs_hasPartial (loc : Nat) : (s.withCtxs l).hasPartial loc = s.hasPartial loc := rfl
@[simp] theorem withCtxs_redsSettled (q loc : Nat) : (s.withCtxs l).redsSettled q loc = s.redsSettled q loc := rfl
@[simp] theorem withCtxs_copyMask (w : WriteRec) (m : Bool) : (s.withCtxs l).copyMask w m = s.copyMask w m := rfl
@[simp] theorem withCtxs_copyWorks (a : Nat) (m : Bool) : (s.withCtxs l).copyWorks a m = s.copyWorks a m := rfl
@[simp] theorem withCtxs_l1Holders (q line : Nat) : (s.withCtxs l).l1Holders q line = s.l1Holders q line := rfl
@[simp] theorem withCtxs_lineInC (q line : Nat) : (s.withCtxs l).lineInC q line = s.lineInC q line := rfl
@[simp] theorem withCtxs_lineHere (q line : Nat) : (s.withCtxs l).lineHere q line = s.lineHere q line := rfl
@[simp] theorem withCtxs_newWrite (who q loc : Nat) (mask : BitVec 8) (val : Word) (tag : Option Bool) (rel : Option (List Nat))
    (atom merged bad : Bool) : (s.withCtxs l).newWrite who q loc mask val tag rel atom merged bad =
      s.newWrite who q loc mask val tag rel atom merged bad := rfl

@[simp] theorem setMemQ_withCtxs (q : Nat) (m : Memory) : (s.withCtxs l).setMemQ q m = (s.setMemQ q m).withCtxs l := rfl
@[simp] theorem setWrite_withCtxs (i : Nat) (w : WriteRec) : (s.withCtxs l).setWrite i w = (s.setWrite i w).withCtxs l := rfl
@[simp] theorem tickNext_withCtxs : (s.withCtxs l).tickNext = s.tickNext.withCtxs l := rfl
@[simp] theorem updOrd_withCtxs (f : Order → Order) : (s.withCtxs l).updOrd f = (s.updOrd f).withCtxs l := rfl
@[simp] theorem updCore_withCtxs (c : Nat) (f : Core → Core) : (s.withCtxs l).updCore c f = (s.updCore c f).withCtxs l := rfl
@[simp] theorem setL2_withCtxs (q : Nat) (t : Table L2Line) : (s.withCtxs l).setL2 q t = (s.setL2 q t).withCtxs l := rfl
@[simp] theorem setPartials_withCtxs (q : Nat) (t : Table Partial) :
    (s.withCtxs l).setPartials q t = (s.setPartials q t).withCtxs l := rfl
@[simp] theorem dropL1_withCtxs (c line : Nat) : (s.withCtxs l).dropL1 c line = (s.dropL1 c line).withCtxs l := rfl
@[simp] theorem markL1_withCtxs (c line : Nat) (st : L1State) : (s.withCtxs l).markL1 c line st = (s.markL1 c line st).withCtxs l := rfl

@[simp] theorem recode_withCtxs (loc : Nat) : (s.withCtxs l).recode loc = (s.recode loc).withCtxs l := by
  unfold State.recode
  rw [apply_ite (State.withCtxs · l)]
  rfl
@[simp] theorem correct_withCtxs (loc : Nat) : (s.withCtxs l).correct loc = (s.correct loc).withCtxs l := by
  unfold State.correct
  rw [apply_ite (State.withCtxs · l)]
  rfl
@[simp] theorem perform_withCtxs (who id q loc : Nat) (mask : BitVec 8) (val : Word) (rel : Option (List Nat)) (atom merged bad : Bool) :
    (s.withCtxs l).perform who id q loc mask val none rel atom merged bad =
      (s.perform who id q loc mask val none rel atom merged bad).withCtxs l := by
  simp only [State.perform, State.tagWrite, withCtxs_memQ, setMemQ_withCtxs, withCtxs_newWrite, setWrite_withCtxs, recode_withCtxs]
  split <;> rfl
@[simp] theorem mergeDword_withCtxs (loc : Nat) : (s.withCtxs l).mergeDword loc = (s.mergeDword loc).withCtxs l := by
  unfold State.mergeDword
  simp only [withCtxs_hasPartial, withCtxs_partialsQ, withCtxs_readQ, tickNext_withCtxs, withCtxs_next, withCtxs_poisoned, perform_withCtxs,
    withCtxs_writeAt, withCtxs_reducers, setWrite_withCtxs]
  split
  · rfl
  · rw [← correct_withCtxs]
    refine congrArg (State.correct · loc) ?_
    split <;> rfl

/-- A fold of updates that leave contexts alone leaves them alone. -/
theorem foldl_withCtxs {α : Type} {f : State → α → State} (hf : ∀ t a, f (t.withCtxs l) a = (f t a).withCtxs l) (as : List α) :
    as.foldl f (s.withCtxs l) = (as.foldl f s).withCtxs l := by
  induction as generalizing s with
  | nil => rfl
  | cons a as ih => rw [List.foldl_cons, List.foldl_cons, hf, ih]

@[simp] theorem mergeLine_withCtxs (line : Nat) : (s.withCtxs l).mergeLine line = (s.mergeLine line).withCtxs l := by
  unfold State.mergeLine
  rw [foldl_withCtxs s l (f := fun (t : State) i => t.mergeDword (line + 8 * i)) fun t i => mergeDword_withCtxs t l _]
  refine foldl_withCtxs _ l (fun t q => ?_) _
  simp only [withCtxs_partialsQ, setPartials_withCtxs, withCtxs_l2Q, setL2_withCtxs]
  split
  · split <;> rfl
  · rfl
@[simp] theorem copyTakes_withCtxs (i : Nat) (m : Bool) : (s.withCtxs l).copyTakes i m = (s.copyTakes i m).withCtxs l := by
  unfold State.copyTakes
  simp only [withCtxs_writeAt, withCtxs_copyMask, withCtxs_copyWorks]
  split
  · rfl
  · split
    · rfl
    · rw [← setWrite_withCtxs, apply_ite (State.withCtxs · l)]
      rfl
@[simp] theorem durable_withCtxs (i : Nat) (m : Bool) : (s.withCtxs l).durable i m = (s.durable i m).withCtxs l := by
  unfold State.durable
  simp only [withCtxs_writeAt, withCtxs_redsSettled, copyTakes_withCtxs]
  split
  · rfl
  · split <;> rfl
@[simp] theorem durableLine_withCtxs (line : Nat) : (s.withCtxs l).durableLine line = (s.durableLine line).withCtxs l := by
  unfold State.durableLine
  exact foldl_withCtxs _ l (fun t i => by rw [durable_withCtxs, durable_withCtxs]) _
@[simp] theorem updL2_withCtxs (q line : Nat) (f : L2Line → L2Line) : (s.withCtxs l).updL2 q line f = (s.updL2 q line f).withCtxs l := by
  unfold State.updL2
  rw [withCtxs_l2Q]
  split <;> rfl
@[simp] theorem evictL1_withCtxs (c line : Nat) : (s.withCtxs l).evictL1 c line = (s.evictL1 c line).withCtxs l := by
  unfold State.evictL1
  simp only [withCtxs_core, dropL1_withCtxs, updL2_withCtxs]
  split
  · rfl
  · split <;> rfl
@[simp] theorem evictL2_withCtxs (q line : Nat) : (s.withCtxs l).evictL2 q line = (s.evictL2 q line).withCtxs l := by
  unfold State.evictL2
  dsimp only
  rw [withCtxs_l1Holders, foldl_withCtxs s l (f := fun (t : State) (h : Nat × L1State) => t.evictL1 h.1 line)
    fun t h => evictL1_withCtxs t l _ _]
  generalize (s.l1Holders q line).foldl (fun (t : State) (h : Nat × L1State) => t.evictL1 h.1 line) s = u
  simp only [withCtxs_l2Q, mergeLine_withCtxs, durableLine_withCtxs]
  rcases (u.l2Q q).get? line with _ | x
  · rfl
  · dsimp only
    rw [← apply_ite (State.withCtxs · l), ← apply_ite (State.withCtxs · l), withCtxs_l2Q, setL2_withCtxs]
@[simp] theorem roomL2_withCtxs (q d : Nat) : (s.withCtxs l).roomL2 q d = (s.roomL2 q d).withCtxs l := by
  unfold State.roomL2
  simp only [withCtxs_l2Q, withCtxs_free, evictL2_withCtxs]
  split
  · rfl
  · split <;> rfl
@[simp] theorem fillL1_withCtxs (c line : Nat) (st : L1State) (low : Bool) :
    (s.withCtxs l).fillL1 c line st low = (s.fillL1 c line st low).withCtxs l := by
  unfold State.fillL1
  dsimp only
  rw [← updCore_withCtxs]
  refine congrArg (State.updCore · c _) ?_
  simp only [withCtxs_core, withCtxs_free, evictL1_withCtxs]
  rw [apply_ite (State.withCtxs · l)]
  refine congrArg (ite _ _) ?_
  split <;> rfl
@[simp] theorem fillL2_withCtxs (q line : Nat) (st : L2State) (low : Bool) :
    (s.withCtxs l).fillL2 q line st low = (s.fillL2 q line st low).withCtxs l := by
  unfold State.fillL2
  simp only [withCtxs_l2Q, roomL2_withCtxs, setL2_withCtxs]
  split <;> rfl
@[simp] theorem askL2_withCtxs (q line d : Nat) : (s.withCtxs l).askL2 q line d = (s.askL2 q line d).withCtxs l := updL2_withCtxs ..
@[simp] theorem shareL1_withCtxs (c line : Nat) : (s.withCtxs l).shareL1 c line = (s.shareL1 c line).withCtxs l := by
  unfold State.shareL1
  simp only [withCtxs_core, markL1_withCtxs, updL2_withCtxs]
  split <;> rfl
@[simp] theorem lineRead_withCtxs (c loc : Nat) (hint : BitVec 2) :
    (s.withCtxs l).lineRead c loc hint = (s.lineRead c loc hint).withCtxs l := by
  unfold State.lineRead
  dsimp only
  rw [foldl_withCtxs s l (f := fun (t : State) (h : Nat × L1State) => t.shareL1 h.1 (lineOf loc)) fun t h => shareL1_withCtxs t l _ _]
  simp only [withCtxs_lineInC, withCtxs_core, withCtxs_lineHere, fillL2_withCtxs, askL2_withCtxs, fillL1_withCtxs, withCtxs_l1Holders]
  split
  · rfl
  · split
    · split
      · rfl
      · split <;> rfl
    · rfl
@[simp] theorem fetch_withCtxs (c a : Nat) : (s.withCtxs l).fetch c a = ((s.fetch c a).1, (s.fetch c a).2.withCtxs l) := by
  unfold State.fetch
  simp only [withCtxs_core, correct_withCtxs, updCore_withCtxs]
  split <;> rfl
end
end Sys2Proof.Machine

/-! SUPPORT. Contexts that differ in their holds alone are alike to the order machine and to translation (R93, R106, R288, R289). -/
namespace Sys2Proof.Machine

/-! ## Contexts that differ in their holds alone -/

/-- Two tables of contexts that say the same of every context but whom it yields to. Where a number is listed more than once, what the
hidden entries still pend and sleep at counts too. -/
structure Alike (m l : Table Ctx) : Prop where
  get : ∀ k, ∃ x, l.getD k (Ctx.start k) = { m.getD k (Ctx.start k) with hold := x }
  any : ∀ P : Nat → Ctx → Bool, (∀ j c d, c.ops = d.ops → c.mode = d.mode → c.since = d.since → P j c = P j d) →
    (∀ j, P j (Ctx.start j) = false) → (l.any fun e => P e.1 e.2) = m.any fun e => P e.1 e.2

theorem Alike.refl (m : Table Ctx) : Alike m m := ⟨fun _ => ⟨_, rfl⟩, fun _ _ _ => rfl⟩
theorem Alike.trans {m l n : Table Ctx} (hml : Alike m l) (hln : Alike l n) : Alike m n where
  get k := by
    obtain ⟨x, hx⟩ := hml.get k
    obtain ⟨y, hy⟩ := hln.get k
    exact ⟨y, by rw [hy, hx]⟩
  any P hP hd := (hln.any P hP hd).trans (hml.any P hP hd)

/-- A value put where one like it stands changes no answer about some entry. -/
theorem any_put {α : Type} {P : Nat → α → Bool} {t : Table α} {k : Nat} {c d : α} (hP : P k c = P k (t.getD k d))
    (hd : P k d = false) :
    ((t.put k c).any fun e => P e.1 e.2) = t.any fun e => P e.1 e.2 := by
  induction t with
  | nil => simpa [Table.put, hP, Table.getD, Table.get?] using hd
  | cons e t ih =>
    obtain ⟨j, b⟩ := e
    rw [Table.put]
    by_cases hj : j = k
    · subst hj
      simp only [Table.getD, Table.get?, if_true, Option.getD_some] at hP
      simp [hP]
    · have there : Table.getD ((j, b) :: t) k d = Table.getD t k d := by simp [Table.getD, Table.get?, hj]
      rw [there] at hP
      by_cases hlt : k < j
      · simp only [hj, hlt, if_false, if_true, List.any_cons, hP]
        rcases hg : Table.get? t k with _ | a
        · simp [Table.getD, hg, hd]
        · have hmem := Table.mem_of_get? hg
          rcases ha : P k a with _ | _
          · simp [Table.getD, hg, ha]
          · have : (t.any fun e => P e.1 e.2) = true := List.any_eq_true.mpr ⟨_, hmem, ha⟩
            simp [Table.getD, hg, this]
      · simp only [hj, hlt, if_false, List.any_cons]
        rw [ih hP]

/-- An update that reads and writes no hold, and leaves what pends and what sleeps. -/
structure KeepsWaiting (f : Ctx → Ctx) : Prop where
  hold : ∀ c x, ∃ y, f { c with hold := x } = { f c with hold := y }
  ops : ∀ c, (f c).ops = c.ops
  mode : ∀ c, (f c).mode = c.mode
  since : ∀ c, (f c).since = c.since

theorem any_put_keeps {f : Ctx → Ctx} (hf : KeepsWaiting f) (m : Table Ctx) (k : Nat) (P : Nat → Ctx → Bool)
    (hP : ∀ j c d, c.ops = d.ops → c.mode = d.mode → c.since = d.since → P j c = P j d) (hd : ∀ j, P j (Ctx.start j) = false) :
    ((m.put k (f (m.getD k (Ctx.start k)))).any fun e => P e.1 e.2) = m.any fun e => P e.1 e.2 :=
  any_put (hP k _ _ (hf.ops _) (hf.mode _) (hf.since _)) (hd k)

theorem Alike.put {m l : Table Ctx} (h : Alike m l) {f : Ctx → Ctx} (hf : KeepsWaiting f) (k : Nat) :
    Alike (m.put k (f (m.getD k (Ctx.start k)))) (l.put k (f (l.getD k (Ctx.start k)))) where
  get j := by
    simp only [Table.getD_put]
    split
    · obtain ⟨x, hx⟩ := h.get k
      rw [hx]
      exact hf.hold _ x
    · exact h.get j
  any P hP hd := by rw [any_put_keeps hf l k P hP hd, any_put_keeps hf m k P hP hd, h.any P hP hd]

theorem alike_put_hold (m : Table Ctx) (k : Nat) {f : Ctx → Ctx} (hf : ∀ c, ∃ x, f c = { c with hold := x }) :
    Alike m (m.put k (f (m.getD k (Ctx.start k)))) where
  get j := by
    simp only [Table.getD_put]
    split
    · next e => subst e; exact hf _
    · exact ⟨_, rfl⟩
  any P hP hd := by
    obtain ⟨x, hx⟩ := hf (m.getD k (Ctx.start k))
    rw [hx]
    exact any_put (hP k _ _ rfl rfl rfl) (hd k)

/-! ## What no hold decides: order, completion and translation -/

section
variable {s : State} {l : Table Ctx} (h : Alike s.ctxs l)
include h

theorem Alike.field {α : Type} (g : Ctx → α) (hg : ∀ c x, g { c with hold := x } = g c) (k : Nat) :
    g ((s.withCtxs l).ctx k) = g (s.ctx k) := by
  obtain ⟨x, hx⟩ := h.get k
  exact (congrArg g hx).trans (hg _ _)
theorem Alike.ops (k : Nat) : ((s.withCtxs l).ctx k).ops = (s.ctx k).ops := h.field (·.ops) (fun _ _ => rfl) k
theorem Alike.fences (k : Nat) : ((s.withCtxs l).ctx k).fences = (s.ctx k).fences := h.field (·.fences) (fun _ _ => rfl) k
theorem Alike.seen (k : Nat) : ((s.withCtxs l).ctx k).seen = (s.ctx k).seen := h.field (·.seen) (fun _ _ => rfl) k
theorem Alike.sup (k : Nat) : ((s.withCtxs l).ctx k).sup = (s.ctx k).sup := h.field (·.sup) (fun _ _ => rfl) k
theorem Alike.mode (k : Nat) : ((s.withCtxs l).ctx k).mode = (s.ctx k).mode := h.field (·.mode) (fun _ _ => rfl) k

theorem Alike.landed (q : Nat) (ids : List Nat) : (s.withCtxs l).landed q ids = s.landed q ids := by
  unfold State.landed
  refine congrArg (List.all ids) (funext fun i => ?_)
  rw [withCtxs_ctxs, h.any (fun _ c => c.ops.any fun o => o.id == i && o.kind.unwritten) (fun _ c d e _ _ => by rw [e])
    (fun j => by rw [Ctx.start_eq]; rfl)]
  rfl
theorem Alike.entryReady (q a : Nat) : (s.withCtxs l).entryReady q a = s.entryReady q a := by
  unfold State.entryReady
  rw [h.landed]
  rfl
theorem Alike.walkFrom (q : Nat) (c : VfCfg) (va : Nat) (kind : Option Bool) (fuel level table : Nat) :
    (s.withCtxs l).walkFrom q c va kind fuel level table = s.walkFrom q c va kind fuel level table := by
  induction fuel generalizing level table with
  | zero => rfl
  | succ n ih =>
    simp only [State.walkFrom, h.entryReady, ih]
    rfl

/-- A hit with other contexts in the state that it leaves. -/
def Hit.withCtxs (g : Hit) (l : Table Ctx) : Hit := { g with st := g.st.withCtxs l }

omit h in
theorem tlbFind_withCtxs (core vf : Nat) (sup : Bool) (a : Nat) :
    (s.withCtxs l).tlbFind core vf sup a = (s.tlbFind core vf sup a).map fun e => (e.1, e.2.withCtxs l) := by
  unfold State.tlbFind
  rw [withCtxs_core, withCtxs_shed]
  split
  · rfl
  · rw [Option.map_map]
    rfl
theorem Alike.leafFor (core vf : Nat) (sup : Bool) (c : VfCfg) (a : Nat) (wr : Bool) :
    (s.withCtxs l).leafFor core vf sup c a wr = (s.leafFor core vf sup c a wr).map (Hit.withCtxs · l) := by
  unfold State.leafFor
  simp only [tlbFind_withCtxs, h.walkFrom]
  rcases s.tlbFind core vf sup a with _ | ⟨e, t⟩
  · dsimp only [Option.map_none]
    split <;> rfl
  · dsimp only [Option.map_some]
    split <;> rfl
theorem Alike.translateFor (core vf : Nat) (sup : Bool) (va : Word) (wr : Bool) :
    (s.withCtxs l).translateFor core vf sup va wr = (s.translateFor core vf sup va wr).map (Hit.withCtxs · l) := by
  unfold State.translateFor
  simp only [tlbFind_withCtxs, h.leafFor, Option.isNone_map, withCtxs_vf, withCtxs_walkHeld]
  split
  · rfl
  · split
    · rfl
    · split
      · rfl
      · split <;> rfl
theorem Alike.translate (k : Nat) (va : Word) (wr : Bool) :
    (s.withCtxs l).translate k va wr = (s.translate k va wr).map (Hit.withCtxs · l) := by
  unfold State.translate
  dsimp only
  rw [h.sup, h.translateFor]
  rfl

/-! ## What no hold decides: the order within one context (R288, R289) -/

theorem Alike.complete (k : Nat) (scope : BitVec 3) (id : Nat) : (s.withCtxs l).complete k scope id = s.complete k scope id := by
  unfold State.complete
  rw [h.ops]
  rfl
theorem Alike.setComplete (k : Nat) (scope : BitVec 3) (ids : List Nat) :
    (s.withCtxs l).setComplete k scope ids = s.setComplete k scope ids :=
  congrArg (List.all ids) (funext fun i => h.complete k scope i)
theorem Alike.unreadBefore (k id : Nat) : (s.withCtxs l).unreadBefore k id = s.unreadBefore k id := by
  unfold State.unreadBefore
  rw [h.ops]
  rfl
theorem Alike.fencesLet (k id : Nat) (b : OpKind) : (s.withCtxs l).fencesLet k id b = s.fencesLet k id b := by
  simp only [State.fencesLet, h.fences, h.setComplete, h.unreadBefore]
theorem Alike.acquired (k id : Nat) : (s.withCtxs l).acquired k id = s.acquired k id := by
  simp only [State.acquired, h.fences, h.seen, h.landed]
theorem Alike.released (k : Nat) (o : OpKind) : (s.withCtxs l).released k o = s.released k o := by
  unfold State.released
  split
  · exact h.setComplete ..
  · exact h.setComplete ..
  · rfl
theorem Alike.mayMoveUnit (k : Nat) (o : Op) : (s.withCtxs l).mayMoveUnit k o = s.mayMoveUnit k o := by
  simp only [State.mayMoveUnit, h.ops, h.fencesLet, h.acquired, h.released]
theorem Alike.engAt (e : EngOp) (side : Side) (va : Word) (wr : Bool) :
    (s.withCtxs l).engAt e side va wr = (s.engAt e side va wr).map fun p => (p.1, p.2.withCtxs l) := by
  unfold State.engAt
  simp only [h.sup, h.translateFor, withCtxs_peerPad]
  have hits (r : Except Nat Hit) : (r.map (Hit.withCtxs · l)).map (fun g => (some (g.loc, pteKey g.w0), g.st)) =
      (r.map fun g => (some (g.loc, pteKey g.w0), g.st)).map fun p => (p.1, p.2.withCtxs l) := by cases r <;> rfl
  split
  · exact hits _
  · split
    · rfl
    · exact hits _
  · split
    · rfl
    · split
      · split <;> rfl
      · exact hits _
theorem Alike.sourceAt (e : EngOp) (side : Side) (va : Word) : (s.withCtxs l).sourceAt e side va = s.sourceAt e side va := by
  unfold State.sourceAt
  rw [h.engAt]
  rcases s.engAt e side va false with _ | ⟨_ | ⟨a, slot⟩, u⟩ <;> rfl
theorem Alike.unitReads (e : EngOp) (u : Nat) (locs : List Nat) : (s.withCtxs l).unitReads e u locs = s.unitReads e u locs := by
  simp only [State.unitReads, h.sourceAt]
  rfl
theorem Alike.partReads (k : Nat) (j : Join) (locs : List Nat) : (s.withCtxs l).partReads k j locs = s.partReads k j locs := by
  unfold State.partReads
  refine congrArg (List.any _) (funext fun i => ?_)
  rw [h.translate]
  cases s.translate k (j.buf + BitVec.ofNat 64 (4 * i)) false <;> rfl
theorem Alike.engHolds (k id : Nat) (locs : List Nat) : (s.withCtxs l).engHolds k id locs = s.engHolds k id locs := by
  simp only [State.engHolds, h.unitReads, h.partReads]
  rfl
theorem Alike.mayMove (k : Nat) (o : Op) : (s.withCtxs l).mayMove k o = s.mayMove k o := by
  simp only [State.mayMove, h.mayMoveUnit, h.engHolds]
theorem Alike.readPoisoned (k id loc : Nat) (need : BitVec 8) :
    (s.withCtxs l).readPoisoned k id loc need = s.readPoisoned k id loc need := by
  simp only [State.readPoisoned, h.ops]
  rfl
theorem Alike.readVal (k id slot loc : Nat) : (s.withCtxs l).readVal k id slot loc = s.readVal k id slot loc := by
  simp only [State.readVal, h.ops]
  rfl
end
end Sys2Proof.Machine

/-! SUPPORT. No hold decides whether an instruction stalls: reads at issue, loads, stores and atomics (R93, R106, R242, R317, R336). -/
namespace Sys2Proof.Machine

/-! ## What no hold decides: whether an instruction stalls (R106, R242, R317, R336) -/

theorem keepsWaiting_see (op : Nat) (acq : Bool) (set : List Nat) : KeepsWaiting (·.see op acq set) := by
  refine ⟨fun c x => ⟨x, ?_⟩, fun c => ?_, fun c => ?_, fun c => ?_⟩ <;> dsimp only [Ctx.see] <;> split <;> rfl

/-- Two states that differ in holds alone. -/
def SameButHolds (s t : State) : Prop := t = s.withCtxs t.ctxs ∧ Alike s.ctxs t.ctxs

theorem sameButHolds_withCtxs {s : State} {l : Table Ctx} (h : Alike s.ctxs l) : SameButHolds s (s.withCtxs l) := ⟨rfl, h⟩
theorem SameButHolds.elim {s t : State} (h : SameButHolds s t) : ∃ l, t = s.withCtxs l ∧ Alike s.ctxs l := ⟨t.ctxs, h⟩
theorem SameButHolds.updCtx {s t : State} (h : SameButHolds s t) (k : Nat) {f : Ctx → Ctx} (hf : KeepsWaiting f) :
    SameButHolds (s.updCtx k f) (t.updCtx k f) := by
  obtain ⟨l, rfl, hl⟩ := h.elim
  exact ⟨rfl, hl.put hf k⟩
/-- An update that leaves contexts alone keeps two states alike. -/
theorem SameButHolds.map {s t : State} (h : SameButHolds s t) {f : State → State} (hf : ∀ u l, f (u.withCtxs l) = (f u).withCtxs l) :
    SameButHolds (f s) (f t) := by
  obtain ⟨l, rfl, hl⟩ := h.elim
  have kept : f s = (f s).withCtxs s.ctxs := hf s s.ctxs
  have same : (f s).ctxs = s.ctxs := by rw [kept, withCtxs_ctxs]
  rw [hf]
  exact ⟨rfl, same ▸ hl⟩

/-- Two reads at issue that come to the same, in states that differ in holds alone. -/
inductive SyncAlike : Sync → Sync → Prop
  | ok (ws : List Word) {u v : State} (h : SameButHolds u v) : SyncAlike (.ok ws u) (.ok ws v)
  | wait (u v : State) : SyncAlike (.wait u) (.wait v)
  | fault (va : Word) (r : Nat) (u v : State) : SyncAlike (.fault va r u) (.fault va r v)
  | poisoned (u v : State) : SyncAlike (.poisoned u) (.poisoned v)

/-- A read with one more word before those it gave. -/
def Sync.cons (w : Word) : Sync → Sync
  | .ok ws t => .ok (w :: ws) t
  | r => r
/-- A part of the word that a read gave, a fault naming the part's own address. -/
def Sync.narrow (va : Word) (f : Word → Word) : Sync → Sync
  | .ok [w] t => .ok [f w] t
  | .fault _ r t => .fault va r t
  | r => r

theorem SyncAlike.cons {r r' : Sync} (h : SyncAlike r r') (w : Word) : SyncAlike (r.cons w) (r'.cons w) := by
  cases h with
  | ok ws huv => exact .ok (w :: ws) huv
  | _ => constructor
theorem SyncAlike.narrow {r r' : Sync} (h : SyncAlike r r') (va : Word) (f : Word → Word) :
    SyncAlike (r.narrow va f) (r'.narrow va f) := by
  cases h with
  | ok ws huv => rcases ws with _ | ⟨w, _ | _⟩ <;> exact .ok _ huv
  | _ => constructor

theorem hit_ctxs {s : State} {k : Nat} {va : Word} {wr : Bool} {g : Hit} (ht : s.translate k va wr = .ok g) : g.st.ctxs = s.ctxs := by
  rw [onlyCaches_translate ht]

theorem syncPart_alike (k : Nat) (need : BitVec 8) (n : Nat) {s t : State} (h : SameButHolds s t) (va : Word) :
    SyncAlike (s.syncPart k need va n) (t.syncPart k need va n) := by
  induction n generalizing s t va with
  | zero => exact .ok [] h
  | succ n ih =>
    obtain ⟨l, rfl, hl⟩ := h.elim
    rw [State.syncPart, State.syncPart, hl.translate]
    rcases ht : s.translate k va false with r | g
    · dsimp only [Except.map]
      split <;> constructor
    · have hg : Alike g.st.ctxs l := hit_ctxs ht ▸ hl
      dsimp only [Except.map, Hit.withCtxs]
      simp only [hg.mayMove, hg.readPoisoned, hg.readVal, withCtxs_redsSettled, withCtxs_next]
      split
      · constructor
      · split
        · constructor
        · refine (ih ?_ _).cons _
          exact ((sameButHolds_withCtxs hg).updCtx k (keepsWaiting_see ..)).map
            (f := fun u => ((u.lineRead (coreOfCtx k) (dwordOf g.loc) (pageHint 0 g.w0)).correct (dwordOf g.loc)).tickNext)
            fun u m => by rw [lineRead_withCtxs, correct_withCtxs, tickNext_withCtxs]
theorem syncLoad_alike {s t : State} (h : SameButHolds s t) (k : Nat) (va : Word) (n : Nat) :
    SyncAlike (s.syncLoad k va n) (t.syncLoad k va n) := syncPart_alike k _ n h va
theorem syncByte_alike {s t : State} (h : SameButHolds s t) (k : Nat) (va : Word) : SyncAlike (s.syncByte k va) (t.syncByte k va) :=
  (syncPart_alike k _ 1 h _).narrow va _
theorem syncHalf_alike {s t : State} (h : SameButHolds s t) (k : Nat) (va : Word) : SyncAlike (s.syncHalf k va) (t.syncHalf k va) :=
  (syncPart_alike k _ 1 h _).narrow va _

/-! ## Effects -/

theorem stalls_after (e : Eff) (t : State) : (e.after t).stalls = e.stalls := by cases e <;> rfl
theorem SyncAlike.bind {s s' : State} {r r' : Sync} (h : SyncAlike r r') {f f' : List Word → State → Eff}
    (hf : ∀ ws u v, SameButHolds u v → (f' ws v).stalls = (f ws u).stalls) :
    (Sync.bind s' r' f').stalls = (Sync.bind s r f).stalls := by
  cases h with
  | ok ws huv => exact (stalls_after ..).trans ((hf ws _ _ huv).trans (stalls_after ..).symm)
  | _ => rfl

theorem stalls_ite_congr {p : Prop} [Decidable p] {a a' b b' : Eff} (ha : a'.stalls = a.stalls) (hb : b'.stalls = b.stalls) :
    (if p then a' else b').stalls = (if p then a else b).stalls := by
  split
  · exact ha
  · exact hb
theorem stalls_aligned_congr {e e' : Eff} {ea : Word} {n : Nat} (h : e'.stalls = e.stalls) :
    (aligned ea n e').stalls = (aligned ea n e).stalls := by
  rw [aligned, aligned]
  split
  · exact h
  · rfl
theorem stalls_counted_congr {s s' : State} {i : Instr} {count : Ctx → BitVec 8} (hc : count s'.me = count s.me) {e e' : Eff}
    (h : e'.stalls = e.stalls) : (counted i s' count e').stalls = (counted i s count e).stalls := by
  rw [counted, counted, hc]
  split
  · rfl
  · exact h

section
variable {s : State} {l : Table Ctx} (h : Alike s.ctxs l)
include h

theorem Alike.mine {α : Type} (g : Ctx → α) (hg : ∀ c x, g { c with hold := x } = g c) : g (s.withCtxs l).me = g s.me :=
  h.field g hg s.cur
theorem Alike.rx (r : BitVec 5) : (s.withCtxs l).rx r = s.rx r := h.mine (·.rx r) fun _ _ => rfl
theorem Alike.rk (r : BitVec 3) : (s.withCtxs l).rk r = s.rk r := h.mine (·.rk r) fun _ _ => rfl
theorem Alike.ea (f : MF) : MF.ea f (s.withCtxs l) = MF.ea f s := by rw [MF.ea, MF.ea, h.rx]
theorem Alike.laneMask (f : MF) : (s.withCtxs l).laneMask f = s.laneMask f := by rw [State.laneMask, State.laneMask, h.rk]

theorem Alike.withHit {va : Word} {wr : Bool} {k k' : Hit → Eff}
    (hk : ∀ g, Alike g.st.ctxs l → (k' (g.withCtxs l)).stalls = (k g).stalls) :
    (Machine.withHit (s.withCtxs l) va wr k').stalls = (Machine.withHit s va wr k).stalls := by
  have there : (s.withCtxs l).translate (s.withCtxs l).cur va wr = (s.translate s.cur va wr).map (Hit.withCtxs · l) := h.translate ..
  rcases ht : s.translate s.cur va wr with r | g
  · rw [ht] at there
    rw [withHit_of_error ht, withHit_of_error there]
    split <;> rfl
  · rw [ht] at there
    rw [withHit_of_ok ht, withHit_of_ok there]
    exact hk g (hit_ctxs ht ▸ h)
variable (i : Instr)
theorem Alike.load (f : MF) (sext acq : Bool) : (loadEff i f sext acq (s.withCtxs l)).stalls = (loadEff i f sext acq s).stalls := by
  simp only [loadEff, h.ea]
  exact stalls_counted_congr (h.mine _ fun _ _ => rfl) (stalls_aligned_congr (h.withHit fun _ _ => rfl))
theorem Alike.store (f : MF) (rel : Option (BitVec 3)) : (storeEff i f rel (s.withCtxs l)).stalls = (storeEff i f rel s).stalls := by
  simp only [storeEff, h.ea]
  exact stalls_counted_congr (h.mine _ fun _ _ => rfl) (stalls_aligned_congr (h.withHit fun _ _ => rfl))
theorem Alike.amo (fn : AmoFn) (f : MF) : (amoEff fn i f (s.withCtxs l)).stalls = (amoEff fn i f s).stalls := by
  simp only [amoEff, h.ea]
  exact stalls_counted_congr (h.mine _ fun _ _ => rfl) (stalls_aligned_congr (h.withHit fun _ _ => rfl))
theorem Alike.red (fn : AmoFn) (f : MF) : (redRun fn i f (s.withCtxs l)).stalls = (redRun fn i f s).stalls := by
  simp only [redRun, h.ea]
  exact stalls_counted_congr (h.mine _ fun _ _ => rfl) (stalls_aligned_congr (h.withHit fun _ _ => rfl))
theorem Alike.vldRaw (f : MF) : (vldRawEff i f (s.withCtxs l)).stalls = (vldRawEff i f s).stalls := by
  simp only [vldRawEff, h.ea, h.laneMask]
  split
  · rfl
  · exact stalls_counted_congr (h.mine _ fun _ _ => rfl) (stalls_aligned_congr (h.withHit fun _ _ => rfl))
theorem Alike.vst (f : MF) : (vstEff i f (s.withCtxs l)).stalls = (vstEff i f s).stalls := by
  simp only [vstEff, h.ea, h.laneMask]
  split
  · rfl
  · exact stalls_counted_congr (h.mine _ fun _ _ => rfl) (stalls_aligned_congr (h.withHit fun _ _ => rfl))
end
end Sys2Proof.Machine

/-! SUPPORT. No hold decides whether an instruction stalls: the other instructions (R93, R106, R242, R317, R336). -/
namespace Sys2Proof.Machine

theorem stalls_of_never {e e' : Eff} (he : e.stalls = false) (he' : e'.stalls = false) : e'.stalls = e.stalls := he'.trans he.symm

section
variable {s : State} {l : Table Ctx}
theorem Alike.decLoad (f : MF) (m : BitVec 16) (ea : Word) (p : PageFmt) (u v : State) {g : Hit} (hg : Alike g.st.ctxs l) :
    (Machine.decLoad f m ea p v (g.withCtxs l)).stalls = (Machine.decLoad f m ea p u g).stalls := by
  unfold Machine.decLoad
  refine stalls_ite_congr (hg.withHit fun g1 h1 => ?_) rfl
  exact stalls_ite_congr rfl (h1.withHit fun _ _ => rfl)
variable (h : Alike s.ctxs l) (i : Instr)
include h
theorem Alike.vld (f : MF) : (vldEff i f (s.withCtxs l)).stalls = (vldEff i f s).stalls := by
  simp only [vldEff, h.ea, h.laneMask]
  refine stalls_ite_congr rfl (stalls_counted_congr (h.mine _ fun _ _ => rfl) (h.withHit fun g hg => ?_))
  refine stalls_ite_congr rfl (stalls_ite_congr rfl (stalls_ite_congr ?_ (stalls_aligned_congr rfl)))
  exact stalls_ite_congr rfl (stalls_aligned_congr (Alike.decLoad _ _ _ _ _ _ hg))
theorem Alike.pref (f : MF) : (prefEff f (s.withCtxs l)).stalls = (prefEff f s).stalls := by
  simp only [prefEff, h.ea, h.translate, withCtxs_cur]
  rcases s.translate s.cur (MF.ea f s) false with r | g
  · exact stalls_ite_congr rfl rfl
  · exact stalls_of_never rfl rfl
theorem Alike.line (f : MF) (inval : Bool) : (lineEff i f inval (s.withCtxs l)).stalls = (lineEff i f inval s).stalls := by
  simp only [lineEff, h.ea, h.translate, withCtxs_cur]
  refine stalls_counted_congr (h.mine _ fun _ _ => rfl) ?_
  rcases s.translate s.cur (MF.ea f s) false with r | g
  · exact stalls_ite_congr rfl rfl
  · exact stalls_ite_congr rfl rfl
theorem Alike.waita (f : MF) : (effWaita f (s.withCtxs l)).stalls = (effWaita f s).stalls := by
  simp only [effWaita, h.ea]
  refine stalls_counted_congr (h.mine _ fun _ _ => rfl) (stalls_aligned_congr (h.withHit fun g hg => stalls_of_never ?_ ?_)) <;>
    exact stalls_ite rfl (stalls_ite rfl (stalls_ite rfl rfl))
theorem Alike.tileRun (n : Nat) {check : State → Option Word} (hc : check (s.withCtxs l) = check s) (f : TF) :
    (Machine.tileRun n i check f (s.withCtxs l)).stalls = (Machine.tileRun n i check f s).stalls := by
  unfold Machine.tileRun
  rw [hc]
  refine stalls_ite_congr rfl ?_
  cases check s with
  | none => exact stalls_counted_congr (h.mine _ fun _ _ => rfl) (stalls_ite_congr rfl rfl)
  | some v => rfl
theorem Alike.syncLoad (k : Nat) (va : Word) (n : Nat) : SyncAlike (s.syncLoad k va n) ((s.withCtxs l).syncLoad k va n) :=
  syncLoad_alike (sameButHolds_withCtxs h) k va n
theorem Alike.engineRun (n : Nat) (f : RR) : (Machine.engineRun n i f (s.withCtxs l)).stalls = (Machine.engineRun n i f s).stalls := by
  simp only [Machine.engineRun, h.rx]
  refine stalls_counted_congr (h.mine _ fun _ _ => rfl) (stalls_aligned_congr ((h.syncLoad ..).bind fun ws u v _ => ?_))
  refine stalls_ite_congr rfl (stalls_of_never ?_ ?_) <;> split <;> rfl
theorem Alike.yardRd (f : RR) : (effYardRd f (s.withCtxs l)).stalls = (effYardRd f s).stalls := by
  simp only [effYardRd, h.rx, stallUnless]
  refine stalls_ite_congr rfl ?_
  rw [h.mine (·.ops) fun _ _ => rfl]
  exact stalls_ite_congr (stalls_ite_congr rfl rfl) rfl
theorem Alike.eccInj (f : RR) : (effEccInj f (s.withCtxs l)).stalls = (effEccInj f s).stalls := by
  simp only [effEccInj, h.rx]
  refine stalls_ite_congr rfl (stalls_ite_congr rfl (stalls_ite_congr rfl ?_))
  exact stalls_counted_congr (h.mine _ fun _ _ => rfl) (stalls_aligned_congr (h.withHit fun _ _ => rfl))
theorem Alike.collStart (f : RR) : (effCollStart f (s.withCtxs l)).stalls = (effCollStart f s).stalls := by
  simp only [effCollStart, h.rx]
  refine stalls_counted_congr (h.mine _ fun _ _ => rfl) (stalls_aligned_congr ((h.syncLoad ..).bind fun ws u v _ => ?_))
  refine stalls_ite_congr rfl (stalls_of_never ?_ ?_) <;> split <;> rfl
theorem Alike.buoy (f : RR) : (effBuoy f (s.withCtxs l)).stalls = (effBuoy f s).stalls := by
  simp only [effBuoy, h.rx, holdUnless, h.mine (·.pc) fun _ _ => rfl, h.mine (·.hdr) fun _ _ => rfl, h.mine (·.ld) fun _ _ => rfl,
    h.mine (·.st) fun _ _ => rfl, h.mine (·.cp) fun _ _ => rfl, h.mine (·.tl) fun _ _ => rfl]
  refine stalls_ite_congr rfl (stalls_ite_congr rfl (stalls_ite_congr rfl (stalls_ite_congr (h.withHit fun g _ => ?_) rfl)))
  exact stalls_ite_congr rfl (stalls_of_never rfl rfl)
theorem Alike.buoySeal (f : RR) : (effBuoySeal f (s.withCtxs l)).stalls = (effBuoySeal f s).stalls := by
  unfold effBuoySeal
  simp only [h.rx]
  refine stalls_ite_congr rfl (h.withHit fun g hg => stalls_ite_congr rfl (stalls_ite_congr rfl ?_))
  refine (syncLoad_alike (sameButHolds_withCtxs hg) ..).bind fun ws u v _ => stalls_of_never ?_ ?_ <;> split <;> rfl
theorem Alike.cbkLd (f : RR) : (effCbkLd f (s.withCtxs l)).stalls = (effCbkLd f s).stalls := by
  simp only [effCbkLd, h.rx]
  exact stalls_ite_congr rfl (stalls_ite_congr rfl ((h.syncLoad ..).bind fun _ _ _ _ => rfl))
theorem Alike.gmCfg (f : RR) : (effGmCfg f (s.withCtxs l)).stalls = (effGmCfg f s).stalls := by
  simp only [effGmCfg, h.rx]
  exact stalls_ite_congr rfl ((h.syncLoad ..).bind fun _ _ _ _ => stalls_ite_congr rfl rfl)

omit h in
theorem withGrammar_congr {k k' : Grammar → Eff} (hk : ∀ g, (k' g).stalls = (k g).stalls) :
    (withGrammar (s.withCtxs l) k').stalls = (withGrammar s k).stalls := by
  unfold withGrammar
  rw [withCtxs_core, show (s.withCtxs l).myCore = s.myCore from rfl]
  cases (s.core s.myCore).grammar with
  | none => rfl
  | some g => exact hk g
theorem Alike.gmStep (f : RR) : (effGmStep f (s.withCtxs l)).stalls = (effGmStep f s).stalls := by
  simp only [effGmStep, h.rx]
  refine withGrammar_congr fun g => stalls_ite_congr rfl ?_
  refine (syncByte_alike (sameButHolds_withCtxs h) ..).bind fun cs u v huv => stalls_ite_congr rfl ?_
  refine (syncHalf_alike huv ..).bind fun es _ _ _ => stalls_ite_congr rfl ?_
  cases takeEntry g _ _ _ <;> rfl

theorem Alike.loadChunk (g : Grammar) (q : Nat) :
    SyncAlike (s.loadChunk g q).1 ((s.withCtxs l).loadChunk g q).1 ∧ ((s.withCtxs l).loadChunk g q).2 = (s.loadChunk g q).2 := by
  unfold State.loadChunk
  dsimp only
  cases g.cache.get? (g.state * chunks g.vocab + q) with
  | some c => exact ⟨.ok [] (sameButHolds_withCtxs h), rfl⟩
  | none =>
    have read := h.syncLoad s.cur (g.masktab + BitVec.ofNat 64 (64 * (g.state * chunks g.vocab + q))) 8
    dsimp only [withCtxs_cur]
    revert read
    generalize State.syncLoad (s.withCtxs l) .. = r'
    generalize s.syncLoad .. = r
    intro read
    cases read with
    | ok ws huv => exact ⟨.ok [] huv, rfl⟩
    | wait u v => exact ⟨.wait u v, rfl⟩
    | fault va n u v => exact ⟨.fault va n u v, rfl⟩
    | poisoned u v => exact ⟨.poisoned u v, rfl⟩
omit h in
theorem loadChunks_alike (n : Nat) {u v : State} (huv : SameButHolds u v) (g : Grammar) (q : Nat) :
    SyncAlike (u.loadChunks g q n).1 (v.loadChunks g q n).1 ∧ (v.loadChunks g q n).2 = (u.loadChunks g q n).2 := by
  induction n generalizing u v g q with
  | zero => exact ⟨.ok [] huv, rfl⟩
  | succ n ih =>
    obtain ⟨l, rfl, hl⟩ := huv.elim
    obtain ⟨hread, heq⟩ := hl.loadChunk g q
    rw [State.loadChunks, State.loadChunks]
    rcases hu : u.loadChunk g q with ⟨r, g1, c⟩
    rcases hv : (u.withCtxs l).loadChunk g q with ⟨r', g1', c'⟩
    rw [hu, hv] at hread heq
    cases heq
    cases hread with
    | ok ws hst =>
      obtain ⟨hrest, hkept⟩ := ih hst g1 (q + 1)
      exact ⟨hrest, by dsimp only; rw [hkept]⟩
    | wait u v => exact ⟨.wait u v, rfl⟩
    | fault va n u v => exact ⟨.fault va n u v, rfl⟩
    | poisoned u v => exact ⟨.poisoned u v, rfl⟩
theorem Alike.gmMask (f : RR) : (effGmMask f (s.withCtxs l)).stalls = (effGmMask f s).stalls := by
  simp only [effGmMask, h.rx]
  exact withGrammar_congr fun g => stalls_ite_congr rfl ((h.loadChunk g _).1.bind fun _ _ _ _ => stalls_of_never rfl rfl)
theorem Alike.gmForce (f : RR) : (effGmForce f (s.withCtxs l)).stalls = (effGmForce f s).stalls :=
  withGrammar_congr fun g => (loadChunks_alike _ (sameButHolds_withCtxs h) g 0).1.bind fun _ _ _ _ => stalls_of_never rfl rfl
omit h in
theorem gmReset_withCtxs (f : RR) : (effGmReset f (s.withCtxs l)).stalls = (effGmReset f s).stalls :=
  withGrammar_congr fun _ => stalls_of_never rfl rfl
theorem Alike.gmSt (f : RR) : (effGmSt f (s.withCtxs l)).stalls = (effGmSt f s).stalls := by
  simp only [effGmSt, h.rx]
  refine withGrammar_congr fun g => stalls_ite_congr (stalls_of_never rfl rfl) ?_
  cases grammarSet g (s.rx f.a) <;> exact stalls_of_never rfl rfl
theorem Alike.cvtT (f : RR) : (effCvtT f (s.withCtxs l)).stalls = (effCvtT f s).stalls := by
  simp only [effCvtT, h.rx]
  refine stalls_ite_congr rfl (stalls_ite_congr rfl (stalls_ite_congr rfl ?_))
  exact stalls_counted_congr (h.mine _ fun _ _ => rfl) (stalls_of_never rfl rfl)
end
/-- Whether the instruction stalls is no matter of any hold. -/
theorem Alike.stalls_sleepingEff {s : State} {l : Table Ctx} (h : Alike s.ctxs l) (i : Instr) :
    (sleepingEff i (s.withCtxs l)).stalls = (sleepingEff i s).stalls := by
  cases i with
  | gmStep f => exact h.gmStep f
  | gmMask f => exact h.gmMask f
  | gmForce f => exact h.gmForce f
  | gmReset f => exact gmReset_withCtxs f
  | gmSt f => exact h.gmSt f
  | tzero f => exact h.tileRun _ 0 (check := fun _ => none) rfl f
  | tmma f | gmma f => exact h.tileRun _ _ (by simp only [productCheck, h.rx]) f
  | tdrain f => exact h.tileRun _ _ (by simp only [drainCheck, h.rx]) f
  | tdrainColl f => exact h.tileRun _ _ (by simp only [collDrainCheck, h.rx]; rfl) f
  | copy f | copy2 f | get f | put f | puta f | wsig f | digest f => exact h.engineRun ..
  | ld f | ldu f | ldAcq f => exact h.load ..
  | st f | stRel f => exact h.store ..
  | vld f => exact h.vld ..
  | vldRaw f => exact h.vldRaw ..
  | vst f => exact h.vst ..
  | ldF f | ldFe f => exact stalls_of_never stalls_consume stalls_consume
  | stEf f => exact stalls_of_never stalls_fill stalls_fill
  | stF f => exact stalls_of_never stalls_setFull stalls_setFull
  | tagSet f | tagClr f => exact stalls_of_never stalls_tag stalls_tag
  | pref f => exact h.pref f
  | flush f | inv f => exact h.line ..
  | amoAdd f | amoAnd f | amoOr f | amoXor f | amoMin f | amoMax f | amoMinu f | amoMaxu f | amoSwap f | amoCas f => exact h.amo ..
  | redAdd f | redAnd f | redOr f | redXor f | redMin f | redMax f | redMinu f | redMaxu f => exact h.red ..
  | sendr f | sendrV f => exact stalls_of_never stalls_send stalls_send
  | start f | startTry f => exact stalls_of_never stalls_start stalls_start
  | yardRd f => exact h.yardRd f
  | waita f => exact h.waita f
  | eccInj f => exact h.eccInj f
  | collStart f => exact h.collStart f
  | buoy f => exact h.buoy f
  | buoySeal f => exact h.buoySeal f
  | cvtT f => exact h.cvtT f
  | cbkLd f => exact h.cbkLd f
  | gmCfg f => exact h.gmCfg f
  | yardWe f | yardWf f | yardCmt f | yardPin f | yardUnpin f | yardGen f | halt f | stop f | mtake f | mpeek f | mclr f | clkRd f
  | clkReq f | clkAck f | pwrRd f | tlbinv f | icinv f | semP f | semV f | semRd f | seqBeg f | seqLoop f | seqEnd f | seqWait f | srd f
  | eret f | wait f | bar f | ccntRd f | ccntWait f | collWait f | lhSt f | zset f | zclr f | amaxRd f | amaxClr f | cbkRd f =>
    refine stalls_of_never ?_ ?_
    all_goals
      dsimp only [sleepingEff, counted, holdUnless, effYardWe, effYardWf, effYardCmt, effYardPin, effYardUnpin, effYardGen,
        effHalt, effStop, effMtake, effMpeek, effMclr, effClkRd, effClkReq, effClkAck, effPwrRd, effTlbinv, effIcinv, effSemP,
        effSemV, effSemRd, effSeqBeg, effSeqLoop, effSeqEnd, effSeqWait, effSrd, effEret, effWait, effBar, effCcntRd, effCcntWait,
        effCollWait, effLhSt, effZset, effZclr, effAmaxRd, effAmaxClr, effCbkRd]
      repeat' split
    all_goals rfl
  | _ => exact stalls_of_never rfl rfl
end Sys2Proof.Machine

/-! SUPPORT. READY asks about no hold, and the end of a step leaves holds on READY contexts alone (R93, R104, R106). -/
namespace Sys2Proof.Machine

/-! ## What no hold decides: READY (R106) -/

/-- Does a context sleep at an instruction that is tried again, of which P holds, on a core that serves its sleepers (R124)? -/
def sleepsSo (core : Nat → Core) (P : Nat → Instr → Bool) (k : Nat) (c : Ctx) : Bool :=
  match c.mode with
  | .asleep (.again i) => !(core (coreOfCtx k)).contained.isSome && P k i
  | _ => false

theorem sleepsSo_start (core : Nat → Core) (P : Nat → Instr → Bool) (j : Nat) : sleepsSo core P j (Ctx.start j) = false := by
  rw [Ctx.start_eq, sleepsSo]
  split
  · next hmode => dsimp only at hmode; split at hmode <;> cases hmode
  · rfl

section
variable {s : State} {l : Table Ctx} (h : Alike s.ctxs l)
include h

theorem Alike.operandsReady (k : Nat) (i : Instr) : (s.withCtxs l).operandsReady k i = s.operandsReady k i := by
  have awaited : ((s.withCtxs l).ctx k).operandsReady i = (s.ctx k).operandsReady i := h.field (Ctx.operandsReady · i) (fun _ _ => rfl) k
  rw [State.operandsReady, State.operandsReady, awaited]
  rfl
theorem Alike.accessOf (i : Instr) : (s.withCtxs l).accessOf i = s.accessOf i := by
  cases i with
  | vld f | vldRaw f | vst f => simp only [State.accessOf, h.laneMask]
  | cvtT f => simp only [State.accessOf, h.rx]
  | _ => rfl
theorem Alike.mayIssue (k : Nat) (i : Instr) : (s.withCtxs l).mayIssue k i = s.mayIssue k i := by
  have hk : Alike ({ s with cur := k } : State).ctxs l := h
  unfold State.mayIssue
  rw [show ({ s.withCtxs l with cur := k } : State) = ({ s with cur := k } : State).withCtxs l from rfl, hk.accessOf, withCtxs_next,
    h.mayMove, h.mayMove]
theorem Alike.nextRepetition (core : Nat) : (s.withCtxs l).nextRepetition core = s.nextRepetition core := by
  simp only [State.nextRepetition, h.operandsReady]
  rfl
theorem Alike.stalls (k : Nat) (i : Instr) : (s.withCtxs l).stalls k i = s.stalls k i := by
  have hk : Alike ({ s with cur := k } : State).ctxs l := h
  have stalls_eq (t : State) : t.stalls k i =
      (!(({ t with cur := k } : State).issueTrap i).isSome && (sleepingEff i { t with cur := k }).stalls) := by
    unfold State.stalls State.stallOf
    dsimp only
    cases ({ t with cur := k } : State).issueTrap i with
    | some c => rfl
    | none =>
      rw [if_neg (by decide)]
      cases sleepingEff i { t with cur := k } <;> rfl
  rw [stalls_eq, stalls_eq]
  exact congrArg (!(({ s with cur := k } : State).issueTrap i).isSome && ·) (hk.stalls_sleepingEff i)
/-- A question about the sleepers that asks for their number and instruction. -/
theorem Alike.any_sleepers (P : Nat → Instr → Bool) :
    ((s.withCtxs l).sleepers.any fun e => P e.1 e.2.1) = s.sleepers.any fun e => P e.1 e.2.1 := by
  have asked (t : State) : (t.sleepers.any fun e => P e.1 e.2.1) = t.ctxs.any fun e => sleepsSo t.core P e.1 e.2 := by
    rw [State.sleepers, List.any_filterMap]
    refine congrArg (List.any t.ctxs) (funext fun e => ?_)
    unfold sleepsSo
    cases e.2.mode with
    | asleep w =>
      cases w with
      | again i => dsimp only; cases (t.core (coreOfCtx e.1)).contained.isSome <;> rfl
      | _ => rfl
    | _ => rfl
  rw [asked, asked]
  exact h.any (sleepsSo s.core P) (fun j c d _ hmode _ => by rw [sleepsSo, sleepsSo, hmode]) fun j => sleepsSo_start s.core P j
theorem Alike.sleeperFirst (core : Nat) (i : Instr) : (s.withCtxs l).sleeperFirst core i = s.sleeperFirst core i := by
  have asleep (n : BitVec 5) := h.any_sleepers fun k j => coreOfCtx k = core && match j with
    | .mtake g => g.a = n
    | .mpeek g => g.a = n
    | _ => false
  have taken (n : BitVec 5) := congrArg ((s.mailbox core n).present && ·) (asleep n)
  cases i with
  | mtake f | mpeek f | mclr f => exact taken f.a
  | _ => rfl
theorem Alike.fetchNext (k : Nat) : (s.withCtxs l).fetchNext k = match s.fetchNext k with
    | .instr i t => .instr i (t.withCtxs l)
    | f => f := by
  have hpc : ((s.withCtxs l).ctx k).pc = (s.ctx k).pc := h.field (·.pc) (fun _ _ => rfl) k
  have hcode (a : Nat) : ((s.withCtxs l).ctx k).inBlockCode a = (s.ctx k).inBlockCode a := h.field (·.inBlockCode a) (fun _ _ => rfl) k
  unfold State.fetchNext
  dsimp only
  rw [hpc, hcode, fetch_withCtxs, show (s.withCtxs l).gangOfCore (coreOfCtx k) = s.gangOfCore (coreOfCtx k) from rfl,
    show (s.withCtxs l).gang = s.gang from rfl, show (s.withCtxs l).exists_ = s.exists_ from rfl]
  by_cases hgone : (s.gang ((s.gangOfCore (coreOfCtx k)).getD 0)).gone (pcBlock (s.ctx k).pc) = true
  · rw [if_pos hgone, if_pos hgone]
  · rw [if_neg hgone, if_neg hgone]
    cases (s.ctx k).inBlockCode (pcAddr (s.ctx k).pc) with
    | false => rfl
    | true =>
      cases s.exists_ (pcAddr (s.ctx k).pc) with
      | false => rfl
      | true => cases decode (wordBytes (s.fetch (coreOfCtx k) (pcAddr (s.ctx k).pc)).1) <;> rfl
theorem Alike.isReady (k : Nat) : (s.withCtxs l).isReady k = s.isReady k := by
  unfold State.isReady
  dsimp only
  rw [h.mode, h.fetchNext]
  cases s.fetchNext k with
  | instr i t => simp only [h.mayIssue, h.operandsReady, h.sleeperFirst, h.nextRepetition, h.stalls]; rfl
  | _ => rfl
end

/-! ## The end of a step (R93, R104) -/

/-- What the end of a step does to one context: whom it holds its turn for goes on to hold where a test says so. -/
def holdOnly (p : Nat → Bool) (c : Ctx) : Ctx := { c with hold := c.hold.filter p }

section
variable (p : Nat → Bool) (ks : List (Nat × Ctx)) (t : State)
/-- The contexts listed hold their turns for those that the test lets stand. -/
def State.holdAll : State := ks.foldl (fun u e => u.updCtx e.1 (holdOnly p)) t

theorem settleHolds_eq (s : State) (issued : Option Nat) :
    s.settleHolds issued = s.holdAll (fun j => issued ≠ some j && s.isReady j) (s.ctxs.filter fun e => !e.2.hold.isEmpty) := rfl

theorem sameButHolds_holdAll : SameButHolds t (t.holdAll p ks) := by
  induction ks generalizing t with
  | nil => exact ⟨rfl, Alike.refl _⟩
  | cons e ks ih =>
    obtain ⟨l, heq, hl⟩ := (ih (t.updCtx e.1 (holdOnly p))).elim
    have first : Alike t.ctxs (t.updCtx e.1 (holdOnly p)).ctxs := alike_put_hold t.ctxs e.1 fun c => ⟨c.hold.filter p, rfl⟩
    rw [State.holdAll, List.foldl_cons, ← State.holdAll, heq]
    exact sameButHolds_withCtxs (first.trans hl)

/-- Whom a context then holds its turn for it held it for before, and the test of a listed one lets it stand. -/
theorem mem_hold_holdAll {k j : Nat} (hj : j ∈ ((t.holdAll p ks).ctx k).hold) :
    j ∈ (t.ctx k).hold ∧ (k ∈ ks.map (·.1) → p j = true) := by
  induction ks generalizing t with
  | nil => exact ⟨hj, fun hk => absurd hk List.not_mem_nil⟩
  | cons e ks ih =>
    rw [State.holdAll, List.foldl_cons, ← State.holdAll] at hj
    obtain ⟨hold, listed⟩ := ih _ hj
    rw [State.ctx_updCtx] at hold
    split at hold
    · have both := List.mem_filter.mp hold
      next hk => exact ⟨hk ▸ both.1, fun _ => both.2⟩
    · next hk => exact ⟨hold, fun h => listed ((List.mem_cons.mp h).resolve_left hk)⟩
end

/-- A context that holds its turn for someone is listed with it. -/
theorem mem_ctxs_of_hold {s : State} {k j : Nat} (hj : j ∈ (s.ctx k).hold) :
    k ∈ (s.ctxs.filter fun e => !e.2.hold.isEmpty).map (·.1) := by
  rcases hg : Table.get? s.ctxs k with _ | c
  · rw [State.ctx, Table.getD, hg, Option.getD_none, Ctx.start_eq] at hj
    exact absurd hj List.not_mem_nil
  · have hc : s.ctx k = c := by rw [State.ctx, Table.getD, hg, Option.getD_some]
    refine List.mem_map.mpr ⟨(k, c), List.mem_filter.mpr ⟨Table.mem_of_get? hg, ?_⟩, rfl⟩
    rw [hc] at hj
    exact Bool.not_eq_true' _ ▸ List.isEmpty_eq_false_iff.mpr (List.ne_nil_of_mem hj)

/-- After the end of a step, whatever came before it. -/
theorem holdsReady_settleHolds (s : State) (issued : Option Nat) : (s.settleHolds issued).HoldsReady := by
  intro k j hj
  rw [settleHolds_eq] at hj ⊢
  obtain ⟨l, heq, hl⟩ :=
    (sameButHolds_holdAll (fun j => issued ≠ some j && s.isReady j) (s.ctxs.filter fun e => !e.2.hold.isEmpty) s).elim
  obtain ⟨before, test⟩ := mem_hold_holdAll _ _ _ hj
  rw [heq, hl.isReady]
  exact (Bool.and_eq_true_iff.mp (test (mem_ctxs_of_hold before))).2

/-- What a step answers has its holds settled. -/
theorem settled_next {issued : Option Nat} {o : Host.Outcome State Fault Refusal} {t : State} (h : settled issued o = .next t) :
    ∃ u : State, t = u.settleHolds issued := by
  cases o <;> cases h
  exact ⟨_, rfl⟩
theorem stepTurn_settled (turn : Turn) (s : State) : ∃ issued o, stepTurn turn s = settled issued o := by
  cases turn with
  | issue core =>
    dsimp only [stepTurn, stepIssue]
    cases s.prepare core with
    | outside a => exact ⟨none, .fault _, rfl⟩
    | _ => exact ⟨_, _, rfl⟩
  | event _ | managed _ => exact ⟨none, _, rfl⟩
  | _ => exact ⟨none, .next _, rfl⟩
/-- Settles O12: a step ends with every hold filtered by READY, and READY asks about no hold. -/
theorem holdsNameOnlyReadyContexts : Obligations.HoldsNameOnlyReadyContexts := by
  unfold Obligations.HoldsNameOnlyReadyContexts
  intro s t h
  obtain ⟨issued, o, ho⟩ := stepTurn_settled s.takeTurn.1 s.takeTurn.2
  obtain ⟨u, rfl⟩ := settled_next (ho.symm.trans h)
  exact holdsReady_settleHolds u issued
/-- Settles O13: no context holds its turn at reset. -/
theorem resetHasNoHolds : Obligations.ResetHasNoHolds := by
  unfold Obligations.ResetHasNoHolds
  have none_ (k : Nat) : (State.reset.ctx k).hold = [] := by rw [State.ctx_reset]; rfl
  refine ⟨fun k j hj => ?_, none_⟩
  rw [none_] at hj
  exact absurd hj List.not_mem_nil
end Sys2Proof.Machine

/-! SUPPORT. What a step leaves of memory and of other contexts' registers, and that no containment changes either (R361 to R364). -/
namespace Sys2Proof.Machine

/-! ## Steps within limits -/

/-- The registers of a context that instructions name: x, v, k and c, y0 and y1, FSTAT, the trap registers and TYARD. -/
def Ctx.file (c : Ctx) : Ctx :=
  { Ctx.reset with x := c.x, v := c.v, k := c.k, c := c.c, y0 := c.y0, y1 := c.y1, fstat := c.fstat, tcause := c.tcause, tval := c.tval,
                   tpc := c.tpc, tinfo := c.tinfo, tyard := c.tyard }

/-- A step on which no time passes, that changes no byte but those of W and no registers but those of the contexts in C. -/
structure Within (W : Nat → Nat → Prop) (C : Nat → Prop) (s t : State) : Prop where
  now : t.now = s.now
  cur : t.cur = s.cur
  bytes : ∀ q a, ¬W q a → t.byteQ q a = s.byteQ q a
  files : ∀ k, ¬C k → (t.ctx k).file = (s.ctx k).file

section
variable {W : Nat → Nat → Prop} {C : Nat → Prop}

theorem Within.refl (s : State) : Within W C s s := ⟨rfl, rfl, fun _ _ _ => rfl, fun _ _ => rfl⟩
theorem Within.trans {s t u : State} (hst : Within W C s t) (htu : Within W C t u) : Within W C s u :=
  ⟨htu.now.trans hst.now, htu.cur.trans hst.cur, fun q a h => (htu.bytes q a h).trans (hst.bytes q a h),
    fun k h => (htu.files k h).trans (hst.files k h)⟩
theorem Within.foldl {α : Type} {f : State → α → State} (hf : ∀ t a, Within W C t (f t a)) (s : State) (l : List α) :
    Within W C s (l.foldl f s) :=
  List.foldlRecOn l f (motive := Within W C s) (Within.refl s) fun t ht a _ => ht.trans (hf t a)
theorem Within.ite {p : Prop} [Decidable p] {s t u : State} (ht : Within W C s t) (hu : Within W C s u) :
    Within W C s (if p then t else u) := by
  split
  · exact ht
  · exact hu
/-- A step that leaves the clock, the contexts and the memories. -/
theorem Within.of_same {s t : State} (hn : t.now = s.now) (hc : t.cur = s.cur) (hm : t.ord.mem = s.ord.mem) (hx : t.ctxs = s.ctxs) :
    Within W C s t :=
  ⟨hn, hc, fun q a _ => sameBytes_of_mem hm q a, fun k _ => by rw [State.ctx, hx, State.ctx]⟩

theorem within_updCtx (s : State) {k : Nat} {f : Ctx → Ctx} (h : C k ∨ ∀ c, (f c).file = c.file) : Within W C s (s.updCtx k f) := by
  refine ⟨rfl, rfl, fun _ _ _ => rfl, fun j hj => ?_⟩
  rw [State.ctx_updCtx]
  split
  · next e => subst e; exact (h.resolve_left hj) _
  · rfl
theorem within_updCore (s : State) (k : Nat) (f : Core → Core) : Within W C s (s.updCore k f) := .of_same rfl rfl rfl rfl
theorem within_updGang (s : State) (g : Nat) (f : Gang → Gang) : Within W C s (s.updGang g f) := .of_same rfl rfl rfl rfl
theorem within_updShed (s : State) (d : Nat) (f : Shed → Shed) : Within W C s (s.updShed d f) := .of_same rfl rfl rfl rfl
theorem within_tickNext (s : State) : Within W C s s.tickNext := .of_same rfl rfl rfl rfl
theorem within_updOrd (s : State) {f : Order → Order} (hm : (f s.ord).mem = s.ord.mem) : Within W C s (s.updOrd f) :=
  .of_same rfl rfl hm rfl

/-! ## Containment (R361 to R363) -/

theorem within_evictL1 (s : State) (core line : Nat) : Within W C s (s.evictL1 core line) := by
  unfold State.evictL1 State.updL2
  split
  · exact .refl s
  · dsimp only
    split
    · exact within_updCore ..
    · split
      · exact .of_same rfl rfl rfl rfl
      · exact within_updCore ..
theorem within_l1Flush (s : State) (core : Nat) : Within W C s (s.l1Flush core) := .foldl (fun t l => within_evictL1 t core l) s _

theorem within_dropEntries (s : State) : Within W C s s.dropEntries := .of_same rfl rfl rfl rfl
theorem within_askEvaluate (s : State) : Within W C s s.askEvaluate := .of_same rfl rfl rfl rfl
theorem within_orphan (s : State) (g : Nat) (all : Bool) : Within W C s (s.orphan g all) := .of_same rfl rfl rfl rfl
theorem within_recordCore (s : State) (g x cause : Nat) : Within W C s (s.recordCore g x cause) := .of_same rfl rfl rfl rfl
theorem file_vacate (k : Nat) (c : Ctx) : (c.vacate k).file = c.file := rfl
theorem within_vacate (s : State) (g : Nat) : Within W C s (s.vacate g) := by
  unfold State.vacate
  dsimp only
  generalize (s.gang g).sheds.filter _ = mine
  refine .trans ?_ (within_updOrd _ rfl)
  refine .trans ?_ (.foldl (fun _ _ => within_updCore ..) _ _)
  refine .trans ?_ (.foldl (fun t k => within_updCtx t (.inr (file_vacate k))) _ _)
  refine .trans ?_ (within_dropEntries _)
  exact .trans (.foldl within_l1Flush s _) (.foldl (fun _ _ => within_updShed ..) _ mine)

theorem within_completeCmd (s : State) (vfq : Nat) (seq : BitVec 32) (status : Nat) (info : Word) :
    Within W C s (s.completeCmd vfq seq status info) := by
  unfold State.completeCmd State.completeNaming
  dsimp only
  split
  · exact .refl s
  · rw [journal_frame]
    exact .of_same rfl rfl rfl rfl
theorem within_payGang (s : State) (n : Nat) : Within W C s (s.payGang n) := by
  unfold State.payGang
  dsimp only
  split
  · exact .refl s
  · exact .ite (.refl s) ((within_updGang ..).trans (within_completeCmd ..))
theorem within_failOne (s : State) (g status : Nat) : Within W C s (s.failOne g status) := by
  unfold State.failOne
  refine .ite (.refl s) (.trans ?_ (within_askEvaluate _))
  refine .trans ?_ (within_payGang ..)
  refine .trans ?_ (within_updGang ..)
  refine .trans ?_ (within_orphan ..)
  exact .ite (.refl s) (.trans (within_updOrd s rfl) (within_vacate ..))
theorem within_failGang (s : State) (g status : Nat) : Within W C s (s.failGang g status) := by
  unfold State.failGang State.supervisorGone
  refine .ite ?_ (within_failOne ..)
  exact .ite (within_failOne ..) ((within_failOne ..).trans (.foldl (fun _ _ => within_failOne ..) _ _))
theorem within_relaunch (s : State) (g : Nat) : Within W C s (s.relaunch g) := by
  unfold State.relaunch
  dsimp only
  generalize hs1 : State.updGang (s.vacate g) g _ = s1
  have placed : Within W C s s1 := by rw [← hs1]; exact (within_vacate s g).trans (within_updGang ..)
  exact placed.trans (.of_same rfl rfl rfl rfl)
theorem within_gangHit (s before : State) (cause : Nat) (lost : Bool) (g : Nat) (xs : List Nat) :
    Within W C s (s.gangHit before cause lost g xs) := by
  unfold State.gangHit
  refine .ite (.ite (within_failGang ..) (.refl s)) (.ite (within_failGang ..) (.ite (within_relaunch ..) (.ite (within_failGang ..) ?_)))
  exact (within_updGang ..).trans (.foldl (fun _ _ => within_recordCore ..) _ _)

theorem within_dropRetained (s : State) (gang : Nat) (t : BitVec 8) : Within W C s (s.dropRetained gang t) := by
  unfold State.dropRetained
  dsimp only
  split
  · exact .ite (.refl s) (within_updGang ..)
  · exact .refl s
theorem within_pruneRetained (s : State) (gang : Nat) : Within W C s (s.pruneRetained gang) :=
  .foldl (fun _ _ => within_dropRetained ..) s _
theorem within_dropCore (s : State) (x cause : Nat) : Within W C s (s.dropCore x cause) := by
  unfold State.dropCore
  dsimp only
  generalize hs1 : List.foldl _ s (ctxsOfCore x) = s1
  have dropped : Within W C s s1 := by rw [← hs1]; exact .foldl (fun t k => within_updCtx t (.inr fun _ => by rfl)) s _
  generalize hs3 : State.updOrd _ _ = s3
  have ended : Within W C s1 s3 := by rw [← hs3]; exact .of_same rfl rfl rfl rfl
  split
  · exact dropped.trans ended
  · exact .ite (dropped.trans (ended.trans ((within_updGang ..).trans (within_pruneRetained ..)))) (dropped.trans ended)
theorem within_logContainment (s : State) (x cause vfq : Nat) : Within W C s (s.logContainment x cause vfq) := .of_same rfl rfl rfl rfl
theorem file_decSt (c : Ctx) : c.decSt.file = c.file := by unfold Ctx.decSt; split <;> rfl
theorem file_decCp (c : Ctx) : c.decCp.file = c.file := by unfold Ctx.decCp; split <;> rfl
theorem file_setEvent (b : BitVec 5) (c : Ctx) : (c.setEvent b).file = c.file := by unfold Ctx.setEvent; split <;> rfl
theorem file_see (op : Nat) (acq : Bool) (set : List Nat) (c : Ctx) : (c.see op acq set).file = c.file := by
  unfold Ctx.see; split <;> rfl
theorem within_sentAccepted (s : State) (g : Gang) (m : Message) : Within W C s (s.sentAccepted g m) := by
  unfold State.sentAccepted
  exact .ite (within_updCtx s (.inr file_decSt)) (.refl s)
theorem within_post (s : State) (core : Nat) (m : Message) : Within W C s (s.post core m) := .of_same rfl rfl rfl rfl
theorem within_eachCtx (s : State) (cores : List Nat) {f : Ctx → Ctx} (hf : ∀ c, (f c).file = c.file) : Within W C s (s.eachCtx cores f) :=
  .foldl (fun _ _ => (Within.foldl (fun u _ => within_updCtx u (.inr hf)) _ _).trans (within_updCore ..)) s cores
theorem within_abortRow (s : State) (g : Gang) (x : Nat) : Within W C s (s.abortRow g x) := .foldl (fun _ _ => within_updCore ..) s _

theorem within_containCore (s : State) (x cause : Nat) : Within W C s (s.containCore x cause) := by
  unfold State.containCore
  split
  · exact (within_dropCore ..).trans (within_logContainment ..)
  · refine .ite ((within_dropCore ..).trans (within_logContainment ..)) ?_
    dsimp only
    refine .trans (.trans ?_ (within_updGang ..)) (within_logContainment ..)
    generalize hs3 : List.foldl _ (List.foldl _ _ _) _ = s3
    have told : Within W C s s3 := by
      rw [← hs3]
      refine .trans ?_ (.foldl (fun t c => .foldl (fun u i => within_post ..) t _) _ _)
      refine .trans ?_ (.foldl (fun t c => within_updCore ..) _ _)
      exact .trans (.foldl (fun t m => within_sentAccepted ..) s _) (within_dropCore ..)
    have shown (cores : List Nat) := told.trans (within_eachCtx s3 cores (file_setEvent 0b01000))
    exact .ite ((shown _).trans (within_abortRow ..)) (shown _)
theorem within_containAll (s : State) (xs : List Nat) (cause : Nat) (lost : Gang → Bool) : Within W C s (s.containAll xs cause lost) :=
  (Within.foldl (fun t x => within_containCore t x cause) s xs).trans (.foldl (fun _ _ => within_gangHit ..) _ _)
theorem within_containEvent (s : State) (x cause : Nat) : Within W C s (s.containEvent x cause) := within_containAll ..
end
end Sys2Proof.Machine

/-! SUPPORT. What traps, retirements and the end of every meaning leave of memory and of other contexts' registers (R85, R350 to R359). -/
namespace Sys2Proof.Machine

section
variable {W : Nat → Nat → Prop} {C : Nat → Prop}

/-! ## Fetches and lookups (R91, R96, R100, R343) -/

theorem OnlyMemory.now {s t : State} (h : OnlyMemory s t) : t.now = s.now := by
  have same := congrArg State.now h
  exact same
theorem within_correct (s : State) (loc : Nat) : Within W C s (s.correct loc) :=
  .of_same (onlyMemory_correct s loc).now (State.correct_cur ..) (State.correct_mem ..) (State.correct_ctxs ..)
theorem within_fetch (s : State) (core addr : Nat) : Within W C s (s.fetch core addr).2 := by
  unfold State.fetch
  split
  · exact .refl s
  · dsimp only
    exact (within_correct ..).trans (within_updCore ..)
theorem within_updMe (s : State) {f : Ctx → Ctx} (h : C s.cur ∨ ∀ c, (f c).file = c.file) : Within W C s (s.updMe f) := within_updCtx s h
theorem within_see (s : State) (k op : Nat) (acq : Bool) (set : List Nat) : Within W C s (s.updCtx k fun c => c.see op acq set) :=
  within_updCtx s (.inr (file_see op acq set))
theorem within_acquireYard (s : State) (k : Nat) (rel : Option YardRel) : Within W C s (s.acquireYard k rel) := by
  unfold State.acquireYard
  split
  · exact .ite ((within_see ..).trans (within_tickNext _)) (.refl s)
  · exact .refl s
theorem within_yardUse (s : State) (k : Nat) (t : BitVec 8) (pinned : Bool) : Within W C s (s.yardUse k t pinned).2.2 := by
  simp only [State.yardUse]
  split <;> exact (within_updCore ..).trans (within_acquireYard ..)

/-! ## Actions (R93, R94) -/

/-- Both outcomes of an action leave a state within the limits. -/
def BothWithin (W : Nat → Nat → Prop) (C : Nat → Prop) (s : State) : Except (BitVec 8 × Word × State) State → Prop
  | .ok t => Within W C s t
  | .error e => Within W C s e.2.2

theorem bothWithin_enterBlock (s : State) (k addr : Nat) : BothWithin W C s (s.enterBlock k addr) := by
  unfold State.enterBlock
  dsimp only
  split
  · exact .refl s
  · split
    · exact .refl s
    · split
      · exact within_updCtx s (.inr fun _ => by rfl)
      · have fetched := within_fetch (W := W) (C := C) s (coreOfCtx k) addr
        split
        · exact fetched.trans (within_updCtx _ (.inr fun _ => by rfl))
        · exact fetched
theorem BothWithin.map {s : State} {r : Except (BitVec 8 × Word × State) State} (h : BothWithin W C s r) {f : State → State}
    (hf : ∀ t, Within W C t (f t)) : BothWithin W C s (r.map f) := by
  cases r with
  | ok t => exact Within.trans h (hf t)
  | error e => exact h
theorem within_endSeq (s : State) (k : Nat) : Within W C s (s.endSeq k) := within_updCore ..
theorem within_exitCtx (s : State) (k : Nat) (reason : BitVec 3) (notice : Option (BitVec 5)) : Within W C s (s.exitCtx k reason notice) :=
  (within_updCtx s (.inr fun _ => by rfl)).trans (within_endSeq ..)
theorem bothWithin_applyAction (s : State) {k : Nat} (hk : C k) (key act : Word) : BothWithin W C s (s.applyAction k key act) := by
  have mine (f : Ctx → Ctx) (t : State) : Within W C t (t.updCtx k f) := within_updCtx t (.inl hk)
  have go := bothWithin_enterBlock (W := W) (C := C) s k (s.arenaBase k + 8 * actTarget act)
  unfold State.applyAction
  dsimp only
  split
  · exact .refl s
  · exact go
  · exact go.map (mine _)
  · exact go.map (mine _)
  · exact within_exitCtx ..
  · exact go.map (mine _)
  · exact .refl s
  · exact .refl s

/-! ## Traps (R350, R351) -/

theorem within_failDispatch (s : State) (k : Nat) : Within W C s (s.failDispatch k) :=
  .ite (within_containEvent ..) (within_exitCtx ..)
theorem within_dispatch (s : State) {k : Nat} (hk : C k) : Within W C s (s.dispatch k) := by
  unfold State.dispatch
  dsimp only
  have used := within_yardUse (W := W) (C := C) s k (s.ctx k).tyard false
  refine .ite (used.trans (within_containEvent ..)) ?_
  have acted := bothWithin_applyAction (W := W) (s.yardUse k (s.ctx k).tyard false).2.2 hk ((s.ctx k).tcause.zeroExtend 64)
    ((s.yardUse k (s.ctx k).tyard false).2.1.lookup ((s.ctx k).tcause.zeroExtend 64))
  revert acted
  cases State.applyAction _ k _ _ with
  | ok t => exact fun acted => used.trans acted
  | error e => exact fun acted => used.trans (Within.trans acted (within_failDispatch ..))
theorem within_takeTrap (s : State) {k : Nat} (hk : C k) (cause : BitVec 8) (bend : Bool) (tval : Word) (tinfo : BitVec 8) :
    Within W C s (s.takeTrap k cause bend tval tinfo) :=
  ((within_updCtx s (.inl hk)).trans (within_updCore ..)).trans (within_dispatch _ hk)

/-! ## The end of every meaning (R85, R350, R359) -/

theorem within_retire (s : State) (k : Nat) : Within W C s (s.retire k) :=
  within_updCtx s (.inr fun c => by split <;> rfl)
theorem file_moveUp (n : Nat) (c : Ctx) : (match c.mode with
    | .asleep (.bar d m) => if n < m then { c with mode := .asleep (.bar d (m - 1)) } else c
    | _ => c : Ctx).file = c.file := by
  split
  · split <;> rfl
  · rfl
theorem within_unsleep (s : State) (k : Nat) (held : Bool) : Within W C s (s.unsleep k held) := by
  unfold State.unsleep
  dsimp only
  split
  · next n _ => exact (within_updCore ..).trans (.foldl (fun t j => within_updCtx t (.inr fun c => file_moveUp n c)) _ _)
  · exact within_updGang ..
  · exact .of_same rfl rfl rfl rfl
  · exact .refl s
theorem within_readBy (s t : State) : Within W C s (s.readBy t) := .of_same rfl rfl rfl rfl
theorem within_sleepMe (s : State) (w : Wait) : Within W C s (s.sleepMe w) :=
  (within_updCtx s (.inr fun _ => by rfl)).trans (within_tickNext _)
theorem within_openReferral (s : State) (r : Referral) : Within W C s (s.openReferral r) := .of_same rfl rfl rfl rfl
theorem within_pageFault (s : State) (hC : C s.cur) (va : Word) (reason : Nat) (wr : Bool) : Within W C s (s.pageFault va reason wr) :=
  .ite (within_takeTrap s hC ..) (.ite (within_takeTrap s hC ..) ((within_openReferral ..).trans (within_sleepMe ..)))
theorem within_replayMe (s : State) : Within W C s s.replayMe :=
  (within_unsleep s s.cur false).trans (within_updMe _ (.inr fun _ => by rfl))
theorem Within.checked {s t : State} (h : Within W C s t) : Within W C s (s.checked t) :=
  .ite h (.ite (h.trans (within_updCtx _ (.inr fun _ => by rfl))) (.ite (within_containEvent ..) (within_replayMe s)))

/-- The states that an effect leaves are within the limits, those of a trap or fault apart, of which only corrections of errors stay. -/
def Eff.Within (W : Nat → Nat → Prop) (C : Nat → Prop) (s : State) : Eff → Prop
  | .done t | .leave t | .contained t | .sleep _ t | .stall t => Machine.Within W C s t
  | _ => True

/-- The state in which a context with a mismatch due runs its effect (R359). -/
def State.unchecked (s : State) : State := s.updMe fun c => { c with mismatch := 0, replay := false }

theorem within_run {s : State} {eff : State → Eff} (hC : C s.cur) (h : (eff s).Within W C s) (h' : (eff s.unchecked).Within W C s.unchecked) :
    Within W C s (s.run eff) := by
  have before : Within W C s s.unchecked := within_updMe s (.inr fun _ => by rfl)
  unfold State.run
  dsimp only
  split
  · revert h
    cases eff s with
    | done t => exact fun h => Within.trans h (within_retire ..)
    | leave t | contained t | stall t => exact id
    | trap => exact fun _ => within_takeTrap s hC ..
    | sleep w t => exact fun h => Within.trans h (within_sleepMe ..)
    | fault => exact fun _ => within_pageFault s hC ..
    | trapRead t => exact fun _ => (within_readBy s t).trans (within_takeTrap (s.readBy t) hC ..)
    | faultRead t => exact fun _ => (within_readBy s t).trans (within_pageFault (s.readBy t) hC ..)
  · rw [show (s.updMe fun c => { c with mismatch := 0, replay := false }) = s.unchecked from rfl]
    have keep (t : State) : Within W C t (t.updMe fun c => { c with mismatch := s.me.mismatch, replay := s.me.replay }) :=
      within_updMe t (.inr fun _ => by rfl)
    revert h'
    cases eff s.unchecked with
    | done t => exact fun h => (before.trans (Within.trans h (within_retire ..))).checked
    | leave t => exact fun h => (before.trans h).checked
    | contained t => exact fun h => before.trans h
    | stall t => exact fun h => before.trans (Within.trans h (keep t))
    | trap => exact fun _ => within_takeTrap s hC ..
    | sleep w t => exact fun h => before.trans (Within.trans h ((keep t).trans (within_sleepMe ..)))
    | fault => exact fun _ => within_pageFault s hC ..
    | trapRead t => exact fun _ => (within_readBy s t).trans (within_takeTrap (s.readBy t) hC ..)
    | faultRead t => exact fun _ => (within_readBy s t).trans (within_pageFault (s.readBy t) hC ..)
/-- An instruction whose effect is within the limits, and so is its trap by the checks of R52. -/
theorem within_issue {s : State} {i : Instr} {eff : State → Eff} (hC : C s.cur) (h : (eff s).Within W C s)
    (h' : (eff s.unchecked).Within W C s.unchecked) : Within W C s (s.issue i eff) := by
  unfold State.issue
  split
  · exact within_takeTrap s hC ..
  · exact within_run hC h h'
end
end Sys2Proof.Machine

/-! SUPPORT. What an instruction's own effect leaves of memory and of other contexts' registers, effect by effect (R85, R286, R288). -/
namespace Sys2Proof.Machine

section
variable {W : Nat → Nat → Prop} {C : Nat → Prop} {s t : State}

/-! ## One more change after a step within the limits -/

theorem Within.mine (h : Within W C s t) (hC : C s.cur) : C t.cur := h.cur ▸ hC
theorem Within.updMe (h : Within W C s t) (hC : C s.cur) (f : Ctx → Ctx) : Within W C s (t.updMe f) :=
  h.trans (within_updMe t (.inl (h.mine hC)))
theorem Within.wx (h : Within W C s t) (hC : C s.cur) (r : BitVec 5) (w : Word) : Within W C s (t.wx r w) := h.updMe hC _
theorem Within.wv (h : Within W C s t) (hC : C s.cur) (r : BitVec 5) (w : Quad) : Within W C s (t.wv r w) := h.updMe hC _
theorem Within.wk (h : Within W C s t) (hC : C s.cur) (r : BitVec 3) (w : BitVec 16) : Within W C s (t.wk r w) := h.updMe hC _
theorem Within.wc (h : Within W C s t) (hC : C s.cur) (r : BitVec 2) (w : BitVec 4) : Within W C s (t.wc r w) := h.updMe hC _
theorem Within.orFlags (h : Within W C s t) (hC : C s.cur) (f : BitVec 5) : Within W C s (t.orFlags f) := h.updMe hC _
theorem Within.tickNext (h : Within W C s t) : Within W C s t.tickNext := h.trans (within_tickNext t)
theorem Within.pushOp (h : Within W C s t) (hC : C s.cur) (key : Nat) (hint : BitVec 2) (kind : OpKind) :
    Within W C s (t.pushOp key hint kind) := (h.updMe hC _).tickNext
theorem Within.updCore (h : Within W C s t) (k : Nat) (f : Core → Core) : Within W C s (t.updCore k f) := h.trans (within_updCore ..)
theorem Within.updGang (h : Within W C s t) (g : Nat) (f : Gang → Gang) : Within W C s (t.updGang g f) := h.trans (within_updGang ..)
theorem Within.updShed (h : Within W C s t) (d : Nat) (f : Shed → Shed) : Within W C s (t.updShed d f) := h.trans (within_updShed ..)
theorem Within.correct (h : Within W C s t) (loc : Nat) : Within W C s (t.correct loc) := h.trans (within_correct ..)
theorem Within.contain (h : Within W C s t) (x cause : Nat) : Within W C s (t.containEvent x cause) := h.trans (within_containEvent ..)

theorem within_translate {k : Nat} {va : Word} {wr : Bool} {g : Hit} (ht : s.translate k va wr = .ok g) : Within W C s g.st := by
  have only := onlyCaches_translate ht
  exact .of_same (by rw [only]) only.cur (by rw [only.ord]) (by rw [only])
theorem within_missOf (s : State) (k : Nat) (va : Word) (wr : Bool) : Within W C s (s.missOf k va wr) := by
  unfold State.missOf State.miss
  dsimp only
  split
  · exact .refl s
  · refine .ite (.refl s) ?_
    split
    · exact .ite (.refl s) (within_updOrd s rfl)
    · exact within_updOrd s rfl
theorem within_withWalks (s t : State) : Within W C s (s.withWalks t) := .of_same rfl rfl rfl rfl

theorem within_tagWrite (s : State) (loc : Nat) (tag : Option Bool) (rel : Option (List Nat)) : Within W C s (s.tagWrite loc tag rel) := by
  unfold State.tagWrite
  split
  · exact .refl s
  · exact .of_same rfl rfl rfl rfl

/-! ## Parts of effects -/

theorem Eff.Within.ite {p : Prop} [Decidable p] {e e' : Eff} (h : e.Within W C s) (h' : e'.Within W C s) :
    (if p then e else e').Within W C s := by
  split
  · exact h
  · exact h'
theorem effWithin_counted {i : Instr} {count : Ctx → BitVec 8} {e : Eff} (h : e.Within W C s) : (counted i s count e).Within W C s :=
  Eff.Within.ite (Within.refl s) h
theorem effWithin_aligned {ea : Word} {n : Nat} {e : Eff} (h : e.Within W C s) : (aligned ea n e).Within W C s := Eff.Within.ite h trivial
theorem effWithin_holdUnless {ok : Bool} {i : Instr} {e : Eff} (h : e.Within W C s) : (holdUnless ok i s e).Within W C s :=
  Eff.Within.ite h (Within.refl s)
theorem effWithin_stallUnless {ok : Bool} {e : Eff} (h : e.Within W C s) : (stallUnless ok s e).Within W C s :=
  Eff.Within.ite h (Within.refl s)
theorem effWithin_withHit {va : Word} {wr : Bool} {k : Hit → Eff} (h : Within W C s t)
    (hk : ∀ g, Within W C s g.st → (k g).Within W C s) : (withHit t va wr k).Within W C s := by
  unfold withHit
  split
  · exact Eff.Within.ite (h.trans (within_missOf ..)) trivial
  · next g ht => exact hk g (h.trans (within_translate ht))
theorem effWithin_withGrammar {k : Grammar → Eff} (hk : ∀ g, (k g).Within W C s) : (withGrammar s k).Within W C s := by
  unfold withGrammar
  split
  · trivial
  · exact hk _
theorem effWithin_tagged {i : Instr} {f : MF} {count : Ctx → BitVec 8} {k : Nat → Eff}
    (hk : (k (padLoc s.myShed ((MF.ea f s).toNat - Config.padWindow))).Within W C s) : (tagged i f s count k).Within W C s :=
  Eff.Within.ite trivial (effWithin_aligned (effWithin_counted hk))
end

section
variable {W : Nat → Nat → Prop} {C : Nat → Prop} {s : State} (hC : C s.cur) {i : Instr}
include hC

/-! ## Registers alone -/

theorem effWithin_wx (d : BitVec 5) (w : Word) : (wxEff d w s).Within W C s := (Within.refl s).wx hC ..
theorem effWithin_wc (d : BitVec 5) (c : BitVec 4) : (wcEff d c s).Within W C s := (Within.refl s).wc hC ..
theorem effWithin_wk (d : BitVec 5) (m : BitVec 16) : (wkEff d m s).Within W C s := (Within.refl s).wk hC ..
theorem effWithin_int (op : IntOp) (f : RR) : (intEff op f s).Within W C s := ((Within.refl s).wx hC ..).orFlags hC _
theorem effWithin_float (op : FloatOp) (f : RR) : (floatEff op f s).Within W C s := ((Within.refl s).wx hC ..).orFlags hC _
theorem effWithin_enc (g : Fmt → Nat → Nat → Nat) (f : RR) : (encEff g f s).Within W C s := (Within.refl s).wx hC ..
theorem effWithin_cvt (f : RR) : (cvtEff f s).Within W C s := ((Within.refl s).wx hC ..).orFlags hC _
theorem effWithin_decz (f : RR) : (deczEff f s).Within W C s := ((Within.refl s).wc hC ..).wx hC ..
theorem effWithin_vmap (f : RR) (l : Nat) (g : State → Nat → Nat × BitVec 5) (put : Quad → Nat → Nat → Quad) :
    (vmap f l g put s).Within W C s := ((Within.refl s).wv hC ..).orFlags hC _
theorem effWithin_vmove (f : RR) (l : Nat) (g : State → Nat → Nat) : (vmove f l g s).Within W C s := by
  unfold vmove
  exact effWithin_vmap hC ..
theorem effWithin_lanewise (f : RR) (gi : Nat → Nat → Nat → Int × BitVec 5) (gf : Nat → Nat → Nat → Nat × BitVec 5) :
    (lanewise f gi gf s).Within W C s := by
  unfold lanewise
  exact effWithin_vmap hC ..
theorem effWithin_lanewiseInt (op : IntOp) (f : RR) : (lanewiseInt op f s).Within W C s := by
  unfold lanewiseInt
  exact effWithin_lanewise hC ..
theorem effWithin_vzip (f : RR) : (effVzip f s).Within W C s := by
  unfold effVzip
  exact effWithin_vmove hC ..
theorem effWithin_vunzip (f : RR) : (effVunzip f s).Within W C s := by
  unfold effVunzip
  exact effWithin_vmove hC ..
theorem effWithin_vcvt (f : RR) : (vcvtEff f s).Within W C s := by
  unfold vcvtEff
  exact effWithin_vmap hC ..
theorem effWithin_dot (m : Nat) (f : RR) : (dotEff m f s).Within W C s := by
  unfold dotEff
  exact effWithin_vmap hC ..
theorem effWithin_red (f : RR) (g : State → List Nat → Nat × BitVec 5) : (redEff f g s).Within W C s :=
  Eff.Within.ite (Within.refl s) (((Within.refl s).wx hC ..).orFlags hC _)
theorem effWithin_vcmp (f : RR) : (effVcmp f s).Within W C s := Eff.Within.ite (Within.refl s) (effWithin_wk hC ..)
theorem effWithin_vins (f : RR) : (effVins f s).Within W C s := Eff.Within.ite ((Within.refl s).wv hC ..) (Within.refl s)
omit hC in
theorem effWithin_recorded {eff : State → Eff} (h : (eff s).Within W C s) : (recorded i eff s).Within W C s := by
  refine Eff.Within.ite (Eff.Within.ite trivial ?_) h
  split
  · next ht => rw [ht] at h; exact Within.updCore h ..
  · exact h
omit hC in
theorem effWithin_setSeq {q : Sequencer} {ok : Bool} : (holdUnless ok i s (.done (s.setSeq s.myCore q))).Within W C s :=
  effWithin_holdUnless ((Within.refl s).updCore ..)

/-! ## Accesses that become pending (R304, R305, R311) -/

theorem effWithin_load (f : MF) (sext acq : Bool) : (loadEff i f sext acq s).Within W C s :=
  effWithin_counted (effWithin_aligned (effWithin_withHit (.refl s) fun _ h => (h.pushOp hC ..).updMe hC _))
theorem effWithin_store (f : MF) (rel : Option (BitVec 3)) : (storeEff i f rel s).Within W C s :=
  effWithin_counted (effWithin_aligned (effWithin_withHit (.refl s) fun _ h => (h.pushOp hC ..).updMe hC _))
theorem effWithin_amo (fn : AmoFn) (f : MF) : (amoEff fn i f s).Within W C s :=
  effWithin_counted (effWithin_aligned (effWithin_withHit (.refl s) fun _ h => (h.pushOp hC ..).updMe hC _))
theorem effWithin_redRun (fn : AmoFn) (f : MF) : (redRun fn i f s).Within W C s :=
  effWithin_counted (effWithin_aligned (effWithin_withHit (.refl s) fun _ h => (h.pushOp hC ..).updMe hC _))
theorem effWithin_rawLoad (f : MF) (m : BitVec 16) {u : State} {g : Hit} (h : Within W C s g.st) : (rawLoad f m u g).Within W C s :=
  (h.pushOp hC ..).updMe hC _
theorem effWithin_decLoad (f : MF) (m : BitVec 16) (ea : Word) (p : PageFmt) {u : State} {g : Hit} (h : Within W C s g.st) :
    (decLoad f m ea p u g).Within W C s := by
  have go {v : State} (hv : Within W C s v) (key : Nat) (hint : BitVec 2) (kind : OpKind) :
      Within W C s ((v.pushOp key hint kind).updMe Ctx.incLd) := (hv.pushOp hC ..).updMe hC _
  refine Eff.Within.ite (effWithin_withHit h fun g1 h1 => Eff.Within.ite (go h1 ..) ?_) (go h ..)
  exact effWithin_withHit h1 fun _ h2 => go h2 ..
theorem effWithin_vldRaw (f : MF) : (vldRawEff i f s).Within W C s :=
  Eff.Within.ite (Within.refl s)
    (effWithin_counted (effWithin_aligned (effWithin_withHit (.refl s) fun _ h => effWithin_rawLoad hC f _ h)))
theorem effWithin_vld (f : MF) : (vldEff i f s).Within W C s := by
  refine Eff.Within.ite (Within.refl s) (effWithin_counted (effWithin_withHit (.refl s) fun g h => ?_))
  refine Eff.Within.ite trivial (Eff.Within.ite trivial (Eff.Within.ite (Eff.Within.ite h ?decodes) ?raw))
  case decodes => exact effWithin_aligned (effWithin_decLoad hC f _ _ _ h)
  case raw => exact effWithin_aligned (effWithin_rawLoad hC f _ h)
theorem effWithin_vst (f : MF) : (vstEff i f s).Within W C s := by
  refine Eff.Within.ite (Within.refl s) (effWithin_counted (effWithin_aligned (effWithin_withHit (.refl s) fun g h => ?_)))
  refine Within.updMe (List.foldlRecOn _ _ h fun _ hu _ _ => (hu.updMe hC _).tickNext) hC _
theorem effWithin_consume (f : MF) (empty : Bool) : (consumeEff i f empty s).Within W C s := by
  unfold consumeEff
  refine effWithin_tagged ?_
  generalize padLoc s.myShed ((MF.ea f s).toNat - Config.padWindow) = loc
  refine effWithin_holdUnless (Eff.Within.ite ((Within.refl s).contain ..) ?_)
  have seen (set : List Nat) (w : Word) : Within W C s (((s.correct loc).updMe fun c => c.see s.next true set).wx f.d w) :=
    (((Within.refl s).correct loc).updMe hC _).wx hC ..
  exact Within.tickNext (.ite ((seen ..).trans (within_tagWrite ..)) (seen ..))
theorem effWithin_setFull (f : MF) : (setFullEff i f s).Within W C s :=
  effWithin_tagged (((Within.refl s).pushOp hC ..).updMe hC _)
theorem effWithin_tag (f : MF) (full : Bool) : (tagEff i f full s).Within W C s :=
  effWithin_tagged (((Within.refl s).pushOp hC ..).updMe hC _)
theorem effWithin_line (f : MF) (inval : Bool) : (lineEff i f inval s).Within W C s := by
  refine effWithin_counted ?_
  split
  · exact Eff.Within.ite (within_missOf ..) (Within.refl s)
  · next g ht =>
    have h : Within W C s g.st := within_translate ht
    exact Eff.Within.ite h ((h.pushOp hC ..).updMe hC _)
theorem effWithin_tile (func : Nat) (check : State → Option Word) (f : TF) : (tileRun func i check f s).Within W C s := by
  refine Eff.Within.ite (Within.refl s) ?_
  split
  · trivial
  · exact effWithin_counted (effWithin_stallUnless (((Within.refl s).updCore ..).updMe hC _).tickNext)
end
end Sys2Proof.Machine

/-! SUPPORT. What an instruction's own effect leaves of memory and of other contexts' registers: contexts, units and the system (R85, R286). -/
namespace Sys2Proof.Machine

section
variable {W : Nat → Nat → Prop} {C : Nat → Prop} {s : State} (hC : C s.cur)
include hC

/-! ## Units (R229 to R256, R313 to R321, R397) -/

theorem Within.lookAhead {t : State} (h : Within W C s t) (reg : BitVec 5) (loc : Nat) : Within W C s (t.lookAhead reg loc) :=
  .ite (h.updMe hC _) h
theorem effWithin_waita (f : MF) : (effWaita f s).Within W C s := by
  refine effWithin_counted (effWithin_aligned (effWithin_withHit (.refl s) fun g h => ?_))
  refine Eff.Within.ite (Within.refl s) (Eff.Within.ite (h.contain ..) (Eff.Within.ite ?_ ?_))
  · exact ((Within.refl s).correct g.loc).lookAhead hC ..
  · exact (((h.correct _).updMe hC _).wx hC ..).tickNext
theorem effWithin_ccntWait (f : RR) : (effCcntWait f s).Within W C s :=
  Eff.Within.ite trivial (effWithin_holdUnless ((Within.refl s).updMe hC _).tickNext)
theorem effWithin_cvtT (f : RR) : (effCvtT f s).Within W C s :=
  Eff.Within.ite trivial (Eff.Within.ite trivial (Eff.Within.ite (Within.refl s)
    (effWithin_counted (((Within.refl s).updCore ..).updMe hC _).tickNext)))
theorem effWithin_amaxRd (f : RR) : (effAmaxRd f s).Within W C s :=
  Eff.Within.ite ((Within.refl s).wx hC ..) (Eff.Within.ite ((Within.refl s).wx hC ..) trivial)
omit hC in
theorem effWithin_seqBeg (f : RR) : (effSeqBeg f s).Within W C s := Eff.Within.ite trivial effWithin_setSeq
omit hC in
theorem effWithin_seqLoop (f : RR) : (effSeqLoop f s).Within W C s :=
  Eff.Within.ite trivial (Eff.Within.ite trivial (Eff.Within.ite trivial effWithin_setSeq))
theorem effWithin_semP (f : RR) : (effSemP f s).Within W C s :=
  effWithin_holdUnless ((((Within.refl s).updShed ..).updMe hC _).wx hC ..).tickNext
theorem effWithin_semV (f : RR) : (effSemV f s).Within W C s :=
  Eff.Within.ite trivial (effWithin_holdUnless (((Within.refl s).updShed ..).wx hC ..))
theorem effWithin_bar (f : RR) : (effBar f s).Within W C s := by
  unfold effBar
  split
  · exact ((Within.refl s).updMe hC _).wx hC ..
  · exact ((Within.refl s).updCore ..).updGang ..
theorem effWithin_fence (kind : Nat) (f : MF) : (fenceRun kind f s).Within W C s := ((Within.refl s).updMe hC _).tickNext
theorem effWithin_buoy (f : RR) : (effBuoy f s).Within W C s := by
  refine Eff.Within.ite trivial (Eff.Within.ite trivial (Eff.Within.ite trivial
    (effWithin_holdUnless (effWithin_withHit (.refl s) fun g h => Eff.Within.ite trivial ?_))))
  exact Within.updMe (List.foldlRecOn _ _ (h.updMe hC _) fun _ hu _ _ => hu.pushOp hC ..) hC _
theorem effWithin_lhSt (f : RR) : (effLhSt f s).Within W C s := Eff.Within.ite trivial ((Within.refl s).wx hC ..)
theorem effWithin_gmReset (f : RR) : (effGmReset f s).Within W C s :=
  effWithin_withGrammar fun _ => ((Within.refl s).updCore ..).updMe hC _
theorem effWithin_gmSt (f : RR) : (effGmSt f s).Within W C s := by
  refine effWithin_withGrammar fun g => Eff.Within.ite ((Within.refl s).wx hC ..) ?_
  split
  · trivial
  · exact ((Within.refl s).wx hC ..).updCore ..

/-! ## Yard tables, contexts and mailboxes (R85 to R124) -/

theorem effWithin_yardWe (f : RR) : (effYardWe f s).Within W C s :=
  Eff.Within.ite trivial (effWithin_counted (((Within.refl s).pushOp hC ..).updMe hC _))
theorem effWithin_yardWf (f : RR) : (effYardWf f s).Within W C s :=
  Eff.Within.ite trivial (effWithin_counted (((Within.refl s).pushOp hC ..).updMe hC _))
theorem effWithin_yardRd (f : RR) : (effYardRd f s).Within W C s :=
  Eff.Within.ite trivial (effWithin_stallUnless (Eff.Within.ite (within_containEvent ..) ((Within.refl s).wx hC ..)))
theorem effWithin_yardPin (f : RR) : (effYardPin f s).Within W C s :=
  Eff.Within.ite trivial (Eff.Within.ite trivial ((((Within.refl s).updMe hC _).trans (within_dropRetained ..)).wx hC ..))
theorem effWithin_yardUnpin (f : RR) : (effYardUnpin f s).Within W C s :=
  Eff.Within.ite trivial (((Within.refl s).updMe hC _).trans (within_dropRetained ..))
theorem effWithin_yardGen (f : RR) : (effYardGen f s).Within W C s := Eff.Within.ite trivial ((Within.refl s).wx hC ..)
omit hC in
theorem within_stopCtx (s : State) (k : Nat) (reason : BitVec 3) : Within W C s (s.stopCtx k reason) := by
  unfold State.stopCtx
  split
  · exact within_exitCtx ..
  · exact within_exitCtx ..
  · exact (within_unsleep ..).trans (within_exitCtx ..)
  · exact within_exitCtx ..
  · exact .refl s
omit hC in
theorem effWithin_stop (f : RR) : (effStop f s).Within W C s :=
  Eff.Within.ite trivial (Eff.Within.ite trivial (Eff.Within.ite (Within.refl s) (within_stopCtx ..)))
theorem effWithin_send (i : Instr) (f : XF) (data : Quad) : (sendEff i f data s).Within W C s := by
  unfold sendEff
  dsimp only
  split
  · trivial
  · exact effWithin_counted (((Within.refl s).updMe hC _).trans (within_post ..))
theorem Within.takeRegs {t : State} (h : Within W C s t) (f : RR) (m : Mailbox) : Within W C s (takeRegs f m t) := by
  refine .ite ?_ ((h.wx hC ..).wx hC ..)
  exact (h.wx hC ..).trans (.of_same rfl rfl rfl rfl)
theorem effWithin_mtake (f : RR) : (effMtake f s).Within W C s :=
  effWithin_holdUnless ((((Within.refl s).updCore ..).updMe hC _).tickNext.takeRegs hC f _)
theorem effWithin_mpeek (f : RR) : (effMpeek f s).Within W C s :=
  effWithin_holdUnless (((Within.refl s).updMe hC _).tickNext.takeRegs hC f _)
theorem effWithin_clkRd (f : RR) : (effClkRd f s).Within W C s := Eff.Within.ite trivial ((Within.refl s).wx hC ..)
theorem effWithin_clkReq (f : RR) : (effClkReq f s).Within W C s :=
  Eff.Within.ite trivial ((((Within.refl s).updGang ..).trans (within_askEvaluate _)).wx hC ..)
theorem effWithin_clkAck (f : RR) : (effClkAck f s).Within W C s :=
  Eff.Within.ite trivial (((Within.refl s).updMe hC _).wx hC ..)
theorem effWithin_pwrRd (f : RR) : (effPwrRd f s).Within W C s := Eff.Within.ite trivial ((Within.refl s).wx hC ..)

/-! ## System registers, traps and invalidation (R343 to R354, R365) -/

theorem effWithin_srd (f : SF) : (effSrd f s).Within W C s := by
  unfold effSrd
  split
  · exact (Within.refl s).wx hC ..
  · trivial
theorem effWithin_swrCodeBounds (f : SF) : (effSwrCodeBounds f s).Within W C s :=
  Eff.Within.ite trivial (Eff.Within.ite trivial ((Within.refl s).updMe hC _))
omit hC in
theorem bothWithin_trapReturn (s : State) (k : Nat) : BothWithin W C s (s.trapReturn k) := by
  have fetched := within_fetch (W := W) (C := C) s (coreOfCtx k) (pcBlock (s.ctx k).tpc)
  unfold State.trapReturn
  dsimp only
  have back (f : Core → Core) (i : Nat) (m : Mode) (h : Word) : Within W C s
      (((s.fetch (coreOfCtx k) (pcBlock (s.ctx k).tpc)).2.updCore (coreOfCtx k) f).updCtx k fun c =>
        { c.entered with pc := mkPc i (pcBlock (s.ctx k).tpc), hdr := h, mode := m }) :=
    (fetched.updCore ..).trans (within_updCtx _ (.inr fun _ => by rfl))
  split
  · exact .refl s
  · split
    · exact fetched
    · split
      · exact fetched
      · split
        · exact back ..
        · split
          · split <;> exact back ..
          · exact back ..
omit hC in
theorem effWithin_eret (f : RR) : (effEret f s).Within W C s := by
  refine Eff.Within.ite trivial ?_
  have returned := bothWithin_trapReturn (W := W) (C := C) s s.cur
  split
  · next t ht => rw [ht] at returned; exact returned
  · trivial
theorem effWithin_eccInj (f : RR) : (effEccInj f s).Within W C s := by
  refine Eff.Within.ite trivial (Eff.Within.ite trivial (Eff.Within.ite ((Within.refl s).updMe hC _) ?_))
  exact effWithin_counted (effWithin_aligned (effWithin_withHit (.refl s) fun _ h => (h.pushOp hC ..).updMe hC _))
omit hC in
theorem effWithin_icinv (f : MF) : (effIcinv f s).Within W C s := by
  unfold effIcinv
  dsimp only
  split
  · exact Within.refl s
  · exact Within.of_same rfl rfl rfl rfl
end
end Sys2Proof.Machine

/-! SUPPORT. What reads at issue, merges and the writes of `st.ef` and `coll.wait` leave unchanged (R279, R281, R306, R317, R323). -/
namespace Sys2Proof.Machine

/-! ## Lines that a read moves (R275, R279, R281, R282) -/

/-- No byte is kept. -/
def anyByte (_ _ : Nat) : Prop := True

section
variable {W : Nat → Nat → Prop} {C : Nat → Prop}

theorem within_onlyMemory {s t : State} (h : OnlyMemory s t) : Within anyByte C s t := by
  have hcur := congrArg State.cur h
  have hctxs := congrArg State.ctxs h
  exact ⟨h.now, hcur, fun _ _ hW => absurd trivial hW, fun k _ => by rw [State.ctx, State.ctx, show t.ctxs = s.ctxs from hctxs]⟩
theorem onlyMemory_copyTakes (s : State) (id : Nat) (mirror : Bool) : OnlyMemory s (s.copyTakes id mirror) := by
  unfold State.copyTakes
  split
  · exact .refl s
  · dsimp only
    split
    · exact .refl s
    · split <;> rfl
theorem onlyMemory_durable (s : State) (id : Nat) (mirror : Bool) : OnlyMemory s (s.durable id mirror) := by
  unfold State.durable
  split
  · exact .refl s
  · split
    · exact .refl s
    · exact onlyMemory_copyTakes ..
theorem within_durableLine (s : State) (line : Nat) : Within anyByte C s (s.durableLine line) :=
  .foldl (fun t i => within_onlyMemory ((onlyMemory_durable t i false).trans (onlyMemory_durable ..))) s _
theorem within_mergeLine (s : State) (line : Nat) : Within anyByte C s (s.mergeLine line) := within_onlyMemory (onlyMemory_mergeLine ..)
theorem within_setL2 (s : State) (q : Nat) (t : Table L2Line) : Within W C s (s.setL2 q t) := .of_same rfl rfl rfl rfl
theorem within_updL2 (s : State) (q line : Nat) (f : L2Line → L2Line) : Within W C s (s.updL2 q line f) := by
  unfold State.updL2
  split
  · exact within_setL2 ..
  · exact .refl s
theorem within_evictL2 (s : State) (q line : Nat) : Within anyByte C s (s.evictL2 q line) := by
  unfold State.evictL2
  dsimp only
  generalize hs1 : (s.l1Holders q line).foldl _ s = s1
  have dropped : Within anyByte C s s1 := by rw [← hs1]; exact .foldl (fun _ _ => within_evictL1 ..) s _
  split
  · exact dropped
  · refine dropped.trans (.trans ?_ (within_setL2 ..))
    exact .ite (within_mergeLine ..) (.ite (within_durableLine ..) (.refl s1))
theorem within_roomL2 (s : State) (q d : Nat) : Within anyByte C s (s.roomL2 q d) := by
  unfold State.roomL2
  refine .ite (.refl s) ?_
  split
  · exact (within_evictL2 ..).trans (.of_same rfl rfl rfl rfl)
  · exact .refl s
theorem within_fillL2 (s : State) (q line : Nat) (st : L2State) (low : Bool) : Within anyByte C s (s.fillL2 q line st low) := by
  unfold State.fillL2
  split
  · exact within_setL2 ..
  · exact (within_roomL2 ..).trans (within_setL2 ..)
theorem within_fillL1 (s : State) (core line : Nat) (st : L1State) (low : Bool) : Within anyByte C s (s.fillL1 core line st low) := by
  unfold State.fillL1
  refine .trans (.ite (.refl s) ?_) (within_updCore ..)
  split
  · exact (within_evictL1 ..).trans (.of_same rfl rfl rfl rfl)
  · exact .refl s
theorem within_markL1 (s : State) (core line : Nat) (st : L1State) : Within W C s (s.markL1 core line st) := .of_same rfl rfl rfl rfl
theorem within_shareL1 (s : State) (core line : Nat) : Within anyByte C s (s.shareL1 core line) := by
  unfold State.shareL1
  split
  · exact .refl s
  · exact (within_markL1 s core line .s).trans (within_updL2 ..)
theorem within_lineRead (s : State) (core loc : Nat) (hint : BitVec 2) : Within anyByte C s (s.lineRead core loc hint) := by
  unfold State.lineRead
  refine .ite (.refl s) (.ite (.ite (.refl s) (.ite ?level2 ?both)) ?shared)
  case level2 => exact (within_fillL2 ..).trans (within_updL2 ..)
  case both => exact ((within_fillL2 ..).trans (within_updL2 ..)).trans (within_fillL1 ..)
  case shared => exact (Within.trans (.foldl (fun _ _ => within_shareL1 ..) s _) (within_updL2 ..)).trans (within_fillL1 ..)

/-! ## Reads at issue (R317) -/

/-- A step that reads: it changes no byte but of doublewords with a partial, and partials only go. -/
structure Reads (C : Nat → Prop) (s t : State) : Prop where
  frame : Within anyByte C s t
  bytes : ∀ q a, ¬s.PartialAt a → t.byteQ q a = s.byteQ q a
  partials : ∀ b, t.hasPartial b = true → s.hasPartial b = true

theorem Reads.trans {s t u : State} (hst : Reads C s t) (htu : Reads C t u) : Reads C s u where
  frame := hst.frame.trans htu.frame
  bytes q a h := by
    refine (htu.bytes q a fun ⟨b, hlo, hhi, hb⟩ => h ⟨b, hlo, hhi, hst.partials b hb⟩).trans (hst.bytes q a h)
  partials b hb := hst.partials b (htu.partials b hb)
theorem Reads.of_moves {n : Nat} {s t : State} (hf : Within anyByte C s t) (h : Moves n s t) : Reads C s t :=
  ⟨hf, fun q a hp => h.bytes q a fun hb => hp hb.1, h.partials⟩
theorem Reads.refl (s : State) : Reads C s s := .of_moves (.refl s) (.refl s)
theorem Reads.within {s t : State} (h : Reads C s t) (hW : ∀ q a, s.PartialAt a → W q a) : Within W C s t :=
  ⟨h.frame.now, h.frame.cur, fun q a hn => h.bytes q a fun hp => hn (hW q a hp), h.frame.files⟩
theorem reads_translate {s : State} {k : Nat} {va : Word} {wr : Bool} {g : Hit} (ht : s.translate k va wr = .ok g) : Reads C s g.st :=
  .of_moves (within_translate ht) (moves_translate ht)
theorem reads_mergeLine (s : State) (line : Nat) : Reads C s (s.mergeLine line) := by
  obtain ⟨bytes, partials, -, -⟩ := mergeLine_moves s line
  exact ⟨within_mergeLine .., bytes, partials⟩
theorem reads_lineRead (s : State) (core loc : Nat) (hint : BitVec 2) : Reads C s (s.lineRead core loc hint) :=
  .of_moves (within_lineRead ..) (moves_lineRead ..)
theorem reads_correct (s : State) (loc : Nat) : Reads C s (s.correct loc) := .of_moves (within_correct ..) (moves_correct ..)
theorem reads_correctRange (s : State) (lo hi : Nat) : Reads C s (s.correctRange lo hi) :=
  List.foldlRecOn _ _ (motive := Reads C s) (.refl s) fun _ ht _ _ => ht.trans (reads_correct ..)

/-- The state of a read that goes on, or that has met poison. -/
def Sync.Reads (C : Nat → Prop) (s : State) : Sync → Prop
  | .ok _ t | .poisoned t => Machine.Reads C s t
  | _ => True

theorem Sync.Reads.cons {s : State} {r : Sync} (h : r.Reads C s) (w : Word) : (r.cons w).Reads C s := by
  cases r with
  | ok ws t => exact h
  | _ => exact h
theorem Sync.Reads.narrow {s : State} {r : Sync} (h : r.Reads C s) (va : Word) (f : Word → Word) : (r.narrow va f).Reads C s := by
  cases r with
  | ok ws t => rcases ws with _ | ⟨w, _ | _⟩ <;> exact h
  | _ => exact h

theorem reads_syncPart (k : Nat) (need : BitVec 8) (n : Nat) {s u : State} (h : Reads C s u) (va : Word) :
    (u.syncPart k need va n).Reads C s := by
  induction n generalizing u va with
  | zero => exact h
  | succ n ih =>
    rw [State.syncPart]
    split
    · split <;> trivial
    · next g ht =>
      have hit : Reads C s g.st := h.trans (reads_translate ht)
      dsimp only
      split
      · trivial
      · split
        · exact hit
        · refine (ih (hit.trans (.of_moves ?_ (moves_dwordRead ..))) _).cons _
          exact ((within_see ..).trans (within_lineRead ..)).trans ((within_correct ..).trans (within_tickNext _))
theorem reads_syncLoad {s u : State} (h : Reads C s u) (k : Nat) (va : Word) (n : Nat) : (u.syncLoad k va n).Reads C s :=
  reads_syncPart k _ n h va
theorem reads_syncByte {s u : State} (h : Reads C s u) (k : Nat) (va : Word) : (u.syncByte k va).Reads C s :=
  (reads_syncPart k _ 1 h _).narrow va _
theorem reads_syncHalf {s u : State} (h : Reads C s u) (k : Nat) (va : Word) : (u.syncHalf k va).Reads C s :=
  (reads_syncPart k _ 1 h _).narrow va _

theorem Eff.Within.after {s t : State} {e : Eff} (h : e.Within W C s) : (e.after t).Within W C s := by
  cases e with
  | trap | fault => trivial
  | _ => exact h
theorem effWithin_bind {s u : State} {r : Sync} {k : List Word → State → Eff} (hu : Within W C s u) (hr : r.Reads C s)
    (hW : ∀ q a, s.PartialAt a → W q a) (hk : ∀ ws t, Reads C s t → (k ws t).Within W C s) : (Sync.bind u r k).Within W C s := by
  cases r with
  | ok ws t => exact (hk ws t hr).after
  | wait t => exact hu.trans (within_withWalks ..)
  | fault => trivial
  | poisoned t => exact (Reads.within hr hW).contain ..
end
end Sys2Proof.Machine

/-! SUPPORT. At issue only `st.ef`, `coll.wait` with a result, merges and starts reach past the executing context (R113, R306, R317, R323). -/
namespace Sys2Proof.Machine

section
variable {W : Nat → Nat → Prop} {C : Nat → Prop} {s : State} (hC : C s.cur)

/-! ## Instructions that read at their issue -/

theorem reads_loadChunk {u : State} (h : Reads C s u) (g : Grammar) (q : Nat) : (u.loadChunk g q).1.Reads C s := by
  unfold State.loadChunk
  dsimp only
  split
  · exact h
  · have read := reads_syncLoad h u.cur (g.masktab + BitVec.ofNat 64 (64 * (g.state * chunks g.vocab + q))) 8
    split
    · next ht => rw [ht] at read; exact read
    · exact read
theorem reads_loadChunks {u : State} (h : Reads C s u) (g : Grammar) (q n : Nat) : (u.loadChunks g q n).1.Reads C s := by
  induction n generalizing u g q with
  | zero => exact h
  | succ n ih =>
    have first := reads_loadChunk h g q
    rw [State.loadChunks]
    split
    · next ht => rw [ht] at first; exact ih first ..
    · next ht => rw [ht] at first; exact first

section
variable (hW : ∀ q a, s.PartialAt a → W q a)
include hC hW

omit hC in
theorem effWithin_pref (f : MF) : (prefEff f s).Within W C s := by
  unfold prefEff
  split
  · exact Eff.Within.ite (within_missOf ..) (Within.refl s)
  · next g ht =>
    have hit : Reads C s g.st := reads_translate ht
    exact Within.ite (hit.within hW)
      (Reads.within (((hit.trans (reads_mergeLine ..)).trans (reads_lineRead ..)).trans (reads_correctRange ..)) hW)
theorem effWithin_engine (func : Nat) (i : Instr) (f : RR) : (engineRun func i f s).Within W C s := by
  refine effWithin_counted (effWithin_aligned (effWithin_bind (.refl s) (reads_syncLoad (.refl s) ..) hW fun ws t h => ?_))
  refine Eff.Within.ite trivial ?_
  split
  · trivial
  · exact (((h.within hW).trans (within_updOrd _ rfl)).updMe hC _).tickNext
omit hC hW in
theorem within_joinColl (s : State) (addr : Word) (ws : List Word) (h : Nat) : Within W C s (joinColl s addr ws h) :=
  .of_same rfl rfl rfl rfl
theorem effWithin_collStart (f : RR) : (effCollStart f s).Within W C s := by
  refine effWithin_counted (effWithin_aligned (effWithin_bind (.refl s) (reads_syncLoad (.refl s) ..) hW fun ws t h => ?_))
  refine Eff.Within.ite trivial ?_
  split
  · exact within_readBy s t
  · exact (((h.within hW).trans (within_joinColl ..)).wx hC ..).updMe hC _
omit hC in
theorem effWithin_buoySeal (f : RR) : (effBuoySeal f s).Within W C s := by
  refine Eff.Within.ite trivial ?_
  unfold withHit
  split
  · exact Eff.Within.ite (within_missOf ..) trivial
  · next g ht =>
    have hit : Reads C s g.st := reads_translate ht
    refine Eff.Within.ite trivial (Eff.Within.ite trivial ?_)
    refine effWithin_bind (hit.within hW) (reads_syncLoad hit ..) hW fun ws t h => ?_
    split
    · trivial
    · exact h.within hW
omit hC in
theorem effWithin_cbkLd (f : RR) : (effCbkLd f s).Within W C s :=
  Eff.Within.ite trivial (Eff.Within.ite trivial (effWithin_bind (.refl s) (reads_syncLoad (.refl s) ..) hW fun _ _ h =>
    (h.within hW).updShed ..))
theorem effWithin_gmCfg (f : RR) : (effGmCfg f s).Within W C s :=
  Eff.Within.ite trivial (effWithin_bind (.refl s) (reads_syncLoad (.refl s) ..) hW fun _ _ h =>
    Eff.Within.ite (((h.within hW).updCore ..).updMe hC _) trivial)
theorem effWithin_gmStep (f : RR) : (effGmStep f s).Within W C s := by
  refine effWithin_withGrammar fun g => Eff.Within.ite trivial ?_
  refine effWithin_bind (.refl s) (reads_syncByte (.refl s) ..) hW fun cs u hu => Eff.Within.ite trivial ?_
  refine effWithin_bind (.refl s) (reads_syncHalf hu ..) hW fun es v hv => Eff.Within.ite trivial ?_
  split
  · trivial
  · exact (((hv.within hW).updCore ..).updMe hC _).wx hC ..
theorem effWithin_gmMask (f : RR) : (effGmMask f s).Within W C s := by
  refine effWithin_withGrammar fun g => Eff.Within.ite trivial (effWithin_bind (.refl s) (reads_loadChunk (.refl s) ..) hW fun ws t h => ?_)
  exact Within.trans ((h.within hW).updCore ..) (List.foldlRecOn _ _ (.refl _) fun _ hu _ _ => hu.wv (h.frame.mine hC) ..)
theorem effWithin_gmForce (f : RR) : (effGmForce f s).Within W C s := by
  refine effWithin_withGrammar fun g => effWithin_bind (.refl s) (reads_loadChunks (.refl s) ..) hW fun ws t h => ?_
  exact (((h.within hW).updCore ..).updMe hC _).wx hC ..
end

/-! ## `st.ef` (R306) -/

/-- Every byte but those of one doubleword in one quarter. -/
def bytesOf (q loc : Nat) (p a : Nat) : Prop := p % 4 = q % 4 ∧ loc ≤ a ∧ a < loc + 8

theorem within_perform (s : State) (who id q loc : Nat) (mask : BitVec 8) (val : Word) (tag : Option Bool) (rel : Option (List Nat))
    (atom merged bad : Bool) : Within (bytesOf q loc) C s (s.perform who id q loc mask val tag rel atom merged bad) := by
  have frame : Within anyByte C s (s.perform who id q loc mask val tag rel atom merged bad) := within_onlyMemory (onlyMemory_perform ..)
  refine ⟨frame.now, frame.cur, fun p a h => ?_, frame.files⟩
  refine (sameBytes_of_mem (perform_mem ..) p a).trans ?_
  rw [State.byteQ, State.byteQ]
  by_cases hp : p % 4 = q % 4
  · have same (u : State) : u.memQ p = u.memQ q := by simp only [State.memQ, hp]
    rw [same, same, State.memQ_setMemQ_self, Memory.get_setDword_out]
    by_contra inside
    exact h ⟨hp, by omega, by omega⟩
  · rw [State.memQ_setMemQ_ne _ _ hp]
omit hC in
theorem effWithin_fill (i : Instr) (f : MF) :
    (fillEff i f s).Within (bytesOf s.myQtr (padLoc s.myShed ((MF.ea f s).toNat - Config.padWindow))) C s :=
  effWithin_tagged (effWithin_holdUnless ((within_tickNext s).trans (within_perform ..)))

/-! ## `coll.wait` (R323) -/

theorem within_writeElems (core k : Nat) (asked : State → Nat → Nat → Bool) (vs : List (BitVec 32)) {s t : State} {va : Word} {ids : List Nat}
    (h : s.writeElems core k asked va vs = .ok (t, ids)) : Within anyByte C s t := by
  induction vs generalizing s va t ids with
  | nil => cases h; exact .refl s
  | cons v vs ih =>
    rw [State.writeElems] at h
    split at h
    · cases h
    · next g ht =>
      have hit : Within anyByte C s g.st := within_translate ht
      dsimp only at h
      split at h
      · cases h
      · split at h
        · exact hit.trans (ih h)
        · split at h
          · cases h
          · split at h
            · cases h
            · next u more hrest =>
              cases h
              refine hit.trans (.trans ?_ (ih hrest))
              exact within_onlyMemory ((onlyMemory_encrypt ..).trans ((onlyMemory_tickNext _).trans (onlyMemory_perform ..)))
/-- The result of a collective is there to be taken: it has completed whole. -/
def takesResult (f : RR) (s : State) : Prop :=
  ∃ hd cl, (s.core s.myCore).handles.get? (s.rx f.a).toNat = some hd ∧ s.ord.colls.get? hd.coll = some cl ∧ cl.done = some 0
theorem Within.everywhere {s t : State} (h : Within anyByte C s t) (hW : ∀ q a, W q a) : Within W C s t :=
  ⟨h.now, h.cur, fun q a hn => absurd (hW q a) hn, h.files⟩
theorem within_waitFor (s : State) (k : Nat) (e : TErr) : Within W C s (s.waitFor k e) := by
  unfold State.waitFor
  split
  · exact within_missOf ..
  · exact .refl s
theorem within_updColl (s : State) (id : Nat) (f : Coll → Coll) : Within W C s (s.updColl id f) :=
  within_updOrd s (by split <;> rfl)
include hC in
theorem effWithin_collWait (f : RR) (hW : takesResult f s → ∀ q a, W q a) : (effCollWait f s).Within W C s := by
  unfold effCollWait
  extract_lets xa core q
  split
  · trivial
  · next hd hhd =>
    split
    · trivial
    · next cl hcl =>
      have handle : (s.core s.myCore).handles.get? (s.rx f.a).toNat = some hd := by
        split at hhd
        · exact hhd
        · cases hhd
      extract_lets j drain count s1 mine
      refine Eff.Within.ite (Within.refl s) ?_
      have joined : Within W C s s1 := .ite (within_updColl ..) (.refl s)
      clear_value s1
      split
      · exact joined
      · next st hdone =>
        extract_lets ends
        have ended {t : State} (h : Within W C s t) : (ends t).Within W C s := by
          have freed : Within W C s ((t.updCore s.myCore fun c => { c with handles := c.handles.del xa.toNat }).wx f.d st) :=
            (h.updCore ..).wx hC ..
          show Within W C s _
          split
          · exact freed.trans (within_updCtx _ (.inr file_decCp))
          · exact freed
        refine Eff.Within.ite trivial ?_
        split
        · exact ended joined
        · next v hv =>
          have whole : st = 0 := by
            by_contra hne
            rw [if_neg hne] at hv
            cases hv
          extract_lets asked
          split
          · trivial
          · exact joined.trans (within_waitFor ..)
          · next t ids hw =>
            have written : Within W C s t :=
              joined.trans ((within_writeElems _ _ _ _ hw).everywhere (hW ⟨hd, cl, handle, hcl, whole ▸ hdone⟩))
            exact Eff.Within.ite joined (ended (written.updMe hC _).tickNext)

/-! ## `start` and `start.try` (R113 to R115) -/

theorem coreOfCtx_mul_add {c n : Nat} (h : n ≤ 10) : coreOfCtx (11 * c + n) = c := by unfold coreOfCtx; omega
theorem helperFor_le {t : State} {help n : Nat} (h : t.helperFor help = some n) (hle : help ≤ 10) : n ≤ 10 := by
  unfold State.helperFor at h
  split at h
  · obtain ⟨i, hi, hn⟩ := List.exists_of_findSome?_eq_some h
    split at hn
    · cases hn; have := List.mem_range.mp hi; omega
    · cases hn
  · split at h
    · cases h; exact hle
    · cases h
theorem descHelp_le {w : Word} (h : ¬(!descOkStart w) = true) : descHelp w ≤ 10 := by
  simp only [descOkStart, Bool.not_eq_true', Bool.not_eq_false, Bool.and_eq_true, decide_eq_true_eq] at h
  exact h.1.1
theorem within_setCtx (s : State) {k : Nat} (c : Ctx) (h : C k) : Within W C s (s.setCtx k c) := within_updCtx s (f := fun _ => c) (.inl h)
theorem within_uncount (s : State) (k : Nat) : Within W C s (s.uncount k) := .foldl (fun _ _ => within_updCore ..) s _
theorem effWithin_start (i : Instr) (tries : Bool) (f : RR) (hcore : ∀ k, coreOfCtx k = s.myCore → C k) :
    (startEff i tries f s).Within W C s := by
  have hC : C s.cur := hcore _ rfl
  unfold startEff
  dsimp only
  split
  · trivial
  · split
    · trivial
    · next hdesc =>
      have fetched := within_fetch (W := W) (C := C) s s.myCore (s.rx f.b).toNat
      refine Eff.Within.ite trivial (Eff.Within.ite trivial (Eff.Within.ite trivial ?_))
      generalize (s.fetch s.myCore (s.rx f.b).toNat).2 = s1 at fetched ⊢
      split
      · exact Eff.Within.ite (fetched.wx hC ..) fetched
      · next n hn =>
        have core : coreOfCtx (11 * s1.myCore + n) = s.myCore :=
          (coreOfCtx_mul_add (helperFor_le hn (descHelp_le hdesc))).trans (congrArg coreOfCtx fetched.cur)
        exact ((fetched.trans (within_uncount ..)).trans (within_setCtx _ _ (hcore _ core))).wx hC ..
end
end Sys2Proof.Machine

/-! SUPPORT. What each instruction word may change of memory and of other contexts at its issue (R85, R284, R286, R288, R306, R323). -/
namespace Sys2Proof.Machine

/-- The bytes that an instruction may change at its issue: `st.ef` its doubleword, `coll.wait` any where it takes a result, and an instruction
that reads at issue those of doublewords with a partial. -/
def Instr.writesAtIssue (s : State) (i : Instr) (q a : Nat) : Prop :=
  match i with
  | .stEf f => bytesOf s.myQtr (padLoc s.myShed ((MF.ea f s).toNat - Config.padWindow)) q a
  | .collWait f => takesResult f s
  | i => Instr.readsAtIssue i = true ∧ s.PartialAt a
/-- The contexts whose registers an instruction may change: its own, and for a start those of its core. -/
def Instr.reaches (s : State) (i : Instr) (k : Nat) : Prop :=
  match i with
  | .start _ | .startTry _ => coreOfCtx k = s.myCore
  | _ => k = s.cur

theorem reaches_cur (s : State) (i : Instr) : Instr.reaches s i s.cur := by unfold Instr.reaches; split <;> rfl

/-- The step of an instruction is within limits. -/
def Instr.Stays (W : Nat → Nat → Prop) (C : Nat → Prop) (i : Instr) (s : State) : Prop := ∀ t, exec i s = .next t → Within W C s t

section
variable {W : Nat → Nat → Prop} {C : Nat → Prop} {i : Instr} {s : State} {eff : State → Eff}

theorem rx_unchecked (s : State) (r : BitVec 5) : s.unchecked.rx r = s.rx r := by
  rw [State.rx, State.rx, State.unchecked, State.me_updMe]
  rfl
theorem ea_unchecked (f : MF) (s : State) : MF.ea f s.unchecked = MF.ea f s := by rw [MF.ea, MF.ea, rx_unchecked]
theorem takesResult_unchecked {f : RR} : takesResult f s.unchecked ↔ takesResult f s := by
  rw [takesResult, takesResult, rx_unchecked]
  exact Iff.rfl
theorem stays_of_both (hexec : exec i s = .next (s.issue i eff)) (hC : C s.cur) (h : (eff s).Within W C s)
    (h' : (eff s.unchecked).Within W C s.unchecked) : Instr.Stays W C i s := by
  intro t ht
  cases hexec.symm.trans ht
  exact within_issue hC h h'
/-- An effect that is within the limits in every state. -/
theorem stays_of_eff (hexec : exec i s = .next (s.issue i eff)) (hC : C s.cur) (h : ∀ u, C u.cur → (eff u).Within W C u) :
    Instr.Stays W C i s := stays_of_both hexec hC (h s hC) (h s.unchecked hC)
/-- An effect that reads at its issue. -/
theorem stays_of_reads (hexec : exec i s = .next (s.issue i eff)) (hC : C s.cur) (hW : ∀ q a, s.PartialAt a → W q a)
    (h : ∀ u, C u.cur → (∀ q a, u.PartialAt a → W q a) → (eff u).Within W C u) : Instr.Stays W C i s :=
  stays_of_both hexec hC (h s hC hW) (h s.unchecked hC hW)

theorem effWithin_fill_unchecked (f : MF) :
    (fillEff (.stEf f) f s.unchecked).Within (bytesOf s.myQtr (padLoc s.myShed ((MF.ea f s).toNat - Config.padWindow))) C s.unchecked := by
  have h := effWithin_fill (C := C) (s := s.unchecked) (.stEf f) f
  rw [ea_unchecked] at h
  exact h
end

/-- Every instruction word stays within what it may write and reach. -/
theorem stays_of_isWord {i : Instr} (hi : Instr.isWord i = true) (s : State) :
    Instr.Stays (Instr.writesAtIssue s i) (Instr.reaches s i) i s := by
  have hC := reaches_cur s i
  cases i with
  -- Registers alone.
  | add f | sub f | mul f | mulh f | div f | rem f | and f | or f | xor f | andn f | shl f | shr f | sra f | rol f | min f | max f | abs f
  | neg f | clz f | ctz f | popc f => exact stays_of_eff rfl hC fun _ hu => effWithin_int hu ..
  | bfx f | bfi f | lea f | mov f | csel f | setc f | addi f | andi f | ori f | xori f | li f | lih f | shli f | shri f | srai f
  | fclass f => exact stays_of_eff rfl hC fun _ hu => effWithin_wx hu ..
  | cmp f | cmpi f | fcmp f => exact stays_of_eff rfl hC fun _ hu => effWithin_wc hu ..
  | decz f => exact stays_of_eff rfl hC fun _ hu => effWithin_decz hu f
  | fadd f | fsub f | fmul f | fdiv f | fsqrt f | fma f => exact stays_of_eff rfl hC fun _ hu => effWithin_float hu ..
  | fmin f | fmax f | fabs f | fneg f => exact stays_of_eff rfl hC fun _ hu => effWithin_enc hu ..
  | fcvt f | ftoi f | itof f => exact stays_of_eff rfl hC fun _ hu => effWithin_cvt hu f
  -- Vectors and masks.
  | vadd f | vsub f | vmul f | vfma f | vmin f | vmax f | vabs f | vneg f | vdiv f | vsqrt f =>
    exact stays_of_eff rfl hC fun _ hu => effWithin_recorded (effWithin_lanewise hu ..)
  | vmulh f | vand f | vor f | vxor f | vandn f | vshl f | vshr f | vsra f =>
    exact stays_of_eff rfl hC fun _ hu => effWithin_recorded (effWithin_lanewiseInt hu ..)
  | vzip f => exact stays_of_eff rfl hC fun _ hu => effWithin_recorded (effWithin_vzip hu f)
  | vunzip f => exact stays_of_eff rfl hC fun _ hu => effWithin_recorded (effWithin_vunzip hu f)
  | vsel f | vperm f | vlut16 f | vbcast f =>
    exact stays_of_eff rfl hC fun _ hu => effWithin_recorded (effWithin_vmove hu ..)
  | vcvt f => exact stays_of_eff rfl hC fun _ hu => effWithin_recorded (effWithin_vcvt hu f)
  | vdot4 f | vdot2 f => exact stays_of_eff rfl hC fun _ hu => effWithin_recorded (effWithin_dot hu ..)
  | vcmp f => exact stays_of_eff rfl hC fun _ hu => effWithin_recorded (effWithin_vcmp hu f)
  | vins f => exact stays_of_eff rfl hC fun _ hu => effWithin_recorded (effWithin_vins hu f)
  | vext f => exact stays_of_eff rfl hC fun u hu => effWithin_recorded ((Within.refl u).wx hu ..)
  | vredAdd f | vredMax f | vredMin f => exact stays_of_eff rfl hC fun _ hu => effWithin_recorded (effWithin_red hu ..)
  | kand f | kor f | kxor f | knot f | kmov f | kset f => exact stays_of_eff rfl hC fun _ hu => effWithin_wk hu ..
  | kpop f | krd f | semRd f | ccntRd f | hlive f => exact stays_of_eff rfl hC fun u hu => (Within.refl u).wx hu ..
  | seqBeg f => exact stays_of_eff rfl hC fun _ _ => effWithin_seqBeg f
  | seqLoop f => exact stays_of_eff rfl hC fun _ _ => effWithin_seqLoop f
  | seqEnd f => exact stays_of_eff rfl hC fun u _ => Eff.Within.ite (Within.refl u) effWithin_setSeq
  | seqWait f => exact stays_of_eff rfl hC fun u _ => Eff.Within.ite (Within.refl u) (effWithin_holdUnless (Within.refl u))
  -- Accesses that become pending.
  | ld f | ldu f | ldAcq f => exact stays_of_eff rfl hC fun _ hu => effWithin_load hu ..
  | st f | stRel f => exact stays_of_eff rfl hC fun _ hu => effWithin_store hu ..
  | vld f => exact stays_of_eff rfl hC fun _ hu => effWithin_vld hu f
  | vldRaw f => exact stays_of_eff rfl hC fun _ hu => effWithin_vldRaw hu f
  | vst f => exact stays_of_eff rfl hC fun _ hu => effWithin_vst hu f
  | ldF f | ldFe f => exact stays_of_eff rfl hC fun _ hu => effWithin_consume hu ..
  | stF f => exact stays_of_eff rfl hC fun _ hu => effWithin_setFull hu f
  | tagSet f | tagClr f => exact stays_of_eff rfl hC fun _ hu => effWithin_tag hu ..
  | flush f | inv f => exact stays_of_eff rfl hC fun _ hu => effWithin_line hu ..
  | amoAdd f | amoAnd f | amoOr f | amoXor f | amoMin f | amoMax f | amoMinu f | amoMaxu f | amoSwap f | amoCas f =>
    exact stays_of_eff rfl hC fun _ hu => effWithin_amo hu ..
  | redAdd f | redAnd f | redOr f | redXor f | redMin f | redMax f | redMinu f | redMaxu f =>
    exact stays_of_eff rfl hC fun _ hu => effWithin_redRun hu ..
  -- Order, semaphores and units.
  | fence f | fenceAcq f | fenceRel f => exact stays_of_eff rfl hC fun _ hu => effWithin_fence hu ..
  | wait f => exact stays_of_eff rfl hC fun u _ => effWithin_holdUnless (Within.refl u)
  | waita f => exact stays_of_eff rfl hC fun _ hu => effWithin_waita hu f
  | semP f => exact stays_of_eff rfl hC fun _ hu => effWithin_semP hu f
  | semV f => exact stays_of_eff rfl hC fun _ hu => effWithin_semV hu f
  | bar f => exact stays_of_eff rfl hC fun _ hu => effWithin_bar hu f
  | ccntWait f => exact stays_of_eff rfl hC fun _ hu => effWithin_ccntWait hu f
  | buoy f => exact stays_of_eff rfl hC fun _ hu => effWithin_buoy hu f
  | lhSt f => exact stays_of_eff rfl hC fun _ hu => effWithin_lhSt hu f
  | tzero f | tmma f | gmma f | tdrain f | tdrainColl f => exact stays_of_eff rfl hC fun _ hu => effWithin_tile hu ..
  | zset f | zclr f => exact stays_of_eff rfl hC fun u _ => within_updCore u ..
  | cvtT f => exact stays_of_eff rfl hC fun _ hu => effWithin_cvtT hu f
  | amaxRd f => exact stays_of_eff rfl hC fun _ hu => effWithin_amaxRd hu f
  | amaxClr f => exact stays_of_eff rfl hC fun u hu => ((Within.refl u).wx hu ..).updCore ..
  | cbkRd f => exact stays_of_eff rfl hC fun u hu => Eff.Within.ite trivial ((Within.refl u).wx hu ..)
  | gmReset f => exact stays_of_eff rfl hC fun _ hu => effWithin_gmReset hu f
  | gmSt f => exact stays_of_eff rfl hC fun _ hu => effWithin_gmSt hu f
  -- Yard tables, contexts and mailboxes.
  | yardWe f => exact stays_of_eff rfl hC fun _ hu => effWithin_yardWe hu f
  | yardWf f => exact stays_of_eff rfl hC fun _ hu => effWithin_yardWf hu f
  | yardCmt f => exact stays_of_eff rfl hC fun u _ => Eff.Within.ite trivial (Within.refl u)
  | yardRd f => exact stays_of_eff rfl hC fun _ hu => effWithin_yardRd hu f
  | yardPin f => exact stays_of_eff rfl hC fun _ hu => effWithin_yardPin hu f
  | yardUnpin f => exact stays_of_eff rfl hC fun _ hu => effWithin_yardUnpin hu f
  | yardGen f => exact stays_of_eff rfl hC fun _ hu => effWithin_yardGen hu f
  | halt f => exact stays_of_eff rfl hC fun u _ => within_exitCtx u ..
  | yield f => exact stays_of_eff rfl hC fun u hu => (Within.refl u).updMe hu _
  | stop f => exact stays_of_eff rfl hC fun _ _ => effWithin_stop f
  | sendr f | sendrV f => exact stays_of_eff rfl hC fun _ hu => effWithin_send hu ..
  | mtake f => exact stays_of_eff rfl hC fun _ hu => effWithin_mtake hu f
  | mpeek f => exact stays_of_eff rfl hC fun _ hu => effWithin_mpeek hu f
  | mclr f => exact stays_of_eff rfl hC fun u _ => within_updCore u ..
  | clkRd f => exact stays_of_eff rfl hC fun _ hu => effWithin_clkRd hu f
  | clkReq f => exact stays_of_eff rfl hC fun _ hu => effWithin_clkReq hu f
  | clkAck f => exact stays_of_eff rfl hC fun _ hu => effWithin_clkAck hu f
  | pwrRd f => exact stays_of_eff rfl hC fun _ hu => effWithin_pwrRd hu f
  -- The system.
  | srd f => exact stays_of_eff rfl hC fun _ hu => effWithin_srd hu f
  | swr f => exact stays_of_eff rfl hC fun u hu => (Within.refl u).updMe hu _
  | swrCodeBounds f => exact stays_of_eff rfl hC fun _ hu => effWithin_swrCodeBounds hu f
  | eret f => exact stays_of_eff rfl hC fun _ _ => effWithin_eret f
  | eccInj f => exact stays_of_eff rfl hC fun _ hu => effWithin_eccInj hu f
  | icinv f => exact stays_of_eff rfl hC fun _ _ => effWithin_icinv f
  | tlbinv f => exact stays_of_eff rfl hC fun u _ => Eff.Within.ite trivial (Within.refl u)
  | trap f | unassignedEncoding w => exact stays_of_eff rfl hC fun _ _ => trivial
  -- Reads at issue.
  | pref f => exact stays_of_reads rfl hC (fun _ _ h => ⟨rfl, h⟩) fun _ _ hW => effWithin_pref hW f
  | copy f | copy2 f | get f | put f | puta f | wsig f | digest f =>
    exact stays_of_reads rfl hC (fun _ _ h => ⟨rfl, h⟩) fun _ hu hW => effWithin_engine hu hW ..
  | collStart f => exact stays_of_reads rfl hC (fun _ _ h => ⟨rfl, h⟩) fun _ hu hW => effWithin_collStart hu hW f
  | buoySeal f => exact stays_of_reads rfl hC (fun _ _ h => ⟨rfl, h⟩) fun _ _ hW => effWithin_buoySeal hW f
  | cbkLd f => exact stays_of_reads rfl hC (fun _ _ h => ⟨rfl, h⟩) fun _ _ hW => effWithin_cbkLd hW f
  | gmCfg f => exact stays_of_reads rfl hC (fun _ _ h => ⟨rfl, h⟩) fun _ hu hW => effWithin_gmCfg hu hW f
  | gmStep f => exact stays_of_reads rfl hC (fun _ _ h => ⟨rfl, h⟩) fun _ hu hW => effWithin_gmStep hu hW f
  | gmMask f => exact stays_of_reads rfl hC (fun _ _ h => ⟨rfl, h⟩) fun _ hu hW => effWithin_gmMask hu hW f
  | gmForce f => exact stays_of_reads rfl hC (fun _ _ h => ⟨rfl, h⟩) fun _ hu hW => effWithin_gmForce hu hW f
  -- What reaches further.
  | stEf f => exact stays_of_both rfl hC (effWithin_fill ..) (effWithin_fill_unchecked f)
  | collWait f =>
    exact stays_of_both rfl hC (effWithin_collWait hC f fun h _ _ => h)
      (effWithin_collWait (s := s.unchecked) hC f fun h _ _ => takesResult_unchecked.mp h)
  | start f | startTry f =>
    exact stays_of_both rfl hC (effWithin_start _ _ f fun _ hk => hk) (effWithin_start _ _ f fun _ hk => hk)
  | _ => exact absurd hi Bool.false_ne_true
end Sys2Proof.Machine

/-! SUPPORT. At issue an instruction reaches no byte and no context but those that its word names (R85, R284 to R288, R306, R323, R350, R361). -/
namespace Sys2Proof.Machine

section
variable {i : Instr} {s : State}

/-- What may be written at issue is of one of three kinds. -/
theorem writesAtIssue_cases {q a : Nat} (h : Instr.writesAtIssue s i q a) :
    (∃ f, i = .stEf f ∧ bytesOf s.myQtr (padLoc s.myShed ((MF.ea f s).toNat - Config.padWindow)) q a) ∨
    (∃ f, i = .collWait f ∧ takesResult f s) ∨ (Instr.readsAtIssue i = true ∧ s.PartialAt a) := by
  unfold Instr.writesAtIssue at h
  split at h
  · exact .inl ⟨_, rfl, h⟩
  · exact .inr (.inl ⟨_, rfl, h⟩)
  · exact .inr (.inr h)
/-- A byte with no partial of a doubleword that reaches it is none of those that a read at issue may merge. -/
theorem not_partialAt {a : Nat} (h : ∀ b, b ≤ a → a < b + 8 → s.hasPartial b = false) : ¬s.PartialAt a := by
  rintro ⟨b, hle, hlt, hp⟩
  exact Bool.false_ne_true ((h b hle hlt).symm.trans hp)
/-- Only a start reaches a context other than its own, and that one of its core. -/
theorem not_reaches {k : Nat} (hk : k ≠ s.cur) (h : (∀ f, i ≠ .start f ∧ i ≠ .startTry f) ∨ coreOfCtx k ≠ s.myCore) :
    ¬Instr.reaches s i k := by
  unfold Instr.reaches
  split
  next f => exact h.resolve_left fun hn => (hn f).1 rfl
  next f => exact h.resolve_left fun hn => (hn f).2 rfl
  next => exact hk
end

/-- Settles O60: at issue every instruction stays within the bytes and contexts of `Instr.writesAtIssue` and `Instr.reaches`. -/
theorem noInstructionReachesPastItsContextAtIssue : Obligations.NoInstructionReachesPastItsContextAtIssue := by
  intro i s t hi hexec takes
  obtain ⟨hnow, -, hbytes, hfiles⟩ := stays_of_isWord hi s t hexec
  have htakes : ∀ f, i = .collWait f → takesResult f s → takes := fun f e ⟨hd, cl, h⟩ => ⟨f, hd, cl, e, h⟩
  refine ⟨hnow, fun hst hno hreads q a => hbytes q a fun hw => ?_, fun hst hno q a hp => hbytes q a fun hw => ?_,
    fun f e p a hout => hbytes p a fun hw => ?_, fun k hk hstart => ?_⟩
  · obtain ⟨f, e, -⟩ | ⟨f, e, h⟩ | ⟨h, -⟩ := writesAtIssue_cases hw
    · exact hst f e
    · exact hno (htakes f e h)
    · exact Bool.false_ne_true (hreads.symm.trans h)
  · obtain ⟨f, e, -⟩ | ⟨f, e, h⟩ | ⟨-, h⟩ := writesAtIssue_cases hw
    · exact hst f e
    · exact hno (htakes f e h)
    · exact not_partialAt hp h
  · subst e
    obtain ⟨hq, hlo, hhi⟩ : bytesOf s.myQtr (padLoc s.myShed ((s.rx f.a + f.off.signExtend 64).toNat - Config.padWindow)) p a := hw
    omega
  · have h := hfiles k (not_reaches hk hstart)
    exact ⟨(congrArg Ctx.x h :), (congrArg Ctx.v h :), (congrArg Ctx.k h :), (congrArg Ctx.c h :), (congrArg Ctx.y0 h :),
      (congrArg Ctx.y1 h :),
      (congrArg Ctx.fstat h :), (congrArg Ctx.tcause h :), (congrArg Ctx.tval h :), (congrArg Ctx.tpc h :), (congrArg Ctx.tinfo h :),
      (congrArg Ctx.tyard h :)⟩
end Sys2Proof.Machine

/-! SUPPORT. The instructions of the yard tables, one by one (R88, R97, R98, R101, R103, R104). -/
namespace Sys2Proof.Machine

/-! ## Selectors (R103) -/

section
variable {w more mask : Word}

theorem selOk_of_zero (hmask : 0xFF00 ||| more = mask) (h : w &&& ~~~mask = 0) : selOk w more = true := by
  rw [selOk, hmask, h]
  rfl
theorem selOk_of_nonzero (hmask : 0xFF00 ||| more = mask) (h : w &&& ~~~mask ≠ 0) : selOk w more = false := by
  rw [selOk, hmask]
  exact decide_eq_false h
end

/-! ## Tables of a gang -/

theorem yard_setYard (g : Gang) (t : BitVec 8) (y : YardTable) : (g.setYard t y).yard t = y := Table.getD_put_self ..

/-- The end of a retained generation changes gangs alone. -/
theorem dropRetained_eq (s : State) (gang : Nat) (t : BitVec 8) :
    s.dropRetained gang t = { s with gangs := (s.dropRetained gang t).gangs } := by
  unfold State.dropRetained
  dsimp only
  split
  · split <;> rfl
  · rfl
theorem dropRetained_ctx (s : State) (gang : Nat) (t : BitVec 8) (k : Nat) : (s.dropRetained gang t).ctx k = s.ctx k := by
  rw [dropRetained_eq]
  rfl
theorem dropRetained_cur (s : State) (gang : Nat) (t : BitVec 8) : (s.dropRetained gang t).cur = s.cur := by
  rw [dropRetained_eq]
theorem dropRetained_me (s : State) (gang : Nat) (t : BitVec 8) : (s.dropRetained gang t).me = s.me := by
  rw [State.me, dropRetained_cur, dropRetained_ctx, State.me]
theorem me_wx (s : State) (r : BitVec 5) (w : Word) : (s.wx r w).me = s.me.wx r w := State.me_updMe ..

/-! ## Yard writes (R97) -/

section
variable {f : RR} {s : State} {eff : Eff}

theorem effYardWe_of_mask (h : s.rx f.d &&& ~~~0xFF3F = 0) (hst : s.me.st ≠ 255) :
    effYardWe f s = .done ((s.pushOp 0 0 (.yardEntry (selTable (s.rx f.d)) (selIndex (s.rx f.d)) (s.rx f.a) (s.rx f.b)
      (s.rx f.c))).updMe Ctx.incSt) := by
  rw [effYardWe, selOk_of_zero (by decide) h]
  exact counted_of_room hst
theorem effYardWe_outside (h : s.rx f.d &&& ~~~0xFF3F ≠ 0) : effYardWe f s = .trap 11 (s.rx f.d) 0 := by
  rw [effYardWe, selOk_of_nonzero (by decide) h]
  rfl
theorem effYardWf_of_mask (h : s.rx f.d &&& ~~~0xFF00 = 0) (hst : s.me.st ≠ 255) :
    effYardWf f s = .done ((s.pushOp 0 0 (.yardFallback (selTable (s.rx f.d)) (s.rx f.a))).updMe Ctx.incSt) := by
  rw [effYardWf, selOk_of_zero (by decide) h]
  exact counted_of_room hst
theorem effYardWf_outside (h : s.rx f.d &&& ~~~0xFF00 ≠ 0) : effYardWf f s = .trap 11 (s.rx f.d) 0 := by
  rw [effYardWf, selOk_of_nonzero (by decide) h]
  rfl

/-! ## Reads of a table (R104) -/

/-- The generation of a table that a selector names. -/
def readGen (s : State) (sel : Word) : YardGen :=
  let y := (s.gang s.myGang).yard (selTable sel)
  if selStg sel then y.staging else y.cur
/-- The word of it that is read, as its poison knows it: an entry, or 64 for the fallback. -/
def readWord (sel : Word) : Nat := if selWsel sel = 3 then 64 else (selIndex sel).toNat

section
variable (hok : selOk (s.rx f.a) (if selWsel (s.rx f.a) = 3 then 0xD00000 else 0xD0003F) = true)
include hok

theorem effYardRd_of_ok : effYardRd f s = stallUnless (!s.me.ops.any fun o => OpKind.yard o.kind) s
    (if (readGen s (s.rx f.a)).bad.contains (readWord (s.rx f.a)) then .contained (s.containEvent s.myCore 3)
      else .done (s.wx f.d ((readGen s (s.rx f.a)).word (selIndex (s.rx f.a)).toNat (selWsel (s.rx f.a))))) := by
  rw [effYardRd, hok]
  rfl
theorem effYardRd_busy (h : (s.me.ops.all fun o => !OpKind.yard o.kind) = false) : effYardRd f s = .stall s := by
  rw [effYardRd_of_ok hok, stallUnless, List.not_any_eq_all_not, h]
  rfl
theorem effYardRd_free (h : (s.me.ops.all fun o => !OpKind.yard o.kind) = true) : effYardRd f s =
    if (readGen s (s.rx f.a)).bad.contains (readWord (s.rx f.a)) then .contained (s.containEvent s.myCore 3)
    else .done (s.wx f.d ((readGen s (s.rx f.a)).word (selIndex (s.rx f.a)).toNat (selWsel (s.rx f.a)))) := by
  rw [effYardRd_of_ok hok, stallUnless, List.not_any_eq_all_not, h]
  rfl
end

/-! ## Pins (R88, R101) -/

/-- The pins on other tables than one. -/
def Ctx.otherPins (c : Ctx) (t : BitVec 8) : List Pin := c.pins.filter (·.table ≠ t)

theorem effYardPin_outside (h : s.rx f.a &&& ~~~0xFF00 ≠ 0) : effYardPin f s = .trap 11 (s.rx f.a) 0 := by
  rw [effYardPin, selOk_of_nonzero (by decide) h]
  rfl
theorem effYardPin_full (h : s.rx f.a &&& ~~~0xFF00 = 0) (h4 : 4 ≤ (s.me.otherPins (selTable (s.rx f.a))).countP (!·.revoked)) :
    effYardPin f s = .trap 11 (s.rx f.a) 0 := by
  rw [effYardPin, selOk_of_zero (by decide) h]
  exact if_pos h4
/-- The state after a pin: no pin but that of the current generation is left on the table. -/
def State.afterPin (s : State) (t : BitVec 8) : State :=
  (s.updMe fun c => { c with pins := { table := t, gen := ((s.gang s.myGang).yard t).gen, revoked := false } :: s.me.otherPins t })
    |>.dropRetained s.myGang t
theorem effYardPin_of_room (h : s.rx f.a &&& ~~~0xFF00 = 0)
    (h4 : (s.me.otherPins (selTable (s.rx f.a))).countP (!·.revoked) < 4) : effYardPin f s =
    .done ((s.afterPin (selTable (s.rx f.a))).wx f.d (((s.gang s.myGang).yard (selTable (s.rx f.a))).gen.zeroExtend 64)) := by
  rw [effYardPin, selOk_of_zero (by decide) h]
  exact if_neg (by exact Nat.not_le.mpr h4)
theorem afterPin_me (s : State) (t : BitVec 8) : (s.afterPin t).me =
    { s.me with pins := { table := t, gen := ((s.gang s.myGang).yard t).gen, revoked := false } :: s.me.otherPins t } := by
  rw [State.afterPin, dropRetained_me, State.me_updMe]

/-- The state after an unpin. -/
def State.afterUnpin (s : State) (t : BitVec 8) : State :=
  (s.updMe fun c => { c with pins := c.otherPins t }).dropRetained s.myGang t
theorem effYardUnpin_of_mask (h : s.rx f.a &&& ~~~0xFF00 = 0) : effYardUnpin f s = .done (s.afterUnpin (selTable (s.rx f.a))) := by
  rw [effYardUnpin, selOk_of_zero (by decide) h]
  rfl
theorem afterUnpin_me (s : State) (t : BitVec 8) : (s.afterUnpin t).me = { s.me with pins := s.me.otherPins t } := by
  rw [State.afterUnpin, dropRetained_me, State.me_updMe]

/-! ## `yard.gen` and `yard.cmt` (R98, R104) -/

theorem effYardGen_of_mask (h : s.rx f.a &&& ~~~0xFF00 = 0) : effYardGen f s =
    .done (s.wx f.d (BitVec.ofNat 64 (((s.gang s.myGang).yard (selTable (s.rx f.a))).gen.toNat +
      (if ((s.gang s.myGang).yard (selTable (s.rx f.a))).retained.isSome then 2 ^ 16 else 0) +
      (if ((s.gang s.myGang).yard (selTable (s.rx f.a))).first.isSome then 2 ^ 17 else 0)))) := by
  rw [effYardGen, selOk_of_zero (by decide) h]
  rfl
theorem effYardCmt_outside (h : selOk (s.rx f.a) 0x70000 = false ∨ (selScope (s.rx f.a)).toNat = 0 ∨ 4 < (selScope (s.rx f.a)).toNat) :
    effYardCmt f s = .trap 11 (s.rx f.a) 0 :=
  if_pos (by simpa [or_assoc] using h)
theorem effYardCmt_of_ok (hok : selOk (s.rx f.a) 0x70000 = true) (hlo : 1 ≤ (selScope (s.rx f.a)).toNat)
    (hhi : (selScope (s.rx f.a)).toNat ≤ 4) : effYardCmt f s = .sleep (.commitRelease f (s.releaseSet s.cur)) s :=
  if_neg (by simp only [hok, Bool.not_true, Bool.false_or, Bool.or_eq_true, decide_eq_true_eq]; omega)
end

/-! ## The instructions of the tables, as the obligation states them -/

section
variable (f : RR) (s : State)

theorem yardRd_meaning (hf : s.Fit (.yardRd f))
    (hok : selOk (s.rx f.a) (if selWsel (s.rx f.a) = 3 then 0xD00000 else 0xD0003F) = true) :
    let free := s.me.ops.all fun o => !OpKind.yard o.kind
    let bad := (readGen s (s.rx f.a)).bad.contains (readWord (s.rx f.a))
    (free = false → exec (.yardRd f) s = .next s) ∧
    (free = true → bad = true → exec (.yardRd f) s = .next (s.containEvent s.myCore 3)) ∧
    (free = true → bad = false →
      Completes (.yardRd f) s (s.wx f.d ((readGen s (s.rx f.a)).word (selIndex (s.rx f.a)).toNat (selWsel (s.rx f.a))))) := by
  refine ⟨fun h => exec_of_fit rfl hf (effYardRd_busy hok h), fun h hbad => exec_of_fit rfl hf ((effYardRd_free hok h).trans (if_pos hbad)),
    fun h hbad => completes_of_done rfl hf ((effYardRd_free hok h).trans (if_neg ?_))⟩
  rw [hbad]
  exact Bool.false_ne_true
theorem yardPin_pins (hf : s.Fit (.yardPin f)) (h : s.rx f.a &&& ~~~0xFF00 = 0)
    (h4 : (s.me.otherPins (selTable (s.rx f.a))).countP (!·.revoked) < 4) : ∃ t, Completes (.yardPin f) s t ∧
      t.rx f.d = (if f.d = 0 then 0 else ((s.gang s.myGang).yard (selTable (s.rx f.a))).gen.zeroExtend 64) ∧
      t.me.pins = { table := selTable (s.rx f.a), gen := ((s.gang s.myGang).yard (selTable (s.rx f.a))).gen, revoked := false } ::
        s.me.otherPins (selTable (s.rx f.a)) := by
  refine ⟨_, completes_of_done rfl hf (effYardPin_of_room h h4), ?_, ?_⟩
  · rw [rx_wx, if_pos rfl]
  · rw [me_wx, Ctx.wx_pins, afterPin_me]
theorem yardUnpin_unpins (hf : s.Fit (.yardUnpin f)) (h : s.rx f.a &&& ~~~0xFF00 = 0) : ∃ t, Completes (.yardUnpin f) s t ∧
    t.me.pins = s.me.otherPins (selTable (s.rx f.a)) ∧ ∀ r, t.rx r = s.rx r := by
  refine ⟨_, completes_of_done rfl hf (effYardUnpin_of_mask h), ?_, fun r => ?_⟩
  · rw [afterUnpin_me]
  · rw [State.rx, afterUnpin_me]
    rfl
end
end Sys2Proof.Machine

/-! SUPPORT. A commit in its stages, the stale copies that it leaves, and the pins that it revokes (R98, R101). -/
namespace Sys2Proof.Machine

/-! ## The queue of a table (R98) -/

theorem standFirst_length (now : Nat) (l : List Commit) : (standFirst now l).length = l.length := by
  induction l with
  | nil => rfl
  | cons m rest ih =>
    unfold standFirst
    split
    · exact congrArg (· + 1) ih
    · rfl
/-- One commit leaves a queue that has a first one. -/
theorem takeFirst_length {y : YardTable} {m : Commit} (h : y.first = some m) (now : Nat) :
    (y.takeFirst now).commits.length + 1 = y.commits.length := by
  have hm : m ∈ y.commits := List.mem_of_find?_eq_some h
  have haside : (!m.aside) = true := List.find?_some (p := fun c : Commit => !c.aside) h
  have hpos := List.length_pos_of_mem hm
  rw [YardTable.takeFirst, standFirst_length, List.length_eraseP_of_mem hm haside]
  omega

/-! ## A table becomes current (steps 3 and 4 of R98) -/

/-- A fold of core updates changes cores alone. -/
theorem foldl_updCore_eq {α : Type} (core : α → Nat) (f : α → Core → Core) (l : List α) (s : State) :
    l.foldl (fun u a => u.updCore (core a) (f a)) s = { s with cores := (l.foldl (fun u a => u.updCore (core a) (f a)) s).cores } :=
  List.foldlRecOn l _ (motive := fun t : State => t = { s with cores := t.cores }) rfl fun t ht a _ => by
    rw [ht]
    rfl
/-- The table after a commit. -/
def YardTable.committed (y : YardTable) (m : Commit) (now : Nat) (kept : Bool) (far : List Nat) : YardTable :=
  { y with retained := if kept then some (y.gen, y.cur) else none,
           cur := { y.staging with rel := some { set := m.set, scope := m.scope, core := coreOfCtx m.ctx } },
           gen := y.gen + 1, commits := (y.takeFirst now).commits, stale := far }
/-- A commit changes its table, and copies in the cores. -/
theorem commitNow_eq (s : State) (gang : Nat) (t : BitVec 8) (m : Commit) : ∃ kept far cores, s.commitNow gang t m =
    { s.updGang gang fun v => v.setYard t (((s.gang gang).yard t).committed m (s.gang gang).residentTicks kept far) with cores := cores } := by
  refine ⟨s.pinned (s.gang gang) t ((s.gang gang).yard t).gen, _, _, foldl_updCore_eq (fun c : Nat => c) (fun _ v =>
    { v with yardCache := v.yardCache.filter fun z => !(z.table = t && z.asCurrent) }) _ _⟩
theorem commitNow_yard (s : State) (gang : Nat) (t : BitVec 8) (m : Commit) : ∃ kept far,
    ((s.commitNow gang t m).gang gang).yard t = ((s.gang gang).yard t).committed m (s.gang gang).residentTicks kept far := by
  obtain ⟨kept, far, cores, h⟩ := commitNow_eq s gang t m
  refine ⟨kept, far, ?_⟩
  rw [h]
  have hgang := State.gang_updGang_self s gang fun v => v.setYard t (((s.gang gang).yard t).committed m (s.gang gang).residentTicks kept far)
  exact (congrArg (Gang.yard · t) hgang).trans (yard_setYard ..)
theorem commitNow_ctx (s : State) (gang : Nat) (t : BitVec 8) (m : Commit) (k : Nat) : (s.commitNow gang t m).ctx k = s.ctx k := by
  obtain ⟨kept, far, cores, h⟩ := commitNow_eq s gang t m
  rw [h]
  rfl
theorem commitNow_cur (s : State) (gang : Nat) (t : BitVec 8) (m : Commit) : (s.commitNow gang t m).cur = s.cur := by
  obtain ⟨kept, far, cores, h⟩ := commitNow_eq s gang t m
  rw [h]
  rfl

/-! ## The stages of `yard.cmt` (R98, R108) -/

/-- A commit stands last in the queue of a table. -/
def Gang.enqueue (g : Gang) (n : BitVec 8) (m : Commit) : Gang := g.setYard n { g.yard n with commits := (g.yard n).commits ++ [m] }
theorem Ctx.rx_wx_own (c : Ctx) (r : BitVec 5) (w : Word) : (c.wx r w).rx r = if r = 0 then 0 else w := by
  split
  · next h =>
    rw [h]
    exact Ctx.rx_zero _
  · next h => exact Ctx.rx_wx_self c w h

section
variable {f : RR} {s : State} {k : Nat} {ids : List Nat} (hrun : s.coreRuns (coreOfCtx k) = true) {g : Nat}
  (hg : g = State.myGang { s with cur := k }) {n : BitVec 8} (hn : n = selTable ((s.ctx k).rx f.a))
include hrun

theorem sleepWake_commitRelease_early (hm : (s.ctx k).mode = .asleep (.commitRelease f ids))
    (hset : s.setComplete k (selScope ((s.ctx k).rx f.a)) ids = false) : exec (.sleepWake k) s = .next s := by
  have arm : exec (.sleepWake k) s = execSleepWake k s := rfl
  have hrx : State.rx { s with cur := k } f.a = (s.ctx k).rx f.a := rfl
  simp only [arm, execSleepWake, hrun, hm, hrx, hset, Bool.not_true, Bool.not_false, Bool.false_eq_true, if_false, if_true]
include hg hn
theorem sleepWake_commitRelease (hm : (s.ctx k).mode = .asleep (.commitRelease f ids))
    (hset : s.setComplete k (selScope ((s.ctx k).rx f.a)) ids = true) : ∃ m : Commit, m.ctx = k ∧ m.set = ids ∧ exec (.sleepWake k) s =
      .next ((({ s with cur := k } : State).updGang g (·.enqueue n m)).updCtx k fun c => { c with mode := .asleep (.commitQueued f) }) := by
  subst hg hn
  have arm : exec (.sleepWake k) s = execSleepWake k s := rfl
  have hrx : State.rx { s with cur := k } f.a = (s.ctx k).rx f.a := rfl
  refine ⟨{ ctx := k, since := (s.gang (State.myGang { s with cur := k })).residentTicks, scope := selScope ((s.ctx k).rx f.a), d := f.d,
            set := ids, aside := false }, rfl, rfl, ?_⟩
  simp only [arm, execSleepWake, hrun, hm, hrx, hset, Bool.not_true, Bool.false_eq_true, if_false]
  rfl
/-- The first commit of its table that is ready. -/
theorem sleepWake_commitQueued (hm : (s.ctx k).mode = .asleep (.commitQueued f))
    {m : Commit} (hfirst : ((s.gang g).yard n).first = some m) (hmk : m.ctx = k)
    (hready : s.commitReady (s.gang g) n ((s.gang g).yard n) = true) : exec (.sleepWake k) s =
    .next (({ s with cur := k } : State).run fun u =>
      .done ((u.commitNow g n m).wx f.d ((((s.gang g).yard n).gen + 1).zeroExtend 64))) := by
  subst hg hn
  have arm : exec (.sleepWake k) s = execSleepWake k s := rfl
  have hrx : State.rx { s with cur := k } f.a = (s.ctx k).rx f.a := rfl
  simp only [arm, execSleepWake, hrun, hm, hrx, hfirst, hmk, hready, Bool.not_true, Bool.false_eq_true, if_false, ne_eq, not_true_eq_false,
    decide_false, Bool.or_self]
/-- Its release complete, a commit stands in the queue of its table. -/
theorem commit_queued (hm : (s.ctx k).mode = .asleep (.commitRelease f ids))
    (hset : s.setComplete k (selScope ((s.ctx k).rx f.a)) ids = true) : ∃ t m, exec (.sleepWake k) s = .next t ∧
      (t.ctx k).mode = .asleep (.commitQueued f) ∧ ((t.gang g).yard n).commits = ((s.gang g).yard n).commits ++ [m] ∧ m.ctx = k ∧
      m.set = ids ∧ ((t.gang g).yard n).cur = ((s.gang g).yard n).cur := by
  obtain ⟨m, hctx, hids, hstep⟩ := sleepWake_commitRelease hrun hg hn hm hset
  have htab : ((({ s with cur := k } : State).updGang g (·.enqueue n m)).gang g).yard n =
      { (s.gang g).yard n with commits := ((s.gang g).yard n).commits ++ [m] } := by
    rw [State.gang_updGang_self]
    exact yard_setYard ..
  refine ⟨_, m, hstep, ?_, ?_, hctx, hids, ?_⟩
  · rw [State.ctx_updCtx_self]
  · rw [State.updCtx_gang, htab]
  · rw [State.updCtx_gang, htab]
/-- The first commit of its table makes the staging entries current and retires. -/
theorem commit_becomes_current (hm : (s.ctx k).mode = .asleep (.commitQueued f)) (hno : (s.ctx k).mismatch = 0)
    {y : YardTable}
    (hy : y = (s.gang g).yard n) {m : Commit} (hfirst : y.first = some m) (hmk : m.ctx = k)
    (hready : s.commitReady (s.gang g) n y = true) : ∃ t, exec (.sleepWake k) s = .next t ∧
      ((t.gang g).yard n).cur = { y.staging with rel := some { set := m.set, scope := m.scope, core := coreOfCtx k } } ∧
      ((t.gang g).yard n).staging = y.staging ∧ ((t.gang g).yard n).gen = y.gen + 1 ∧
      ((t.gang g).yard n).commits.length + 1 = y.commits.length ∧
      (t.ctx k).rx f.d = (if f.d = 0 then 0 else (y.gen + 1).zeroExtend 64) ∧
      (t.ctx k).mode = (if pcIndex (s.ctx k).pc = hdrLen (s.ctx k).hdr then .blockEnd else .ready) := by
  subst hy
  obtain ⟨u, hu, honly, hme⟩ := run_done (s := { s with cur := k }) hno fun v =>
    (v.commitNow g n m).wx f.d ((((s.gang g).yard n).gen + 1).zeroExtend 64)
  have hgang : u.gang g = s.gang g := honly.gang g
  have hctx : u.ctx k = { s.ctx k with replay := false } := by
    rw [State.me, show u.cur = k from honly.cur] at hme
    exact hme
  obtain ⟨kept, far, hyard⟩ := commitNow_yard u g n m
  rw [hgang] at hyard
  generalize hw : u.commitNow g n m = w at hu hyard
  have hcur : w.cur = k := by rw [← hw, commitNow_cur, honly.cur]
  have hwctx : w.ctx k = { s.ctx k with replay := false } := by rw [← hw, commitNow_ctx, hctx]
  generalize hx : w.wx f.d ((((s.gang g).yard n).gen + 1).zeroExtend 64) = x at hu
  have hxctx : x.ctx k = ({ s.ctx k with replay := false } : Ctx).wx f.d ((((s.gang g).yard n).gen + 1).zeroExtend 64) := by
    rw [← hx, State.wx, State.updMe, hcur, State.ctx_updCtx_self, hwctx]
  have htab : ((x.retire k).gang g).yard n = ((s.gang g).yard n).committed m (s.gang g).residentTicks kept far := by
    rw [State.retire_gang, ← hx]
    exact hyard
  refine ⟨x.retire k, ?_, ?_, ?_, ?_, ?_, ?_, ?_⟩
  · rw [sleepWake_commitQueued hrun hg hn hm hfirst hmk hready, hu]
  · rw [htab, YardTable.committed, hmk]
  · rw [htab, YardTable.committed]
  · rw [htab, YardTable.committed]
  · rw [htab]
    exact takeFirst_length hfirst _
  · rw [State.ctx_retire, hxctx]
    exact Ctx.rx_wx_own ..
  · rw [mode_retire, hxctx]
    simp
end

/-! ## Stale copies (R98) -/

/-- A core outside the commit's scope drops its copy of the previous generation. -/
theorem background_invalidates {s : State} {core table g : Nat} (hg : s.gangOfCore core = some g)
    (hstale : core ∈ ((s.gang g).yard (BitVec.ofNat 8 table)).stale) :
    ∃ t, exec (.yardBackgroundInvalidate core table) s = .next t ∧ core ∉ ((t.gang g).yard (BitVec.ofNat 8 table)).stale ∧
      (∀ z ∈ (t.core core).yardCache, ¬(z.table = BitVec.ofNat 8 table ∧ z.asCurrent = true)) ∧
      ((t.gang g).yard (BitVec.ofNat 8 table)).cur = ((s.gang g).yard (BitVec.ofNat 8 table)).cur := by
  have arm : exec (.yardBackgroundInvalidate core table) s = execYardBackgroundInvalidate core table s := rfl
  have hhas : ((s.gang g).yard (BitVec.ofNat 8 table)).stale.contains core = true := List.contains_iff_mem.mpr hstale
  rw [arm, execYardBackgroundInvalidate, hg]
  dsimp only
  rw [hhas]
  refine ⟨_, rfl, ?_, ?_, ?_⟩
  · rw [State.updCore_gang, State.gang_updGang_self, yard_setYard]
    simp
  · rw [State.core_updCore_self]
    intro z hz hcopy
    simp [hcopy] at hz
  · rw [State.updCore_gang, State.gang_updGang_self, yard_setYard]

/-! ## Revocation of pins (R101) -/

/-- Pins on one generation of a table are revoked. -/
def Ctx.revoke (t : BitVec 8) (rg : BitVec 16) (c : Ctx) : Ctx :=
  { c with pins := c.pins.map fun p => if p.table = t && p.gen = rg then { p with revoked := true } else p }
/-- No pin on one generation of a table stands. -/
def Ctx.Unpins (t : BitVec 8) (rg : BitVec 16) (c : Ctx) : Prop := ∀ p ∈ c.pins, p.table = t → p.gen = rg → p.revoked = true

theorem unpins_revoke (t : BitVec 8) (rg : BitVec 16) (c : Ctx) : (c.revoke t rg).Unpins t rg := by
  intro p hp
  obtain ⟨q, -, rfl⟩ := List.mem_map.mp hp
  split
  · exact fun _ _ => rfl
  · next h => exact fun ht hgen => absurd (by rw [ht, hgen]; simp) h
/-- Once its turn has come, the pins of a context stay revoked. -/
theorem unpins_foldl (t : BitVec 8) (rg : BitVec 16) {k : Nat} (ks : List Nat) (s : State) (h : k ∈ ks ∨ (s.ctx k).Unpins t rg) :
    ((ks.foldl (fun u j => u.updCtx j (Ctx.revoke t rg)) s).ctx k).Unpins t rg := by
  induction ks generalizing s with
  | nil => exact h.resolve_left List.not_mem_nil
  | cons j ks ih =>
    refine ih _ ?_
    by_cases e : k = j
    · subst e
      right
      rw [State.ctx_updCtx_self]
      exact unpins_revoke t rg _
    · rw [State.ctx_updCtx_ne _ _ e]
      exact h.imp_left fun hm => (List.mem_cons.mp hm).resolve_left e
section
variable {s : State} {gang table : Nat} {m : Commit} {rg : BitVec 16} {rc : YardGen}
  (hfirst : ((s.gang gang).yard (BitVec.ofNat 8 table)).first = some m)
  (hret : ((s.gang gang).yard (BitVec.ofNat 8 table)).retained = some (rg, rc)) (hrun : s.gangRuns gang = true)
  (hwait : Config.revokeTicks ≤ (s.gang gang).residentTicks - m.since)
include hfirst hret hrun hwait

theorem exec_pinRevocation : exec (.pinRevocation gang table) s = .next ((s.gang gang).cores.foldl (fun u c => u.updCore c fun v =>
    { v with aside := v.aside.map (Ctx.revoke (BitVec.ofNat 8 table) rg) })
    ((s.gang gang).ctxs.foldl (fun u k => u.updCtx k (Ctx.revoke (BitVec.ofNat 8 table) rg)) s)) := by
  have arm : exec (.pinRevocation gang table) s = execPinRevocation gang table s := rfl
  rw [arm, execPinRevocation]
  dsimp only
  rw [hfirst, hret]
  dsimp only
  rw [hrun, if_neg (by simp [hwait])]
  rfl
/-- A commit that has waited long enough revokes the pins on the retained generation. -/
theorem revocation_unpins : ∃ t, exec (.pinRevocation gang table) s = .next t ∧
    ∀ k ∈ (s.gang gang).ctxs, (t.ctx k).Unpins (BitVec.ofNat 8 table) rg := by
  refine ⟨_, exec_pinRevocation hfirst hret hrun hwait, fun k hk => ?_⟩
  rw [foldl_updCore_eq (fun c : Nat => c) (fun _ v => { v with aside := v.aside.map (Ctx.revoke (BitVec.ofNat 8 table) rg) })]
  exact unpins_foldl _ _ _ s (.inl hk)
end

/-- Settles O49, instruction by instruction and stage by stage. -/
theorem yardTablesCommitAsOne : Obligations.YardTablesCommitAsOne := by
  refine ⟨fun f s => ⟨?we, ?wf, ?rd, ?pin, ?unpin, ?gen, ?cmt⟩,
    fun s k f ids hrun => ⟨fun hm => ⟨?early, ?queued⟩, ?current⟩, ?stale, ?revoked⟩
  case we =>
    exact fun hf => ⟨fun h => traps_of_trap rfl hf (effYardWe_outside h), fun h hst => completes_of_done rfl hf (effYardWe_of_mask h hst)⟩
  case wf =>
    exact fun hf => ⟨fun h => traps_of_trap rfl hf (effYardWf_outside h), fun h hst => completes_of_done rfl hf (effYardWf_of_mask h hst)⟩
  case rd => exact yardRd_meaning f s
  case pin =>
    exact fun hf => ⟨fun h => traps_of_trap rfl hf (effYardPin_outside h), fun h h4 => traps_of_trap rfl hf (effYardPin_full h h4),
      yardPin_pins f s hf⟩
  case unpin => exact yardUnpin_unpins f s
  case gen => exact fun hf h => completes_of_done rfl hf (effYardGen_of_mask h)
  case cmt =>
    exact fun hf => ⟨fun h => traps_of_trap rfl hf (effYardCmt_outside h),
      fun hok hlo hhi => sleeps_of_sleep rfl hf (effYardCmt_of_ok hok hlo hhi)⟩
  case early => exact sleepWake_commitRelease_early hrun hm
  case queued => exact commit_queued hrun rfl rfl hm
  case current => exact fun hm hno m hfirst hmk => commit_becomes_current hrun rfl rfl hm hno rfl hfirst hmk
  case stale => exact fun s core table g => background_invalidates
  case revoked => exact fun s gang table m rg rc => revocation_unpins
end Sys2Proof.Machine

/-! SUPPORT. A block end: the lookup of its key, and what each action comes to (R86, R91, R93, R94, R95). -/
namespace Sys2Proof.Machine

/-! ## The winning action (R91) -/

section
variable {g : YardGen} {key : Word}

/-- An entry that a lookup passes over: it is vacant or does not match. -/
def passedOver (key : Word) (e : Nat × Word × Word × Word) : Prop := actKind e.2.2.2 = 0 ∨ (key ^^^ e.2.1) &&& e.2.2.1 ≠ 0

theorem find_none_of_passedOver {es : List (Nat × Word × Word × Word)} (h : ∀ d ∈ es, passedOver key d) :
    es.find? (fun e => actKind e.2.2.2 ≠ 0 && (key ^^^ e.2.1) &&& e.2.2.1 = 0) = none := by
  rw [List.find?_eq_none]
  intro d hd hwins
  rw [Bool.and_eq_true, decide_eq_true_eq, decide_eq_true_eq] at hwins
  exact (h d hd).elim hwins.1 fun hmatch => hmatch hwins.2
theorem lookup_wins {pre post : List (Nat × Word × Word × Word)} {e : Nat × Word × Word × Word} (hes : g.entries = pre ++ e :: post)
    (hkind : actKind e.2.2.2 ≠ 0) (hmatch : (key ^^^ e.2.1) &&& e.2.2.1 = 0) (hpre : ∀ d ∈ pre, passedOver key d) :
    g.lookup key = e.2.2.2 := by
  rw [YardGen.lookup, hes, List.find?_append, find_none_of_passedOver hpre, Option.none_or, List.find?_cons_of_pos (by simp [hkind, hmatch])]
theorem lookup_fallback (h : ∀ d ∈ g.entries, passedOver key d) : g.lookup key = g.fallback := by
  rw [YardGen.lookup, find_none_of_passedOver h]
end

/-! ## What the lookup leaves (R44, R96, R100) -/

theorem yardUse_ctx_ne (s : State) {k j : Nat} (t : BitVec 8) (pinned : Bool) (h : j ≠ k) : (s.yardUse k t pinned).2.2.ctx j = s.ctx j := by
  have acquired (u : State) (rel : Option YardRel) : (u.acquireYard k rel).ctx j = u.ctx j := by
    unfold State.acquireYard
    split
    · split
      · rw [State.tickNext_ctx, State.ctx_updCtx_ne u _ h]
      · rfl
    · rfl
  simp only [State.yardUse]
  split <;> exact acquired ..
/-- Of its context a block end that has chosen changes what is observed and read ahead alone. -/
theorem crossBlock_eq (c : Ctx) (next : Nat) (h act : Word) : ∃ ahead, c.crossBlock next h act = { c with ahead := ahead } := by
  unfold Ctx.crossBlock
  split
  · split <;> exact ⟨_, rfl⟩
  · exact ⟨_, rfl⟩

/-- The state in which the action of a block end is applied: the key is looked up, and loads that read ahead across the block are closed. -/
def State.chosen (s : State) (k : Nat) (act : Word) : State :=
  let use := s.yardUse k (hdrTable (s.ctx k).hdr) (hdrP (s.ctx k).hdr)
  use.2.2.updCtx k fun v => v.crossBlock use.2.2.next (s.ctx k).hdr act

section
variable (s : State) (k : Nat) (act : Word)

theorem chosen_ctx : ∃ seen ahead, (s.chosen k act).ctx k = { s.ctx k with seen := seen, ahead := ahead } := by
  obtain ⟨-, seen, hseen⟩ := onlyLookup_yardUse s k (hdrTable (s.ctx k).hdr) (hdrP (s.ctx k).hdr)
  obtain ⟨ahead, hahead⟩ := crossBlock_eq ((s.yardUse k (hdrTable (s.ctx k).hdr) (hdrP (s.ctx k).hdr)).2.2.ctx k)
    (s.yardUse k (hdrTable (s.ctx k).hdr) (hdrP (s.ctx k).hdr)).2.2.next (s.ctx k).hdr act
  refine ⟨seen, ahead, ?_⟩
  rw [State.chosen, State.ctx_updCtx_self, hahead, hseen]
theorem chosen_ctx_ne {j : Nat} (h : j ≠ k) : (s.chosen k act).ctx j = s.ctx j :=
  (State.ctx_updCtx_ne _ _ h).trans (yardUse_ctx_ne s _ _ h)
theorem chosen_mem : (s.chosen k act).ord.mem = s.ord.mem := (onlyLookup_yardUse s k _ _).mem
theorem chosen_arenaBase (j : Nat) : (s.chosen k act).arenaBase j = s.arenaBase j := (onlyLookup_yardUse s k _ _).arenaBase j
theorem chosen_gone (core a : Nat) : ((s.chosen k act).gang (((s.chosen k act).gangOfCore core).getD 0)).gone a =
    (s.gang ((s.gangOfCore core).getD 0)).gone a := (onlyLookup_yardUse s k _ _).gone core a
theorem chosen_fetch (core a : Nat) : ((s.chosen k act).fetch core a).1 =
    ((s.yardUse k (hdrTable (s.ctx k).hdr) (hdrP (s.ctx k).hdr)).2.2.fetch core a).1 :=
  (congrArg Prod.fst (fetch_withCtxs _ (s.chosen k act).ctxs core a) :)
end

/-! ## BLOCK_END (R86, R95) -/

section
variable {s : State} {k : Nat} (hmode : (s.ctx k).mode = .blockEnd) (hrun : s.coreRuns (coreOfCtx k) = true)
  (hwait : hdrW (s.ctx k).hdr = true → (s.ctx k).ld = 0 ∧ (s.ctx k).st = 0 ∧ (s.ctx k).cp = 0 ∧ (s.ctx k).tl = 0)
  (hpins : ∀ p ∈ (s.ctx k).pins, p.revoked = false) {use : BitVec 16 × YardGen × State}
  (huse : use = s.yardUse k (hdrTable (s.ctx k).hdr) (hdrP (s.ctx k).hdr)) {key act : Word} (hkey : key = s.keyOf k use.1 (s.ctx k).hdr)
  (hact : act = use.2.1.lookup key)

/-- What the outcome of the action of a block end comes to: its trap is one of a block end (R95). -/
def afterBlockEnd (k : Nat) : Except (BitVec 8 × Word × State) State → State
  | .ok u => u
  | .error e => e.2.2.takeTrap k e.1 true e.2.1 0

include hmode hrun hwait hpins huse hkey hact

/-- A block end whose waits have ended. -/
theorem exec_blockEnd : exec (.blockEnd k) s =
    if !use.2.1.bad.isEmpty then .next (use.2.2.containEvent (coreOfCtx k) 3)
    else .next (afterBlockEnd k ((s.chosen k act).applyAction k key act)) := by
  subst huse hkey hact
  have arm : exec (.blockEnd k) s = execBlockEnd k s := rfl
  rw [arm, execBlockEnd]
  refine (if_neg ?waits).trans ((if_neg ?revoked).trans ?_)
  case waits =>
    cases hW : hdrW (s.ctx k).hdr
    · simp [hmode, hrun]
    · simp [hmode, hrun, Ctx.drained, hwait hW]
  case revoked =>
    cases hfind : (s.ctx k).pins.find? (·.table = hdrTable (s.ctx k).hdr) with
    | none => simp
    | some p => simp [hpins p (List.mem_of_find?_eq_some hfind)]
  dsimp only
  split
  · rfl
  · rw [State.chosen]
    split
    next u hu => rw [hu, afterBlockEnd]
    next cause v u hu => rw [hu, afterBlockEnd]
theorem exec_blockEnd_poisoned (hbad : use.2.1.bad ≠ []) : exec (.blockEnd k) s = .next (use.2.2.containEvent (coreOfCtx k) 3) := by
  rw [exec_blockEnd hmode hrun hwait hpins huse hkey hact, if_pos (by simpa using hbad)]
theorem exec_blockEnd_sound (hbad : use.2.1.bad = []) :
    exec (.blockEnd k) s = .next (afterBlockEnd k ((s.chosen k act).applyAction k key act)) := by
  rw [exec_blockEnd hmode hrun hwait hpins huse hkey hact, if_neg (by simp [hbad])]
end

/-! ## The actions (R93) -/

/-- A context whose action enters a block, with the registers that the action gives, from those of context c, and with its hold (R93). -/
def Ctx.actionRegs (d : Ctx) (act : Word) (c : Ctx) (ready : List Nat) : Ctx :=
  match actKind act with
  | 2 => { d with y0 := (actP0 act).zeroExtend 64, y1 := (actP1 act).zeroExtend 64 }
  | 3 => { d with y0 := c.rx ((actP0 act).setWidth 5), y1 := c.rx ((actP1 act).setWidth 5) }
  | 5 => { d with hold := ready }
  | _ => d

section
variable {act : Word} {c d : Ctx} {ready : List Nat}

theorem actionRegs_eq : ∃ y0 y1 hold, d.actionRegs act c ready = { d with y0 := y0, y1 := y1, hold := hold } := by
  unfold Ctx.actionRegs
  split <;> exact ⟨_, _, _, rfl⟩
theorem actionRegs_jump (h : actKind act = 1) : d.actionRegs act c ready = d := by simp only [Ctx.actionRegs, h]
theorem actionRegs_sety (h : actKind act = 2) :
    d.actionRegs act c ready = { d with y0 := (actP0 act).zeroExtend 64, y1 := (actP1 act).zeroExtend 64 } := by
  simp only [Ctx.actionRegs, h]
theorem actionRegs_setyx (h : actKind act = 3) :
    d.actionRegs act c ready = { d with y0 := c.rx ((actP0 act).setWidth 5), y1 := c.rx ((actP1 act).setWidth 5) } := by
  simp only [Ctx.actionRegs, h]
theorem actionRegs_yield (h : actKind act = 5) : d.actionRegs act c ready = { d with hold := ready } := by
  simp only [Ctx.actionRegs, h]
end

section
variable {s e : State} {k : Nat} {key act : Word}

/-- An action that enters a block. -/
theorem applyAction_enters (henter : s.enterBlock k (s.arenaBase k + 8 * actTarget act) = .ok e)
    (hkind : actKind act = 1 ∨ actKind act = 2 ∨ actKind act = 3 ∨ actKind act = 5) :
    ∃ t, s.applyAction k key act = .ok t ∧ t.ord = e.ord ∧ t.ctx k = (e.ctx k).actionRegs act (s.ctx k) (s.readyOthers k) := by
  obtain h | h | h | h := hkind
  · exact ⟨e, (applyAction_jump h).trans henter, rfl, (actionRegs_jump h).symm⟩
  · rw [actionRegs_sety h]
    refine ⟨_, ?_, ?_, State.ctx_updCtx_self e k fun d => { d with y0 := _, y1 := _ }⟩
    · simp only [State.applyAction, h, henter]
      rfl
    · rfl
  · rw [actionRegs_setyx h]
    refine ⟨_, ?_, ?_, State.ctx_updCtx_self e k fun d => { d with y0 := _, y1 := _ }⟩
    · simp only [State.applyAction, h, henter]
      rfl
    · rfl
  · rw [actionRegs_yield h]
    refine ⟨_, ?_, ?_, State.ctx_updCtx_self e k fun d => { d with hold := _ }⟩
    · simp only [State.applyAction, h, henter]
      rfl
    · rfl
theorem applyAction_exit (h : actKind act = 4) : s.applyAction k key act =
    .ok (s.exitCtx k 0 (if (actP0 act).getLsbD 5 then some ((actP0 act).setWidth 5) else none)) := by
  simp only [State.applyAction, h]
theorem applyAction_vacant (h : actKind act = 0) : s.applyAction k key act = .error (8, key, s) := by
  simp only [State.applyAction, h]
theorem applyAction_trap (h : actKind act = 6) : s.applyAction k key act = .error (9, key, s) := by
  simp only [State.applyAction, h]
theorem applyAction_undefined (h : 6 < actKind act) : s.applyAction k key act = .error (10, act, s) := by
  unfold State.applyAction
  dsimp only
  split
  case h_8 => rfl
  all_goals omega
end

/-! ## The contexts of a core (R93, R104) -/

theorem mem_ctxsOfCore {c j : Nat} : j ∈ ctxsOfCore c ↔ coreOfCtx j = c := by
  simp only [ctxsOfCore, List.mem_map, List.mem_range, coreOfCtx]
  constructor
  · rintro ⟨i, hi, rfl⟩
    omega
  · rintro rfl
    exact ⟨j % 11, Nat.mod_lt _ (by decide), by omega⟩
theorem mem_readyOthers {s : State} {k j : Nat} : j ∈ s.readyOthers k ↔ j ≠ k ∧ coreOfCtx j = coreOfCtx k ∧ (s.ctx j).mode = .ready := by
  simp [State.readyOthers, mem_ctxsOfCore, and_left_comm]

/-! ## A block end as the obligation states it -/

section
variable {s : State} {k : Nat} (hmode : (s.ctx k).mode = .blockEnd) (hrun : s.coreRuns (coreOfCtx k) = true)
  (hwait : hdrW (s.ctx k).hdr = true → (s.ctx k).ld = 0 ∧ (s.ctx k).st = 0 ∧ (s.ctx k).cp = 0 ∧ (s.ctx k).tl = 0)
  (hpins : ∀ p ∈ (s.ctx k).pins, p.revoked = false) {use : BitVec 16 × YardGen × State}
  (huse : use = s.yardUse k (hdrTable (s.ctx k).hdr) (hdrP (s.ctx k).hdr)) {key act : Word} (hkey : key = s.keyOf k use.1 (s.ctx k).hdr)
  (hact : act = use.2.1.lookup key) (hbad : use.2.1.bad = [])
include hmode hrun hwait hpins huse hkey hact hbad

/-- An action that enters a legal block places the context at its instruction 0. -/
theorem blockEnd_enters {addr : Nat} (haddr : addr = s.arenaBase k + 8 * actTarget act)
    (hkind : actKind act = 1 ∨ actKind act = 2 ∨ actKind act = 3 ∨ actKind act = 5)
    (hin : (s.ctx k).inCode addr = true) (hal : addr % 8 = 0) (hgone : (s.gang ((s.gangOfCore (coreOfCtx k)).getD 0)).gone addr = false)
    (hh : headerOk (use.2.2.fetch (coreOfCtx k) addr).1 = true) : ∃ t seen ahead, exec (.blockEnd k) s = .next t ∧ SameBytes s t ∧
      t.ctx k = (({ s.ctx k with seen := seen, ahead := ahead } : Ctx).placed addr (use.2.2.fetch (coreOfCtx k) addr).1).actionRegs act
        { s.ctx k with seen := seen, ahead := ahead } ((s.chosen k act).readyOthers k) := by
  obtain ⟨seen, ahead, hctx⟩ := chosen_ctx s k act
  have hfetch : ((s.chosen k act).fetch (coreOfCtx k) addr).1 = (use.2.2.fetch (coreOfCtx k) addr).1 := huse ▸ chosen_fetch s k act ..
  have henter := enterBlock_enters (s := s.chosen k act) (k := k) (addr := addr) (by rw [hctx]; exact hin) hal
    ((chosen_gone s k act ..).trans hgone) (hfetch ▸ hh)
  rw [haddr, ← chosen_arenaBase s k act k] at henter
  obtain ⟨t, happly, hord, ht⟩ := applyAction_enters (key := key) henter hkind
  rw [chosen_arenaBase s k act k, ← haddr] at hord ht
  refine ⟨t, seen, ahead, ?_, sameBytes_of_mem ?_, ?_⟩
  · rw [exec_blockEnd_sound hmode hrun hwait hpins huse hkey hact hbad, happly]
    rfl
  · rw [hord, State.updCtx_ord, State.fetch_mem, chosen_mem]
  · rw [ht, State.ctx_updCtx_self, hfetch, State.ctx, State.fetch_ctxs, ← State.ctx, hctx]
/-- What the obligation says of a context that has entered its next block. -/
theorem blockEnd_next {addr : Nat} (haddr : addr = s.arenaBase k + 8 * actTarget act)
    (hkind : actKind act = 1 ∨ actKind act = 2 ∨ actKind act = 3 ∨ actKind act = 5)
    (hin : (s.ctx k).inCode addr = true) (hal : addr % 8 = 0) (hgone : (s.gang ((s.gangOfCore (coreOfCtx k)).getD 0)).gone addr = false)
    (hh : headerOk (use.2.2.fetch (coreOfCtx k) addr).1 = true) : ∃ t, exec (.blockEnd k) s = .next t ∧ (t.ctx k).mode = .ready ∧
      (t.ctx k).pc = mkPc 0 addr ∧ (t.ctx k).hdr = (use.2.2.fetch (coreOfCtx k) addr).1 ∧ (t.ctx k).x = (s.ctx k).x ∧
      (t.ctx k).v = (s.ctx k).v ∧ SameBytes s t ∧
      (actKind act = 1 → (t.ctx k).y0 = (s.ctx k).y0 ∧ (t.ctx k).y1 = (s.ctx k).y1 ∧ (t.ctx k).hold = (s.ctx k).hold) ∧
      (actKind act = 2 → (t.ctx k).y0 = (actP0 act).zeroExtend 64 ∧ (t.ctx k).y1 = (actP1 act).zeroExtend 64) ∧
      (actKind act = 3 → (t.ctx k).y0 = (s.ctx k).rx ((actP0 act).setWidth 5) ∧ (t.ctx k).y1 = (s.ctx k).rx ((actP1 act).setWidth 5)) ∧
      (actKind act = 5 → ∀ j, j ∈ (t.ctx k).hold ↔ j ≠ k ∧ coreOfCtx j = coreOfCtx k ∧ (s.ctx j).mode = .ready) := by
  obtain ⟨t, seen, ahead, hstep, hbytes, ht⟩ :=
    blockEnd_enters hmode hrun hwait hpins huse hkey hact hbad haddr hkind hin hal hgone hh
  refine ⟨t, hstep, ?_⟩
  have hregs := ht
  obtain ⟨y0, y1, hold, hd⟩ := actionRegs_eq (act := act) (c := { s.ctx k with seen := seen, ahead := ahead })
    (d := ({ s.ctx k with seen := seen, ahead := ahead } : Ctx).placed addr (use.2.2.fetch (coreOfCtx k) addr).1)
    (ready := (s.chosen k act).readyOthers k)
  rw [hd] at hregs
  rw [hregs]
  refine ⟨rfl, rfl, rfl, rfl, rfl, hbytes, ?_⟩
  rw [← hregs, ht]
  refine ⟨fun h => ?_, fun h => ?_, fun h => ?_, fun h j => ?_⟩
  · rw [actionRegs_jump h]
    exact ⟨rfl, rfl, rfl⟩
  · rw [actionRegs_sety h]
    exact ⟨rfl, rfl⟩
  · rw [actionRegs_setyx h]
    exact ⟨rfl, rfl⟩
  · rw [actionRegs_yield h, mem_readyOthers]
    by_cases hj : j = k
    · simp [hj]
    · rw [chosen_ctx_ne s k act hj]
theorem blockEnd_exits (h : actKind act = 4) : ∃ t, exec (.blockEnd k) s = .next t ∧ (t.ctx k).mode =
    .exiting 0 (if (actP0 act).getLsbD 5 then some ((actP0 act).setWidth 5) else none) := by
  have hstep := exec_blockEnd_sound hmode hrun hwait hpins huse hkey hact hbad
  rw [applyAction_exit h, afterBlockEnd] at hstep
  exact ⟨_, hstep, by rw [exitCtx_ctx]⟩
theorem blockEnd_traps {cause : BitVec 8} {v : Word} (h : (s.chosen k act).applyAction k key act = .error (cause, v, s.chosen k act)) :
    exec (.blockEnd k) s = .next ((s.chosen k act).takeTrap k cause true v 0) := by
  rw [exec_blockEnd_sound hmode hrun hwait hpins huse hkey hact hbad, h, afterBlockEnd]
end
end Sys2Proof.Machine

/-! SUPPORT. Starts of helpers, and the instructions by which contexts stop, yield and leave (R104, R113 to R118). -/
namespace Sys2Proof.Machine

/-! ## What a fetch leaves (R54, R365) -/

theorem correct_sheds (s : State) (loc : Nat) : (s.correct loc).sheds = s.sheds := by
  unfold State.correct
  split <;> rfl
theorem fetch_sheds (s : State) (core a : Nat) : (s.fetch core a).2.sheds = s.sheds := by
  unfold State.fetch
  split
  · rfl
  · exact correct_sheds s a
theorem fetch_ctx (s : State) (core a k : Nat) : (s.fetch core a).2.ctx k = s.ctx k := by
  rw [State.ctx, State.fetch_ctxs, State.ctx]
theorem fetch_me (s : State) (core a : Nat) : (s.fetch core a).2.me = s.me := by
  rw [State.me, State.fetch_cur, fetch_ctx, State.me]
theorem fetch_rx (s : State) (core a : Nat) (r : BitVec 5) : (s.fetch core a).2.rx r = s.rx r := by
  rw [State.rx, fetch_me, State.rx]
theorem fetch_myCore (s : State) (core a : Nat) : (s.fetch core a).2.myCore = s.myCore := congrArg coreOfCtx (State.fetch_cur ..)

/-! ## The helper that a start takes (R113) -/

section
variable {s t : State} {help n : Nat}

theorem helperFor_congr (hcur : t.cur = s.cur) (hctx : ∀ k, t.ctx k = s.ctx k) : t.helperFor help = s.helperFor help := by
  rw [State.helperFor, State.helperFor, State.myCore, State.myCore, hcur, show t.ctx = s.ctx from funext hctx]
theorem helperFor_idle (h : s.helperFor help = some n) : 1 ≤ n ∧ (s.ctx (11 * s.myCore + n)).mode = .idle := by
  unfold State.helperFor at h
  split at h
  · obtain ⟨i, hi, hn⟩ := List.exists_of_findSome?_eq_some h
    split at hn
    · next hidle =>
      cases hn
      exact ⟨by omega, hidle⟩
    · cases hn
  · split at h
    · next hidle =>
      cases h
      exact ⟨by omega, hidle⟩
    · cases h
end

/-! ## START of R114 and R115 -/

/-- The messages that were sent before are in ports alone. -/
theorem uncount_eq (s : State) (k : Nat) : s.uncount k = { s with cores := (s.uncount k).cores } :=
  foldl_updCore_eq (fun c : Nat => c) (fun _ v => { v with port := v.port.map _ }) _ s

section
variable {i : Instr} {tries : Bool} {f : RR} {s : State}

theorem startEff_helper (h : ctxNo s.cur ≠ 0) : startEff i tries f s = .trap 1 (encode i) 0 := if_pos h
variable (hctl : ctxNo s.cur = 0)
include hctl
theorem startEff_badDesc (h : descOkStart (s.rx f.a) = false) : startEff i tries f s = .trap 7 (s.rx f.a) 0 :=
  (if_neg (not_not.mpr hctl)).trans (if_pos (by rw [h]; rfl))
variable (hdesc : descOkStart (s.rx f.a) = true) (hal : (s.rx f.b).toNat % 8 = 0) (hin : s.me.inCode (s.rx f.b).toNat = true)
  {r : Word × State} (hr : r = s.fetch s.myCore (s.rx f.b).toNat) (hh : headerOk r.1 = true)
include hdesc hal hin hr hh
theorem startEff_none (hnone : s.helperFor (descHelp (s.rx f.a)) = none) :
    startEff i tries f s = if tries then .done (r.2.wx f.d 0) else .sleep (.again i) r.2 := by
  have hnone' : r.2.helperFor (descHelp (s.rx f.a)) = none := by
    rw [hr, helperFor_congr (State.fetch_cur ..) fun _ => fetch_ctx .., hnone]
  subst hr
  simp [startEff, hctl, hdesc, hal, hin, hh, hnone']
/-- The context of a helper as a start leaves it. -/
theorem startEff_some {n : Nat} (hsome : s.helperFor (descHelp (s.rx f.a)) = some n) : startEff i tries f s =
    .done (((r.2.uncount (11 * s.myCore + n)).setCtx (11 * s.myCore + n) (startedHelper s.me (s.shed s.myShed).rank
      (s.shed s.myShed).gangdim (s.rx f.c) (descNotice (s.rx f.a)) (s.rx f.b).toNat r.1)).wx f.d (BitVec.ofNat 64 n)) := by
  have hsome' : r.2.helperFor (descHelp (s.rx f.a)) = some n := by
    rw [hr, helperFor_congr (State.fetch_cur ..) fun _ => fetch_ctx .., hsome]
  have hme : r.2.me = s.me := hr ▸ fetch_me ..
  have hrx : r.2.rx f.c = s.rx f.c := hr ▸ fetch_rx ..
  have hcore : r.2.myCore = s.myCore := hr ▸ fetch_myCore ..
  have hshed : r.2.shed r.2.myShed = s.shed s.myShed := by
    rw [State.shed, State.myShed, hr, State.fetch_cur, fetch_sheds]
    rfl
  subst hr
  simp [startEff, hctl, hdesc, hal, hin, hh, hsome', hme, hrx, hcore, hshed]
end

/-! ## A started helper (R115) -/

section
variable {control : Ctx} {rank gangdim : BitVec 32} {arg : Word} {notice : Option (BitVec 5)} {blk : Nat} {hdr : Word}

theorem reset_rx (r : BitVec 5) : Ctx.reset.rx r = 0 := by
  simp [Ctx.rx, Ctx.reset]
theorem reset_rv (r : BitVec 5) : Ctx.reset.rv r = 0 := by
  simp [Ctx.rv, Ctx.reset]
theorem reset_rc (r : BitVec 2) : Ctx.reset.rc r = 0 := by
  simp [Ctx.rc, Ctx.reset]
theorem reset_rk : ∀ r : BitVec 3, Ctx.reset.rk r = if r = 0 then 0xFFFF else 0 := by decide

/-- The context of a started helper before its registers x1 to x3 are written. -/
def freshHelper (control : Ctx) (notice : Option (BitVec 5)) (blk : Nat) (hdr : Word) : Ctx :=
  Ctx.entered { Ctx.reset with mode := .ready, pc := mkPc 0 blk, hdr := hdr, notice := notice, tyard := control.tyard, cbase := control.cbase,
                               cbound := control.cbound, sup := control.sup }
theorem startedHelper_eq : startedHelper control rank gangdim arg notice blk hdr =
    (((freshHelper control notice blk hdr).wx 3 (gangdim.zeroExtend 64)).wx 2 (rank.zeroExtend 64)).wx 1 arg := rfl
/-- Of the registers x a start gives x1 to x3 their values and leaves the others 0. -/
theorem startedHelper_rx (q : BitVec 5) : (startedHelper control rank gangdim arg notice blk hdr).rx q =
    if q = 1 then arg else if q = 2 then rank.zeroExtend 64 else if q = 3 then gangdim.zeroExtend 64 else 0 := by
  rw [startedHelper_eq]
  split
  · next h =>
    subst h
    exact Ctx.rx_wx_self _ _ (by decide)
  · next h1 =>
    rw [Ctx.rx_wx_ne _ _ h1]
    split
    · next h =>
      subst h
      exact Ctx.rx_wx_self _ _ (by decide)
    · next h2 =>
      rw [Ctx.rx_wx_ne _ _ h2]
      split
      · next h =>
        subst h
        exact Ctx.rx_wx_self _ _ (by decide)
      · next h3 =>
        rw [Ctx.rx_wx_ne _ _ h3]
        exact reset_rx q
theorem startedHelper_rx_high {q : BitVec 5} (h : 3 < q.toNat) : (startedHelper control rank gangdim arg notice blk hdr).rx q = 0 := by
  have hne (n : BitVec 5) (hn : n.toNat ≤ 3) : q ≠ n := fun e => absurd h (by rw [e]; omega)
  rw [startedHelper_rx, if_neg (hne 1 (by decide)), if_neg (hne 2 (by decide)), if_neg (hne 3 (by decide))]
end

section
variable {f : RR} {s : State} {i : Instr} {tries : Bool} (hexec : exec i s = .next (s.issue i (startEff i tries f))) (hf : s.Fit i)
  (hctl : ctxNo s.cur = 0)
include hexec hf hctl

theorem start_badDesc (h : descOkStart (s.rx f.a) = false) : Traps i s 7 (s.rx f.a) 0 := traps_of_trap hexec hf (startEff_badDesc hctl h)

variable (hdesc : descOkStart (s.rx f.a) = true) (hal : (s.rx f.b).toNat % 8 = 0) (hin : s.me.inCode (s.rx f.b).toNat = true)
  {r : Word × State} (hr : r = s.fetch s.myCore (s.rx f.b).toNat) (hh : headerOk r.1 = true)
include hdesc hal hin hr hh

/-- The state in which a start of helper n retires. -/
theorem start_completes {n : Nat} (hsome : s.helperFor (descHelp (s.rx f.a)) = some n) : ∃ t, Completes i s t ∧ 1 ≤ n ∧ n ≤ 10 ∧
    (s.ctx (11 * s.myCore + n)).mode = .idle ∧ t.rx f.d = (if f.d = 0 then 0 else BitVec.ofNat 64 n) ∧ SameBytes s t ∧
    t.ctx (11 * s.myCore + n) = startedHelper s.me (s.shed s.myShed).rank (s.shed s.myShed).gangdim (s.rx f.c) (descNotice (s.rx f.a))
      (s.rx f.b).toNat r.1 := by
  obtain ⟨hpos, hidle⟩ := helperFor_idle hsome
  have hle : n ≤ 10 := helperFor_le hsome (descHelp_le (by simp [hdesc]))
  have hcur : (r.2.uncount (11 * s.myCore + n)).cur = s.cur := by
    rw [uncount_eq, hr]
    exact State.fetch_cur ..
  have hne : 11 * s.myCore + n ≠ s.cur := by
    simp only [State.myCore, coreOfCtx, ctxNo] at hctl ⊢
    omega
  refine ⟨_, completes_of_done hexec hf (startEff_some hctl hdesc hal hin hr hh hsome), hpos, hle, hidle, ?_, sameBytes_of_mem ?_, ?_⟩
  · rw [rx_wx, if_pos rfl]
  · rw [uncount_eq, hr]
    exact State.fetch_mem ..
  · rw [State.wx, State.updMe, State.ctx_updCtx_ne _ _ (by exact hcur ▸ hne), State.ctx_setCtx_self]
end
end Sys2Proof.Machine

/-! SUPPORT. `halt`, `yield` and `stop`, and the retirement of contexts (R93, R104, R116, R117, R118). -/
namespace Sys2Proof.Machine

/-! ## A context that leaves (R104, R232) -/

section
variable (s : State) (k : Nat) (reason : BitVec 3) (notice : Option (BitVec 5))

theorem exitCtx_ctx_ne {j : Nat} (h : j ≠ k) : (s.exitCtx k reason notice).ctx j = s.ctx j := by
  rw [State.exitCtx, State.endSeq, State.updCore_ctx, State.ctx_updCtx_ne s _ h]
theorem exitCtx_seq : ((s.exitCtx k reason notice).core (coreOfCtx k)).seq =
    if (s.core (coreOfCtx k)).seq.owner = some k ∧ (s.core (coreOfCtx k)).seq.left = 0 then .reset else (s.core (coreOfCtx k)).seq := by
  rw [State.exitCtx, State.endSeq, State.core_updCore_self, State.updCtx_core]
  simp only [Bool.and_eq_true, decide_eq_true_eq]
  split <;> rfl
end

theorem halt_leaves {f : RR} {s : State} (hf : s.Fit (.halt f)) : ∃ t, exec (.halt f) s = .next t ∧
    t.me = { s.me with mode := .exiting 1 none, hold := [] } ∧ SameBytes s t ∧ (∀ k, k ≠ s.cur → t.ctx k = s.ctx k) ∧
    (t.core s.myCore).seq = if (s.core s.myCore).seq.owner = some s.cur ∧ (s.core s.myCore).seq.left = 0 then .reset
      else (s.core s.myCore).seq :=
  ⟨s.exitCtx s.cur 1 none, exec_of_fit (eff := effHalt f) (e := .leave _) rfl hf rfl, exitCtx_ctx .., sameBytes_of_mem rfl,
    fun _ h => exitCtx_ctx_ne s _ _ _ h, exitCtx_seq s s.cur ..⟩
theorem yield_holds {f : RR} {s : State} (hf : s.Fit (.yield f)) : ∃ l, Completes (.yield f) s (s.updMe fun c => { c with hold := l }) ∧
    ∀ j, j ∈ l ↔ j ≠ s.cur ∧ coreOfCtx j = s.myCore ∧ (s.ctx j).mode = .ready :=
  ⟨s.readyOthers s.cur, completes_of_done rfl hf rfl, fun _ => mem_readyOthers⟩

/-! ## `stop` (R116) -/

theorem gone_of_live {m : Mode} (h : m.live = true) : m.gone = false := by
  cases m with
  | idle | retiring => cases h
  | _ => rfl

section
variable {f : RR} {s : State} (hctl : ctxNo s.cur = 0) (hlo : 1 ≤ (s.rx f.a).toNat) (hhi : (s.rx f.a).toNat ≤ 10) {h : Nat}
  (hh : h = 11 * s.myCore + (s.rx f.a).toNat)
include hctl hlo hhi hh

theorem effStop_of_ok : effStop f s = if (s.ctx h).mode.gone then .done s else .sleep (.again (.stop f)) (s.stopCtx h 2) := by
  have hnz : s.rx f.a ≠ 0 := fun e => by simp [e] at hlo
  subst hh
  refine (if_neg (not_not.mpr hctl)).trans (if_neg ?_)
  simp only [hnz, decide_false, Bool.false_or, decide_eq_true_eq]
  omega
theorem stop_gone (hf : s.Fit (.stop f)) (hgone : (s.ctx h).mode = .idle ∨ (s.ctx h).mode = .retiring) : Completes (.stop f) s s := by
  refine completes_of_done rfl hf ((effStop_of_ok hctl hlo hhi hh).trans (if_pos ?_))
  obtain hm | hm := hgone <;> rw [hm, Mode.gone]
theorem stop_sleeps (hf : s.Fit (.stop f)) (hlive : (s.ctx h).mode.live = true) : Sleeps (.stop f) s (.again (.stop f)) (s.stopCtx h 2) := by
  refine sleeps_of_sleep rfl hf ((effStop_of_ok hctl hlo hhi hh).trans (if_neg ?_))
  rw [gone_of_live hlive]
  exact Bool.false_ne_true
end
/-- A live context that waits in no EXIT action begins to retire, whatever it sleeps at. -/
theorem stopCtx_mode {s : State} {h : Nat} {reason : BitVec 3} (hlive : (s.ctx h).mode.live = true)
    (hexit : ∀ r nv, (s.ctx h).mode = .exiting r nv → r = 1) : ((s.stopCtx h reason).ctx h).mode = .exiting reason none := by
  unfold State.stopCtx
  split
  · rw [exitCtx_ctx]
  · rw [exitCtx_ctx]
  · rw [exitCtx_ctx]
  · rw [exitCtx_ctx]
  next ready blockEnd asleep halting =>
    cases hm : (s.ctx h).mode with
    | ready => exact absurd hm ready
    | blockEnd => exact absurd hm blockEnd
    | asleep w => exact absurd hm (asleep w)
    | exiting r nv =>
      obtain rfl := hexit r nv hm
      exact absurd hm (halting nv)
    | idle | retiring | halting | halted =>
      rw [hm] at hlive
      cases hlive
/-- One that waits in an EXIT action is left to it. -/
theorem stopCtx_exit {s : State} {h : Nat} {reason : BitVec 3} {nv : Option (BitVec 5)} (hm : (s.ctx h).mode = .exiting 0 nv) :
    s.stopCtx h reason = s := by
  simp [State.stopCtx, hm]

/-! ## Retirement (R117) -/

/-- Dropping its pins changes a context's pins, and tables of its gang. -/
theorem dropPins_eq (s : State) (k : Nat) : ∃ gangs, s.dropPins k = { s.updCtx k fun c => { c with pins := [] } with gangs := gangs } := by
  refine List.foldlRecOn _ _ (motive := fun t : State => ∃ gangs, t = { s.updCtx k fun c => { c with pins := [] } with gangs := gangs })
    ⟨_, rfl⟩ fun t ht n _ => ?_
  obtain ⟨gangs, rfl⟩ := ht
  exact ⟨_, dropRetained_eq ..⟩

theorem dropPins_ctx (s : State) (k : Nat) : (s.dropPins k).ctx k = { s.ctx k with pins := [] } := by
  obtain ⟨gangs, h⟩ := dropPins_eq s k
  rw [h]
  exact State.ctx_updCtx_self s k fun c => { c with pins := [] }
theorem dropPins_mem (s : State) (k : Nat) : (s.dropPins k).ord.mem = s.ord.mem := by
  obtain ⟨gangs, h⟩ := dropPins_eq s k
  rw [h]
  rfl

/-- The state after the waits of a retirement have ended: the sequencer has ended, and the pins are dropped. -/
def State.waitsEnded (s : State) (k : Nat) : State :=
  (if decide ((s.core (coreOfCtx k)).seq.owner = some k) then s.setSeq (coreOfCtx k) .reset else s).dropPins k

theorem waitsEnded_ctx (s : State) (k : Nat) : (s.waitsEnded k).ctx k = { s.ctx k with pins := [] } := by
  rw [State.waitsEnded, dropPins_ctx]
  split <;> rfl
theorem waitsEnded_mem (s : State) (k : Nat) : (s.waitsEnded k).ord.mem = s.ord.mem := by
  rw [State.waitsEnded, dropPins_mem]
  split <;> rfl

/-- A message that is posted stands in the port, in its place there. -/
theorem mem_port_post (s : State) (core : Nat) (m : Message) :
    { m with order := s.next, after := portBefore (s.core core).port m } ∈ ((s.post core m).core core).port := by
  rw [post_port_self]
  exact List.mem_append_right _ (List.mem_singleton_self _)
/-- The notice of a retirement is posted where there is one to post. -/
def State.noticed (s : State) (k : Nat) (reason : BitVec 3) : Option (BitVec 5) → State
  | some m => s.postNotice k m reason
  | none => s
theorem noticed_ctx (s : State) (k j : Nat) (reason : BitVec 3) (n : Option (BitVec 5)) : (s.noticed k reason n).ctx j = s.ctx j := by
  cases n <;> rfl
theorem noticed_mem (s : State) (k : Nat) (reason : BitVec 3) (n : Option (BitVec 5)) : (s.noticed k reason n).ord.mem = s.ord.mem := by
  cases n <;> rfl
theorem noticed_port (s : State) (k : Nat) (reason : BitVec 3) (m : BitVec 5) :
    ∃ e ∈ ((s.noticed k reason (some m)).core (coreOfCtx k)).port, e.mbox = m ∧ e.kind = 1 ∧
      e.data = noticeData ((s.ctx k).rx 1) (ctxNo k) reason := by
  exact ⟨_, mem_port_post s .., rfl, rfl, rfl⟩

section
variable {s : State} {k : Nat} {reason : BitVec 3} {nv : Option (BitVec 5)} (hmode : (s.ctx k).mode = .exiting reason nv)
  (hrun : s.coreRuns (coreOfCtx k) = true) (hready : exitReady (s.ctx k) reason = true)
  (hseq : (s.core (coreOfCtx k)).seq.owner = some k → (s.core (coreOfCtx k)).seq.left = 0)
include hmode hrun hready hseq

/-- The control context goes to HALTING, but for an EXIT action that ends an import. -/
theorem exec_contextRetirement_control (hk : ctxNo k = 0) (haside : reason = 0 → (s.core (coreOfCtx k)).aside = []) :
    exec (.contextRetirement k) s =
      .next (((s.waitsEnded k).noticed k reason nv).updCtx k fun v => { v with mode := .halting }) := by
  have arm : exec (.contextRetirement k) s = execContextRetirement k s := rfl
  rw [arm, execContextRetirement]
  dsimp only
  rw [hmode]
  refine (if_neg ?waits).trans ((if_neg ?aside).trans ((if_pos hk).trans ?_))
  case waits => simpa [hrun, hready] using hseq
  case aside => simpa [hk] using haside
  cases nv <;> rfl
/-- A helper posts its notice, the action's before its own, or becomes IDLE. -/
theorem exec_contextRetirement_helper (hk : ctxNo k ≠ 0) : exec (.contextRetirement k) s =
    .next (((s.waitsEnded k).noticed k reason (nv.or (s.ctx k).notice)).updCtx k fun v =>
      { v with mode := if (nv.or (s.ctx k).notice).isSome then .retiring else .idle }) := by
  have arm : exec (.contextRetirement k) s = execContextRetirement k s := rfl
  rw [arm, execContextRetirement]
  dsimp only
  rw [hmode]
  refine (if_neg ?waits).trans ((if_neg ?control).trans ((if_neg hk).trans ?_))
  case waits => simpa [hrun, hready] using hseq
  case control => simp [hk]
  cases nv with
  | some m => rfl
  | none => cases (s.ctx k).notice <;> rfl

/-- What the obligation says of a context that has retired. -/
theorem retirement (haside : ctxNo k = 0 → reason = 0 → (s.core (coreOfCtx k)).aside = []) :
    ∃ t, exec (.contextRetirement k) s = .next t ∧ SameBytes s t ∧ (t.ctx k).pins = [] ∧ (t.ctx k).x = (s.ctx k).x ∧
      (ctxNo k = 0 → (t.ctx k).mode = .halting) ∧
      (ctxNo k ≠ 0 → nv = none → (s.ctx k).notice = none → (t.ctx k).mode = .idle) ∧
      (ctxNo k ≠ 0 → ∀ m, (nv.or (s.ctx k).notice) = some m → (t.ctx k).mode = .retiring ∧ ∃ e ∈ (t.core (coreOfCtx k)).port,
        e.mbox = m ∧ e.kind = 1 ∧ e.data = noticeData ((s.ctx k).rx 1) (ctxNo k) reason) := by
  have hctx (n : Option (BitVec 5)) : ((s.waitsEnded k).noticed k reason n).ctx k = { s.ctx k with pins := [] } := by
    rw [noticed_ctx, waitsEnded_ctx]
  have hmem (n : Option (BitVec 5)) : ((s.waitsEnded k).noticed k reason n).ord.mem = s.ord.mem := by
    rw [noticed_mem, waitsEnded_mem]
  by_cases hk : ctxNo k = 0
  · refine ⟨_, exec_contextRetirement_control hmode hrun hready hseq hk (haside hk), sameBytes_of_mem (hmem nv), ?_, ?_, fun _ => ?_,
      fun h => absurd hk h, fun h => absurd hk h⟩ <;> rw [State.ctx_updCtx_self, hctx]
  · refine ⟨_, exec_contextRetirement_helper hmode hrun hready hseq hk, sameBytes_of_mem (hmem _), ?_, ?_, fun h => absurd h hk,
      fun _ hnv hn => ?_, fun _ m hm => ⟨?_, ?_⟩⟩
    · rw [State.ctx_updCtx_self, hctx]
    · rw [State.ctx_updCtx_self, hctx]
    · rw [State.ctx_updCtx_self, hnv, hn]
      rfl
    · rw [State.ctx_updCtx_self, hm]
      rfl
    · rw [State.updCtx_core, hm]
      have hnotice := noticed_port (s.waitsEnded k) k reason m
      rw [waitsEnded_ctx] at hnotice
      exact hnotice
end
theorem exitReady_of_drained {c : Ctx} (reason : BitVec 3) (hld : c.ld = 0) (hcp : c.cp = 0) (htl : c.tl = 0) (hst : c.st = 0)
    (hops : c.ops = []) : exitReady c reason = true := by
  simp [exitReady, Ctx.drained, hld, hcp, htl, hst, hops]

/-! ## CORE_HALTED (R118) -/

theorem coreHalted_halts {s : State} {core : Nat} (hm : (s.ctx (11 * core)).mode = .halting)
    (hidle : ∀ n, 1 ≤ n → n ≤ 10 → (s.ctx (11 * core + n)).mode = .idle) :
    exec (.coreHalted core) s = .next (s.updCtx (11 * core) fun c => { c with mode := .halted }) := by
  have arm : exec (.coreHalted core) s = execCoreHalted core s := rfl
  have hall : ((List.range 10).all fun i => decide ((s.ctx (11 * core + i + 1)).mode = .idle)) = true :=
    List.all_eq_true.mpr fun i hi => decide_eq_true (hidle (i + 1) (by omega) (by have := List.mem_range.mp hi; omega))
  rw [arm, execCoreHalted, if_pos (by rw [hm, hall]; rfl)]

/-! ## The obligation -/

section
variable {f : RR} {s : State} {r : Word × State}

/-- What the obligation says of a helper that has been started. -/
theorem start_helper {i : Instr} {tries : Bool} (hexec : exec i s = .next (s.issue i (startEff i tries f))) (hf : s.Fit i)
    (hctl : ctxNo s.cur = 0) (hdesc : descOkStart (s.rx f.a) = true) (hal : (s.rx f.b).toNat % 8 = 0) (hin : s.me.inCode (s.rx f.b).toNat = true)
    (hr : r = s.fetch s.myCore (s.rx f.b).toNat) (hh : headerOk r.1 = true) {n : Nat}
    (hsome : s.helperFor (descHelp (s.rx f.a)) = some n) : ∃ t, Completes i s t ∧ 1 ≤ n ∧ n ≤ 10 ∧
      (s.ctx (11 * s.myCore + n)).mode = .idle ∧ t.rx f.d = (if f.d = 0 then 0 else BitVec.ofNat 64 n) ∧
      let h := t.ctx (11 * s.myCore + n)
      h.mode = .ready ∧ h.pc = mkPc 0 (s.rx f.b).toNat ∧ h.hdr = r.1 ∧ h.rx 1 = s.rx f.c ∧
      h.rx 2 = (s.shed s.myShed).rank.zeroExtend 64 ∧ h.rx 3 = (s.shed s.myShed).gangdim.zeroExtend 64 ∧
      (∀ q : BitVec 5, 3 < q.toNat → h.rx q = 0) ∧ (∀ q, h.rv q = 0) ∧ (∀ q, h.rc q = 0) ∧
      (∀ q, h.rk q = if q = 0 then 0xFFFF else 0) ∧ h.y0 = 0 ∧ h.y1 = 0 ∧ h.ld = 0 ∧ h.st = 0 ∧ h.cp = 0 ∧ h.tl = 0 ∧ h.fstat = 0 ∧
      h.tcause = 0 ∧ h.tval = 0 ∧ h.tpc = 0 ∧ h.buoy = Vector.replicate 4 0 ∧ h.pins = [] ∧ h.tyard = s.me.tyard ∧
      h.cbase = s.me.cbase ∧ h.cbound = s.me.cbound ∧ h.notice = descNotice (s.rx f.a) ∧ SameBytes s t := by
  obtain ⟨t, hdone, hpos, hle, hidle, hrx, hbytes, ht⟩ := start_completes hexec hf hctl hdesc hal hin hr hh hsome
  refine ⟨t, hdone, hpos, hle, hidle, hrx, ?_⟩
  rw [ht]
  exact ⟨rfl, rfl, rfl, startedHelper_rx 1, startedHelper_rx 2, startedHelper_rx 3, fun _ hq => startedHelper_rx_high hq,
    reset_rv, reset_rc, reset_rk, rfl, rfl, rfl, rfl, rfl, rfl, rfl, rfl, rfl, rfl, rfl, rfl, rfl, rfl, rfl, rfl, hbytes⟩
end

/-- Settles O50: the lookup, the block end, the instructions of contexts, and retirement. -/
theorem contextsEnterBlocksStartAndRetire : Obligations.ContextsEnterBlocksStartAndRetire := by
  refine ⟨fun g key => ⟨fun pre e post => lookup_wins, lookup_fallback⟩, fun s k hmode hrun hwait hpins =>
    ⟨exec_blockEnd_poisoned hmode hrun hwait hpins rfl rfl rfl, fun hbad => ⟨?enters, ?exits, ?vacant, ?trap, ?undefined⟩⟩,
    fun f s => ⟨fun i hi hf => ?start, ?noHelper, halt_leaves, yield_holds, fun hf => completes_of_done rfl hf rfl, ?stop⟩,
    fun s k reason nv => ⟨?retires, coreHalted_halts⟩⟩
  case enters => exact blockEnd_next hmode hrun hwait hpins rfl rfl rfl hbad rfl
  case exits => exact blockEnd_exits hmode hrun hwait hpins rfl rfl rfl hbad
  case vacant => exact fun h => blockEnd_traps hmode hrun hwait hpins rfl rfl rfl hbad (applyAction_vacant h)
  case trap => exact fun h => blockEnd_traps hmode hrun hwait hpins rfl rfl rfl hbad (applyAction_trap h)
  case undefined => exact fun h => blockEnd_traps hmode hrun hwait hpins rfl rfl rfl hbad (applyAction_undefined h)
  case start =>
    obtain ⟨tries, hexec⟩ : ∃ tries, exec i s = .next (s.issue i (startEff i tries f)) := by
      obtain rfl | rfl := List.mem_pair.mp hi
      · exact ⟨false, rfl⟩
      · exact ⟨true, rfl⟩
    exact ⟨fun h => traps_of_trap hexec hf (startEff_helper h), start_badDesc hexec hf,
      fun hctl hdesc hal hin hh n => start_helper hexec hf hctl hdesc hal hin rfl hh⟩
  case noHelper =>
    exact fun hctl hdesc hal hin hh hnone => ⟨fun hf => sleeps_of_sleep rfl hf (startEff_none hctl hdesc hal hin rfl hh hnone),
      fun hf => completes_of_done rfl hf (startEff_none hctl hdesc hal hin rfl hh hnone)⟩
  case stop =>
    exact fun hf hctl hlo hhi => ⟨stop_gone hctl hlo hhi rfl hf,
      fun hlive hexit => ⟨_, stop_sleeps hctl hlo hhi rfl hf hlive, stopCtx_mode hlive hexit⟩,
      fun nv hm => ⟨_, stop_sleeps hctl hlo hhi rfl hf (hm ▸ rfl), by rw [stopCtx_exit hm]⟩⟩
  case retires =>
    exact fun hmode hrun hld hcp htl hst hops hseq haside =>
      retirement hmode hrun (exitReady_of_drained reason hld hcp htl hst hops) hseq haside
end Sys2Proof.Machine

/-! SUPPORT. The vector sequencer: its instructions, and a repetition that the machine takes by itself (R111, R228 to R233, R359). -/
namespace Sys2Proof.Machine

/-! ## The instructions of the owner and of others (R229, R230, R232) -/
section
variable {f : RR} {s : State}

theorem ownsSeq_eq_true : s.ownsSeq = true ↔ s.mySeq.owner = some s.cur := decide_eq_true_iff
theorem ownsSeq_eq_false : s.ownsSeq = false ↔ s.mySeq.owner ≠ some s.cur := decide_eq_false_iff_not

theorem effSeqBeg_free (hfree : s.mySeq.owner = none) (hturn : s.myTurn (waitsForSeq s) = true) : effSeqBeg f s =
    .done (s.setSeq s.myCore { Sequencer.reset with owner := some s.cur, recording := true }) := by
  have other : s.ownsSeq = false := ownsSeq_eq_false.mpr (by rw [hfree]; exact nofun)
  simp only [effSeqBeg, holdUnless, other, hfree, hturn, Bool.false_and, Bool.false_eq_true, if_false, if_true]

theorem effSeqBeg_again (hown : s.mySeq.owner = some s.cur) (hleft : s.mySeq.left = 0) (hsusp : s.mySeq.suspended = 0) :
    effSeqBeg f s = .done (s.setSeq s.myCore { Sequencer.reset with owner := some s.cur, recording := true }) := by
  simp [effSeqBeg, holdUnless, hown, hleft, hsusp]

theorem effSeqBeg_suspended (hown : s.mySeq.owner = some s.cur) (hsusp : s.mySeq.suspended ≠ 0) : effSeqBeg f s = .trap 22 0 0 := by
  simp [effSeqBeg, ownsSeq_eq_true.mpr hown, hsusp]

theorem effSeqLoop_other (h : s.mySeq.owner ≠ some s.cur) : effSeqLoop f s = .trap 22 0 0 := by
  simp [effSeqLoop, ownsSeq_eq_false.mpr h]

theorem effSeqLoop_count (hown : s.mySeq.owner = some s.cur) (hn : 65535 < (s.rx f.a).toNat) :
    effSeqLoop f s = .trap 22 (s.rx f.a) 0 := by
  simp [effSeqLoop, ownsSeq_eq_true.mpr hown, hn]

theorem effSeqLoop_step (hown : s.mySeq.owner = some s.cur) (hn : (s.rx f.a).toNat ≤ 65535)
    (hstep : s.rx f.b &&& ~~~(0x1F1F1F1F : Word) ≠ 0) : effSeqLoop f s = .trap 22 (s.rx f.b) 0 := by
  unfold effSeqLoop
  rw [ownsSeq_eq_true.mpr hown, if_neg (by decide), if_neg (Nat.not_lt.mpr hn), if_pos hstep]

theorem effSeqLoop_scheduled (hown : s.mySeq.owner = some s.cur) (hn : (s.rx f.a).toNat ≤ 65535)
    (hstep : s.rx f.b &&& ~~~(0x1F1F1F1F : Word) = 0) (hleft : s.mySeq.left = 0) : effSeqLoop f s = .done (s.setSeq s.myCore
      { s.mySeq with recording := false, suspended := 0, reps := (s.rx f.a).toNat, rep := 1, pos := 0, steps := s.rx f.b }) := by
  unfold effSeqLoop
  rw [ownsSeq_eq_true.mpr hown, if_neg (by decide), if_neg (Nat.not_lt.mpr hn), if_neg (not_not.mpr hstep), holdUnless,
    if_pos (decide_eq_true hleft)]

theorem effSeqEnd_other (h : s.mySeq.owner ≠ some s.cur) : effSeqEnd f s = .done s := by
  simp [effSeqEnd, ownsSeq_eq_false.mpr h]

theorem effSeqEnd_owner (hown : s.mySeq.owner = some s.cur) (hleft : s.mySeq.left = 0) :
    effSeqEnd f s = .done (s.setSeq s.myCore .reset) := by
  simp [effSeqEnd, holdUnless, ownsSeq_eq_true.mpr hown, hleft]

theorem effSeqWait_other (h : s.mySeq.owner ≠ some s.cur) : effSeqWait f s = .done s := by
  simp [effSeqWait, ownsSeq_eq_false.mpr h]

theorem effSeqWait_idle (hleft : s.mySeq.left = 0) : effSeqWait f s = .done s := by
  simp [effSeqWait, holdUnless, hleft]

end

/-! ## Repetitions (R111, R230, R359) -/
section
variable {s t : State} {core k : Nat} {e : SeqEntry} {i : Instr} {q : Sequencer}

theorem nextRepetition_ready (hown : (s.core core).seq.owner = some k) (hleft : (s.core core).seq.left ≠ 0)
    (hq : (s.core core).seq.queue[(s.core core).seq.pos]? = some e) (hrun : s.coreRuns core = true)
    (hdiv : (s.core core).dividing (stepped (s.core core).seq.steps (s.core core).seq.rep e.instr) = false)
    (hready : s.operandsReady k (stepped (s.core core).seq.steps (s.core core).seq.rep e.instr) = true) :
    s.nextRepetition core = some (k, stepped (s.core core).seq.steps (s.core core).seq.rep e.instr) := by
  simp [State.nextRepetition, hown, hleft, hq, hrun, hdiv, hready]

/-- The vector unit goes to the sequencer unless it had it last and a context wants it (R111). -/
theorem seqRepetition_runs (hnext : s.nextRepetition core = some (k, i))
    (hunit : (s.core core).vecLast = some true → s.wantsVector core false = false) : exec (.seqRepetition core) s =
      .next (((s.runRepetition core k i (s.core core).seq).useVector core true).updCore core fun c => c.divide (ctxNo k) i) := by
  have mayRun : (decide ((s.core core).vecLast = some true) && s.wantsVector core false) = false := by
    cases hlast : decide ((s.core core).vecLast = some true)
    · rfl
    · exact hunit (of_decide_eq_true hlast)
  change execSeqRepetition core s = _
  simp only [execSeqRepetition, hnext, mayRun, Bool.false_eq_true, if_false]

/-- The place of the sequencer after a repetition of the instruction at its position. -/
theorem runRepetition_commits (hfine : (s.ctx k).mismatch = 0 ∨ (s.ctx k).replay = true)
    (heff : vectorEff i { s with cur := k } = .done t) (hstay : ∀ r n, (t.ctx k).mode ≠ .exiting r n) :
    s.runRepetition core k i q = t.setSeq core (if q.pos + 1 < q.queue.length then { q with pos := q.pos + 1, replay := false }
      else { q with pos := 0, rep := q.rep + 1, replay := false }) := by
  have commits : (decide (({ s with cur := k } : State).me.mismatch = 0) || ({ s with cur := k } : State).me.replay) = true := by
    rw [Bool.or_eq_true, decide_eq_true_iff]
    exact hfine
  simp only [State.runRepetition, commits, heff, if_true]
  split
  case h_1 r n hmode => exact absurd hmode (hstay r n)
  case h_2 => rfl

/-- A mismatch that is the repetition's own: no own instruction of the owner is between its two issues. -/
theorem repetition_mismatch (hm : (s.ctx k).mismatch ≠ 0) (hr : (s.ctx k).replay = false) :
    (decide (({ s with cur := k } : State).me.mismatch = 0) || ({ s with cur := k } : State).me.replay) = false := by
  rw [Bool.or_eq_false_iff, decide_eq_false_iff_not]
  exact ⟨hm, hr⟩

theorem runRepetition_reissues (hm : (s.ctx k).mismatch ≠ 0) (hr : (s.ctx k).replay = false) (hq : q.replay = false) :
    s.runRepetition core k i q = (({ s with cur := k } : State).updMe fun c => { c with mismatch := c.mismatch - 1 }).setSeq core
      { q with replay := true } := by
  simp only [State.runRepetition, repetition_mismatch hm hr, hq, Bool.false_eq_true, if_false]

theorem runRepetition_contains (hm : (s.ctx k).mismatch ≠ 0) (hr : (s.ctx k).replay = false) (hq : q.replay = true) :
    s.runRepetition core k i q = ({ s with cur := k } : State).containEvent core 1 := by
  simp only [State.runRepetition, repetition_mismatch hm hr, hq, Bool.false_eq_true, if_false, if_true]

end

/-- Settles O29: the owner's instructions by their effects, and a repetition by what the checker finds. -/
theorem sequencerOwnershipAndRepetitions : Obligations.SequencerOwnershipAndRepetitions := by
  unfold Obligations.SequencerOwnershipAndRepetitions
  intro f s q
  refine ⟨fun hf => ⟨fun h => ?beg, fun hown hsusp => traps_of_trap rfl hf (effSeqBeg_suspended hown hsusp)⟩, fun hf => ?loop,
    fun hf => ⟨fun h => completes_of_done rfl hf (effSeqEnd_other h),
      fun hown hleft => completes_of_done rfl hf (effSeqEnd_owner hown hleft)⟩, fun hf h => ?wait, ?repetition, fun steps r => rfl⟩
  case beg =>
    obtain ⟨hfree, hturn⟩ | ⟨hown, hleft, hsusp⟩ := h
    · exact completes_of_done rfl hf (effSeqBeg_free hfree hturn)
    · exact completes_of_done rfl hf (effSeqBeg_again hown hleft hsusp)
  case loop =>
    exact ⟨fun h => traps_of_trap rfl hf (effSeqLoop_other h), fun hown hn => traps_of_trap rfl hf (effSeqLoop_count hown hn),
      fun hown hn hstep => traps_of_trap rfl hf (effSeqLoop_step hown hn hstep),
      fun hown hn hstep hleft => completes_of_done rfl hf (effSeqLoop_scheduled hown hn hstep hleft)⟩
  case wait =>
    obtain h | hleft := h
    · exact completes_of_done rfl hf (effSeqWait_other h)
    · exact completes_of_done rfl hf (effSeqWait_idle hleft)
  case repetition =>
    intro core k e t hown hleft hq hrun hunit q i hdiv hready
    rw [seqRepetition_runs (nextRepetition_ready hown hleft hq hrun hdiv hready) hunit]
    exact ⟨fun hfine heff hstay => by rw [runRepetition_commits hfine heff hstay],
      fun hm hr hrep => by rw [runRepetition_reissues hm hr hrep], fun hm hr hrep => by rw [runRepetition_contains hm hr hrep]⟩

end Sys2Proof.Machine

/-! SUPPORT. A contained core that is restored twice: its contexts are held aside for an import block at the first restore, and are left in
place of the saved ones at the second (R150, R347, R361). -/
namespace Sys2Proof.Machine

/-! ## The first restore: import blocks are entered on a contained core too (R347) -/

/-- The shed of a saved gang whose core 0 is contained: every context has 5 in x1, and the scratchpad is empty. -/
def fivesShed : SavedShed where
  shed := .reset
  cores := [{ Core.reset with contained := some 1 }, .reset, .reset]
  ctxs := List.replicate 33 { Ctx.reset with x := Ctx.reset.x.set 1 5 }
  pad := []
  poison := []
/-- An object that names the block at 0x1000 as the import block of feature 1. -/
def importingObj : Obj where
  name := []
  base := 0
  size := 0
  records := []
  reqmask := 0
  binds := [(1, some 0x1000)]
  covers := []
  entry := 0
  imports := none
  pending := false
  loadId := 0
/-- Gang 1, which had feature 1 in hardware, comes back on a TB-2Q, which lacks it. The word at 0x1000 is the header of a block of one
instruction. -/
def firstRestore : State := State.setMemQ { State.reset with
  four := false
  vfs := [(0, { Vf.reset with objs := [(0, importingObj)] })]
  gangs := [(1, { Gang.reset with state := .restoring, saved := [fivesShed], featLive := 2 })] } 0
  (Memory.setDword [] 0x1000 0xFF 0xFE0100F8F8F8F800)
/-- The gang as it is then resident, its contexts held aside. -/
def importing : State := match execRestoreRelease 1 firstRestore with
  | .next t => t
  | _ => firstRestore

theorem importing_core : (importing.gang 1).state = .resident ∧ (importing.core 0).contained = some 1 ∧
    ((importing.core 0).aside.map (·.x[1])) = List.replicate 11 5 := by decide +kernel

/-! ## The second restore (R150) -/

/-- The gang's shed as a save takes it from there (R148). -/
def asideShed : SavedShed := importing.saveShed (importing.gang 1) 0
/-- The gang is restored from that shed; no feature that it had is missing now. -/
def secondRestore : State :=
  { importing with gangs := [(1, { Gang.reset with state := .restoring, saved := [asideShed] })], power := Power.reset }

theorem secondRestore_restorable : secondRestore.diesUp (secondRestore.gang 1) = true ∧
    secondRestore.missing (secondRestore.gang 1) = [] ∧ (secondRestore.gang 1).sheds.Nodup ∧ (secondRestore.gang 1).sheds[0]? = some 0 ∧
    asideShed.ctxs.length = 33 ∧ asideShed.pad = [] ∧ secondRestore.memoryWf = true := by decide +kernel

/-- Helper 1 of core 0 was saved as the import block had it. -/
theorem asideShed_helper : ∃ c, asideShed.ctxs[1]? = some c ∧ c.x[1] = 0 := ⟨_, rfl, by decide +kernel⟩

/-- It is restored as it was held aside. -/
theorem secondRestore_helper : (match exec (.restoreRelease 1) secondRestore with
    | .next t => (t.ctx 1).x[1]
    | _ => 0) = 5 := by decide +kernel

/-- Refutes O58: the clause on a restore asks nothing of the saved cores. In `secondRestore` core 0 was saved while it was contained and
its contexts were held aside for an import block (`importing_core`). `State.codeGoneAside` puts the contexts held aside in their places to
look for code that was freed, and leaves them there where the core is contained, be it since before the restore: x1 of helper 1 is then 5,
where the saved context has 0. -/
theorem not_gangsPassThroughTheirStates : ¬ Obligations.GangsPassThroughTheirStates := by
  unfold Obligations.GangsPassThroughTheirStates
  intro h
  obtain ⟨-, -, -, restore⟩ := h
  obtain ⟨up, has, nodup, first, length, pad, wf⟩ := secondRestore_restorable
  obtain ⟨c, saved, zero⟩ := asideShed_helper
  have small : ∀ z ∈ (secondRestore.gang 1).saved, ∀ b ∈ z.pad, b.1 < Config.padBytes := fun z hz b hb => by
    rw [List.mem_singleton.mp hz, pad] at hb
    exact nomatch hb
  obtain ⟨t, hexec, -, -, same, -⟩ := restore secondRestore 1 0 0 asideShed rfl rfl up has rfl rfl nodup first rfl length
    (by rw [pad]; rfl) small wf
  obtain ⟨restored, -⟩ := same 1 c saved
  have five := secondRestore_helper
  rw [hexec] at five
  dsimp only at five
  rw [restored, zero] at five
  exact absurd five (by decide)

end Sys2Proof.Machine

/-! SUPPORT. Management commands: the checks of every command, and those that only read records or set a queue (R8, R129, R143, R367 to
R371). -/
namespace Sys2Proof.Machine

/-! ## The checks in their order (R154, R367, R369) -/

/-- A command of the bound source, well formed and signed, that the keeper is there to carry out. -/
structure State.Takes (s : State) (m : Mgmt) : Prop where
  bound : m.src = s.keeper.source
  present : s.keeper.lost = false
  header : m.headerOk = true
  signed : Config.mldsaVerify 0 (Config.sha3x512 m.signed) m.sig = true

theorem manage_of_takes {s : State} {m : Mgmt} (h : s.Takes m) (c : Managed) (act : State → State) : s.manage c m act = act s := by
  obtain ⟨bound, present, header, signed⟩ := h
  simp [State.manage, bound, present, header, signed]

/-- What becomes of a command before it is carried out, whatever it asks for. -/
theorem exec_of_check {i : Instr} {c : Managed} {m : Mgmt} {s : State} {act : State → State} (h : exec i s = .next (s.manage c m act)) :
    (m.src ≠ s.keeper.source → exec i s = .next s) ∧
    (m.src = s.keeper.source → s.keeper.lost = true → exec i s = .next (s.awaitManaged c)) ∧
    (m.src = s.keeper.source → s.keeper.lost = false → m.headerOk = false → exec i s = .next (s.reply m 1 0 [])) ∧
    (m.src = s.keeper.source → s.keeper.lost = false → m.headerOk = true →
      Config.mldsaVerify 0 (Config.sha3x512 m.signed) m.sig = false → exec i s = .next (s.reply m 12 0 [])) := by
  rw [h, State.manage]
  refine ⟨fun foreign => by rw [if_pos foreign], fun bound lost => ?_, fun bound present malformed => ?_, fun bound present header unsigned => ?_⟩
  · rw [if_neg (not_not.mpr bound), if_pos lost]
  · rw [if_neg (not_not.mpr bound), if_neg (by simp [present]), if_pos (by simp [malformed])]
  · rw [if_neg (not_not.mpr bound), if_neg (by simp [present]), if_neg (by simp [header]), if_pos (by simp [unsigned])]

/-! ## Replies (R367) -/

/-- The newest reply is one to a command, with a status, an INFO and a body. -/
def State.Replied (t : State) (m : Mgmt) (status : Nat) (info : Word) (body : List Byte) : Prop :=
  ∃ r, t.keeper.replies.head? = some r ∧ r.record.seq = m.seq ∧ r.record.tag = m.tag ∧ r.record.status = BitVec.ofNat 16 status ∧
    r.record.info = info ∧ r.body = body

theorem replied_reply (s : State) (m : Mgmt) (info : Word) (body : List Byte) : (s.reply m 0 info body).Replied m 0 info body :=
  ⟨_, rfl, rfl, rfl, rfl, rfl, rfl⟩
@[simp] theorem reply_queue (s : State) (m : Mgmt) (st : Nat) (info : Word) (body : List Byte) (n : Nat) :
    (s.reply m st info body).queue n = s.queue n := rfl
@[simp] theorem reply_vf (s : State) (m : Mgmt) (st : Nat) (info : Word) (body : List Byte) (n : Nat) :
    (s.reply m st info body).vf n = s.vf n := rfl
@[simp] theorem reply_gang (s : State) (m : Mgmt) (st : Nat) (info : Word) (body : List Byte) (g : Nat) :
    (s.reply m st info body).gang g = s.gang g := rfl
@[simp] theorem reply_shed (s : State) (m : Mgmt) (st : Nat) (info : Word) (body : List Byte) (d : Nat) :
    (s.reply m st info body).shed d = s.shed d := rfl

/-- A byte that is 0 or 1 (R8). -/
theorem bodyFlag_iff (b : Byte) : bodyFlag b = true ↔ b.toNat ≤ 1 := by
  have small : b.toNat < 256 := b.isLt
  simp only [bodyFlag, decide_eq_true_eq, ← BitVec.toNat_inj, BitVec.extractLsb'_toNat, BitVec.ofNat_eq_ofNat, BitVec.toNat_zero, Nat.shiftRight_eq_div_pow]
  omega

section
variable {s : State} {m : Mgmt} (h : s.Takes m)
include h

/-! ## IDENT, ATTEST, ERRLOG (R368, R371) -/

theorem ident_replies (sel : Byte) : (2 ≤ sel.toNat → exec (.ident m sel) s = .next (s.reply m 1 0 [])) ∧
    (sel.toNat ≤ 1 → ∃ t, exec (.ident m sel) s = .next t ∧ SameBytes s t ∧
      t.Replied m 0 0 (s.identityRecord ++ if sel = 1 then s.manufacturingRecord else [])) := by
  have meaning : exec (.ident m sel) s = execIdent m sel s := rfl
  rw [meaning, execIdent, manage_of_takes h]
  refine ⟨fun big => ?_, fun small => ?_⟩
  · have malformed : bodyFlag sel = false := by rw [← Bool.not_eq_true, bodyFlag_iff]; omega
    rw [malformed]; rfl
  · rw [(bodyFlag_iff sel).mpr small]
    exact ⟨_, rfl, fun _ _ => rfl, replied_reply ..⟩

theorem attest_replies (nonce : List Byte) : (nonce.length ≠ 32 → exec (.attest m nonce) s = .next (s.reply m 1 0 [])) ∧
    (nonce.length = 32 → ∃ t, exec (.attest m nonce) s = .next t ∧ SameBytes s t ∧
      t.Replied m 0 0 (s.attestBody nonce ++ Config.mldsaSign (Config.sha3x512 (s.attestBody nonce)))) := by
  have meaning : exec (.attest m nonce) s = execAttest m nonce s := rfl
  rw [meaning, execAttest, manage_of_takes h]
  refine ⟨fun other => by rw [if_pos other], fun whole => ?_⟩
  rw [if_neg (not_not.mpr whole)]
  exact ⟨_, rfl, fun _ _ => rfl, replied_reply ..⟩

theorem errlog_clears : ∃ t, exec (.errlog m) s = .next t ∧ SameBytes s t ∧ t.keeper.log = [] ∧ t.keeper.lostEntries = 0 ∧
    t.Replied m 0 0 (leBytes 4 s.keeper.log.length ++ leBytes 4 s.keeper.lostEntries ++ leBytes 8 0 ++
      s.keeper.log.flatMap LogEntry.bytes) := by
  have meaning : exec (.errlog m) s = execErrlog m s := rfl
  rw [meaning, execErrlog, manage_of_takes h]
  exact ⟨_, rfl, fun _ _ => rfl, rfl, rfl, replied_reply ..⟩

/-! ## BIND (R129, R143) -/

theorem bind_sets (b : BindBody) : ((b.source = none ∨ b.cls = none) → exec (.bind m b) s = .next (s.reply m 1 0 [])) ∧
    ∀ src cls, b.source = some src → b.cls = some cls → let q := s.queue m.queue
      (s.busyQueue m.queue = true → q.cls ≠ cls → exec (.bind m b) s = .next (s.reply m 13 0 [])) ∧
      ((s.busyQueue m.queue = false ∨ q.cls = cls) → ∃ t, exec (.bind m b) s = .next t ∧ t.Replied m 0 0 [] ∧
        t.queue m.queue = { q with source := some src, cls := cls, bulk := b.bulk.getD false }) := by
  have meaning : exec (.bind m b) s = execBind m b s := rfl
  rw [meaning, execBind, manage_of_takes h]
  refine ⟨fun missing => ?_, fun src cls hsrc hcls => ?_⟩
  · obtain missing | missing := missing
    · simp only [missing]
    · simp only [missing]
      cases b.source <;> rfl
  · simp only [hsrc, hcls]
    refine ⟨fun busy other => by simp [busy, other], fun free => ?_⟩
    have allowed : (s.busyQueue m.queue && decide ((s.queue m.queue).cls ≠ cls)) = false := by
      obtain idle | same := free
      · simp [idle]
      · simp [same]
    rw [allowed]
    exact ⟨_, rfl, replied_reply .., by rw [if_neg (by decide), reply_queue, State.queue_setQueue_self]⟩
end
end Sys2Proof.Machine

/-! SUPPORT. Management commands that change a function, the tables of the arbiter or the staged image (R143, R149, R151, R159, R331, R370). -/
namespace Sys2Proof.Machine

/-! ## PADDOCK (R149, R151, R341) -/

/-- A resize that nobody stands in the way of takes effect at once. -/
theorem settlePaddock_of_free {s : State} {vf : Nat} {new : Option Rect} (hr : (s.vf vf).resize = some new) (hm : s.master.ready = true)
    (out : ∀ d ∈ shedsOut (s.vf vf).paddock new, s.gangOfShed d = none)
    (come : ∀ d ∈ shedsOut new (s.vf vf).paddock, (s.shed d).scrub = false) :
    s.settlePaddock vf = (shedsOut (s.vf vf).paddock new).foldl (fun t d => t.updShed d fun h => { h with scrub := true })
      (s.updVf vf fun v => { v with paddock := new, resize := none }) := by
  have nobody : (s.gangs.filter fun e => e.2.sheds.any fun d =>
      (shedsOut (s.vf vf).paddock new).contains d && decide (s.gangOfShed d = some e.1)) = [] := by
    refine List.filter_eq_nil_iff.mpr fun e _ => ?_
    simp only [List.any_eq_true, Bool.and_eq_true, decide_eq_true_eq, List.contains_iff_mem, not_exists, not_and]
    intro d _ hd
    rw [out d hd]
    exact nofun
  have clean : ((shedsOut new (s.vf vf).paddock).any fun d => (s.shed d).scrub) = false :=
    List.any_eq_false.mpr fun d hd => by simp [come d hd]
  simp only [State.settlePaddock, hr, hm, nobody, clean, List.isEmpty_nil, Bool.not_true, Bool.false_eq_true, if_false]

/-- Sheds that are marked one after another for their scrub. -/
theorem foldl_scrub (l : List Nat) (s : State) : let t := l.foldl (fun (t : State) d => t.updShed d fun h => { h with scrub := true }) s
    (∀ d, d ∈ l ∨ (s.shed d).scrub = true → (t.shed d).scrub = true) ∧ t.vfs = s.vfs ∧ t.gangs = s.gangs ∧ t.queues = s.queues ∧
      t.keeper = s.keeper := by
  induction l generalizing s with
  | nil => exact ⟨fun d hd => hd.resolve_left (by simp), rfl, rfl, rfl, rfl⟩
  | cons a l ih =>
    obtain ⟨marked, vfs, gangs, queues, keeper⟩ := ih (s.updShed a fun h => { h with scrub := true })
    refine ⟨fun d hd => marked d ?_, vfs, gangs, queues, keeper⟩
    rw [State.shed_updShed]
    by_cases hda : d = a
    · exact .inr (by rw [if_pos hda])
    · rw [if_neg hda]
      exact hd.imp_left fun hd => (List.mem_cons.mp hd).resolve_left hda

/-- A PADDOCK that is accepted, and that nobody stands in the way of. -/
theorem paddock_takes_effect {s : State} (m : Mgmt) {r : Option Rect} (hm : s.master.ready = true)
    (out : ∀ d ∈ shedsOut (s.vf m.vf).paddock r, s.gangOfShed d = none)
    (come : ∀ d ∈ shedsOut r (s.vf m.vf).paddock, (s.shed d).scrub = false) :
    let t := ((s.updVf m.vf fun v => { v with resize := some r }).settlePaddock m.vf).reply m 0 0 []
    t.Replied m 0 0 [] ∧ (t.vf m.vf).paddock = r ∧ ∀ d ∈ shedsOut (s.vf m.vf).paddock r, (t.shed d).scrub = true := by
  dsimp only
  generalize hu : (s.updVf m.vf fun v => { v with resize := some r }) = u
  have asked : u.vf m.vf = { s.vf m.vf with resize := some r } := by rw [← hu, State.vf_updVf_self]
  have sheds : ∀ d, u.shed d = s.shed d := fun d => by rw [← hu, State.updVf_shed]
  have settled := settlePaddock_of_free (s := u) (vf := m.vf) (new := r) (by rw [asked]) (by rw [← hu]; exact hm)
    (by rw [asked]; exact fun d hd => by rw [State.gangOfShed, sheds]; exact out d hd) (by rw [asked]; exact fun d hd => by rw [sheds, come d hd])
  rw [asked] at settled
  dsimp only at settled
  obtain ⟨marked, vfs, -⟩ := foldl_scrub (shedsOut (s.vf m.vf).paddock r) (u.updVf m.vf fun v => { v with paddock := r, resize := none })
  rw [settled]
  refine ⟨replied_reply .., ?_, fun d hd => marked d (.inl hd)⟩
  rw [reply_vf, State.vf, vfs, ← State.vf, State.vf_updVf_self]

/-! ## Budgets of queues (R169) -/

/-- Budgets of different queues that are set one after another. -/
theorem foldl_budgets (l : List Budget) (s : State) (hl : (l.map (·.vfq)).Nodup) :
    let t := l.foldl (fun (u : State) b => u.updQueue b.vfq fun q =>
      { q with budget := b.b, period := b.p, periodStart := u.now / b.p * b.p }) s
    (∀ x ∈ l, (t.queue x.vfq).budget = x.b ∧ (t.queue x.vfq).period = x.p) ∧ ∀ n, n ∉ l.map (·.vfq) → t.queue n = s.queue n := by
  induction l generalizing s with
  | nil => exact ⟨fun x hx => (nomatch hx), fun _ _ => rfl⟩
  | cons a l ih =>
    obtain ⟨fresh, hl⟩ := List.nodup_cons.mp hl
    rw [List.foldl_cons]
    obtain ⟨set, other⟩ := ih (s.updQueue a.vfq fun q => { q with budget := a.b, period := a.p, periodStart := s.now / a.p * a.p }) hl
    refine ⟨fun x hx => ?_, fun n hn => ?_⟩
    · obtain rfl | hx := List.mem_cons.mp hx
      · rw [other _ fresh, State.queue_updQueue_self]
        exact ⟨rfl, rfl⟩
      · exact set x hx
    · rw [List.map_cons, List.mem_cons, not_or] at hn
      rw [other n hn.2, State.queue_updQueue_ne _ _ hn.1]

theorem foldl_budgets_power (l : List Budget) (s : State) : (l.foldl (fun (u : State) b => u.updQueue b.vfq fun q =>
      { q with budget := b.b, period := b.p, periodStart := u.now / b.p * b.p }) s).power = s.power :=
  List.foldlRecOn l _ (motive := fun t : State => t.power = s.power) rfl fun _ ht _ _ => ht

section
variable {s : State} {m : Mgmt} (h : s.Takes m)
include h

/-- PADDOCK with a rectangle that lies on the package. -/
theorem paddock_sets {p : Rect} (hw : 0 < p.w) (hh : 0 < p.h) (hx : p.x + p.w ≤ 16) (hy : p.y + p.h ≤ s.rowsN) :
    let meets := s.vfs.any fun e => e.1 ≠ m.vf && e.2.rects.any (rectsMeet p)
    ((meets = true ∨ (s.vf m.vf).cfg = none) → exec (.paddock m (some p)) s = .next (s.reply m 13 0 [])) ∧
    ∀ c, meets = false → (s.vf m.vf).cfg = some c →
      (c.spSize < spillArea p + saveArea p.w p.h → exec (.paddock m (some p)) s = .next (s.reply m 13 0 [])) ∧
      (spillArea p + saveArea p.w p.h ≤ c.spSize → s.master.ready = true → (∀ d ∈ shedsOut (s.vf m.vf).paddock (some p), s.gangOfShed d = none) →
        (∀ d ∈ shedsOut (some p) (s.vf m.vf).paddock, (s.shed d).scrub = false) → ∃ t, exec (.paddock m (some p)) s = .next t ∧
          t.Replied m 0 0 [] ∧ (t.vf m.vf).paddock = some p ∧ ∀ d ∈ shedsOut (s.vf m.vf).paddock (some p), (t.shed d).scrub = true) := by
  have meaning : exec (.paddock m (some p)) s = execPaddock m (some p) s := rfl
  have onPackage : (p.w = 0 || p.h = 0 || 16 < p.x + p.w || s.rowsN < p.y + p.h : Bool) = false := by simp; omega
  rw [meaning, execPaddock, manage_of_takes h]
  dsimp only
  rw [onPackage, if_neg (by decide)]
  refine ⟨fun bad => ?_, fun c clear hc => ?_⟩
  · obtain meets | missing := bad
    · rw [if_pos meets]
    · simp only [missing, ite_self]
  · rw [if_neg (by simp only [clear, Bool.false_eq_true, not_false_eq_true])]
    simp only [hc]
    refine ⟨fun small => ?_, fun room hm out come => ?_⟩
    · rw [if_neg (by simp [poolFits]; omega)]
    · rw [if_pos (by simp [poolFits, room])]
      exact ⟨_, rfl, paddock_takes_effect m hm out come⟩

/-- PADDOCK without a rectangle. -/
theorem paddock_clears : ((s.vf m.vf).cfg = none → exec (.paddock m none) s = .next (s.reply m 13 0 [])) ∧
    ((s.vf m.vf).cfg.isSome = true → s.master.ready = true → (∀ d ∈ shedsOut (s.vf m.vf).paddock none, s.gangOfShed d = none) →
      ∃ t, exec (.paddock m none) s = .next t ∧ t.Replied m 0 0 [] ∧ (t.vf m.vf).paddock = none) := by
  have meaning : exec (.paddock m none) s = execPaddock m none s := rfl
  rw [meaning, execPaddock, manage_of_takes h]
  dsimp only
  refine ⟨fun missing => by simp only [missing, Option.isNone_none, if_true], fun known hm out => ?_⟩
  rw [if_neg (by simp [Option.isNone_eq_false_iff.mpr known])]
  obtain ⟨replied, set, -⟩ := paddock_takes_effect m hm out fun d hd => nomatch hd
  exact ⟨_, rfl, replied, set⟩

/-! ## VFCFG (R331) -/

theorem vfcfg_sets (c : VfCfg) : let entries := c.peers.all (fun p => p.2.entryOk)
    (entries = false → exec (.vfcfg m c) s = .next (s.reply m 1 0 [])) ∧
    (∀ p ∈ c.peers, (2 < p.2.kind ∨ p.2.rsv ≠ 0) → exec (.vfcfg m c) s = .next (s.reply m 1 0 [])) ∧
    (entries = true → s.cfgOk m.vf c = false → exec (.vfcfg m c) s = .next (s.reply m 13 0 [])) ∧
    (entries = true → s.cfgOk m.vf c = true → ∃ t, exec (.vfcfg m c) s = .next t ∧ t.Replied m 0 0 [] ∧ (t.vf m.vf).cfg = some c) := by
  have meaning : exec (.vfcfg m c) s = execVfcfg m c s := rfl
  have number : m.vf < 1024 := by
    have small : m.queue < 2 ^ 12 := (m.vfq.extractLsb' 0 12).isLt
    unfold Mgmt.vf
    omega
  have malformed (bad : (c.peers.all fun p => p.2.entryOk) = false) : exec (.vfcfg m c) s = .next (s.reply m 1 0 []) := by
    rw [meaning, execVfcfg, manage_of_takes h, bad]
    rfl
  refine ⟨malformed, fun p hp undefined => malformed ?_, fun good refused => ?_, fun good fine => ?_⟩
  · refine List.all_eq_false.mpr ⟨p, hp, ?_⟩
    obtain kind | rsv := undefined
    · simp [Peer.entryOk, kind]
    · have reserved : decide (p.2.rsv = 0) = false := decide_eq_false rsv
      simp only [Peer.entryOk, reserved, Bool.and_false, Bool.false_and, Bool.false_eq_true, not_false_eq_true]
  · rw [meaning, execVfcfg, manage_of_takes h, good, refused]
    simp
  · rw [meaning, execVfcfg, manage_of_takes h, good, fine, if_neg (by decide), if_neg (by simp [number])]
    exact ⟨_, rfl, replied_reply .., by rw [reply_vf, State.vf_updVf_self]⟩

/-! ## TABLES (R159, R169) -/

theorem tables_load (tb : TablesBody) : (s.tablesOk (s.power.with tb) tb = false → exec (.tables m tb) s = .next (s.reply m 13 0 [])) ∧
    (s.tablesOk (s.power.with tb) tb = true → ∃ t, exec (.tables m tb) s = .next t ∧ t.Replied m 0 0 [] ∧
      t.power.rows = tb.rows.getD s.power.rows ∧ t.power.qtrs = tb.qtrs.getD s.power.qtrs ∧ t.power.evaluate = true ∧
      ((tb.budgets.map (·.vfq)).Nodup → ∀ x ∈ tb.budgets, (t.queue x.vfq).budget = x.b ∧ (t.queue x.vfq).period = x.p)) := by
  have meaning : exec (.tables m tb) s = execTables m tb s := rfl
  rw [meaning, execTables, manage_of_takes h]
  refine ⟨fun bad => by rw [bad]; rfl, fun good => ?_⟩
  rw [if_pos good]
  refine ⟨_, rfl, replied_reply .., ?_, ?_, rfl, fun distinct => ?_⟩
  · exact congrArg Power.rows (foldl_budgets_power ..)
  · exact congrArg Power.qtrs (foldl_budgets_power ..)
  · exact (foldl_budgets tb.budgets _ distinct).1

/-! ## FWSTAGE (R370) -/

theorem fwstage_stages (f : FwImage) : ∃ t, exec (.fwstage m f) s = .next t ∧ t.Replied m 0 0 [] ∧ t.keeper.staged = some f ∧
    t.keeper.active = s.keeper.active := by
  have meaning : exec (.fwstage m f) s = execFwstage m f s := rfl
  rw [meaning, execFwstage, manage_of_takes h]
  exact ⟨_, rfl, replied_reply .., rfl, rfl⟩
end
end Sys2Proof.Machine

/-! SUPPORT. FWACT, and what the failure of a queue leaves (R152, R363, R370, R372). -/
namespace Sys2Proof.Machine

/-! ## Gangs that fail stay known (R152) -/

/-- Each gang is as it was, or has failed; and a gang that was known still is. -/
structure Fails (s t : State) : Prop extends FailsSome s t where
  known : ∀ g, (s.gangs.get? g).isSome = true → (t.gangs.get? g).isSome = true

theorem Fails.refl (s : State) : Fails s s := ⟨FailsSome.refl s, fun _ => id⟩
theorem Fails.trans {s t u : State} (hst : Fails s t) (htu : Fails t u) : Fails s u :=
  ⟨hst.toFailsSome.trans htu.toFailsSome, fun g hg => htu.known g (hst.known g hg)⟩
theorem Fails.foldl {α : Type} {f : State → α → State} (hf : ∀ t a, Fails t (f t a)) (s : State) (l : List α) : Fails s (l.foldl f s) :=
  List.foldlRecOn l f (motive := Fails s) (Fails.refl s) fun t ht a _ => ht.trans (hf t a)
theorem Fails.of_records {s t : State} (h : OnlyRecords s t) : Fails s t :=
  ⟨⟨fun g => .inl (by rw [State.gang, h.gangs, State.gang]), h.expected⟩, fun g hg => by rwa [h.gangs]⟩

/-- A gang at its end stays there. -/
theorem FailsSome.ended {s t : State} (h : FailsSome s t) {g : Nat} (hg : (s.gang g).state = .complete ∨ (s.gang g).state = .failed) :
    (t.gang g).state = .complete ∨ (t.gang g).state = .failed := by
  obtain same | failed := h.gang g
  · rwa [same]
  · exact .inr failed

theorem isSome_put {α : Type} {t : Table α} {k j : Nat} (a : α) (h : (t.get? j).isSome = true) : ((t.put k a).get? j).isSome = true := by
  by_cases hj : j = k
  · rw [hj, Table.get?_put_self]
    rfl
  · rwa [Table.get?_put_ne _ _ hj]

theorem known_payGang (s : State) (n : Nat) {g : Nat} (h : (s.gangs.get? g).isSome = true) : ((s.payGang n).gangs.get? g).isSome = true := by
  unfold State.payGang
  dsimp only
  split
  · exact h
  · split
    · exact h
    · rw [State.completeCmd, completeNaming_frame]
      exact isSome_put _ h

theorem fails_failOne (s : State) (g status : Nat) : Fails s (s.failOne g status) := by
  refine ⟨failsSome_failOne s g status, fun j hj => ?_⟩
  by_cases h : (s.gang g).state = .complete ∨ (s.gang g).state = .failed
  · rwa [failOne_of_ended s g status h]
  · obtain ⟨notDone, notFailed⟩ := not_or.mp h
    obtain ⟨u, f, same, -, hfail⟩ := failOne_eq s g status notDone notFailed
    rw [hfail]
    refine known_payGang (u.updGang g f) g (isSome_put _ ?_)
    rwa [same.gangs]

theorem failOne_ends (s : State) (g status : Nat) : ((s.failOne g status).gang g).state = .complete ∨
    ((s.failOne g status).gang g).state = .failed := by
  by_cases h : (s.gang g).state = .complete
  · exact (failsSome_failOne s g status).ended (.inl h)
  · exact .inr (failOne_fails s g status h)

/-- Of gangs that fail one after another, each is at its end. -/
theorem foldl_failOne_ends (status : Nat) (gs : List (Nat × Gang)) (s : State) {g : Nat} (hg : g ∈ gs.map (·.1)) :
    let t := gs.foldl (fun u e => u.failOne e.1 status) s
    (t.gang g).state = .complete ∨ (t.gang g).state = .failed := by
  induction gs generalizing s with
  | nil => simp at hg
  | cons e gs ih =>
    by_cases hfirst : g = e.1
    · rw [hfirst]
      exact (FailsSome.foldl (fun t (e : Nat × Gang) => failsSome_failOne t e.1 status) _ gs).ended (failOne_ends s e.1 status)
    · exact ih _ ((List.mem_cons.mp hg).resolve_left hfirst)

/-! ## A queue whose gangs no image reads fails (R152) -/

theorem fails_supervisorGone (s : State) (vf : Nat) : Fails s (s.supervisorGone vf) := by
  unfold State.supervisorGone
  split
  · exact Fails.refl s
  · exact Fails.foldl (fun t e => fails_failOne ..) s _

/-- The gangs of a queue have failed, and its commands have ended. -/
def State.layoutFailed (s : State) (n : Nat) : State :=
  ((s.gangs.filter fun e => e.2.vfq = n).foldl (fun t e => t.failOne e.1 6) s).endCommands n 6

theorem failLayout_after (s : State) (n : Nat) : Fails (s.layoutFailed n) (s.failLayout n) := by
  have meaning : s.failLayout n = if (s.gangs.filter fun e => e.2.vfq = n).any (fun e => e.2.sup) then
      (s.layoutFailed n).supervisorGone (vfOf n) else s.layoutFailed n := rfl
  rw [meaning]
  split
  · exact fails_supervisorGone ..
  · exact Fails.refl _

theorem fails_failLayout (s : State) (n : Nat) : Fails s (s.failLayout n) :=
  (Fails.foldl (fun _ (_ : Nat × Gang) => fails_failOne ..) s _).trans
    ((Fails.of_records (onlyRecords_endCommands _ n 6)).trans (failLayout_after s n))

theorem mem_gangs {s : State} {g : Nat} (h : (s.gangs.get? g).isSome = true) : (g, s.gang g) ∈ s.gangs := by
  obtain ⟨x, hx⟩ := Option.isSome_iff_exists.mp h
  have known : s.gang g = x := by rw [State.gang, Table.getD, hx]; rfl
  rw [known]
  exact Table.mem_of_get? hx

theorem failLayout_ends {s : State} {g : Nat} (h : (s.gangs.get? g).isSome = true) :
    let t := s.failLayout (s.gang g).vfq
    (t.gang g).state = .complete ∨ (t.gang g).state = .failed := by
  have mine : g ∈ (s.gangs.filter fun e => e.2.vfq = (s.gang g).vfq).map (·.1) :=
    List.mem_map.mpr ⟨_, List.mem_filter.mpr ⟨mem_gangs h, decide_eq_true rfl⟩, rfl⟩
  have ended := foldl_failOne_ends 6 _ s mine
  exact ((Fails.of_records (onlyRecords_endCommands _ _ 6)).trans (failLayout_after s _)).ended ended

/-- Of queues that fail one after another, each gang is at its end. -/
theorem foldl_failLayout_ends (l : List Nat) (s : State) {g : Nat} (h : (s.gangs.get? g).isSome = true) (hl : (s.gang g).vfq ∈ l) :
    let t := l.foldl (fun u n => u.failLayout n) s
    (t.gang g).state = .complete ∨ (t.gang g).state = .failed := by
  induction l generalizing s with
  | nil => simp at hl
  | cons n l ih =>
    have rest (t : State) := Fails.foldl fails_failLayout t l
    have first := fails_failLayout s n
    obtain same | failed := first.gang g
    · by_cases hn : (s.gang g).vfq = n
      · exact (rest _).ended (hn ▸ failLayout_ends h)
      · refine ih _ (first.known g h) ?_
        rw [same]
        exact (List.mem_cons.mp hl).resolve_left hn
    · exact (rest _).ended (.inr failed)

/-! ## FWACT (R152, R370, R372) -/

section
variable {s : State} {m : Mgmt} (h : s.Takes m)
include h

theorem fwact_malformed {force : Byte} (hf : 2 ≤ force.toNat) : exec (.fwact m force) s = .next (s.reply m 1 0 []) := by
  have meaning : exec (.fwact m force) s = execFwact m force s := rfl
  have malformed : bodyFlag force = false := by rw [← Bool.not_eq_true, bodyFlag_iff]; omega
  rw [meaning, execFwact, manage_of_takes h, malformed]
  rfl

theorem fwact_unstaged {force : Byte} (hf : force.toNat ≤ 1) (hs : s.keeper.staged = none) :
    exec (.fwact m force) s = .next (s.reply m 13 0 []) := by
  have meaning : exec (.fwact m force) s = execFwact m force s := rfl
  rw [meaning, execFwact, manage_of_takes h, (bodyFlag_iff force).mpr hf]
  simp only [hs]
  rfl

/-- What a FWACT comes to, of an image that is staged. -/
theorem exec_fwact {force : Byte} (hf : force.toNat ≤ 1) {f : FwImage} (hs : s.keeper.staged = some f) : exec (.fwact m force) s = .next (
    if !Config.mldsaVerify 1 (Config.sha3x512 (f.manifest ++ f.code ++ f.rest)) f.sig || f.epoch < s.keeper.minEpoch then s.reply m 13 0 []
    else if !(s.unreadable f).isEmpty && force = 0 then s.reply m 14 (BitVec.ofNat 64 ((s.unreadable f).headD 0)) []
    else if s.containing || (!(s.unreadable f).isEmpty && !s.master.ready) then s.awaitManaged (.fwact m force)
    else
      let t := (s.unreadable f).foldl (fun u n => u.failLayout n) s
      ({ t with keeper := { t.keeper with active := f, staged := none, cpu := .boot f.code } }).reply m 0 0 []) := by
  have meaning : exec (.fwact m force) s = execFwact m force s := rfl
  rw [meaning, execFwact, manage_of_takes h, (bodyFlag_iff force).mpr hf]
  simp only [hs]
  rfl

theorem fwact_activates {force : Byte} (hf : force.toNat ≤ 1) {f : FwImage} (hs : s.keeper.staged = some f) :
    let signed := Config.mldsaVerify 1 (Config.sha3x512 (f.manifest ++ f.code ++ f.rest)) f.sig
    ((signed = false ∨ f.epoch < s.keeper.minEpoch) → exec (.fwact m force) s = .next (s.reply m 13 0 [])) ∧
    (signed = true → s.keeper.minEpoch ≤ f.epoch →
      (∀ n rest, s.unreadable f = n :: rest → force = 0 → exec (.fwact m force) s = .next (s.reply m 14 (BitVec.ofNat 64 n) [])) ∧
      ((s.unreadable f = [] ∨ force = 1) → (s.containing = true ∨ (s.unreadable f ≠ [] ∧ s.master.ready = false)) →
        exec (.fwact m force) s = .next (s.awaitManaged (.fwact m force))) ∧
      ((s.unreadable f = [] ∨ force = 1) → s.containing = false → (s.unreadable f = [] ∨ s.master.ready = true) → ∃ t,
        exec (.fwact m force) s = .next t ∧ t.Replied m 0 0 [] ∧ t.keeper.active = f ∧
          t.keeper.staged = none ∧ t.keeper.cpu = KeeperCpu.boot f.code ∧ ∀ g x, s.gangs.get? g = some x → x.vfq ∈ s.unreadable f →
            (t.gang g).state = .complete ∨ (t.gang g).state = .failed)) := by
  rw [exec_fwact h hf hs]
  dsimp only
  refine ⟨fun bad => ?_, fun signed recent => ?_⟩
  · obtain unsigned | old := bad
    · rw [unsigned]; rfl
    · rw [decide_eq_true old, Bool.or_true]; rfl
  have fine : (!Config.mldsaVerify 1 (Config.sha3x512 (f.manifest ++ f.code ++ f.rest)) f.sig || decide (f.epoch < s.keeper.minEpoch)) = false := by
    rw [signed, decide_eq_false (Nat.not_lt.mpr recent)]; rfl
  rw [fine, if_neg (by decide)]
  have forced (go : s.unreadable f = [] ∨ force = 1) : (!(s.unreadable f).isEmpty && decide (force = 0)) = false := by
    obtain none_ | rfl := go
    · rw [none_]; rfl
    · exact Bool.and_false _
  refine ⟨fun n rest queues plain => ?_, fun go waits => ?_, fun go free able => ?_⟩
  · rw [queues, plain]
    rfl
  · rw [forced go, if_neg (by decide), if_pos]
    obtain open_ | ⟨some_, noMaster⟩ := waits
    · rw [open_]; rfl
    · simp [noMaster, some_]
  · have now : (s.containing || (!(s.unreadable f).isEmpty && !s.master.ready)) = false := by
      obtain none_ | master := able
      · simp [free, none_]
      · simp [free, master]
    rw [forced go, now, if_neg (by decide), if_neg (by decide)]
    refine ⟨_, rfl, replied_reply .., rfl, rfl, rfl, fun g x hx hq => ?_⟩
    have known : s.gang g = x := by rw [State.gang, Table.getD, hx]; rfl
    exact foldl_failLayout_ends _ s (by rw [hx]; rfl) (by rwa [known])
end
end Sys2Proof.Machine

/-! SUPPORT. MIGRATE: a phase at the source and at the destination (R154, R346, R347). -/
namespace Sys2Proof.Machine

/-! ## The source's part (R346) -/

/-- Queues that are freed one after another are unbound and empty. -/
theorem foldl_freeQueues (l : List Nat) (s : State) {n : Nat} (hn : n ∈ l) :
    let t := l.foldl (fun (u : State) n => u.updQueue n fun q => { Queue.reset with sent := q.sent }) s
    (t.queue n).source = none ∧ (t.queue n).cmds = [] := by
  induction l generalizing s with
  | nil => simp at hn
  | cons a l ih =>
    by_cases ha : n = a
    · refine List.foldlRecOn l _ (motive := fun t : State => (t.queue n).source = none ∧ (t.queue n).cmds = []) ?_ fun t ht b _ => ?_
      · rw [ha, State.queue_updQueue_self]
        exact ⟨rfl, rfl⟩
      · rw [State.queue_updQueue]
        split
        · exact ⟨rfl, rfl⟩
        · exact ht
    · exact ih _ ((List.mem_cons.mp hn).resolve_left ha)

theorem mem_queuesOf {n vf : Nat} (h : vfOf n = vf) : n ∈ (List.range 4).map (4 * vf + ·) := by
  unfold vfOf at h
  exact List.mem_map.mpr ⟨n % 4, List.mem_range.mpr (Nat.mod_lt _ (by decide)), by omega⟩

theorem migrateOut_first (s : State) (vf : Nat) : let t := s.migrateOut vf 1
    Table.getD t.keeper.migrating vf 0 = 1 ∧ ∃ o, t.keeper.outgoing.get? vf = some o ∧ o.copied = (s.mergePages vf).pages vf :=
  ⟨Table.getD_put_self .., _, Table.get?_put_self .., rfl⟩

theorem migrateOut_second (s : State) (vf : Nat) : let t := s.migrateOut vf 2
    Table.getD t.keeper.migrating vf 0 = 2 ∧
    ∀ g x, s.gangs.get? g = some x → vfOf x.vfq = vf → x.state = .resident → (t.gang g).switchAt.isSome = true := by
  have meaning : s.migrateOut vf 2 = (s.atPhase vf 2).decideSwitches ((s.gangs.filter fun e => vfOf e.2.vfq = vf).map (·.1)) false := rfl
  dsimp only
  rw [meaning]
  refine ⟨?_, fun g x hx hvf hr => decideSwitches_decides _ _ _ ?_ ?_⟩
  · rw [decideSwitches_frame]
    exact Table.getD_put_self ..
  · exact List.mem_map.mpr ⟨(g, x), List.mem_filter.mpr ⟨Table.mem_of_get? hx, decide_eq_true hvf⟩, rfl⟩
  · rw [State.gang, State.atPhase, Table.getD, hx]
    exact hr

theorem migrateOut_third (s : State) (vf : Nat) : let t := s.migrateOut vf 3
    Table.getD t.keeper.migrating vf 0 = 3 ∧ ∃ o, t.keeper.outgoing.get? vf = some o ∧ o.copied = (s.deliverAll.mergePages vf).pages vf :=
  ⟨Table.getD_put_self .., _, Table.get?_put_self .., rfl⟩

theorem migrateOut_last (s : State) (vf : Nat) : let t := s.migrateOut vf 4
    t.vfs.get? vf = none ∧ (∀ e ∈ t.gangs, vfOf e.2.vfq ≠ vf) ∧ ∀ n, vfOf n = vf → (t.queue n).source = none ∧ (t.queue n).cmds = [] := by
  refine ⟨Table.get?_del_self .., fun e he => ?_, fun n hn => foldl_freeQueues _ _ (mem_queuesOf hn)⟩
  simpa using (List.mem_filter.mp he).2

/-! ## The destination's part (R346) -/

theorem migrateIn_phase (s : State) (vf : Nat) {phase : Nat} (h1 : 1 ≤ phase) (h4 : phase < 4) (i : Incoming) :
    Table.getD (s.migrateIn vf phase i).keeper.migrating vf 0 = phase := by
  have areas (l : List (Nat × Gang)) (f : Nat × Gang → Nat) (g : Nat × Gang → Gang) (t : State) :
      (l.foldl (fun (u : State) e => u.setGang (f e) (g e)) t).keeper = t.keeper :=
    List.foldlRecOn l _ (motive := fun u : State => u.keeper = t.keeper) rfl fun _ hu _ _ => hu
  obtain rfl | rfl | rfl : phase = 1 ∨ phase = 2 ∨ phase = 3 := by omega
  · exact Table.getD_put_self ..
  · unfold State.migrateIn
    dsimp only
    rw [areas]
    exact Table.getD_put_self ..
  · exact Table.getD_put_self ..

theorem migrateIn_applies (s : State) (vf : Nat) (i : Incoming) :
    ((s.migrateIn vf 3 i).keeper.incoming.get? vf).map (·.applied) = some i.writes.length :=
  congrArg (Option.map _) (Table.get?_put_self ..)

theorem migrateIn_last (s : State) (vf : Nat) (i : Incoming) : (s.migrateIn vf 4 i).keeper.incoming.get? vf = none :=
  Table.get?_del_self ..

/-! ## MIGRATE -/

/-- Is a source still to forward for some time (R346)? -/
def State.forwards (s : State) (vf : Nat) : Bool := (s.keeper.outgoing.get? vf).any fun o => decide (s.now < o.cutOver + forwardTicks)

theorem mayMigrate_eq (s : State) (vf phase : Nat) : s.mayMigrate vf phase = (decide (phase = Table.getD s.keeper.migrating vf 0 + 1) &&
    (decide (phase < 3) || !s.vfOnSheds vf) && (decide (phase ≠ 4) || (!s.stillNamed vf && !s.forwards vf))) := by
  rw [State.mayMigrate, State.forwards]
  cases s.keeper.outgoing.get? vf with
  | none => rfl
  | some o =>
    rw [Option.any_some, ← decide_not]
    congr 4
    exact decide_eq_decide.mpr Nat.not_lt.symm

theorem mayMigrate_iff (s : State) (vf phase : Nat) : s.mayMigrate vf phase = true ↔ phase = Table.getD s.keeper.migrating vf 0 + 1 ∧
    (3 ≤ phase → s.vfOnSheds vf = false) ∧ (phase = 4 → s.stillNamed vf = false ∧ s.forwards vf = false) := by
  rw [mayMigrate_eq]
  simp [imp_iff_not_or, and_assoc]

section
variable {s : State} {m : Mgmt} (h : s.Takes m)
include h

theorem migrate_malformed {phase : Nat} (hp : phase = 0 ∨ 4 < phase) : exec (.migrate m phase) s = .next (s.reply m 1 0 []) := by
  have meaning : exec (.migrate m phase) s = execMigrate m phase s := rfl
  have bad : (phase = 0 || 4 < phase : Bool) = true := by simpa using hp
  rw [meaning, execMigrate, manage_of_takes h, if_pos bad]

/-- MIGRATE at a source. -/
theorem exec_migrate_out {phase : Nat} (h1 : 1 ≤ phase) (h4 : phase ≤ 4) (hin : s.keeper.incoming.get? m.vf = none) :
    exec (.migrate m phase) s = .next (if !s.mayMigrate m.vf phase then s.reply m 13 0 []
      else if phase = 2 && !s.master.ready then s.awaitManaged (.migrate m phase)
      else (s.migrateOut m.vf phase).reply m 0 0 []) := by
  have meaning : exec (.migrate m phase) s = execMigrate m phase s := rfl
  have fine : (phase = 0 || 4 < phase : Bool) = false := by simp; omega
  rw [meaning, execMigrate, manage_of_takes h, fine, if_neg (by decide), hin]

/-- MIGRATE where the function's pages come in. -/
theorem exec_migrate_in {phase : Nat} (h1 : 1 ≤ phase) (h4 : phase ≤ 4) {i : Incoming} (hin : s.keeper.incoming.get? m.vf = some i) :
    exec (.migrate m phase) s = .next (if !s.mayReceive m.vf phase then s.reply m 13 0 []
      else if phase = 3 && s.lacksImport m.vf then s.reply m 15 0 []
      else (s.migrateIn m.vf phase i).reply m 0 0 []) := by
  have meaning : exec (.migrate m phase) s = execMigrate m phase s := rfl
  have fine : (phase = 0 || 4 < phase : Bool) = false := by simp; omega
  rw [meaning, execMigrate, manage_of_takes h, fine, if_neg (by decide), hin]

theorem migrate_out_refused {phase : Nat} (h1 : 1 ≤ phase) (h4 : phase ≤ 4) (hin : s.keeper.incoming.get? m.vf = none)
    (bad : phase ≠ Table.getD s.keeper.migrating m.vf 0 + 1 ∨ (3 ≤ phase ∧ s.vfOnSheds m.vf = true) ∨
      (phase = 4 ∧ (s.stillNamed m.vf = true ∨ s.forwards m.vf = true))) : exec (.migrate m phase) s = .next (s.reply m 13 0 []) := by
  have early : s.mayMigrate m.vf phase = false := by
    rw [← Bool.not_eq_true, mayMigrate_iff]
    rintro ⟨order, off, due⟩
    obtain other | ⟨late, on⟩ | ⟨last, held⟩ := bad
    · exact other order
    · simp [off late] at on
    · obtain ⟨unnamed, done⟩ := due last
      simp [unnamed, done] at held
  rw [exec_migrate_out h h1 h4 hin, early]
  rfl

theorem migrate_out_goes {phase : Nat} (h1 : 1 ≤ phase) (h4 : phase ≤ 4) (hin : s.keeper.incoming.get? m.vf = none)
    (order : phase = Table.getD s.keeper.migrating m.vf 0 + 1) (off : 3 ≤ phase → s.vfOnSheds m.vf = false)
    (due : phase = 4 → s.stillNamed m.vf = false ∧ s.forwards m.vf = false) :
    (phase = 2 → s.master.ready = false → exec (.migrate m phase) s = .next (s.awaitManaged (.migrate m phase))) ∧
    ((phase = 2 → s.master.ready = true) → exec (.migrate m phase) s = .next ((s.migrateOut m.vf phase).reply m 0 0 [])) := by
  rw [exec_migrate_out h h1 h4 hin, (mayMigrate_iff ..).mpr ⟨order, off, due⟩, if_neg (by decide)]
  refine ⟨fun second noMaster => by simp [second, noMaster], fun able => ?_⟩
  rw [if_neg]
  simp only [Bool.and_eq_true, decide_eq_true_eq, Bool.not_eq_true', not_and, Bool.not_eq_false]
  exact able

theorem migrate_out {phase : Nat} (h1 : 1 ≤ phase) (h4 : phase ≤ 4) (hin : s.keeper.incoming.get? m.vf = none)
    (order : phase = Table.getD s.keeper.migrating m.vf 0 + 1) (off : 3 ≤ phase → s.vfOnSheds m.vf = false)
    (due : phase = 4 → s.stillNamed m.vf = false ∧ s.forwards m.vf = false) :
    (phase = 2 → s.master.ready = false → exec (.migrate m phase) s = .next (s.awaitManaged (.migrate m phase))) ∧
    ((phase = 2 → s.master.ready = true) → ∃ t, exec (.migrate m phase) s = .next t ∧ t.Replied m 0 0 [] ∧
      (phase < 4 → Table.getD t.keeper.migrating m.vf 0 = phase) ∧
      (phase = 1 → ∃ o, t.keeper.outgoing.get? m.vf = some o ∧ o.copied = (s.mergePages m.vf).pages m.vf) ∧
      (phase = 3 → ∃ o, t.keeper.outgoing.get? m.vf = some o ∧ o.copied = (s.deliverAll.mergePages m.vf).pages m.vf) ∧
      (phase = 2 → ∀ g x, s.gangs.get? g = some x → vfOf x.vfq = m.vf → x.state = .resident → (t.gang g).switchAt.isSome = true) ∧
      (phase = 4 → t.vfs.get? m.vf = none ∧ (∀ e ∈ t.gangs, vfOf e.2.vfq ≠ m.vf) ∧
        ∀ n, vfOf n = m.vf → (t.queue n).source = none ∧ (t.queue n).cmds = [])) := by
  obtain ⟨waits, goes⟩ := migrate_out_goes h h1 h4 hin order off due
  refine ⟨waits, fun able => ⟨_, goes able, replied_reply .., fun _ => ?_, ?_, ?_, ?_, ?_⟩⟩
  · obtain rfl | rfl | rfl : phase = 1 ∨ phase = 2 ∨ phase = 3 := by omega
    · exact (migrateOut_first s m.vf).1
    · exact (migrateOut_second s m.vf).1
    · exact (migrateOut_third s m.vf).1
  · rintro rfl
    exact (migrateOut_first s m.vf).2
  · rintro rfl
    exact (migrateOut_third s m.vf).2
  · rintro rfl
    exact (migrateOut_second s m.vf).2
  · rintro rfl
    exact migrateOut_last s m.vf

theorem migrate_in {phase : Nat} (h1 : 1 ≤ phase) (h4 : phase ≤ 4) {i : Incoming} (hin : s.keeper.incoming.get? m.vf = some i) :
    let now := Table.getD s.keeper.migrating m.vf 0
    let inOrder : Prop := (s.vf m.vf).cfg.isSome = true ∧ (phase = now + 1 ∨ (phase = 3 ∧ now = 3))
    (¬inOrder → exec (.migrate m phase) s = .next (s.reply m 13 0 [])) ∧
    (inOrder → phase = 3 → s.lacksImport m.vf = true → exec (.migrate m phase) s = .next (s.reply m 15 0 [])) ∧
    (inOrder → (phase = 3 → s.lacksImport m.vf = false) → ∃ t, exec (.migrate m phase) s = .next t ∧ t.Replied m 0 0 [] ∧
      (phase < 4 → Table.getD t.keeper.migrating m.vf 0 = phase) ∧
      (phase = 3 → (t.keeper.incoming.get? m.vf).map (·.applied) = some i.writes.length) ∧
      (phase = 4 → t.keeper.incoming.get? m.vf = none)) := by
  intro now inOrder
  have may : s.mayReceive m.vf phase = true ↔ inOrder := by simp [State.mayReceive, inOrder, now]
  rw [exec_migrate_in h h1 h4 hin]
  refine ⟨fun order => ?_, fun order third lacks => ?_, fun order has => ?_⟩
  · rw [Bool.eq_false_iff.mpr (may.not.mpr order)]
    rfl
  · rw [may.mpr order, third, lacks]
    rfl
  · have whole : (phase = 3 && s.lacksImport m.vf : Bool) = false := by
      by_cases third : phase = 3
      · rw [has third, Bool.and_false]
      · rw [decide_eq_false third, Bool.false_and]
    rw [may.mpr order, whole]
    refine ⟨_, rfl, replied_reply .., fun early => migrateIn_phase s m.vf h1 early i, ?_, ?_⟩
    · rintro rfl
      exact migrateIn_applies s m.vf i
    · rintro rfl
      exact migrateIn_last s m.vf i

/-- MIGRATE of a function whose pages do not come in here, with the 100 ms of R346 in ticks. -/
theorem migrate_source (phase : Nat) :
    let early := (s.keeper.outgoing.get? m.vf).any fun o => decide (s.now < o.cutOver + 100000000)
    (1 ≤ phase → phase ≤ 4 → s.keeper.incoming.get? m.vf = none →
      (phase ≠ Table.getD s.keeper.migrating m.vf 0 + 1 ∨ (3 ≤ phase ∧ s.vfOnSheds m.vf = true) ∨
        (phase = 4 ∧ (s.stillNamed m.vf = true ∨ early = true))) → exec (.migrate m phase) s = .next (s.reply m 13 0 [])) ∧
    (1 ≤ phase → phase ≤ 4 → s.keeper.incoming.get? m.vf = none → phase = Table.getD s.keeper.migrating m.vf 0 + 1 →
      (3 ≤ phase → s.vfOnSheds m.vf = false) → (phase = 4 → s.stillNamed m.vf = false ∧ early = false) →
      (phase = 2 → s.master.ready = false → exec (.migrate m phase) s = .next (s.awaitManaged (.migrate m phase))) ∧
      ((phase = 2 → s.master.ready = true) → ∃ t, exec (.migrate m phase) s = .next t ∧ t.Replied m 0 0 [] ∧
        (phase < 4 → Table.getD t.keeper.migrating m.vf 0 = phase) ∧
        (phase = 1 → ∃ o, t.keeper.outgoing.get? m.vf = some o ∧ o.copied = (s.mergePages m.vf).pages m.vf) ∧
        (phase = 3 → ∃ o, t.keeper.outgoing.get? m.vf = some o ∧ o.copied = (s.deliverAll.mergePages m.vf).pages m.vf) ∧
        (phase = 2 → ∀ g x, s.gangs.get? g = some x → vfOf x.vfq = m.vf → x.state = .resident → (t.gang g).switchAt.isSome = true) ∧
        (phase = 4 → t.vfs.get? m.vf = none ∧ (∀ e ∈ t.gangs, vfOf e.2.vfq ≠ m.vf) ∧
          ∀ n, vfOf n = m.vf → (t.queue n).source = none ∧ (t.queue n).cmds = []))) := by
  have early : s.forwards m.vf = (s.keeper.outgoing.get? m.vf).any fun o => decide (s.now < o.cutOver + 100000000) := by
    rw [State.forwards, forwardTicks]
  dsimp only
  rw [← early]
  exact ⟨migrate_out_refused h, migrate_out h⟩
end
end Sys2Proof.Machine

/-! SUPPORT. LAYUP and its restore, and the scrub of a shed (R341, R404 to R407). -/
namespace Sys2Proof.Machine

/-! ## What writes everything back leaves the variant of the package (R405) -/

theorem OnlyMemory.four {s t : State} (h : OnlyMemory s t) : t.four = s.four := by
  have same := congrArg State.four h
  exact same

/-- Steps that each leave the variant leave it together. -/
theorem foldl_four {α : Type} {f : State → α → State} (hf : ∀ t a, (f t a).four = t.four) (l : List α) (s : State) :
    (l.foldl f s).four = s.four :=
  List.foldlRecOn l f (motive := fun t : State => t.four = s.four) rfl fun t ht a _ => (hf t a).trans ht

theorem applyWrite_four (s : State) (id q : Nat) : (s.applyWrite id q).four = s.four := by
  unfold State.applyWrite
  split
  · rfl
  · dsimp only
    split
    · exact (onlyMemory_recode ..).four
    · rfl
theorem completeAmo_four (s : State) (id q : Nat) : (s.completeAmo id q).four = s.four := by
  unfold State.completeAmo
  split
  · rfl
  · split
    · split <;> rfl
    · rfl
theorem deliver_four (s : State) (id q : Nat) : (s.deliver id q).four = s.four := by
  unfold State.deliver
  split
  · rfl
  · split
    · rfl
    · rw [completeAmo_four, applyWrite_four]
theorem deliverAll_four (s : State) : s.deliverAll.four = s.four := by
  unfold State.deliverAll
  exact foldl_four (fun (t : State) (e : Nat × WriteRec) => foldl_four (fun u q => deliver_four u e.1 q) _ t) _ s
theorem durable_four (s : State) (id : Nat) (mirror : Bool) : (s.durable id mirror).four = s.four := by
  unfold State.durable State.copyTakes
  split
  · rfl
  · split
    · rfl
    · split
      · rfl
      · split
        · rfl
        · dsimp only
          split <;> rfl
theorem writeBack_four (s : State) : s.writeBack.four = s.four := by
  unfold State.writeBack
  dsimp only
  rw [foldl_four (fun t i => (durable_four ..).trans (durable_four ..)), deliverAll_four,
    foldl_four fun t l => (onlyMemory_mergeLine t l).four, deliverAll_four]
theorem mendPrimaries_four (s : State) : s.mendPrimaries.four = s.four := by
  unfold State.mendPrimaries
  rw [foldl_four fun _ _ => by rfl, foldl_four fun t a => (onlyMemory_correct t a).four]

/-! ## LAYUP (R405, R407) -/

/-- Bytes that a lay-up writes. -/
def layBytes (nq : Nat) (l : LayupBody) : Nat :=
  (if layGen l then 144 * 2 ^ 30 * nq else 0) + (if layLh l then 24 * 2 ^ 30 * nq else 0) + 16384

/-- A target that takes everything. -/
theorem stream_whole (s : State) (m : Mgmt) {l : LayupBody} (hl : l.refusesAt = none) : let t := s.stream m l
    t.keeper.paused = false ∧ t.Replied m 0 (BitVec.ofNat 64 (layBytes s.nq l)) [] := by
  have variant : (if layLh l then s.writeBack.mendPrimaries else s.writeBack).nq = s.nq := by
    unfold State.nq
    split
    · rw [mendPrimaries_four, writeBack_four]
    · rw [writeBack_four]
  unfold State.stream
  dsimp only
  rw [variant, hl]
  exact ⟨rfl, replied_reply ..⟩

/-- Every gang on its sheds that has no timestamp yet gets one. -/
theorem switchAll_decides {s : State} {g : Nat} {x : Gang} (hx : s.gangs.get? g = some x) (hr : x.state = .resident) :
    (s.switchAll.gang g).switchAt.isSome = true := by
  have known : s.gang g = x := by rw [State.gang, Table.getD, hx]; rfl
  unfold State.switchAll
  cases hsw : x.switchAt with
  | none =>
    refine decideSwitches_decides s _ false (List.mem_map.mpr ⟨(g, x), List.mem_filter.mpr ⟨Table.mem_of_get? hx, ?_⟩, rfl⟩) (by rw [known, hr])
    simp [hr, hsw]
  | some t =>
    unfold State.decideSwitches
    refine List.foldlRecOn _ _ (motive := fun u : State => (u.gang g).switchAt.isSome = true) ?_ fun u hu j _ => leaveAt_gang_decided u _ false hu
    exact (congrArg (fun v : Gang => v.switchAt.isSome) known).trans (congrArg Option.isSome hsw)

section
variable {s : State} {m : Mgmt} (h : s.Takes m)
include h

/-- A LAYUP whose header is legal. -/
theorem exec_layup {l : LayupBody} (hl : layupOk l = true) (hr : layRestore l = false) : exec (.layup m l) s = .next (
    if s.keeper.layAt.isNone && (s.containing || !s.master.ready) then { s with keeper := { s.keeper with paused := true } }
    else if s.anyOnSheds then
      let u : State := { s with keeper := { s.keeper with paused := true, layAt := some (s.keeper.layAt.getD s.now) } }
      if s.master.ready then u.switchAll else u
    else s.stream m l) := by
  have meaning : exec (.layup m l) s = execLayup m l s := rfl
  rw [meaning, execLayup, manage_of_takes h, hl, hr]
  rfl

theorem layup_goes (l : LayupBody) : ((layupOk l = false ∨ layRestore l = true) → exec (.layup m l) s = .next (s.reply m 1 0 [])) ∧
    (layupOk l = true → layRestore l = false → s.keeper.layAt = none → (s.containing = true ∨ s.master.ready = false) →
      exec (.layup m l) s = .next { s with keeper := { s.keeper with paused := true } }) ∧
    let begins : Prop := s.keeper.layAt.isSome = true ∨ s.containing = false
    (layupOk l = true → layRestore l = false → begins → s.master.ready = true → l.refusesAt = none → s.anyOnSheds = false →
      ∃ t, exec (.layup m l) s = .next t ∧ t.keeper.paused = false ∧ t.Replied m 0 (BitVec.ofNat 64 (layBytes s.nq l)) []) ∧
    (layupOk l = true → layRestore l = false → begins → s.master.ready = true → s.anyOnSheds = true →
      ∃ t, exec (.layup m l) s = .next t ∧ t.keeper.paused = true ∧
        ∀ g x, s.gangs.get? g = some x → x.state = .resident → (t.gang g).switchAt.isSome = true) := by
  have begun (begins : s.keeper.layAt.isSome = true ∨ s.containing = false) (hm : s.master.ready = true) :
      (s.keeper.layAt.isNone && (s.containing || !s.master.ready)) = false := by
    obtain laying | free := begins
    · rw [Option.isNone_eq_false_iff.mpr laying, Bool.false_and]
    · rw [free, hm]
      exact Bool.and_false _
  refine ⟨fun bad => ?_, fun hl hr hat held => ?_, fun hl hr begins hm htarget off => ?_, fun hl hr begins hm on => ?_⟩
  · have meaning : exec (.layup m l) s = execLayup m l s := rfl
    rw [meaning, execLayup, manage_of_takes h, if_pos]
    obtain bad | restore := bad
    · rw [bad]; rfl
    · rw [restore, Bool.or_true]
  · rw [exec_layup h hl hr, if_pos]
    rw [hat]
    obtain containing | noMaster := held
    · rw [containing]; rfl
    · rw [noMaster]
      exact Bool.or_true _
  · rw [exec_layup h hl hr, begun begins hm, off]
    exact ⟨_, rfl, stream_whole s m htarget⟩
  · rw [exec_layup h hl hr, begun begins hm, on, hm]
    refine ⟨_, rfl, ?_, fun g x hx resident => switchAll_decides hx resident⟩
    dsimp only
    rw [if_neg (by decide), if_pos rfl, if_pos rfl, State.switchAll, decideSwitches_frame]
end
end Sys2Proof.Machine

/-! SUPPORT. The restore of a lay-up, and the scrub of a shed (R341, R406). -/
namespace Sys2Proof.Machine

/-! ## Memories of all quarters changed alike -/

theorem memQ_foldl_each (f : Memory → Memory) (s : State) (p : Nat) :
    ((List.range 4).foldl (fun t q => t.setMemQ q (f (t.memQ q))) s).memQ p = f (s.memQ p) := by
  have four : List.range 4 = [0, 1, 2, 3] := rfl
  have same : ∀ t : State, t.memQ p = t.memQ (p % 4) := fun t => by simp [State.memQ]
  rw [same, same s, four]
  have lt : p % 4 < 4 := Nat.mod_lt _ (by decide)
  generalize p % 4 = r at lt
  interval_cases r <;> simp [State.memQ_setMemQ_ne]

theorem memQ_updOrd (s : State) (f : Order → Order) (h : (f s.ord).mem = s.ord.mem) (p : Nat) : (s.updOrd f).memQ p = s.memQ p := by
  simp only [State.memQ, State.updOrd, h]

/-- A byte other than the blank one is read back, whatever form the memory has. -/
theorem get_set_of_ne_blank (m : Memory) (k : Nat) {b : Byte} (hb : b ≠ Memory.blank) : (m.set k b).get k = b := by
  induction m with
  | nil => simp [Memory.set, hb, Memory.get]
  | cons e t ih =>
    obtain ⟨a, c⟩ := e
    unfold Memory.set
    rw [if_neg hb, if_neg hb]
    split
    · simp [Memory.get]
    · next ha =>
      split
      · simp [Memory.get]
      · rw [Memory.get, if_neg ha, ih]

/-! ## Where a lay-up holds a byte of general memory (R405, R406) -/

theorem nq_le (s : State) : s.nq ≤ 4 := by unfold State.nq; split <;> decide

/-- The restore of a byte of a layout: its place in it, and its location. -/
theorem layupLoc_eq_iff {s : State} {l : LayupBody} (hgen : layGen l = true) {a : Nat} (ha : s.exists_ a = true) (hl : physLayer a < 3) (off : Nat) :
    layupLoc s.nq l off = some a ↔ off = l.tbase.toNat + genOffset a := by
  have quarters := nq_le s
  obtain ⟨⟨small, inLayer⟩, inQuarter⟩ : (a < 2 ^ 40 ∧ physOff a < Config.layerBytes) ∧ physQtr a < s.nq := by
    simpa [State.exists_] using ha
  unfold Config.layerBytes at inLayer
  unfold physQtr at inQuarter
  unfold physLayer at hl
  unfold physOff at inLayer
  unfold layupLoc genOffset gib physQtr physLayer physOff
  dsimp only
  generalize l.tbase.toNat = base
  generalize s.nq = nq at *
  simp only [Nat.reducePow, Nat.reduceMul, hgen, if_true] at *
  have nowhere (h : off ≠ base + ((3 * (a / 274877906944 % 4) + a / 68719476736 % 4) * 51539607552 + a % 68719476736)) :
      (none = some a) ↔ off = base + ((3 * (a / 274877906944 % 4) + a / 68719476736 % 4) * 51539607552 + a % 68719476736) :=
    iff_of_false nofun h
  split
  · exact nowhere (by omega)
  · split
    · rw [Option.some.injEq]
      omega
    · split
      · split
        · rw [Option.some.injEq]
          omega
        · exact nowhere (by omega)
      · exact nowhere (by omega)

/-! ## LAYUP with RESTORE (R406) -/

theorem le_of_mem_wfFrom {m : Memory} {lo : Nat} (hw : Memory.wfFrom lo m = true) {c : Host.Cell} (hc : c ∈ m) : lo ≤ c.1 := by
  induction m generalizing lo with
  | nil => simp at hc
  | cons e m ih =>
    simp only [Memory.wfFrom, Bool.and_eq_true, decide_eq_true_eq] at hw
    obtain ⟨⟨low, -⟩, hrest⟩ := hw
    obtain rfl | hc := List.mem_cons.mp hc
    · exact low
    · have := ih hrest hc
      omega

/-- Cells of a target that are put at their locations: a location that one place of the target alone goes to gets the byte there. -/
theorem get_foldl_restored {loc : Nat → Option Nat} {a k : Nat} (hloc : ∀ off, loc off = some a ↔ off = k) {cells : Memory} {lo : Nat}
    (hc : Memory.wfFrom lo cells = true) (mm : Memory) (hmm : mm.get a = Memory.blank) :
    ((cells.filterMap fun c => (loc c.1).map fun a => (a, c.2)).foldl (fun mm c => Memory.set mm c.1 c.2) mm).get a = cells.get k := by
  have other (l : List Host.Cell) (m : Memory) (h : ∀ c ∈ l, c.1 ≠ k) :
      ((l.filterMap fun c => (loc c.1).map fun a => (a, c.2)).foldl (fun mm c => Memory.set mm c.1 c.2) m).get a = m.get a := by
    refine List.foldlRecOn _ _ (motive := fun t : Memory => t.get a = m.get a) rfl fun t ht e he => ?_
    obtain ⟨c, hcl, hce⟩ := List.mem_filterMap.mp he
    obtain ⟨x, hx, rfl⟩ := Option.map_eq_some_iff.mp hce
    rw [← ht]
    exact Memory.get_set_ne _ fun hax => h c hcl ((hloc c.1).mp (by rw [hx, hax]))
  induction cells generalizing lo mm with
  | nil => exact hmm
  | cons e cells ih =>
    obtain ⟨off, b⟩ := e
    simp only [Memory.wfFrom, Bool.and_eq_true, decide_eq_true_eq] at hc
    obtain ⟨⟨-, hb⟩, hrest⟩ := hc
    by_cases hk : off = k
    · have here : loc off = some a := (hloc off).mpr hk
      have above : ∀ c ∈ cells, c.1 ≠ k := fun c hcl he => by
        have := le_of_mem_wfFrom hrest hcl
        omega
      rw [List.filterMap_cons_some (b := (a, b)) (by rw [here]; rfl), List.foldl_cons, other cells _ above, get_set_of_ne_blank _ _ hb,
        Memory.get, if_pos hk]
    · rw [Memory.get, if_neg hk]
      cases hx : loc off with
      | none =>
        rw [List.filterMap_cons_none (by rw [hx]; rfl)]
        exact ih hrest mm hmm
      | some x =>
        rw [List.filterMap_cons_some (b := (x, b)) (by rw [hx]; rfl), List.foldl_cons]
        refine ih hrest _ ?_
        rw [Memory.get_set_ne _ fun hax => hk ((hloc off).mp (by rw [hx, hax])), hmm]

/-- A location whose bytes a restore takes from the target. -/
def restoredLoc (l : LayupBody) (a : Nat) : Bool :=
  !isPad a && (if physLayer a < 3 then layGen l else layLh l && decide (physOff a < Config.primaryBytes))

/-- A memory whose bytes there are those of the target. -/
def State.restored (s : State) (l : LayupBody) (mm : Memory) : Memory :=
  (l.cells.filterMap fun c => (layupLoc s.nq l c.1).map fun a => (a, c.2)).foldl (fun mm c => Memory.set mm c.1 c.2)
    (mm.filter fun c => !restoredLoc l c.1)

theorem restoreCells_general (s : State) {l : LayupBody} (hw : Memory.wf l.cells = true) (hgen : layGen l = true) (p : Nat) {a : Nat}
    (ha : s.exists_ a = true) (hl : physLayer a < 3) :
    (s.restoreCells l).byteQ p a = Memory.get l.cells (l.tbase.toNat + genOffset a) := by
  have plain : isPad a = false := by
    simp only [State.exists_, Bool.and_eq_true, decide_eq_true_eq] at ha
    exact decide_eq_false (Nat.not_le.mpr ha.1.1)
  have quarter : (s.restoreCells l).memQ p = s.restored l (s.memQ p) := by
    rw [← memQ_foldl_each (s.restored l) s p]
    unfold State.restoreCells State.restored restoredLoc
    exact memQ_updOrd _ _ rfl p
  have mine : restoredLoc l a = true := by
    rw [restoredLoc, plain, if_pos hl, hgen]
    rfl
  have cleared : Memory.get ((s.memQ p).filter fun c => !restoredLoc l c.1) a = Memory.blank := by
    rw [get_filter_key (fun k => !restoredLoc l k), mine]
    rfl
  rw [State.byteQ, quarter, State.restored, get_foldl_restored (layupLoc_eq_iff hgen ha hl) hw _ cleared]

section
variable {s : State} {m : Mgmt} (h : s.Takes m)
include h

theorem layupRestore_restores (l : LayupBody) :
    ((layupOk l = false ∨ layRestore l = false) → exec (.layupRestore m l) s = .next (s.reply m 1 0 [])) ∧
    (layupOk l = true → layRestore l = true →
      let clean := s.vfs.all (fun e => e.2.clean) && s.gangs.all (fun e => e.2.state = .complete || e.2.state = .failed)
      ((clean = false ∨ l.serial.toNat ≠ leAt s.keeper.identity 0 8) → exec (.layupRestore m l) s = .next (s.reply m 13 0 [])) ∧
      (clean = true → l.serial.toNat = leAt s.keeper.identity 0 8 → Memory.wf l.cells = true →
        ∃ t, exec (.layupRestore m l) s = .next t ∧ t.Replied m 0 0 [] ∧
          (layGen l = true → ∀ p a, s.exists_ a = true → physLayer a < 3 →
            t.byteQ p a = Memory.get l.cells (l.tbase.toNat + genOffset a)))) := by
  have meaning : exec (.layupRestore m l) s = execLayupRestore m l s := rfl
  rw [meaning, execLayupRestore, manage_of_takes h]
  have unclean : ((s.vfs.any fun e => !e.2.clean) || (s.gangs.any fun e => e.2.state ≠ .complete && e.2.state ≠ .failed)) =
      !(s.vfs.all (fun e => e.2.clean) && s.gangs.all (fun e => e.2.state = .complete || e.2.state = .failed)) := by
    simp [List.not_all_eq_any_not, Bool.not_and]
  refine ⟨fun bad => ?_, fun hl hr => ⟨fun refused => ?_, fun clean serial hw => ?_⟩⟩
  · rw [if_pos]
    obtain bad | plain := bad
    · rw [bad]; rfl
    · rw [plain]
      exact Bool.or_true _
  · rw [hl, hr, if_neg (by decide), unclean, if_pos]
    obtain bad | other := refused
    · rw [bad]; rfl
    · rw [decide_eq_true other, Bool.or_true]
  · rw [hl, hr, if_neg (by decide), unclean, clean, if_neg (by simp [serial])]
    exact ⟨_, rfl, replied_reply .., fun hgen p a ha hla => restoreCells_general s hw hgen p ha hla⟩
end

/-! ## SHED_SCRUB (R341) -/

theorem clearPad_blank (s : State) (d q : Nat) {a : Nat} (hlo : padLoc d 0 ≤ a) (hhi : a < padLoc d Config.padBytes) :
    (s.clearPad d).byteQ q a = 0 := by
  have quarter : (s.clearPad d).memQ q = Memory.clear (s.memQ q) (padLoc d 0) (padLoc d Config.padBytes) := by
    rw [← memQ_foldl_each (fun m => Memory.clear m (padLoc d 0) (padLoc d Config.padBytes)) s q]
    unfold State.clearPad
    exact memQ_updOrd _ _ rfl q
  have outside : (decide (a < padLoc d 0) || decide (padLoc d Config.padBytes ≤ a)) = false := by
    rw [decide_eq_false (Nat.not_lt.mpr hlo), decide_eq_false (Nat.not_le.mpr hhi)]
    rfl
  rw [State.byteQ, quarter, Memory.clear, get_filter_key (fun k => decide (k < padLoc d 0) || decide (padLoc d Config.padBytes ≤ k)), outside]
  rfl

theorem shedScrub_scrubs (d : Nat) (s : State) :
    ((s.shed d).scrub = false ∨ (s.shed d).gang.isSome = true → exec (.shedScrub d) s = .next s) ∧
    ((s.shed d).scrub = true → (s.shed d).gang = none → ∃ t, exec (.shedScrub d) s = .next t ∧ (t.shed d).scrub = false ∧
      (∀ q a, padLoc d 0 ≤ a → a < padLoc d Config.padBytes → t.byteQ q a = 0) ∧ (t.shed d).full = [] ∧
      t.core (3 * d) = Core.reset ∧ t.core (3 * d + 1) = Core.reset ∧ t.core (3 * d + 2) = Core.reset) := by
  have meaning : exec (.shedScrub d) s = execShedScrub d s := rfl
  rw [meaning, execShedScrub]
  dsimp only
  refine ⟨fun stays => ?_, fun waits free => ?_⟩
  · rw [if_pos]
    obtain clean | held := stays
    · rw [clean]; rfl
    · rw [held]
      exact Bool.or_true _
  · rw [waits, free, if_neg (by decide)]
    generalize List.foldl (fun t c => t.l1Flush c) s [3 * d, 3 * d + 1, 3 * d + 2] = flushed
    generalize hpad : flushed.clearPad d = cleared
    have blank : ∀ q a, padLoc d 0 ≤ a → a < padLoc d Config.padBytes → (cleared.memQ q).get a = 0 := fun q a hlo hhi => by
      rw [← hpad]
      exact clearPad_blank flushed d q hlo hhi
    have core (t : State) (i j : Nat) (v : Core) : (t.setCore i v).core j = if j = i then v else t.core j := State.core_setCore ..
    refine ⟨_, rfl, ?_, blank, ?_, ?_, ?_, ?_⟩
    · exact congrArg Shed.scrub (State.shed_setShed_self cleared d _)
    · exact congrArg Shed.full (State.shed_setShed_self cleared d _)
    · simp [core]
    · simp [core]
    · simp [core]
end Sys2Proof.Machine

/-! SUPPORT. O59 comes down to its clause on VFRESET. -/
namespace Sys2Proof.Machine

/-- VFRESET, with a master and without. -/
theorem exec_vfreset {s : State} {m : Mgmt} (h : s.Takes m) (release : Bool) : exec (.vfreset m release) s = .next (
    if s.master.ready then s.resetFunction m release else s.awaitManaged (.vfreset m release)) := by
  have meaning : exec (.vfreset m release) s = execVfreset m release s := rfl
  rw [meaning, execVfreset, manage_of_takes h]

theorem vfreset_waits {s : State} {m : Mgmt} (h : s.Takes m) (hm : s.master.ready = false) (release : Bool) :
    exec (.vfreset m release) s = .next (s.awaitManaged (.vfreset m release)) := by
  rw [exec_vfreset h, hm]
  rfl

/-- What O59 says of a VFRESET that is carried out. -/
def VfresetEnds (m : Mgmt) (s : State) : Prop :=
  ∀ release, ∃ t, exec (.vfreset m release) s = .next t ∧
    (∀ g, (s.gangs.get? g).isSome = true → vfOf (s.gang g).vfq = m.vf → (t.gang g).state = .complete ∨ (t.gang g).state = .failed) ∧
    ∀ n, vfOf n = m.vf → (∀ c ∈ (t.queue n).cmds, c.kind.ownRecord = false) ∧
      ∀ c ∈ (s.queue n).cmds,
        let ended : Prop := ∃ r ∈ (t.queue n).sent, r.seq = c.seq ∧ r.status = 4
        (c.kind.ownRecord = true → ended) ∧
        ∀ g, c.kind = .launch g → (s.gangs.get? g).isSome = true → (s.gang g).vfq = n → (s.gang g).seq = c.seq →
          (s.gang g).state ≠ .complete → (s.gang g).state ≠ .failed → (t.gang g).owed = some 4 ∨ ended

theorem keeper_iff : Obligations.KeeperCarriesOutManagementCommands ↔
    ∀ (m : Mgmt) (s : State), s.Takes m → s.master.ready = true → VfresetEnds m s := by
  unfold Obligations.KeeperCarriesOutManagementCommands
  constructor
  · intro h m s takes hm
    obtain ⟨-, accepted, -⟩ := h
    obtain ⟨-, -, -, -, -, -, -, -, -, reset, -⟩ := accepted m s takes.bound takes.present takes.header takes.signed
    exact reset hm
  · intro reset
    refine ⟨?_, ?_, shedScrub_scrubs⟩
    · intro m s full force release nonce b r c phase tb f l
      simp only [List.forall_mem_cons, List.not_mem_nil, false_imp_iff, implies_true, and_true]
      exact ⟨exec_of_check rfl, exec_of_check rfl, exec_of_check rfl, exec_of_check rfl, exec_of_check rfl, exec_of_check rfl,
        exec_of_check rfl, exec_of_check rfl, exec_of_check rfl, exec_of_check rfl, exec_of_check rfl, exec_of_check rfl, exec_of_check rfl⟩
    · intro m s bound present header signed
      have h : s.Takes m := ⟨bound, present, header, signed⟩
      exact ⟨ident_replies h, attest_replies h, errlog_clears h, bind_sets h, fun p => paddock_sets h, (paddock_clears h).1,
        (paddock_clears h).2, vfcfg_sets h, vfreset_waits h, reset m s h,
        fun phase => ⟨migrate_malformed h, (migrate_source h phase).1, (migrate_source h phase).2, fun i h1 h4 => migrate_in h h1 h4⟩, tables_load h, fwstage_stages h, fun force => fwact_malformed h,
        fun force small => ⟨fwact_unstaged h small, fun f => fwact_activates h small⟩, layup_goes h, layupRestore_restores h⟩
end Sys2Proof.Machine

/-! SUPPORT. O59 is neither provable nor refutable here: it holds if no signature verifies, and fails if one does. -/
namespace Sys2Proof.Machine

/-! ## VFRESET of a function whose saved supervisor gang a shed still names (R340, R342, R363) -/

/-- The entry of a peer table that names function 0 of this package. -/
def ownPeer : Peer := { kind := 1, perm := 1, vf := 0, pkg := Config.fabricAddress, members := [], queue := 0, rsv := 0 }
/-- Function 0, which names itself as its peer 1. -/
def loopCfg : VfCfg where
  uroot := some 0
  sroot := some 0
  grant := [{ base := 0, len := 0x1000000, dur := false }]
  keys := [5]
  arenaKey := 5
  abase := 0
  asize := 0x100000
  peers := [(1, ownPeer)]
  spBase := 0x800000
  spSize := 0x800000
  spKey := 5
  supQueue := some 0
  slice := 2000
  inject := true
/-- A `wsig` of core 0 to that peer. -/
def loopSignal : EngOp where
  core := 0
  ctx := 0
  func := 5
  addr := 0x10000
  desc := { dst := 0, src := 0, len := 0, flags := 0, peer := 1, place := 0, sig := 0x10000, sigval := 1, aux := 0, nidx := 0, elem := 0 }
  far := 0
  moved := []
  parked := []
  before := []
  set := []
  writes := []
  hash := []
  bad := false
  refused := false
/-- The supervisor gang of function 0 is SAVED, but shed 0 still names it, its control context there is READY, and its `wsig` is under way. -/
def stranded : State := { State.reset with
  gangs := [(1, { Gang.reset with state := .saved, sup := true })]
  sheds := [(0, { Shed.reset with gang := some 1 })]
  vfs := [(0, { Vf.reset with cfg := some loopCfg })]
  ctxs := [(0, { Ctx.reset with mode := .ready })]
  ord := { State.reset.ord with engines := [(4, loopSignal)] } }

/-- Has an operation units to come into a function of this package (R340, R342)? -/
def State.comesInto (s : State) (vf : Nat) (e : EngOp) : Bool :=
  EngOp.remains e && match s.farSide e with
    | .peer p => p.pkg = Config.fabricAddress && p.vf = vf
    | _ => false
theorem comesInto_of_peer {s : State} {vf : Nat} {e : EngOp} {p : Peer} (hr : e.remains = true) (hf : s.farSide e = .peer p)
    (hp : p.pkg = Config.fabricAddress) (hv : p.vf = vf) : s.comesInto vf e = true := by
  simp [State.comesInto, hr, hf, hp, hv]

/-- The gangs, whose saved operations apart, are those that the refusals of the operations on sheds leave. -/
theorem refuseInto_gang_state (s : State) (vf g : Nat) : ((s.refuseInto vf).gang g).state =
    (((s.ord.engines.filter fun e => s.comesInto vf e.2).foldl (fun t e => t.dropEngine e.1 e.2 26 e.2.addr 0) s).gang g).state := by
  unfold State.refuseInto
  dsimp only
  simp only [State.gang, Table.getD, Table.get?_mapVals]
  change _ = ((((s.ord.engines.filter fun e => e.2.remains && _).foldl _ s).gangs.get? g).getD Gang.reset).state
  cases Table.get? _ g <;> rfl

theorem payGang_vfs (s : State) (n : Nat) : (s.payGang n).vfs = s.vfs := by
  unfold State.payGang
  dsimp only
  split
  · rfl
  · split
    · rfl
    · exact completeNaming_vfs ..
/-- Only one operation is under way, and it comes into the function. -/
theorem refuseInto_single {s : State} {vf n : Nat} {e : EngOp} (he : s.ord.engines = [(n, e)]) (hc : s.comesInto vf e = true) (g : Nat) :
    ((s.refuseInto vf).gang g).state = ((s.dropEngine n e 26 e.addr 0).gang g).state := by
  rw [refuseInto_gang_state, he]
  simp [hc]
/-- A SAVED gang that fails leaves every function as it was. -/
theorem failOne_vfs_of_saved {s : State} {g : Nat} (h : (s.gang g).state = .saved) (status : Nat) : (s.failOne g status).vfs = s.vfs := by
  unfold State.failOne
  dsimp only
  rw [h, if_neg (by decide), if_pos rfl]
  exact payGang_vfs ..

theorem endCommands_cfg (s : State) (n status v : Nat) : ((s.endCommands n status).vf v).cfg = (s.vf v).cfg := by
  unfold State.endCommands
  dsimp only
  have records : (List.foldl (fun (t : State) (c : Cmd) => t.completeCmd n c.seq status 0) s ((s.queue n).cmds.filter (·.kind.ownRecord))).vfs
      = s.vfs :=
    List.foldlRecOn _ _ (motive := fun t : State => t.vfs = s.vfs) rfl fun t ht c _ => (completeNaming_vfs ..).trans ht
  rw [State.vf_updVf]
  simp only [State.vf, records]
  split
  · next h => rw [h]
  · rfl

/-- Its gang has failed, and its commands have ended. -/
def strandedFailed : State := ((List.range 4).map (4 * 0 + ·)).foldl (fun t n => t.endCommands n 4) (stranded.failOne 1 4)
theorem strandedFailed_engines : strandedFailed.ord.engines = [(4, loopSignal)] := by decide +kernel
theorem strandedFailed_farSide : strandedFailed.farSide loopSignal = .peer ownPeer := by
  have issuer : vfOf (strandedFailed.gang ((strandedFailed.gangOfCore loopSignal.core).getD 0)).vfq = 0 := by decide +kernel
  have configured : (strandedFailed.vf 0).cfg = some loopCfg := by
    refine List.foldlRecOn _ _ (motive := fun t : State => (t.vf 0).cfg = some loopCfg) ?_ fun t ht n _ => (endCommands_cfg ..).trans ht
    rw [State.vf, failOne_vfs_of_saved rfl]
    rfl
  rw [State.farSide, if_neg (by decide), issuer, State.peer, configured]
  rfl
/-- What the trap of the refused `wsig` leaves. -/
theorem signal_relaunches : ((strandedFailed.dropEngine 4 loopSignal 26 loopSignal.addr 0).gang 1).state = .ready := by decide +kernel
theorem strandedFailed_refused : ((strandedFailed.refuseInto 0).gang 1).state = .ready := by
  have comes : strandedFailed.comesInto 0 loopSignal = true :=
    comesInto_of_peer (by decide) strandedFailed_farSide rfl rfl
  exact (refuseInto_single strandedFailed_engines comes 1).trans signal_relaunches

/-- The units that a reset marks for a scrub, and all it does after that, leave every gang's state. -/
theorem resetFunction_gang_state {s : State} {m : Mgmt} (release : Bool) (g : Nat) :
    ((s.resetFunction m release).gang g).state = ((((List.range 4).map (4 * m.vf + ·)).foldl (fun t n => t.endCommands n 4)
      ((s.gangs.filter fun e => vfOf e.2.vfq = m.vf && e.2.state ≠ .complete && e.2.state ≠ .failed).foldl
        (fun t e => t.failOne e.1 4) s)).refuseInto m.vf |>.gang g).state := by
  unfold State.resetFunction
  dsimp only
  generalize State.refuseInto _ m.vf = refused
  have scrubs : ∀ sheds : List Nat, (sheds.foldl (fun t d => t.updShed d fun h => { h with scrub := true }) refused).gangs = refused.gangs :=
    fun sheds => List.foldlRecOn sheds _ (motive := fun t : State => t.gangs = refused.gangs) rfl fun _ ht _ _ => ht
  rw [reply_gang]
  exact congrArg (fun gangs => ((Table.get? gangs g).getD Gang.reset).state) (scrubs _)
theorem stranded_relaunched {m : Mgmt} (hm : m.vf = 0) (release : Bool) : ((stranded.resetFunction m release).gang 1).state = .ready := by
  rw [resetFunction_gang_state, hm]
  exact strandedFailed_refused

/-- If one signature of a command for function 0 verifies, O59 fails: a VFRESET of `stranded` leaves its gang READY. -/
theorem not_keeper_of_verified {m : Mgmt} (hheader : m.headerOk = true) (hsrc : m.src = 0) (hm : m.vf = 0)
    (hsig : Config.mldsaVerify 0 (Config.sha3x512 m.signed) m.sig = true) : ¬ Obligations.KeeperCarriesOutManagementCommands := by
  intro h
  have takes : stranded.Takes m := ⟨hsrc, rfl, hheader, hsig⟩
  obtain ⟨t, hexec, ended, -⟩ := keeper_iff.mp h m stranded takes rfl false
  have carried : exec (.vfreset m false) stranded = .next (stranded.resetFunction m false) := exec_vfreset takes false
  obtain rfl := Host.Outcome.next.inj (carried.symm.trans hexec)
  have atEnd := ended 1 rfl (by rw [hm]; rfl)
  rw [stranded_relaunched hm] at atEnd
  simp at atEnd

/-- If no signature verifies, O59 holds: no command is carried out. -/
theorem keeper_of_unsigned (h : ∀ m : Mgmt, Config.mldsaVerify 0 (Config.sha3x512 m.signed) m.sig = false) :
    Obligations.KeeperCarriesOutManagementCommands :=
  keeper_iff.mpr fun m _ takes => absurd takes.signed (by simp [h m])
end Sys2Proof.Machine

/-! SUPPORT. The clock and power instructions, the arbiter's choice, and its events (R161 to R175). -/
namespace Sys2Proof.Machine

/-! ## `clk.rd`, `clk.req`, `clk.ack` and `pwr.rd` (R174, R175) -/

section
variable {f : RR} {s : State}

theorem effClkRd_outside (h : 3 < (s.rx f.a).toNat) : effClkRd f s = .trap 23 (s.rx f.a) 0 := if_pos h
theorem clkRd_reads (hf : s.Fit (.clkRd f)) :
    (s.rx f.a = 0 → Completes (.clkRd f) s (s.wx f.d (s.shed s.myShed).clkGrant)) ∧
    (s.rx f.a = 1 → Completes (.clkRd f) s (s.wx f.d ((s.gang s.myGang).clkreq.zeroExtend 64))) ∧
    (s.rx f.a = 2 → Completes (.clkRd f) s (s.wx f.d (BitVec.ofNat 64 (s.shed s.myShed).lastChange))) ∧
    (s.rx f.a = 3 → Completes (.clkRd f) s (s.wx f.d (BitVec.ofNat 64 (s.gang s.myGang).mayChange))) := by
  refine ⟨fun h => ?_, fun h => ?_, fun h => ?_, fun h => ?_⟩ <;>
  · refine completes_of_done rfl hf ?_
    simp only [effClkRd, h]
    rfl

/-- The bits of a request above its 32. -/
theorem high_eq_zero_iff (w : Word) : w.extractLsb' 32 32 = (0 : BitVec 32) ↔ w.toNat < 2 ^ 32 := by
  have := w.isLt
  rw [← BitVec.toNat_inj, BitVec.extractLsb'_toNat, Nat.shiftRight_eq_div_pow]
  change _ = 0 ↔ _
  omega
/-- A request that `clk.req` refuses has bits above its 32 or a byte that is none. -/
theorem clkReq_refused_iff (w : Word) : (w.extractLsb' 32 32 ≠ (0 : BitVec 32) || !reqOk (w.setWidth 32)) = true ↔
    2 ^ 32 ≤ w.toNat ∨ reqOk (w.setWidth 32) = false := by
  rw [Bool.or_eq_true, decide_eq_true_iff, Bool.not_eq_true', ne_eq, high_eq_zero_iff, Nat.not_lt]

/-- The state in which an accepted request stands. -/
def State.requested (s : State) (f : RR) : State :=
  ((s.updGang s.myGang fun g => { g with clkreq := (s.rx f.a).setWidth 32 }).askEvaluate).wx f.d ((s.gang s.myGang).clkreq.zeroExtend 64)

theorem effClkReq_refused (h : 2 ^ 32 ≤ (s.rx f.a).toNat ∨ reqOk ((s.rx f.a).setWidth 32) = false) :
    effClkReq f s = .trap 23 (s.rx f.a) 0 := if_pos ((clkReq_refused_iff _).mpr h)
theorem effClkReq_accepted (hw : (s.rx f.a).toNat < 2 ^ 32) (hok : reqOk ((s.rx f.a).setWidth 32) = true) :
    effClkReq f s = .done (s.requested f) := by
  refine if_neg fun h => ?_
  rcases (clkReq_refused_iff _).mp h with h | h
  · omega
  · rw [hok] at h; cases h

theorem clkReq_replaces (hf : s.Fit (.clkReq f)) (hw : (s.rx f.a).toNat < 2 ^ 32) (hok : reqOk ((s.rx f.a).setWidth 32) = true) :
    ∃ t, Completes (.clkReq f) s t ∧ (t.gang s.myGang).clkreq = (s.rx f.a).setWidth 32 ∧ t.power.evaluate = true ∧ SameBytes s t ∧
      t.rx f.d = (if f.d = 0 then 0 else (s.gang s.myGang).clkreq.zeroExtend 64) ∧ ∀ r, r ≠ f.d → t.rx r = s.rx r := by
  refine ⟨s.requested f, completes_of_done rfl hf (effClkReq_accepted hw hok), ?_, rfl, fun _ _ => rfl, ?_, fun r hr => ?_⟩
  · exact congrArg Gang.clkreq (State.gang_updGang_self s s.myGang fun g => { g with clkreq := (s.rx f.a).setWidth 32 })
  · rw [State.requested, rx_wx, if_pos rfl]
  · rw [State.requested, rx_wx, if_neg hr]
    rfl

theorem effClkAck_outside (h : s.rx f.a &&& ~~~0x11 ≠ 0) : effClkAck f s = .trap 23 (s.rx f.a) 0 := if_pos h
theorem effClkAck_inside (h : s.rx f.a &&& ~~~0x11 = 0) : effClkAck f s =
    .done ((s.updMe fun c => { c with event := c.event &&& ~~~((s.rx f.a).setWidth 5) }).wx f.d ((s.eventBits s.cur).zeroExtend 64)) :=
  if_neg (not_not_intro h)

theorem effPwrRd_outside (h : 5 < (s.rx f.a).toNat) : effPwrRd f s = .trap 23 (s.rx f.a) 0 := if_pos h
theorem pwrRd_reads (hf : s.Fit (.pwrRd f)) :
    let q := s.queue (s.gang s.myGang).vfq
    (s.rx f.a = 0 → Completes (.pwrRd f) s (s.wx f.d (if q.budget = 0 then BitVec.allOnes 64 else BitVec.ofNat 64 (q.budget - q.energy)))) ∧
    (s.rx f.a = 1 → Completes (.pwrRd f) s (s.wx f.d (BitVec.ofNat 64 q.energy))) ∧
    (s.rx f.a = 2 → Completes (.pwrRd f) s (s.wx f.d (BitVec.ofNat 64 q.period))) ∧
    (s.rx f.a = 3 → Completes (.pwrRd f) s (s.wx f.d (BitVec.ofNat 64 (q.periodBegan s.now)))) ∧
    (s.rx f.a = 4 → Completes (.pwrRd f) s (s.wx f.d (BitVec.ofNat 64 s.est))) ∧
    (s.rx f.a = 5 → Completes (.pwrRd f) s (s.wx f.d (BitVec.ofNat 64 s.cap))) := by
  refine ⟨fun h => ?_, fun h => ?_, fun h => ?_, fun h => ?_, fun h => ?_, fun h => ?_⟩ <;>
  · refine completes_of_done rfl hf ?_
    simp only [effPwrRd, h]
    rfl
end

/-! ## The best entry (R164) -/

section
variable {α : Type} {better : α → α → Bool}

theorem pickBest_isSome {l : List α} (h : l ≠ []) : (pickBest better l).isSome = true := by
  cases l with
  | nil => exact absurd rfl h
  | cons a t =>
    rw [pickBest]
    split
    · rfl
    · split <;> rfl

/-- What is picked is of the list, and no entry has a lower measure where only an entry of no higher measure is better, and any of a lower
one is. -/
theorem pickBest_least {m : α → Nat} (hle : ∀ a b, better b a = true → m b ≤ m a) (hlt : ∀ a b, m b < m a → better b a = true) {l : List α}
    {e : α} (h : pickBest better l = some e) : e ∈ l ∧ ∀ d ∈ l, m e ≤ m d := by
  induction l generalizing e with
  | nil => cases h
  | cons a t ih =>
    rw [pickBest] at h
    split at h
    case h_1 hnone =>
      cases h
      have : t = [] := by
        by_contra hne
        have := pickBest_isSome (better := better) hne
        rw [hnone] at this
        cases this
      subst this
      simp
    case h_2 b hb =>
      obtain ⟨mem, least⟩ := ih hb
      split at h
      case isTrue hbetter =>
        cases h
        refine ⟨List.mem_cons_of_mem a mem, fun d hd => ?_⟩
        rcases List.mem_cons.mp hd with rfl | hd
        · exact hle _ _ hbetter
        · exact least d hd
      case isFalse hnot =>
        cases h
        refine ⟨List.mem_cons_self, fun d hd => ?_⟩
        rcases List.mem_cons.mp hd with rfl | hd
        · exact Nat.le_refl _
        · have : ¬m b < m a := fun hlt' => hnot (hlt a b hlt')
          exact (Nat.not_lt.mp this).trans (least d hd)
end

/-- Is entry b of a table of a lower score than entry a, or of its score and of higher tie codes? -/
def lowerScore (b a : Nat × Nat × Nat × Nat × Nat) : Bool :=
  decide (b.2.2.1 < a.2.2.1) || (b.2.2.1 = a.2.2.1 &&
    (decide (a.2.2.2.1 < b.2.2.2.1) || (a.2.2.2.1 = b.2.2.2.1 && decide (a.2.2.2.2 < b.2.2.2.2))))
/-- Is entry b of a table of less power than entry a? -/
def lowerPower (b a : Nat × Nat × Nat × Nat × Nat) : Bool := decide (b.2.1 < a.2.1)

theorem score_le_of_lowerScore {a b : Nat × Nat × Nat × Nat × Nat} (h : lowerScore b a = true) : b.2.2.1 ≤ a.2.2.1 := by
  simp only [lowerScore, Bool.or_eq_true, Bool.and_eq_true, decide_eq_true_eq] at h
  omega

section
variable {fits : Nat → Nat → Bool} {l : List (Nat × Nat × Nat × Nat × Nat)}

theorem bestEntry_of_pickBest {e : Nat × Nat × Nat × Nat × Nat} (h : pickBest lowerScore (l.filter fun e => fits e.1 e.2.1) = some e) :
    bestEntry fits l = e.1 := by
  unfold lowerScore at h
  rw [bestEntry, h]
theorem bestEntry_of_unfit {e : Nat × Nat × Nat × Nat × Nat} (hno : (l.filter fun e => fits e.1 e.2.1) = [])
    (h : pickBest lowerPower l = some e) : bestEntry fits l = e.1 := by
  unfold lowerPower at h
  rw [bestEntry, hno, pickBest, h]

/-- A fitting entry of least score. -/
theorem bestEntry_of_fit (h : ∃ e ∈ l, fits e.1 e.2.1 = true) : ∃ e ∈ l, e.1 = bestEntry fits l ∧ fits e.1 e.2.1 = true ∧
    ∀ d ∈ l, fits d.1 d.2.1 = true → e.2.2.1 ≤ d.2.2.1 := by
  have fitting : ∀ d, d ∈ (l.filter fun e => fits e.1 e.2.1) ↔ d ∈ l ∧ fits d.1 d.2.1 = true := fun d => List.mem_filter
  obtain ⟨d, hd, hfit⟩ := h
  obtain ⟨e, he⟩ := Option.isSome_iff_exists.mp
    (pickBest_isSome (better := lowerScore) (List.ne_nil_of_mem ((fitting d).mpr ⟨hd, hfit⟩)))
  obtain ⟨mem, least⟩ := pickBest_least (m := fun e => e.2.2.1) (fun a b => score_le_of_lowerScore)
    (fun a b h => by rw [lowerScore, decide_eq_true h, Bool.true_or]) he
  obtain ⟨hl, hfits⟩ := (fitting e).mp mem
  exact ⟨e, hl, (bestEntry_of_pickBest he).symm, hfits, fun d hd hfit => least d ((fitting d).mpr ⟨hd, hfit⟩)⟩

/-- Where no entry fits, one of least power. -/
theorem bestEntry_of_none (h : l ≠ []) (hno : ∀ e ∈ l, fits e.1 e.2.1 = false) :
    ∃ e ∈ l, e.1 = bestEntry fits l ∧ ∀ d ∈ l, e.2.1 ≤ d.2.1 := by
  have none : (l.filter fun e => fits e.1 e.2.1) = [] := List.filter_eq_nil_iff.mpr fun e he => by simp [hno e he]
  obtain ⟨e, he⟩ := Option.isSome_iff_exists.mp (pickBest_isSome (better := lowerPower) h)
  obtain ⟨mem, least⟩ := pickBest_least (m := fun e : Nat × Nat × Nat × Nat × Nat => e.2.1) (fun a b h => (of_decide_eq_true h).le) (fun a b h => decide_eq_true h) he
  exact ⟨e, mem, (bestEntry_of_unfit none he).symm, least⟩
end

/-! ## An evaluation (R162, R164, R165) -/

/-- What the arbiter leaves: the order machine, the contexts, and whether an evaluation is asked for. -/
structure Arbitrates (s t : State) : Prop where
  ord : t.ord = s.ord
  ctxs : t.ctxs = s.ctxs
  evaluate : t.power.evaluate = s.power.evaluate

theorem Arbitrates.refl (s : State) : Arbitrates s s := ⟨rfl, rfl, rfl⟩
theorem Arbitrates.trans {s t u : State} (hst : Arbitrates s t) (htu : Arbitrates t u) : Arbitrates s u :=
  ⟨htu.ord.trans hst.ord, htu.ctxs.trans hst.ctxs, htu.evaluate.trans hst.evaluate⟩
theorem Arbitrates.foldl {α : Type} {f : State → α → State} (hf : ∀ t a, Arbitrates t (f t a)) (s : State) (l : List α) :
    Arbitrates s (l.foldl f s) :=
  List.foldlRecOn l f (motive := Arbitrates s) (Arbitrates.refl s) fun t ht a _ => ht.trans (hf t a)
theorem arbitrates_power (s : State) {p : Power} (h : p.evaluate = s.power.evaluate) : Arbitrates s { s with power := p } := ⟨rfl, rfl, h⟩

theorem takeRows_evaluate (p : Power) (rows : List Nat) (e : Nat) : (p.takeRows rows e).evaluate = p.evaluate :=
  List.foldlRecOn rows _ (motive := fun q : Power => q.evaluate = p.evaluate) rfl fun q hq r _ => by
    split <;> exact hq
theorem takeQtr_evaluate (p : Power) (q e : Nat) : (p.takeQtr q e).evaluate = p.evaluate := by
  unfold Power.takeQtr
  split <;> rfl

theorem arbitrates_settleQtr (s : State) (members : List (Nat × Gang)) (q best : Nat) : Arbitrates s (s.settleQtr members q best) := by
  unfold State.settleQtr
  split
  · exact arbitrates_power s rfl
  · exact arbitrates_power s (takeQtr_evaluate ..)
theorem arbitrates_settleRows (s : State) (members : List (Nat × Gang)) (rows : List Nat) (best : Nat) :
    Arbitrates s (s.settleRows members rows best) := by
  unfold State.settleRows
  dsimp only
  split
  · exact arbitrates_power s (takeRows_evaluate ..)
  · exact arbitrates_power s (takeRows_evaluate ..)
theorem arbitrates_quarterStage (s : State) (gangs : List (Nat × Gang)) (q : Nat) : Arbitrates s (s.quarterStage gangs q) := by
  unfold State.quarterStage
  dsimp only
  split
  · exact Arbitrates.refl s
  · exact arbitrates_settleQtr ..
theorem arbitrates_rowStage (s : State) (grp : List (Nat × Gang)) : Arbitrates s (s.rowStage grp) := arbitrates_settleRows ..
theorem arbitrates_beginChange (s : State) (gs : List (Nat × Gang)) : Arbitrates s (s.beginChange gs) := by
  unfold State.beginChange
  refine Arbitrates.foldl (fun t e => ?_) s gs
  refine Arbitrates.trans (t := t.updGang e.1 fun v => { v with changeTick := t.now }) ⟨rfl, rfl, rfl⟩ (Arbitrates.foldl (fun u d => ?_) _ _)
  dsimp only
  split
  · exact Arbitrates.refl u
  · exact ⟨rfl, rfl, rfl⟩
theorem arbitrates_beginChanges (s old : State) (gangs : List (Nat × Gang)) : Arbitrates s (s.beginChanges old gangs) := by
  unfold State.beginChanges
  refine Arbitrates.trans ?_ (arbitrates_beginChange ..)
  exact arbitrates_power s rfl

/-- EVALUATE changes no memory and no context, and answers the request for it. -/
theorem arbitrate_leaves (s : State) : s.arbitrate.power.evaluate = false ∧ SameBytes s s.arbitrate ∧ s.arbitrate.ctxs = s.ctxs := by
  unfold State.arbitrate
  dsimp only
  generalize hs0 : ({ s with power := _ } : State) = s0
  have begun : s0.ord = s.ord ∧ s0.ctxs = s.ctxs ∧ s0.power.evaluate = false := by rw [← hs0]; exact ⟨rfl, rfl, rfl⟩
  obtain ⟨hord, hctxs, hev⟩ := begun
  have stages (gangs : List (Nat × Gang)) (groups : List (List (Nat × Gang))) : Arbitrates s0 ((groups.foldl (fun t g => t.rowStage g)
      ((List.range s.nq).foldl (fun t q => t.quarterStage gangs q) s0)).beginChanges s0 gangs) :=
    ((Arbitrates.foldl (fun t q => arbitrates_quarterStage t gangs q) s0 _).trans (Arbitrates.foldl arbitrates_rowStage _ groups)).trans
      (arbitrates_beginChanges ..)
  have done := stages s.onSheds ((grantGroups s.onSheds).foldr (insertGroup s.groupKey) [])
  exact ⟨done.evaluate.trans hev, sameBytes_of_mem (by rw [done.ord, hord]), done.ctxs.trans hctxs⟩

theorem capSelectChange_selects (s : State) (sel : BitVec 2) : ∃ t, exec (.capSelectChange sel) s = .next t ∧ t.power.capsel = sel ∧
    t.power.evaluate = true ∧ SameBytes s t ∧ t.ctxs = s.ctxs ∧ (sel = 0 → t.cap = s.power.capA) ∧ (sel = 1 → t.cap = s.power.capB) ∧
    (sel = 2 → t.cap = s.power.capC) := by
  refine ⟨_, rfl, rfl, rfl, fun _ _ => rfl, rfl, ?_, ?_, ?_⟩ <;>
  · rintro rfl
    rfl

theorem arbiterEvaluate_answers {s : State} (h : s.power.evaluate = true) : ∃ t, exec .arbiterEvaluate s = .next t ∧
    t.power.evaluate = false ∧ SameBytes s t ∧ t.ctxs = s.ctxs :=
  ⟨s.arbitrate, congrArg Host.Outcome.next (if_pos h), arbitrate_leaves s⟩

theorem exec_deferredEvaluation {s : State} {tick : Nat} {rest : List Nat} (h : s.power.deferred = tick :: rest) :
    exec .deferredEvaluation s =
      .next (if s.now < tick then s else ({ s with power := { s.power with deferred := rest } } : State).arbitrate) := by
  change execDeferredEvaluation s = _
  unfold execDeferredEvaluation
  rw [h]

/-! ## The end of a change (R167) -/

section
variable {α β : Type} {f : β → α → β} {pre post : β → Prop}

/-- What one entry of a list brings about, where the ones before it keep its condition and the ones after it what it has brought about. -/
theorem foldl_reaches {l₁ l₂ : List α} {a : α} {s : β} (before : ∀ t, ∀ b ∈ l₁, pre t → pre (f t b)) (sets : ∀ t, pre t → post (f t a))
    (after : ∀ t, ∀ b ∈ l₂, post t → post (f t b)) (h : pre s) : post ((l₁ ++ a :: l₂).foldl f s) := by
  rw [List.foldl_append, List.foldl_cons]
  exact List.foldlRecOn l₂ f (sets _ (List.foldlRecOn l₁ f h fun t ht b hb => before t b hb ht)) fun t ht b hb => after t b hb ht
end

/-- Contexts keep their modes, and event bit 0 where it is set. -/
def ShowsGrant (s t : State) : Prop :=
  ∀ k, (t.ctx k).mode = (s.ctx k).mode ∧ ((s.ctx k).event.getLsbD 0 = true → (t.ctx k).event.getLsbD 0 = true)
theorem ShowsGrant.of_same {s t : State} (h : t.ctxs = s.ctxs) : ShowsGrant s t := fun k => by
  rw [State.ctx, State.ctx, h]
  exact ⟨rfl, id⟩
theorem ShowsGrant.trans {s t u : State} (hst : ShowsGrant s t) (htu : ShowsGrant t u) : ShowsGrant s u := fun k =>
  ⟨(htu k).1.trans (hst k).1, fun h => (htu k).2 ((hst k).2 h)⟩
theorem ShowsGrant.foldl {α : Type} {f : State → α → State} (hf : ∀ t a, ShowsGrant t (f t a)) (s : State) (l : List α) :
    ShowsGrant s (l.foldl f s) :=
  List.foldlRecOn l f (motive := ShowsGrant s) (ShowsGrant.of_same rfl) fun t ht a _ => ht.trans (hf t a)

theorem setEvent_mode (c : Ctx) (b : BitVec 5) : (c.setEvent b).mode = c.mode := by unfold Ctx.setEvent; split <;> rfl
theorem setEvent_keeps (c : Ctx) (b : BitVec 5) (h : c.event.getLsbD 0 = true) : (c.setEvent b).event.getLsbD 0 = true := by
  unfold Ctx.setEvent
  split
  · rw [BitVec.getLsbD_or, h, Bool.true_or]
  · exact h
theorem setEvent_sets {c : Ctx} (h : c.mode.live = true) : (c.setEvent 1).event.getLsbD 0 = true := by
  rw [Ctx.setEvent, if_pos h, BitVec.getLsbD_or]
  simp
theorem showsGrant_updCtx (s : State) (j : Nat) : ShowsGrant s (s.updCtx j (·.setEvent 1)) := fun k => by
  rw [State.ctx_updCtx]
  split
  case isTrue h => subst h; exact ⟨setEvent_mode .., setEvent_keeps _ _⟩
  case isFalse => exact ⟨rfl, id⟩

/-- Event bit 0 is set in the contexts of a core. -/
def State.eventCore (s : State) (c : Nat) : State :=
  ((ctxsOfCore c).foldl (fun u k => u.updCtx k (·.setEvent 1)) s).updCore c fun v => { v with aside := v.aside.map (·.setEvent 1) }
theorem eachCtx_setEvent (s : State) (cores : List Nat) : s.eachCtx cores (·.setEvent 1) = cores.foldl State.eventCore s := rfl
theorem showsGrant_eventCore (s : State) (c : Nat) : ShowsGrant s (s.eventCore c) :=
  (ShowsGrant.foldl (fun t k => showsGrant_updCtx t k) s (ctxsOfCore c)).trans (ShowsGrant.of_same rfl)
theorem showsGrant_eachCtx (s : State) (cores : List Nat) : ShowsGrant s (s.eachCtx cores (·.setEvent 1)) :=
  ShowsGrant.foldl showsGrant_eventCore s cores

theorem eventCore_sets {s : State} {k : Nat} (h : (s.ctx k).mode.live = true) : ((s.eventCore (coreOfCtx k)).ctx k).event.getLsbD 0 = true := by
  obtain ⟨l₁, l₂, hl⟩ := List.append_of_mem (mem_ctxsOfCore.mpr (rfl : coreOfCtx k = coreOfCtx k))
  unfold State.eventCore
  rw [State.updCore_ctx, hl]
  exact foldl_reaches (pre := fun t : State => (t.ctx k).mode.live = true) (post := fun t : State => (t.ctx k).event.getLsbD 0 = true)
    (fun t j _ ht => by rw [(showsGrant_updCtx t j k).1]; exact ht)
    (fun t ht => by rw [State.ctx_updCtx_self]; exact setEvent_sets ht)
    (fun t j _ ht => (showsGrant_updCtx t j k).2 ht) h
theorem eachCtx_sets {s : State} {cores : List Nat} {k : Nat} (hk : coreOfCtx k ∈ cores) (h : (s.ctx k).mode.live = true) :
    ((s.eachCtx cores (·.setEvent 1)).ctx k).event.getLsbD 0 = true := by
  obtain ⟨l₁, l₂, rfl⟩ := List.append_of_mem hk
  rw [eachCtx_setEvent]
  exact foldl_reaches (pre := fun t : State => (t.ctx k).mode.live = true) (post := fun t : State => (t.ctx k).event.getLsbD 0 = true)
    (fun t c _ ht => by rw [(showsGrant_eventCore t c k).1]; exact ht)
    (fun t ht => eventCore_sets ht)
    (fun t c _ ht => (showsGrant_eventCore t c k).2 ht) h
/-- A change of the contexts of cores leaves all else. -/
theorem eachCtx_frame (s : State) (cores : List Nat) (f : Ctx → Ctx) :
    s.eachCtx cores f = { s with ctxs := (s.eachCtx cores f).ctxs, cores := (s.eachCtx cores f).cores } := by
  unfold State.eachCtx
  refine List.foldlRecOn cores _ (motive := fun t : State => t = { s with ctxs := t.ctxs, cores := t.cores }) rfl fun t ht c _ => ?_
  generalize hu : List.foldl _ t (ctxsOfCore c) = u
  have shown : u = { s with ctxs := u.ctxs, cores := u.cores } := by
    rw [← hu]
    refine List.foldlRecOn _ _ (motive := fun u : State => u = { s with ctxs := u.ctxs, cores := u.cores }) ht fun u hu k _ => ?_
    rw [hu]
    rfl
  rw [shown]
  rfl

/-- What a landed grant leaves: the tables and the gangs on sheds, by which every shed's codes are decided, what sheds outside a set show,
and of the contexts all but event bits that are set. -/
structure Lands (at_ : Nat → Prop) (s t : State) : Prop where
  power : t.power = s.power
  now : t.now = s.now
  gangOf : ∀ d, (t.shed d).gang = (s.shed d).gang
  others : ∀ d, ¬at_ d → (t.shed d).clkGrant = (s.shed d).clkGrant ∧ (t.shed d).lastChange = (s.shed d).lastChange
  shows : ShowsGrant s t

section
variable {at_ : Nat → Prop} {s t u : State}

theorem Lands.trans (hst : Lands at_ s t) (htu : Lands at_ t u) : Lands at_ s u :=
  ⟨htu.power.trans hst.power, htu.now.trans hst.now, fun d => (htu.gangOf d).trans (hst.gangOf d),
    fun d h => ⟨(htu.others d h).1.trans (hst.others d h).1, (htu.others d h).2.trans (hst.others d h).2⟩, hst.shows.trans htu.shows⟩
theorem Lands.mono {at' : Nat → Prop} (h : Lands at_ s t) (hsub : ∀ d, at_ d → at' d) : Lands at' s t :=
  ⟨h.power, h.now, h.gangOf, fun d hd => h.others d (mt (hsub d) hd), h.shows⟩
/-- A step that leaves all of it. -/
theorem Lands.of_same (hp : t.power = s.power) (hn : t.now = s.now) (hd : t.sheds = s.sheds) (hs : ShowsGrant s t) : Lands at_ s t :=
  ⟨hp, hn, fun d => by rw [State.shed, State.shed, hd], fun d _ => by rw [State.shed, State.shed, hd]; exact ⟨rfl, rfl⟩, hs⟩
theorem Lands.refl (s : State) : Lands at_ s s := Lands.of_same rfl rfl rfl (ShowsGrant.of_same rfl)
theorem Lands.foldl {α : Type} {f : State → α → State} {l : List α} (hf : ∀ t, ∀ a ∈ l, Lands at_ t (f t a)) (s : State) :
    Lands at_ s (l.foldl f s) :=
  List.foldlRecOn l f (motive := Lands at_ s) (Lands.refl s) fun t ht a ha => ht.trans (hf t a ha)

/-- The codes decided for a shed stand. -/
theorem Lands.grantCodes (h : Lands at_ s t) (d : Nat) : t.grantCodes d = s.grantCodes d := by
  have gangOf (e : Nat) : t.gangOfShed e = s.gangOfShed e := h.gangOf e
  have rows (key : Nat) : t.rowEntryOf key = s.rowEntryOf key := by
    have held : t.rowHeld key = s.rowHeld key := by simp only [State.rowHeld, gangOf]
    rw [State.rowEntryOf, held, h.power, State.rowEntryOf]
  have qtrs (q : Nat) : t.qtrEntryOf q = s.qtrEntryOf q := by
    have held : t.qtrHeld q = s.qtrHeld q := by simp only [State.qtrHeld, gangOf]
    rw [State.qtrEntryOf, held, h.power, State.qtrEntryOf]
  rw [State.grantCodes, rows, qtrs, h.power, State.grantCodes]
end

/-- A change of a shed's tags. -/
theorem lands_updShed {at_ : Nat → Prop} (s : State) (d : Nat) {f : Shed → Shed} (hg : ∀ h, (f h).gang = h.gang)
    (hc : ¬at_ d → ∀ h, (f h).clkGrant = h.clkGrant ∧ (f h).lastChange = h.lastChange) : Lands at_ s (s.updShed d f) := by
  refine ⟨rfl, rfl, fun e => ?_, fun e he => ?_, ShowsGrant.of_same rfl⟩
  · rw [State.shed_updShed]
    split
    case isTrue h => subst h; exact hg _
    case isFalse => rfl
  · rw [State.shed_updShed]
    split
    case isTrue h => subst h; exact hc he _
    case isFalse => exact ⟨rfl, rfl⟩
theorem lands_tagWrite {at_ : Nat → Prop} (s : State) (loc : Nat) (tag : Option Bool) (rel : Option (List Nat)) :
    Lands at_ s (s.tagWrite loc tag rel) := by
  cases tag with
  | none => exact Lands.refl s
  | some full =>
    have tagged : Lands at_ s (s.setTag loc full) := lands_updShed s _ (fun _ => rfl) fun _ _ => ⟨rfl, rfl⟩
    have released : Lands at_ (s.setTag loc full) (s.tagWrite loc (some full) rel) := by
      unfold State.tagWrite
      exact lands_updShed _ _ (fun _ => rfl) fun _ _ => ⟨rfl, rfl⟩
    exact tagged.trans released
theorem OnlyMemory.power {s t : State} (h : OnlyMemory s t) : t.power = s.power := by
  have same := congrArg State.power h
  exact same
theorem recode_sheds (s : State) (loc : Nat) : (s.recode loc).sheds = s.sheds := by
  unfold State.recode
  dsimp only
  split <;> rfl
theorem lands_perform {at_ : Nat → Prop} (s : State) (who id q loc : Nat) (mask : BitVec 8) (val : Word) (tag : Option Bool)
    (rel : Option (List Nat)) (atom merged bad : Bool) : Lands at_ s (s.perform who id q loc mask val tag rel atom merged bad) := by
  unfold State.perform
  dsimp only
  generalize hw : (s.setMemQ q ((s.memQ q).setDword loc mask val)).setWrite id _ = t
  have written : Lands at_ s t := by
    rw [← hw]
    exact Lands.of_same rfl rfl rfl (ShowsGrant.of_same rfl)
  have coded : Lands at_ s (if home loc = q then t.recode loc else t) := by
    split
    · have only := onlyMemory_recode t loc
      exact written.trans (Lands.of_same only.power only.now (recode_sheds t loc) (ShowsGrant.of_same only.ctxs))
    · exact written
  exact (coded.trans (lands_tagWrite ..)).trans (Lands.of_same rfl rfl rfl (ShowsGrant.of_same rfl))
theorem lands_writeNote {at_ : Nat → Prop} (s : State) (g : Gang) (d : Nat) : Lands at_ s (s.writeNote g d) := by
  unfold State.writeNote
  dsimp only
  split
  · exact Lands.trans (t := s.tickNext) (Lands.of_same rfl rfl rfl (ShowsGrant.of_same rfl)) (lands_perform ..)
  · exact Lands.refl s

/-- A shed as a grant with the next SEQ lands on it. -/
def Shed.granted (s : State) (d : Nat) (h : Shed) : Shed :=
  { h with clkGrant := s.grantCodes d ||| BitVec.ofNat 64 ((grantSeq (s.shed d).clkGrant + 1) % 2 ^ 16 * 2 ^ 32), lastChange := s.now }
theorem landGrant_eq (s : State) (g : Gang) (d : Nat) : s.landGrant g d =
    ((s.updShed d (Shed.granted s d)).writeNote g d).eachCtx [3 * d, 3 * d + 1, 3 * d + 2] (·.setEvent 1) := rfl
theorem granted_gang (s : State) (d : Nat) (h : Shed) : (Shed.granted s d h).gang = h.gang := by rw [Shed.granted]
theorem granted_shows (s : State) (d : Nat) (h : Shed) :
    (Shed.granted s d h).clkGrant = s.grantCodes d ||| BitVec.ofNat 64 ((grantSeq (s.shed d).clkGrant + 1) % 2 ^ 16 * 2 ^ 32) ∧
    (Shed.granted s d h).lastChange = s.now := ⟨rfl, rfl⟩
theorem eachCtx_sheds (s : State) (cores : List Nat) (f : Ctx → Ctx) : (s.eachCtx cores f).sheds = s.sheds := by rw [eachCtx_frame]
theorem eachCtx_shed (s : State) (cores : List Nat) (f : Ctx → Ctx) (d : Nat) : (s.eachCtx cores f).shed d = s.shed d := by
  rw [State.shed, eachCtx_sheds, State.shed]
theorem lands_eachCtx {at_ : Nat → Prop} (s : State) (cores : List Nat) : Lands at_ s (s.eachCtx cores (·.setEvent 1)) :=
  Lands.of_same (by rw [eachCtx_frame]) (by rw [eachCtx_frame]) (eachCtx_sheds ..) (showsGrant_eachCtx s cores)

theorem lands_landGrant (s : State) (g : Gang) (d : Nat) : Lands (· = d) s (s.landGrant g d) := by
  have granted : Lands (· = d) s (s.updShed d (Shed.granted s d)) := lands_updShed s d (granted_gang s d) fun h => absurd rfl h
  rw [landGrant_eq]
  exact (granted.trans (lands_writeNote ..)).trans (lands_eachCtx ..)
theorem mem_cores_of_shed {k d : Nat} (h : shedOfCtx k = d) : coreOfCtx k ∈ [3 * d, 3 * d + 1, 3 * d + 2] := by
  simp only [shedOfCtx, coreOfCtx, List.mem_cons, List.not_mem_nil, or_false] at h ⊢
  omega
/-- A grant that lands: the shed's codes with the next SEQ, the tick, and event bit 0 of its live contexts. -/
theorem landGrant_shows (s : State) (g : Gang) (d : Nat) :
    ((s.landGrant g d).shed d).clkGrant =
      s.grantCodes d ||| BitVec.ofNat 64 ((grantSeq (s.shed d).clkGrant + 1) % 2 ^ 16 * 2 ^ 32) ∧
    ((s.landGrant g d).shed d).lastChange = s.now ∧
    ∀ k, shedOfCtx k = d → (s.ctx k).mode.live = true → ((s.landGrant g d).ctx k).event.getLsbD 0 = true := by
  have noted : Lands (fun _ => False) (s.updShed d (Shed.granted s d)) ((s.updShed d (Shed.granted s d)).writeNote g d) := lands_writeNote ..
  obtain ⟨grant, change⟩ := noted.others d id
  rw [State.shed_updShed_self] at grant change
  rw [landGrant_eq, eachCtx_shed, grant, change]
  refine ⟨(granted_shows ..).1, (granted_shows ..).2, fun k hk hlive => eachCtx_sets (mem_cores_of_shed hk) ?_⟩
  rw [(noted.shows k).1]
  exact hlive

/-! ### The sheds that a transition's end touches -/

/-- The transitions that have run their ticks are over. -/
def State.movesEnded (s : State) : State := { s with power := { s.power with
  rowMove := s.power.rowMove.filter fun e => !s.moveOver e.2
  qtrMove := s.power.qtrMove.filter fun e => !s.moveOver e.2 } }
/-- Has a transition of the shed's row or quarter ended, and goes no other on there? -/
def State.settles (s : State) (d : Nat) : Bool :=
  (((s.power.rowMove.filter fun e => s.moveOver e.2).any fun e => e.1 = rowKey d) ||
    (s.power.qtrMove.filter fun e => s.moveOver e.2).any fun e => e.1 = qtrOfShed d) &&
  !((s.movesEnded.power.rowMove.any fun e => e.1 = rowKey d) || s.movesEnded.power.qtrMove.any fun e => e.1 = qtrOfShed d)
/-- Does a gang take part in the end of a change: it runs on its sheds? -/
def Gang.takesGrant (g : Gang) : Bool := g.state = .resident || (g.state = .switching && g.switchAt.isSome)
/-- A settled shed of a gang: its mark ends, or it shows its new codes. -/
def State.settleShed (g : Gang) (u : State) (d : Nat) : State :=
  if grantView (u.shed d).clkGrant = u.grantCodes d then u.updShed d fun h => { h with clkGrant := h.clkGrant &&& ~~~(0x80000000 : Word) }
  else u.landGrant g d
/-- The settled sheds of a gang. -/
def State.settleGang (s u : State) (g : Gang) : State := (g.sheds.filter s.settles).foldl (State.settleShed g) u

theorem exec_clockTransitionEnd (s : State) : exec .clockTransitionEnd s =
    .next ((s.gangs.filter fun e => e.2.takesGrant).foldl (fun t e => s.settleGang t e.2) s.movesEnded) := rfl

theorem lands_settleShed (g : Gang) (u : State) (d : Nat) : Lands (· = d) u (State.settleShed g u d) := by
  unfold State.settleShed
  split
  · exact lands_updShed u d (fun _ => rfl) fun h => absurd rfl h
  · exact lands_landGrant ..
theorem lands_settleGang (s u : State) (g : Gang) : Lands (· ∈ g.sheds) u (s.settleGang u g) :=
  Lands.foldl (fun t d hd => (lands_settleShed g t d).mono fun _ he => he ▸ List.mem_of_mem_filter hd) u
theorem lands_settleGangs {at_ : Nat → Prop} (s u : State) (gs : List (Nat × Gang)) (h : ∀ e ∈ gs, ∀ d ∈ e.2.sheds, at_ d) :
    Lands at_ u (gs.foldl (fun t e => s.settleGang t e.2) u) :=
  Lands.foldl (fun t e he => (lands_settleGang s t e.2).mono (h e he)) u

theorem movesEnded_grantCodes (s : State) (d : Nat) : s.movesEnded.grantCodes d = s.grantCodes d := rfl
theorem moveOver_iff (s : State) (m : Nat × Nat) : s.moveOver m = true ↔ m.1 + 2000 ≤ s.now := decide_eq_true_iff

theorem settles_of_over {s : State} {d : Nat} (hrow : ∃ e ∈ s.power.rowMove, e.1 = rowKey d ∧ e.2.1 + 2000 ≤ s.now)
    (hrows : ∀ e ∈ s.power.rowMove, e.1 = rowKey d → e.2.1 + 2000 ≤ s.now)
    (hqtrs : ∀ e ∈ s.power.qtrMove, e.1 = qtrOfShed d → e.2.1 + 2000 ≤ s.now) : s.settles d = true := by
  obtain ⟨e, he, hkey, hover⟩ := hrow
  have touched : ((s.power.rowMove.filter fun e => s.moveOver e.2).any fun e => e.1 = rowKey d) = true :=
    List.any_eq_true.mpr ⟨e, List.mem_filter.mpr ⟨he, (moveOver_iff s e.2).mpr hover⟩, decide_eq_true hkey⟩
  have still {l : Table (Nat × Nat)} {key : Nat} (h : ∀ e ∈ l, e.1 = key → e.2.1 + 2000 ≤ s.now) :
      ((l.filter fun e => !s.moveOver e.2).any fun e => e.1 = key) = false := by
    refine List.any_eq_false.mpr fun e he hk => ?_
    obtain ⟨mem, going⟩ := List.mem_filter.mp he
    rw [(moveOver_iff s e.2).mpr (h e mem (of_decide_eq_true hk))] at going
    cases going
  rw [State.settles, touched, State.movesEnded, still hrows, still hqtrs]
  rfl

/-- A shed of a gang that settles once: its codes stood and its mark ends, or its new codes land. -/
theorem settleGang_shows {s u : State} {g : Gang} (hn : g.sheds.Nodup) {d : Nat} (hd : d ∈ g.sheds) (hs : s.settles d = true) :
    let old := (u.shed d).clkGrant
    let t := s.settleGang u g
    (grantView old = u.grantCodes d → (t.shed d).clkGrant = old &&& ~~~0x80000000) ∧
    (grantView old ≠ u.grantCodes d → (t.shed d).clkGrant =
        u.grantCodes d ||| BitVec.ofNat 64 ((grantSeq old + 1) % 2 ^ 16 * 2 ^ 32) ∧ (t.shed d).lastChange = u.now ∧
      ∀ k, shedOfCtx k = d → (u.ctx k).mode.live = true → (t.ctx k).event.getLsbD 0 = true) := by
  dsimp only
  obtain ⟨l₁, l₂, hl⟩ := List.append_of_mem (List.mem_filter.mpr ⟨hd, hs⟩)
  have once : (l₁ ++ d :: l₂).Nodup := hl ▸ hn.filter _
  have apart : (∀ e ∈ l₁, d ≠ e) ∧ ∀ e ∈ l₂, d ≠ e := by
    simp only [List.nodup_append, List.nodup_cons, List.mem_cons] at once
    exact ⟨fun e he h => once.2.2 e he d (.inl rfl) h.symm, fun e he h => once.2.1.1 (h ▸ he)⟩
  have first : Lands (· ∈ l₁) u (l₁.foldl (State.settleShed g) u) :=
    Lands.foldl (fun t e he => (lands_settleShed g t e).mono fun x hx => hx ▸ he) u
  have rest (v : State) : Lands (· ∈ l₂) v (l₂.foldl (State.settleShed g) v) :=
    Lands.foldl (fun t e he => (lands_settleShed g t e).mono fun x hx => hx ▸ he) v
  have split : s.settleGang u g = l₂.foldl (State.settleShed g) (State.settleShed g (l₁.foldl (State.settleShed g) u) d) := by
    rw [State.settleGang, hl, List.foldl_append, List.foldl_cons]
  have old := (first.others d fun h => apart.1 d h rfl).1
  have kept := (rest (State.settleShed g (l₁.foldl (State.settleShed g) u) d)).others d fun h => apart.2 d h rfl
  have shown := (rest (State.settleShed g (l₁.foldl (State.settleShed g) u) d)).shows
  rw [← split] at kept shown
  generalize l₁.foldl (State.settleShed g) u = v at first old kept shown
  rw [State.settleShed, old, first.grantCodes] at kept shown
  refine ⟨fun h => ?_, fun h => ?_⟩
  · rw [kept.1, if_pos h, State.shed_updShed_self, old]
  · rw [if_neg h] at kept shown
    obtain ⟨grant, change, events⟩ := landGrant_shows v g d
    refine ⟨by rw [kept.1, grant, first.grantCodes, old], by rw [kept.2, change, first.now], fun k hk hlive => ?_⟩
    exact (shown k).2 (events k hk (by rw [(first.shows k).1]; exact hlive))

theorem clockTransitionEnd_lands (s : State) : ∃ t, exec .clockTransitionEnd s = .next t ∧
    (∀ e ∈ t.power.rowMove, s.now < e.2.1 + 2000) ∧ (∀ e ∈ t.power.qtrMove, s.now < e.2.1 + 2000) ∧
    let runs (g : Gang) : Bool := g.state = .resident || (g.state = .switching && g.switchAt.isSome)
    (∀ d, (∀ e ∈ s.gangs, runs e.2 = true → d ∉ e.2.sheds) → (t.shed d).clkGrant = (s.shed d).clkGrant) ∧
    ∀ n g, s.gangs.filter (fun e => runs e.2) = [(n, g)] → g.sheds.Nodup → ∀ d ∈ g.sheds,
      (∃ e ∈ s.power.rowMove, e.1 = rowKey d ∧ e.2.1 + 2000 ≤ s.now) →
      (∀ e ∈ s.power.rowMove, e.1 = rowKey d → e.2.1 + 2000 ≤ s.now) →
      (∀ e ∈ s.power.qtrMove, e.1 = qtrOfShed d → e.2.1 + 2000 ≤ s.now) →
      let old := (s.shed d).clkGrant
      (grantView old = s.grantCodes d → (t.shed d).clkGrant = old &&& ~~~0x80000000) ∧
      (grantView old ≠ s.grantCodes d → (t.shed d).clkGrant =
          s.grantCodes d ||| BitVec.ofNat 64 ((grantSeq old + 1) % 2 ^ 16 * 2 ^ 32) ∧ (t.shed d).lastChange = s.now ∧
        ∀ k, shedOfCtx k = d → (s.ctx k).mode.live = true → (t.ctx k).event.getLsbD 0 = true) := by
  have power := (lands_settleGangs (at_ := fun _ => True) s s.movesEnded (s.gangs.filter fun e => e.2.takesGrant) fun _ _ _ _ => trivial).power
  have going {l : Table (Nat × Nat)} : ∀ e ∈ l.filter (fun e => !s.moveOver e.2), s.now < e.2.1 + 2000 := fun e he => by
    have := (List.mem_filter.mp he).2
    rw [Bool.not_eq_true', Bool.eq_false_iff, ne_eq, moveOver_iff] at this
    omega
  refine ⟨_, exec_clockTransitionEnd s, ?_, ?_, fun d hd => ?_, fun n g hg hn d hd hrow hrows hqtrs => ?_⟩
  · rw [power]; exact going
  · rw [power]; exact going
  · refine ((lands_settleGangs (at_ := fun e => e ≠ d) s s.movesEnded _ fun e he f hf hfd => ?_).others d fun h => h rfl).1
    obtain ⟨mem, runs⟩ := List.mem_filter.mp he
    exact hd e mem runs (hfd ▸ hf)
  · have alone : s.gangs.filter (fun e => e.2.takesGrant) = [(n, g)] := hg
    rw [alone]
    exact settleGang_shows (u := s.movesEnded) hn hd (settles_of_over hrow hrows hqtrs)

/-! ## Energy (R169 to R172) -/

/-- What the levels of a queue leave: every queue's charge and every gang's activity counters. -/
structure KeepsCharge (s t : State) : Prop where
  charge : ∀ n, (t.queue n).charge = (s.queue n).charge
  activity : ∀ g, (t.gang g).activity = (s.gang g).activity

theorem KeepsCharge.refl (s : State) : KeepsCharge s s := ⟨fun _ => rfl, fun _ => rfl⟩
theorem KeepsCharge.trans {s t u : State} (hst : KeepsCharge s t) (htu : KeepsCharge t u) : KeepsCharge s u :=
  ⟨fun n => (htu.charge n).trans (hst.charge n), fun g => (htu.activity g).trans (hst.activity g)⟩
theorem keepsCharge_setQueue (s : State) (n : Nat) {q : Queue} (h : q.charge = (s.queue n).charge) : KeepsCharge s (s.setQueue n q) := by
  refine ⟨fun m => ?_, fun _ => rfl⟩
  rw [State.queue_setQueue]
  split
  case isTrue hm => rw [h, hm]
  case isFalse => rfl
theorem keepsCharge_warnQueue (s : State) (n : Nat) (set : Bool) : KeepsCharge s (s.warnQueue n set) := by
  unfold State.warnQueue
  dsimp only
  rw [eachCtx_frame]
  exact ⟨fun _ => rfl, fun _ => rfl⟩
theorem keepsCharge_askEvaluate (s : State) : KeepsCharge s s.askEvaluate := ⟨fun _ => rfl, fun _ => rfl⟩
theorem leaveAt_activity (s : State) (g t : Nat) (drop : Bool) (j : Nat) :
    ((s.leaveAt g t drop).gang j).activity = (s.gang j).activity := by
  by_cases hj : j = g
  · subst hj
    unfold State.leaveAt
    dsimp only
    split
    · rw [State.gang_updGang_self]
    · split
      · rfl
      · rw [journal_gang, State.gang_updGang_self]
  · rw [leaveAt_gang_ne s t drop hj]
theorem keepsCharge_decideSwitches (s : State) (gs : List Nat) (drop : Bool) : KeepsCharge s (s.decideSwitches gs drop) := by
  refine ⟨fun n => by rw [State.queue, decideSwitches_queues, State.queue], fun j => ?_⟩
  unfold State.decideSwitches
  exact List.foldlRecOn gs _ (motive := fun t : State => (t.gang j).activity = (s.gang j).activity) rfl fun t ht g _ =>
    (leaveAt_activity t g _ drop j).trans ht
theorem keepsCharge_dueSwitch (s : State) (n : Nat) : KeepsCharge s (s.dueSwitch n) := by
  unfold State.dueSwitch
  dsimp only
  split
  · exact KeepsCharge.refl s
  · exact (keepsCharge_setQueue s n (q := { s.queue n with switchDue := false }) rfl).trans (keepsCharge_decideSwitches ..)
theorem keepsCharge_levels (s : State) (n : Nat) : KeepsCharge s (s.levels n) := by
  unfold State.levels
  dsimp only
  generalize hw : (if (!(s.queue n).warned && (s.queue n).atLevel) = true then _ else s) = t
  have warned : KeepsCharge s t := by
    rw [← hw]
    split
    · exact ((keepsCharge_setQueue s n (q := { s.queue n with warned := true }) rfl).trans (keepsCharge_warnQueue ..)).trans
        (keepsCharge_askEvaluate _)
    · exact KeepsCharge.refl s
  split
  · exact warned.trans ((keepsCharge_setQueue t n (q := { t.queue n with exhausted := true, switchDue := true }) rfl).trans
      (keepsCharge_dueSwitch ..))
  · exact warned

/-- Is a gang on its sheds, so that its counters are charged? -/
def Gang.charged (g : Gang) : Bool := g.state = .resident || g.state = .switching || g.state = .restoring
/-- The counters of one gang are charged to its queue and cleared. -/
def State.chargeGang (t : State) (e : Nat × Gang) : State :=
  (({ t with free := t.free + 7 }.updGang e.1 fun v => { v with activity := Vector.replicate 7 0 }).updQueue e.2.vfq fun q =>
    { q with charge := q.charge + t.gangEnergy e.2 }).levels e.2.vfq
theorem chargeEnergy_eq (s : State) : s.chargeEnergy =
    (s.gangs.filter fun e => e.2.charged).foldl State.chargeGang s := rfl

theorem chargeGang_charge (t : State) (e : Nat × Gang) (n : Nat) : (t.queue n).charge ≤ ((t.chargeGang e).queue n).charge := by
  unfold State.chargeGang
  rw [(keepsCharge_levels ..).charge, State.queue_updQueue]
  split
  case isTrue h => subst h; exact Nat.le_add_right ..
  case isFalse => exact Nat.le_refl _
theorem chargeGang_activity (t : State) (e : Nat × Gang) (g : Nat) :
    ((t.chargeGang e).gang g).activity = if g = e.1 then Vector.replicate 7 0 else (t.gang g).activity := by
  unfold State.chargeGang
  rw [(keepsCharge_levels ..).activity, State.updQueue_gang, State.gang_updGang]
  split <;> rfl

theorem chargeEnergy_charge (s : State) (n : Nat) : (s.queue n).charge ≤ (s.chargeEnergy.queue n).charge := by
  rw [chargeEnergy_eq]
  exact List.foldlRecOn _ State.chargeGang (motive := fun t : State => (s.queue n).charge ≤ (t.queue n).charge) (Nat.le_refl _)
    fun t ht e _ => ht.trans (chargeGang_charge t e n)
theorem chargeEnergy_clears {s : State} {e : Nat × Gang} (he : e ∈ s.gangs) (h : e.2.state = .resident) :
    (s.chargeEnergy.gang e.1).activity = Vector.replicate 7 0 := by
  obtain ⟨l₁, l₂, hl⟩ := List.append_of_mem (List.mem_filter (p := fun e => e.2.charged).mpr ⟨he, by rw [Gang.charged, h]; rfl⟩)
  rw [chargeEnergy_eq, hl]
  refine foldl_reaches (pre := fun _ => True) (post := fun t : State => (t.gang e.1).activity = Vector.replicate 7 0)
    (fun _ _ _ _ => trivial) (fun t _ => by rw [chargeGang_activity, if_pos rfl]) (fun t d _ ht => ?_) trivial
  rw [chargeGang_activity]
  split
  · rfl
  · exact ht

theorem energyCharge_charges {s : State} (h : s.now % 1000 = 0) : ∃ t, exec .energyCharge s = .next t ∧ SameBytes s t ∧
    (∀ n, (s.queue n).charge ≤ (t.queue n).charge) ∧
    ∀ e ∈ s.gangs, e.2.state = .resident → (t.gang e.1).activity = Vector.replicate 7 0 :=
  ⟨s.chargeEnergy, congrArg Host.Outcome.next (if_neg (not_not_intro h)), sameBytes_of_mem (by rw [(keepsWork_chargeEnergy s).ord]),
    chargeEnergy_charge s, fun _ he hr => chargeEnergy_clears he hr⟩

theorem periodRefill_begins {s : State} {n : Nat} (hp : (s.queue n).period ≠ 0) (h : s.now % (s.queue n).period = 0) :
    ∃ t, exec (.periodRefill n) s = .next t ∧ SameBytes s t ∧ (t.queue n).charge = 0 ∧ (t.queue n).periodStart = s.now ∧
      (t.queue n).warned = false ∧ (t.queue n).exhausted = false ∧ t.power.evaluate = true := by
  have begun : (s.refill n).queue n = (s.queue n).begun s.now := by rw [queue_refill, if_pos rfl]
  refine ⟨s.refill n, congrArg Host.Outcome.next (if_neg (by simp [hp, h])), sameBytes_of_mem (by rw [(keepsWork_refill s n).ord]), ?_⟩
  rw [begun]
  exact ⟨rfl, Nat.div_mul_cancel (Nat.dvd_of_mod_eq_zero h), rfl, rfl, rfl⟩

/-- Settles O53: each instruction by its effect, the choice by the two measures of `pickBest`, and each event by what its step leaves. -/
theorem clockGrantsAndEnergyBudgets : Obligations.ClockGrantsAndEnergyBudgets := by
  unfold Obligations.ClockGrantsAndEnergyBudgets
  refine ⟨fun f s => ⟨fun hf => ⟨fun h => traps_of_trap rfl hf (effClkRd_outside h), clkRd_reads hf⟩,
      fun hf => ⟨fun h => traps_of_trap rfl hf (effClkReq_refused h), clkReq_replaces hf⟩,
      fun hf => ⟨fun h => traps_of_trap rfl hf (effClkAck_outside h), fun h => completes_of_done rfl hf (effClkAck_inside h)⟩,
      fun hf => ⟨fun h => traps_of_trap rfl hf (effPwrRd_outside h), pwrRd_reads hf⟩⟩,
    fun fits l => ⟨bestEntry_of_fit, bestEntry_of_none⟩, fun s => ?_⟩
  refine ⟨capSelectChange_selects s, arbiterEvaluate_answers, fun tick rest h => ?_, clockTransitionEnd_lands s, energyCharge_charges,
    fun n => periodRefill_begins⟩
  rw [exec_deferredEvaluation h]
  exact ⟨fun early => by rw [if_pos early], fun due => by rw [if_neg (Nat.not_lt.mpr due)]⟩
end Sys2Proof.Machine

/-! SUPPORT. Lines that move, walks, sweepers and consumed poison (R173, R277, R334 to R336, R359, R360, R366). -/
namespace Sys2Proof.Machine

/-! ## What merges and evictions leave of level two (R277, R279) -/

theorem get?_del_ne {α : Type} (t : Table α) {k j : Nat} (h : j ≠ k) : (t.del k).get? j = t.get? j := by
  induction t with
  | nil => rfl
  | cons e t ih =>
    obtain ⟨i, a⟩ := e
    rw [Table.del] at ih ⊢
    rw [List.filter_cons]
    by_cases hi : i = k
    · subst hi
      simpa [Table.get?, Ne.symm h] using ih
    · simp only [ne_eq, hi, not_false_eq_true, decide_true, if_true, Table.get?, ih]
theorem del_of_get?_none {α : Type} {t : Table α} {k : Nat} (h : t.get? k = none) : t.del k = t :=
  List.filter_eq_self.mpr fun e he => decide_eq_true fun hk => by
    have := (Table.get?_isSome_iff t k).mpr (List.mem_map.mpr ⟨e, he, hk⟩)
    rw [h] at this
    cases this

/-- The merges of a line's doublewords leave level two. -/
theorem foldl_mergeDword_l2 (s : State) (line : Nat) : ((List.range 8).foldl (fun t i => t.mergeDword (line + 8 * i)) s).ord.l2 = s.ord.l2 :=
  List.foldlRecOn _ _ (motive := fun t : State => t.ord.l2 = s.ord.l2) rfl fun t ht _ _ => (mergeDword_frame t _).2.1.trans ht

/-- What MERGE of a line clears at a quarter: the partial there, and the line where it stands in C. -/
def State.clearMerged (line : Nat) (s : State) (q : Nat) : State :=
  let t := s.setPartials q ((s.partialsQ q).del line)
  match (t.l2Q q).get? line with
  | some l => if l.state = .c then t.setL2 q ((t.l2Q q).del line) else t
  | none => t
theorem mergeLine_eq (s : State) (line : Nat) : s.mergeLine line =
    (List.range 4).foldl (State.clearMerged line) ((List.range 8).foldl (fun t i => t.mergeDword (line + 8 * i)) s) := rfl

/-- At each quarter the clearing leaves level two or takes the line out of it. -/
theorem clearMerged_l2Q (s : State) (line q p : Nat) : (State.clearMerged line s q).l2Q p = s.l2Q p ∨
    p % 4 = q % 4 ∧ (∃ l, (s.l2Q p).get? line = some l ∧ l.state = .c) ∧ (State.clearMerged line s q).l2Q p = (s.l2Q p).del line := by
  unfold State.clearMerged
  dsimp only
  split
  case h_1 l hl =>
    have here : (s.l2Q q).get? line = some l := hl
    split
    case isTrue hc =>
      rw [l2Q_setL2]
      split
      case isTrue hq => exact .inr ⟨hq, ⟨l, by rw [l2Q_mod hq]; exact here, hc⟩, by rw [l2Q_mod hq]; rfl⟩
      case isFalse => exact .inl rfl
    case isFalse => exact .inl rfl
  case h_2 => exact .inl rfl

/-- A line that is not in C stays in level two when its partials are merged. -/
theorem mergeLine_l2Q {s : State} {line p : Nat} {l : L2Line} (h : (s.l2Q p).get? line = some l) (hc : l.state ≠ .c) :
    (s.mergeLine line).l2Q p = s.l2Q p := by
  rw [mergeLine_eq]
  refine List.foldlRecOn _ _ (motive := fun t : State => t.l2Q p = s.l2Q p) ?_ fun t ht q _ => ?_
  · simp only [State.l2Q, foldl_mergeDword_l2]
  · rcases clearMerged_l2Q t line q p with same | ⟨-, ⟨m, hm, hmc⟩, -⟩
    · rw [same, ht]
    · rw [ht, h] at hm
      cases hm
      exact absurd hmc hc

/-- Another line stands in level two as it stood. -/
def KeepsLine (p line : Nat) (s t : State) : Prop := (t.l2Q p).get? line = (s.l2Q p).get? line
section
variable {p line v : Nat} (hv : line ≠ v)
include hv

theorem keepsLine_mergeLine (s : State) : KeepsLine p line s (s.mergeLine v) := by
  rw [mergeLine_eq]
  refine List.foldlRecOn _ _ (motive := KeepsLine p line s) ?_ fun t ht q _ => Eq.trans ?_ ht
  · simp only [KeepsLine, State.l2Q, foldl_mergeDword_l2]
  · rcases clearMerged_l2Q t v q p with same | ⟨-, -, gone⟩
    · rw [same]
    · rw [gone, get?_del_ne _ hv]
theorem keepsLine_updL2 (s : State) (q : Nat) (f : L2Line → L2Line) : KeepsLine p line s (s.updL2 q v f) := by
  rw [KeepsLine]
  rcases updL2_l2Q s q v f p with same | ⟨l, -, put⟩
  · rw [same]
  · rw [put, Table.get?_put_ne _ _ hv]
theorem keepsLine_evictL1 (s : State) (core : Nat) : KeepsLine p line s (s.evictL1 core v) := by
  unfold State.evictL1
  split
  · rfl
  · dsimp only
    split
    · rfl
    · exact keepsLine_updL2 hv (s.dropL1 core v) _ _
theorem keepsLine_delL2 (s : State) (q : Nat) : KeepsLine p line s (s.setL2 q ((s.l2Q q).del v)) := by
  rw [KeepsLine, l2Q_setL2]
  split
  case isTrue h => rw [get?_del_ne _ hv, l2Q_mod h]
  case isFalse => rfl
omit hv in
theorem durable_l2 (s : State) (id : Nat) (mirror : Bool) : (s.durable id mirror).ord.l2 = s.ord.l2 := by
  unfold State.durable
  split
  · rfl
  · split
    · rfl
    · exact (copyTakes_lines s id mirror).2.2.1
omit hv in
theorem keepsLine_durableLine (s : State) (l : Nat) : KeepsLine p line s (s.durableLine l) := by
  refine List.foldlRecOn _ _ (motive := KeepsLine p line s) rfl fun t ht i _ => Eq.trans ?_ ht
  simp only [State.l2Q, durable_l2]
theorem keepsLine_evictL2 (s : State) (q : Nat) : KeepsLine p line s (s.evictL2 q v) := by
  unfold State.evictL2
  dsimp only
  generalize ht : List.foldl _ s (s.l1Holders q v) = t
  have first : KeepsLine p line s t := by
    rw [← ht]
    exact List.foldlRecOn _ _ (motive := KeepsLine p line s) rfl fun t ht h _ => (keepsLine_evictL1 hv t h.1).trans ht
  split
  · exact first
  case h_2 l _ =>
    refine (keepsLine_delL2 hv _ q).trans ?_
    split
    · exact (keepsLine_mergeLine hv t).trans first
    · split
      · exact (keepsLine_durableLine t v).trans first
      · exact first
end

theorem victimOf_mem {free v : Nat} {l : List (Nat × Bool)} (h : victimOf free l = some v) : ∃ x ∈ l, x.1 = v := by
  unfold victimOf at h
  dsimp only at h
  obtain ⟨x, hx, hv⟩ := Option.map_eq_some_iff.mp h
  have mem := List.mem_of_getElem? hx
  split at mem
  · exact ⟨x, mem, hv⟩
  · exact ⟨x, List.mem_of_mem_filter mem, hv⟩

/-- Room in a slice is made by a line of that slice. -/
theorem keepsLine_roomL2 {s : State} {q d line : Nat} (h : ∀ x ∈ s.l2Q q, x.1 = line → x.2.at_ q line ≠ d) : KeepsLine q line s (s.roomL2 q d) := by
  unfold State.roomL2
  dsimp only
  split
  · rfl
  · split
    case h_1 v hv =>
      obtain ⟨y, hy, rfl⟩ := victimOf_mem hv
      obtain ⟨x, hx, rfl⟩ := List.mem_map.mp hy
      obtain ⟨mem, here⟩ := List.mem_filter.mp hx
      exact keepsLine_evictL2 (fun hl => h x mem hl.symm (by rw [hl]; exact of_decide_eq_true here)) s q
    case h_2 => rfl

/-! ## The line that moves (R277) -/

/-- A line as it stands after a move to the slice of shed d. -/
def L2Line.movedTo (q line d now : Nat) (e : L2Line) : L2Line :=
  { e with slice := if d = homeSlice q line then none else some d, asks := [], moved := some now }
theorem L2Line.movedTo_at (q line d now : Nat) (e : L2Line) : (e.movedTo q line d now).slice.getD (homeSlice q line) = d := by
  unfold L2Line.movedTo
  dsimp only
  split
  case isTrue h => exact h.symm
  case isFalse => rfl
theorem moveLine_eq (s : State) (q line d : Nat) : s.moveLine q line d = (s.roomL2 q d).updL2 q line (L2Line.movedTo q line d s.now) := rfl

theorem mover_eq {e : L2Line} {q line d : Nat} (h : e.mover q line = some d) :
    e.state ≠ .c ∧ d ≠ e.at_ q line ∧ 12 ≤ e.asks.countP (· == d) := by
  have found : e.asks.find? (fun d => d ≠ e.at_ q line && decide (12 ≤ e.asks.countP (· == d))) = some d → d ≠ e.at_ q line ∧
      12 ≤ e.asks.countP (· == d) := fun hf => by
    have := List.find?_some hf
    simpa using this
  unfold L2Line.mover at h
  split at h
  case h_1 => cases h
  case h_2 => cases h
  case h_3 hc _ => exact ⟨hc, found h⟩

theorem updL2_get? {s : State} {q line : Nat} {e : L2Line} (h : (s.l2Q q).get? line = some e) (f : L2Line → L2Line) :
    ((s.updL2 q line f).l2Q q).get? line = some (f e) := by
  unfold State.updL2
  rw [h]
  dsimp only
  rw [l2Q_setL2, if_pos rfl, Table.get?_put_self]

theorem moves_moveLine (s : State) (q line d : Nat) : Moves 1 s (s.moveLine q line d) := by
  rw [moveLine_eq]
  exact ((moves_roomL2 s q d).trans (moves_updL2 ..)).mono (by decide)
theorem moveLine_ctxs (s : State) (q line d : Nat) : (s.moveLine q line d).ctxs = s.ctxs := by
  have same : (s.withCtxs s.ctxs).moveLine q line d = (s.moveLine q line d).withCtxs s.ctxs := by
    rw [moveLine_eq, roomL2_withCtxs, updL2_withCtxs]
    rfl
  rw [withCtxs_self] at same
  rw [same]
  rfl
theorem mergeLine_ctxs (s : State) (line : Nat) : (s.mergeLine line).ctxs = s.ctxs := (onlyMemory_mergeLine s line).ctxs

/-- A line of which no quarter holds a partial has no byte to merge. -/
theorem moves_mergeLine_of_none {s : State} {line : Nat} (hline : lineOf line = line) (h : ∀ q, (s.partialsQ q).get? line = none) :
    Moves 0 s (s.mergeLine line) := by
  have nothing : (List.range 8).foldl (fun t i => t.mergeDword (line + 8 * i)) s = s := by
    refine List.foldlRecOn _ _ (motive := fun t : State => t = s) rfl fun t ht i hi => ?_
    have inLine : lineOf (line + 8 * i) = line := by
      have := List.mem_range.mp hi
      unfold lineOf at hline ⊢
      omega
    have none : t.hasPartial (line + 8 * i) = false := by
      rw [ht, State.hasPartial, inLine]
      simp [h]
    rw [State.mergeDword, none]
    exact ht
  have gone := linesGo_mergeLine s line
  rw [nothing] at gone
  exact ⟨fun q a _ => sameBytes_of_mem gone.mem q a, fun _ => gone.hasPartial, fun q d => gone.lines _ q, gone.view⟩

theorem lineOf_lineOf (a : Nat) : lineOf (lineOf a) = lineOf a := by
  unfold lineOf
  omega

theorem exec_lineMigration {s : State} {line d : Nat} {e : L2Line} (h : (s.l2Q (home (lineOf line))).get? (lineOf line) = some e)
    (hmover : e.mover (home (lineOf line)) (lineOf line) = some d) (hm : s.movable (home (lineOf line)) e = true) :
    exec (.lineMigration line) s = .next ((s.mergeLine (lineOf line)).moveLine (home (lineOf line)) (lineOf line) d) := by
  change execLineMigration line s = _
  unfold execLineMigration
  dsimp only
  rw [h]
  dsimp only
  rw [if_pos hm, hmover]

theorem lineMigration_moves {s : State} {line d : Nat} {e : L2Line} (h : (s.l2Q (home (lineOf line))).get? (lineOf line) = some e)
    (honly : ∀ x ∈ s.l2Q (home (lineOf line)), x.1 = lineOf line → x.2 = e)
    (hmover : e.mover (home (lineOf line)) (lineOf line) = some d) (hm : s.movable (home (lineOf line)) e = true) :
    12 ≤ e.asks.countP (· == d) ∧ ∃ t x, exec (.lineMigration line) s = .next t ∧ SameButMerges (s.mergeLine (lineOf line)) t ∧
      t.ctxs = s.ctxs ∧ ((∀ q, (s.partialsQ q).get? (lineOf line) = none) → SameButMerges s t) ∧
      (t.l2Q (home (lineOf line))).get? (lineOf line) = some x ∧
      x.slice.getD (homeSlice (home (lineOf line)) (lineOf line)) = d ∧ x.state = e.state := by
  obtain ⟨hc, hother, hasks⟩ := mover_eq hmover
  have started := exec_lineMigration h hmover hm
  have hline := lineOf_lineOf line
  generalize lineOf line = l at *
  generalize home l = q at *
  have merged : (s.mergeLine l).l2Q q = s.l2Q q := mergeLine_l2Q h hc
  have room : KeepsLine q l (s.mergeLine l) ((s.mergeLine l).roomL2 q d) := keepsLine_roomL2 fun x hx hl => by
    rw [merged] at hx
    rw [honly x hx hl]
    exact hother.symm
  have stands : (((s.mergeLine l).roomL2 q d).l2Q q).get? l = some e := by rw [room, merged, h]
  refine ⟨hasks, _, e.movedTo q l d (s.mergeLine l).now, started, (moves_moveLine ..).sameButMerges (by decide),
    (moveLine_ctxs ..).trans (mergeLine_ctxs ..), fun none => ?_, updL2_get? stands _, L2Line.movedTo_at .., rfl⟩
  exact ((moves_mergeLine_of_none hline none).trans (moves_moveLine ..)).sameButMerges (by decide)

/-! ## Misses and walks (R334 to R336) -/

/-- A walk with the miss of a core that has joined it where it is on the page. -/
def Walk.joined (core : Nat) (wr : Bool) (vf : Nat) (sup : Bool) (va : Nat) (v : Walk) : Walk :=
  if Walk.same v (qtrOfCore core) vf sup va then { v with joins := v.joins ++ [(core, wr)] } else v
/-- The walk of a miss as it comes into its quarter's queue. -/
def Walk.begun (core : Nat) (wr : Bool) (vf : Nat) (sup : Bool) (va : Nat) (c : VfCfg) : Walk :=
  { core := core, wr := wr, joins := [], vf := vf, sup := sup, va := va, table := (if sup then c.sroot else c.uroot).getD 0,
    level := 0, w0 := none, discard := false, barred := [] }

theorem find?_same {l : List Walk} {q vf va : Nat} {sup : Bool} {w : Walk} (h : l.find? (fun w => Walk.same w q vf sup va) = some w) :
    Walk.same w q vf sup va = true := List.find?_some (p := fun w => Walk.same w q vf sup va) h
theorem Walk.joined_of_same {core vf va : Nat} {wr sup : Bool} {v : Walk} (h : Walk.same v (qtrOfCore core) vf sup va = true) :
    v.joined core wr vf sup va = { v with joins := v.joins ++ [(core, wr)] } := by
  rw [Walk.joined, if_pos h]

section
variable {s : State} {core vf : Nat} {sup : Bool} {va : Word} {wr : Bool} {c : VfCfg} (hcfg : (s.vf vf).cfg = some c) (hva : va.toNat < 2 ^ 48)
  (hmiss : s.tlbFind core vf sup va.toNat = none)
include hcfg hva hmiss

/-- A miss comes to the walk of its page, or to the end of the queue. -/
theorem miss_eq : s.miss core vf sup va wr =
    match s.ord.walks.find? fun w => Walk.same w (qtrOfCore core) vf sup va.toNat with
    | some w => if (w.core = core && w.wr = wr) || w.joins.contains (core, wr) then s
      else s.updOrd fun o => { o with walks := o.walks.map (Walk.joined core wr vf sup va.toNat) }
    | none => s.updOrd fun o => { o with walks := o.walks ++ [Walk.begun core wr vf sup va.toNat c] } := by
  have room : (decide (2 ^ 48 ≤ va.toNat) || (s.tlbFind core vf sup va.toNat).isSome) = false := by
    rw [hmiss, decide_eq_false (by omega)]
    rfl
  unfold State.miss
  dsimp only
  rw [hcfg]
  dsimp only
  rw [room]
  rfl
theorem miss_frame : (s.miss core vf sup va wr).ord.mem = s.ord.mem ∧ (s.miss core vf sup va wr).ctxs = s.ctxs := by
  rw [miss_eq hcfg hva hmiss]
  split
  · split <;> exact ⟨rfl, rfl⟩
  · exact ⟨rfl, rfl⟩
/-- A new miss of a page that has its walk joins it. -/
theorem miss_joins {w : Walk} (h : s.ord.walks.find? (fun v => Walk.same v (qtrOfCore core) vf sup va.toNat) = some w)
    (hnew : ¬(w.core = core ∧ w.wr = wr)) (hjoin : (core, wr) ∉ w.joins) :
    { w with joins := w.joins ++ [(core, wr)] } ∈ (s.miss core vf sup va wr).ord.walks := by
  have alone : ((w.core = core && w.wr = wr) || w.joins.contains (core, wr)) = false := by simpa [hjoin] using hnew
  rw [miss_eq hcfg hva hmiss, h]
  dsimp only
  rw [alone, if_neg Bool.false_ne_true]
  exact List.mem_map.mpr ⟨w, List.mem_of_find?_eq_some h, Walk.joined_of_same (find?_same h)⟩
theorem miss_begins (h : s.ord.walks.find? (fun v => Walk.same v (qtrOfCore core) vf sup va.toNat) = none) :
    (s.miss core vf sup va wr).ord.walks = s.ord.walks ++ [Walk.begun core wr vf sup va.toNat c] := by
  rw [miss_eq hcfg hva hmiss, h]
  rfl
end

theorem missed_same {s : State} {core vf : Nat} {sup : Bool} {page : Nat} {w : Walk} (h : s.missed core vf sup page = some w) :
    Walk.same w (qtrOfCore core) vf sup page = true := by
  obtain ⟨k, -, hk⟩ := List.mem_filterMap.mp (List.mem_of_mem_head? h)
  split at hk
  · exact find?_same hk
  · cases hk

/-- The walk that begins on a page where an access misses there. -/
def State.walkBegins (s : State) (core vf : Nat) (sup : Bool) (page : Nat) : State :=
  match s.missed core vf sup page with
  | some w => s.updOrd fun o => { o with walks := o.walks ++ [w] }
  | none => s
/-- What the read of an entry's second word does: the walk goes on or ends, with the leaf in the caches of the cores that it lets through. -/
def State.walked (s t : State) (w : Walk) (c : VfCfg) (w0 : Word) (q vf : Nat) (sup : Bool) (page : Nat) : State :=
  let r := w.next c w0 (s.tableWord c q (w.entry + 8))
  let t1 := t.updWalk q vf sup page fun _ => r.1
  match r.2 with
  | some e => (w.fills c w0).foldl (fun u h => u.tlbFill h e) t1
  | none => t1
/-- The next read of a walk. -/
def State.walkReads (s : State) (w : Walk) (c : VfCfg) (q vf : Nat) (sup : Bool) (page : Nat) : State :=
  match w.w0 with
  | none => s.walkRead w q page w.entry fun t => t.updWalk q vf sup page fun v => some { v with w0 := some (s.tableWord c q w.entry) }
  | some w0 => s.walkRead w q page (w.entry + 8) fun t => s.walked t w c w0 q vf sup page

theorem exec_pageWalk {s : State} {core page vf : Nat} {sup : Bool} {c : VfCfg} (hcfg : (s.vf vf).cfg = some c) :
    exec (.pageWalk core ⟨vf, page⟩ sup) s = .next (match s.ord.walks.find? fun w => Walk.same w (qtrOfCore core) vf sup page with
      | none => s.walkBegins core vf sup page
      | some w => if s.served (qtrOfCore core) w && s.entryReady (qtrOfCore core) w.entry then s.walkReads w c (qtrOfCore core) vf sup page
        else s) := by
  change execPageWalk core ⟨vf, page⟩ sup s = _
  unfold execPageWalk
  dsimp only
  rw [hcfg]
  dsimp only
  cases s.ord.walks.find? fun w => Walk.same w (qtrOfCore core) vf sup page with
  | none => rfl
  | some w =>
    unfold State.walkReads
    dsimp only
    cases s.served (qtrOfCore core) w
    · rfl
    · cases s.entryReady (qtrOfCore core) w.entry
      · rfl
      · cases w.w0 <;> rfl

theorem pageWalk_begins {s : State} {core page vf : Nat} {sup : Bool} {c : VfCfg} (hcfg : (s.vf vf).cfg = some c)
    (h : s.ord.walks.find? (fun w => Walk.same w (qtrOfCore core) vf sup page) = none) :
    (s.missed core vf sup page = none → exec (.pageWalk core ⟨vf, page⟩ sup) s = .next s) ∧
    ∀ w, s.missed core vf sup page = some w → Walk.same w (qtrOfCore core) vf sup page = true ∧
      exec (.pageWalk core ⟨vf, page⟩ sup) s = .next (s.updOrd fun o => { o with walks := o.walks ++ [w] }) := by
  rw [exec_pageWalk hcfg, h]
  unfold State.walkBegins
  exact ⟨fun none => by rw [none], fun w hw => ⟨missed_same hw, by rw [hw]⟩⟩
theorem pageWalk_waits {s : State} {core page vf : Nat} {sup : Bool} {c : VfCfg} (hcfg : (s.vf vf).cfg = some c) {w : Walk}
    (h : s.ord.walks.find? (fun w => Walk.same w (qtrOfCore core) vf sup page) = some w)
    (hw : s.served (qtrOfCore core) w = false ∨ s.entryReady (qtrOfCore core) w.entry = false) :
    exec (.pageWalk core ⟨vf, page⟩ sup) s = .next s := by
  rw [exec_pageWalk hcfg, h]
  rcases hw with hw | hw <;> simp [hw]

theorem walkRead_poisoned {s : State} {w : Walk} {q page loc : Nat} (h : s.poisoned q loc = true) (go : State → State) :
    s.walkRead w q page loc go = (s.updWalk q w.vf w.sup page fun _ => none).containEvent w.core 3 := if_pos h
theorem walkRead_clean {s : State} {w : Walk} {q page loc : Nat} (h : s.poisoned q loc = false) (go : State → State) :
    s.walkRead w q page loc go = go (s.correct loc) := if_neg (by rw [h]; decide)
theorem same_vf_sup {w : Walk} {q vf va : Nat} {sup : Bool} (h : Walk.same w q vf sup va = true) : w.vf = vf ∧ w.sup = sup := by
  simp only [Walk.same, Bool.and_eq_true, decide_eq_true_eq] at h
  exact ⟨h.1.1.2, h.1.2⟩

theorem correct_walks (s : State) (loc : Nat) : (s.correct loc).ord.walks = s.ord.walks := by
  unfold State.correct
  split <;> rfl
theorem mem_updWalk {s : State} {q vf : Nat} {sup : Bool} {page : Nat} {f : Walk → Option Walk} {w v : Walk} (hw : w ∈ s.ord.walks)
    (hs : Walk.same w q vf sup page = true) (hf : f w = some v) : v ∈ (s.updWalk q vf sup page f).ord.walks :=
  List.mem_filterMap.mpr ⟨w, hw, by rw [if_pos hs, hf]⟩

theorem mem_tlbPut {n : Nat} (l : List TlbEntry) (e : TlbEntry) : e ∈ tlbPut (n + 1) l e := List.mem_cons_self
theorem tlbFill_core (s : State) (core : Nat) (e : TlbEntry) (j : Nat) : ((s.tlbFill core e).core j).tlb =
    if j = core then tlbPut 256 (s.core core).tlb e else (s.core j).tlb := by
  rw [State.tlbFill, State.updShed_core, State.core_updCore]
  split <;> rfl
theorem tlbFill_shed (s : State) (core : Nat) (e : TlbEntry) (d : Nat) : ((s.tlbFill core e).shed d).tlb =
    if d = shedOfCore core then tlbPut 4096 (s.shed d).tlb e else (s.shed d).tlb := by
  rw [State.tlbFill, State.shed_updShed]
  split
  case isTrue h => subst h; rfl
  case isFalse => rfl
/-- A core and its shed hold a leaf. -/
def State.Cached (s : State) (e : TlbEntry) (core : Nat) : Prop := e ∈ (s.core core).tlb ∧ e ∈ (s.shed (shedOfCore core)).tlb
theorem cached_tlbFill_self (s : State) (core : Nat) (e : TlbEntry) : (s.tlbFill core e).Cached e core := by
  rw [State.Cached, tlbFill_core, tlbFill_shed, if_pos rfl, if_pos rfl]
  exact ⟨mem_tlbPut .., mem_tlbPut ..⟩
theorem cached_tlbFill {s : State} {e : TlbEntry} {core : Nat} (h : s.Cached e core) (j : Nat) : (s.tlbFill j e).Cached e core := by
  rw [State.Cached, tlbFill_core, tlbFill_shed]
  refine ⟨?_, ?_⟩
  · split
    · exact mem_tlbPut ..
    · exact h.1
  · split
    · exact mem_tlbPut ..
    · exact h.2
theorem cached_foldl_tlbFill (s : State) (e : TlbEntry) {l : List Nat} {core : Nat} (h : core ∈ l) :
    (l.foldl (fun u j => u.tlbFill j e) s).Cached e core := by
  obtain ⟨l₁, l₂, rfl⟩ := List.append_of_mem h
  exact foldl_reaches (pre := fun _ => True) (post := fun t : State => t.Cached e core) (fun _ _ _ _ => trivial)
    (fun t _ => cached_tlbFill_self t core e) (fun t j _ ht => cached_tlbFill ht j) trivial
theorem foldl_tlbFill_frame (s : State) (e : TlbEntry) (l : List Nat) : (l.foldl (fun u j => u.tlbFill j e) s).ord = s.ord ∧
    (l.foldl (fun u j => u.tlbFill j e) s).ctxs = s.ctxs :=
  List.foldlRecOn l _ (motive := fun t : State => t.ord = s.ord ∧ t.ctxs = s.ctxs) ⟨rfl, rfl⟩ fun _ ht _ _ => ht

theorem walked_frame (s t : State) (w : Walk) (c : VfCfg) (w0 : Word) (q vf : Nat) (sup : Bool) (page : Nat) :
    (s.walked t w c w0 q vf sup page).ord.mem = t.ord.mem ∧ (s.walked t w c w0 q vf sup page).ctxs = t.ctxs := by
  unfold State.walked
  dsimp only
  split
  case h_1 e _ =>
    obtain ⟨hord, hctxs⟩ := foldl_tlbFill_frame (t.updWalk q vf sup page fun _ => (w.next c w0 (s.tableWord c q (w.entry + 8))).1) e (w.fills c w0)
    exact ⟨by rw [hord]; rfl, hctxs⟩
  case h_2 => exact ⟨rfl, rfl⟩
theorem walked_caches {s t : State} {w : Walk} {c : VfCfg} {w0 : Word} {q vf : Nat} {sup : Bool} {page : Nat} {e : TlbEntry}
    (h : (w.next c w0 (s.tableWord c q (w.entry + 8))).2 = some e) {core : Nat} (hc : core ∈ w.fills c w0) :
    (s.walked t w c w0 q vf sup page).Cached e core := by
  unfold State.walked
  dsimp only
  rw [h]
  exact cached_foldl_tlbFill _ e hc
theorem next_leaf_kept {w : Walk} {c : VfCfg} {w0 w1 : Word} {e : TlbEntry} (h : (w.next c w0 w1).2 = some e) : w.discard = false := by
  cases hd : w.discard with
  | false => rfl
  | true =>
    unfold Walk.next at h
    rw [hd] at h
    split at h
    · cases h
    · split at h
      · cases h
      · split at h <;> cases h

theorem pageWalk_reads {s : State} {core page vf : Nat} {sup : Bool} {c : VfCfg} (hcfg : (s.vf vf).cfg = some c) {w : Walk}
    (h : s.ord.walks.find? (fun w => Walk.same w (qtrOfCore core) vf sup page) = some w)
    (hserved : s.served (qtrOfCore core) w = true) (hready : s.entryReady (qtrOfCore core) w.entry = true) :
    let q := qtrOfCore core
    let loc := if w.w0.isNone then w.entry else w.entry + 8
    (s.poisoned q loc = true → exec (.pageWalk core ⟨vf, page⟩ sup) s = .next ((s.updWalk q vf sup page fun _ => none).containEvent w.core 3)) ∧
    (s.poisoned q loc = false → ∃ t, exec (.pageWalk core ⟨vf, page⟩ sup) s = .next t ∧ SameBytes s t ∧ t.ctxs = s.ctxs ∧
      (w.w0 = none → { w with w0 := some (s.tableWord c q w.entry) } ∈ t.ord.walks) ∧
      ∀ w0 e, w.w0 = some w0 → (w.next c w0 (s.tableWord c q (w.entry + 8))).2 = some e → w.discard = false ∧
        ∀ h ∈ w.fills c w0, e ∈ (t.core h).tlb ∧ e ∈ (t.shed (shedOfCore h)).tlb) := by
  have same := find?_same h
  have mem := List.mem_of_find?_eq_some h
  obtain ⟨hvf, hsup⟩ := same_vf_sup same
  rw [exec_pageWalk hcfg, h]
  dsimp only
  rw [hserved, hready, Bool.and_self, if_pos rfl]
  cases h0 : w.w0 with
  | none =>
    rw [Option.isNone_none, if_pos rfl, State.walkReads, h0]
    refine ⟨fun hp => congrArg Host.Outcome.next ?_, fun hp => ⟨_, rfl, ?_⟩⟩
    · rw [← hvf, ← hsup]
      exact walkRead_poisoned hp _
    · dsimp only
      rw [walkRead_clean hp]
      refine ⟨sameBytes_of_mem (State.correct_mem s w.entry), State.correct_ctxs s w.entry, fun _ => ?_, fun _ _ hw => nomatch hw⟩
      exact mem_updWalk (by rw [correct_walks]; exact mem) same rfl
  | some w0 =>
    rw [Option.isNone_some, if_neg Bool.false_ne_true, State.walkReads, h0]
    refine ⟨fun hp => congrArg Host.Outcome.next ?_, fun hp => ⟨_, rfl, ?_⟩⟩
    · rw [← hvf, ← hsup]
      exact walkRead_poisoned hp _
    · dsimp only
      rw [walkRead_clean hp]
      obtain ⟨hmem, hctxs⟩ := walked_frame s (s.correct (w.entry + 8)) w c w0 (qtrOfCore core) vf sup page
      refine ⟨sameBytes_of_mem (hmem.trans (State.correct_mem ..)), hctxs.trans (State.correct_ctxs ..), (nomatch ·), fun x e hx hleaf => ?_⟩
      cases hx
      exact ⟨next_leaf_kept hleaf, fun _ hc => walked_caches hleaf hc⟩

/-! ## Sweepers, codes and mismatches (R173, R359, R366) -/

theorem sweep_corrects (s : State) (loc : Nat) : ∃ t, exec (.sweep loc false) s = .next t ∧ SameBytes s t ∧ t.ctxs = s.ctxs ∧
    dwordOf loc ∉ t.ord.soft ∧ t.ord.poison = s.ord.poison := by
  refine ⟨_, rfl, fun _ _ => rfl, rfl, fun h => ?_, rfl⟩
  have := (List.mem_filter.mp (show dwordOf loc ∈ s.ord.soft.filter (· ≠ dwordOf loc) from h)).2
  simp at this

/-- An uncorrectable error is logged, and changes no memory that a quarter serves, no context and no shed. -/
theorem uncorrectable_frame (s : State) (loc : Nat) :
    (s.uncorrectable loc).ord.mem = s.ord.mem ∧ (s.uncorrectable loc).ctxs = s.ctxs ∧ (s.uncorrectable loc).sheds = s.sheds := by
  unfold State.uncorrectable
  dsimp only
  split
  · exact ⟨rfl, rfl, rfl⟩
  · split
    · exact ⟨rfl, rfl, rfl⟩
    · split <;> exact ⟨rfl, rfl, rfl⟩
theorem uncorrectable_transient {s : State} {loc : Nat} (hd : isDurable loc = false) (hm : mirrorOf loc = none) :
    ((s.uncorrectable loc).ord.poison.get? loc).isSome = true := by
  have marked : (s.uncorrectable loc).ord.poison = s.ord.poison.put loc s.next := by
    unfold State.uncorrectable
    rw [hm, hd]
    rfl
  rw [marked, Table.get?_put_self]
  rfl
theorem uncorrectable_mirror {s : State} {loc p : Nat} (hm : mirrorOf loc = some p) : p ∈ (s.uncorrectable loc).ord.badMirr ∧
    ((s.quarterAt (home p)).inService = false → ((s.uncorrectable loc).ord.poison.get? p).isSome = true) := by
  have marked : (s.uncorrectable loc).ord.badMirr = natInsert s.ord.badMirr p ∧ (s.uncorrectable loc).ord.poison =
      if s.ord.badPrim.contains p || !(s.quarterAt (home p)).inService then s.ord.poison.put p s.next else s.ord.poison := by
    unfold State.uncorrectable
    rw [hm]
    exact ⟨rfl, rfl⟩
  rw [marked.1, marked.2]
  refine ⟨mem_natInsert .., fun hout => ?_⟩
  rw [hout, Bool.not_false, Bool.or_true, if_pos rfl, Table.get?_put_self]
  rfl

theorem sweep_finds (s : State) (loc : Nat) : ∃ t, exec (.sweep loc true) s = .next t ∧ SameBytes s t ∧ t.ctxs = s.ctxs ∧
    (∀ d, (t.shed d).full = (s.shed d).full) ∧
    (isDurable (dwordOf loc) = false → mirrorOf (dwordOf loc) = none → (t.ord.poison.get? (dwordOf loc)).isSome = true) ∧
    (∀ p, mirrorOf (dwordOf loc) = some p → p ∈ t.ord.badMirr ∧
      ((s.quarterAt (home p)).inService = false → (t.ord.poison.get? p).isSome = true)) := by
  obtain ⟨hmem, hctxs, hsheds⟩ := uncorrectable_frame s (dwordOf loc)
  exact ⟨_, rfl, sameBytes_of_mem hmem, hctxs, fun d => by rw [State.shed, hsheds, State.shed], uncorrectable_transient,
    fun _ => uncorrectable_mirror⟩

theorem recode_ecc {s : State} {loc : Nat} (hp : isPad (lineOf loc) = false) (hl : physLayer (lineOf loc) < 3) :
    lineOf loc ∈ (s.recode loc).ord.ecc ↔ (qtrPoint s.power (s.qtrEntryOf (physQtr (lineOf loc)))).ecc = true := by
  have coded : (s.recode loc).ord.ecc = if (qtrPoint s.power (s.qtrEntryOf (physQtr (lineOf loc)))).ecc
      then natInsert s.ord.ecc (lineOf loc) else s.ord.ecc.filter (· ≠ lineOf loc) := by
    unfold State.recode
    dsimp only
    rw [hp, decide_eq_false (Nat.not_le.mpr hl)]
    rfl
  rw [coded]
  split
  case isTrue h => exact iff_of_true (mem_natInsert ..) h
  case isFalse h => exact iff_of_false (fun hmem => by simpa using (List.mem_filter.mp hmem).2) h
theorem eccReencode_codes {s : State} {line : Nat} (hp : isPad (lineOf line) = false) (hl : physLayer (lineOf line) < 3) :
    ∃ t, exec (.eccReencode line) s = .next t ∧ SameBytes s t ∧ t.ctxs = s.ctxs ∧
      (lineOf line ∈ t.ord.ecc ↔ (qtrPoint s.power (s.qtrEntryOf (physQtr (lineOf line)))).ecc = true) :=
  ⟨_, rfl, sameBytes_of_mem (recode_mem s line), (onlyMemory_recode s line).ctxs, recode_ecc hp hl⟩

/-! ## Consumed poison (R360) -/

/-- Would a pending operation of a context, taken now, take a poisoned byte? -/
def State.poisons (s : State) (k : Nat) (o : Op) : Bool :=
  match o.kind with
  | .read dst locs _ _ => (List.range locs.length).any fun i => match s.readable k o i with
      | some loc => s.readPoisoned k o.id loc (neededBytes dst i locs)
      | none => false
  | .amo _ loc _ _ _ _ _ _ _ none => s.atomicReady k o loc && s.poisoned (home loc) loc
  | _ => false
theorem exec_poisonConsumed (s : State) (k : Nat) : exec (.poisonConsumed k) s =
    .next (if (s.ctx k).ops.any (s.poisons k) && (s.core (coreOfCtx k)).contained.isNone then s.containEvent (coreOfCtx k) 3 else s) := rfl

theorem poisons_read {s : State} {k : Nat} {o : Op} {dst : Dest} {locs : List Nat} {got : Table Word} {acq : Bool} {i loc : Nat}
    (hk : o.kind = .read dst locs got acq) (hi : i < locs.length) (hr : s.readable k o i = some loc)
    (hp : s.readPoisoned k o.id loc (neededBytes dst i locs) = true) : s.poisons k o = true := by
  unfold State.poisons
  rw [hk]
  refine List.any_eq_true.mpr ⟨i, List.mem_range.mpr hi, ?_⟩
  rw [hr]
  exact hp
theorem poisons_atomic {s : State} {k : Nat} {o : Op} {fn : AmoFn} {loc off size : Nat} {b c : Word} {ret : Option (BitVec 5)}
    {sc : BitVec 3} {set : List Nat} (hk : o.kind = .amo fn loc off size b c ret sc set none) (hr : s.atomicReady k o loc = true)
    (hp : s.poisoned (home loc) loc = true) : s.poisons k o = true := by
  unfold State.poisons
  rw [hk]
  exact Bool.and_eq_true_iff.mpr ⟨hr, hp⟩

theorem sameBytes_containEvent (s : State) (x cause : Nat) : SameBytes s (s.containEvent x cause) :=
  sameBytes_of_mem (calm_containAll s [x] cause fun _ => false).mem

theorem poisonConsumed_contains {s : State} {k : Nat} {o : Op} (ho : o ∈ (s.ctx k).ops) (hc : (s.core (coreOfCtx k)).contained = none)
    (hp : s.poisons k o = true) :
    exec (.poisonConsumed k) s = .next (s.containEvent (coreOfCtx k) 3) ∧ SameBytes s (s.containEvent (coreOfCtx k) 3) := by
  have consumes : ((s.ctx k).ops.any (s.poisons k) && (s.core (coreOfCtx k)).contained.isNone) = true := by
    rw [List.any_eq_true.mpr ⟨o, ho, hp⟩, hc]
    rfl
  rw [exec_poisonConsumed, if_pos consumes]
  exact ⟨rfl, sameBytes_containEvent s _ 3⟩

/-- Settles O45: each event by what its step leaves; the line that moves is not the one that makes room for it, as it stands in another slice. -/
theorem linesWalksAndSweepersChangeNoData : Obligations.LinesWalksAndSweepersChangeNoData := by
  unfold Obligations.LinesWalksAndSweepersChangeNoData
  refine fun s => ⟨fun line e d => lineMigration_moves, fun core vf sup va wr c hcfg hva hmiss => ?_, fun core page vf sup c hcfg => ?_,
    fun loc => ⟨sweep_corrects s loc, sweep_finds s loc⟩, fun line => eccReencode_codes, fun k => rfl,
    fun k o ho hc hp => poisonConsumed_contains ho hc ?_⟩
  · obtain ⟨hmem, hctxs⟩ := miss_frame (wr := wr) hcfg hva hmiss
    exact ⟨sameBytes_of_mem hmem, hctxs, fun w => miss_joins hcfg hva hmiss, fun h =>
      ⟨Walk.begun core wr vf sup va.toNat c, miss_begins hcfg hva hmiss h, rfl, rfl, rfl, rfl, rfl, rfl, rfl, rfl⟩⟩
  · exact ⟨pageWalk_begins hcfg, fun w h => ⟨pageWalk_waits hcfg h, pageWalk_reads hcfg h⟩⟩
  · rcases hp with ⟨dst, locs, got, acq, i, loc, hk, hi, hr, hpoison⟩ | ⟨fn, loc, off, size, b, c, ret, sc, set, hk, hr, hpoison⟩
    · exact poisons_read hk hi hr hpoison
    · exact poisons_atomic hk hr hpoison
end Sys2Proof.Machine
